-- ==== Sys2Proof/Word.lean ====
section
/-!
DEFINITION. The word types of the TZS8120: bytes of memory and 32-bit register words
(00_scope.md R7; registers are 32 bits wide in every register table of the manual).
-/
namespace Sys2Proof

/-- One byte of memory or of a frame. -/
abbrev Byte := BitVec 8

/-- One 32-bit register word. -/
abbrev Word := BitVec 32

end Sys2Proof
end

