-- ==== Sys2Proof/Syntax.lean ====
section
/-!
DEFINITION. The commands of the block: one constructor per row of spec/opcode_table.json,
with the operands that the command's rule needs. What the outside supplies (a decoded
payload, a measured power, a received frame, the time an activity took) is an operand.
-/
namespace Sys2Proof

/-- The three software levels (01_architecture.md Table 7). -/
inductive Level where
  | seal
  | platform
  | host
  deriving DecidableEq, Repr

/-- Who makes a transaction: its initiator number (12_guard.md Table 4; the Guard core, which
the table gives no number, is written 15) and its level. -/
structure Who where
  ini : BitVec 4
  level : Level
  deriving DecidableEq, Repr

/-- The register a plain write or a counter read names: an offset of configuration space
(00_scope.md R7), or a port of a flow core (06_flow_scheduler.md Table 8). -/
inductive RegTarget where
  | config (offset : BitVec 24)
  | port (core : Fin 24) (offset : BitVec 8)
  deriving DecidableEq, Repr

/-- What the DRAM check bits show on an access (11_host_rings_and_cluster.md R359). -/
inductive Ecc where
  | good
  | corrected
  | uncorrectable
  deriving DecidableEq, Repr, Inhabited

/-- Widths at which the PCIe link can train (11_host_rings_and_cluster.md Table 1). -/
inductive LinkWidth where
  | x1
  | x2
  | x4
  deriving DecidableEq, Repr

/-- What a host programs into configuration space once the link is up (11_host_rings_and_cluster.md Table 1): the Command
register, the address of BAR0 above its 32 MiB, the maximum payload (128, 256 or 512 bytes), the maximum read request
(128 to 4,096 bytes) and whether MSI-X is enabled. -/
structure PciSetup where
  command : BitVec 16
  bar0 : BitVec 39
  payload : Fin 3
  readReq : Fin 6
  msix : Bool
  deriving DecidableEq, Repr

/-- Causes of a PCIe reset (11_host_rings_and_cluster.md R337). -/
inductive PcieReset where
  | functionLevel
  | hotReset
  | linkDown
  | perst
  | d3hot
  deriving DecidableEq, Repr

/-- A ring: submission or completion ring of a pair, or an event ring
(11_host_rings_and_cluster.md R337, R347). -/
inductive RingSel where
  | sq (p : Fin 64)
  | cq (p : Fin 64)
  | evt (e : Fin 8)
  deriving DecidableEq, Repr

/-- The packet-buffer pools (02_line_modem_array.md R65, R490). -/
inductive Pool where
  | lma
  | air0
  | air1
  | bkb
  | ring
  | pair
  deriving DecidableEq, Repr

/-- What the feeder front end measured over a second or part of one
(09_legal_partition.md R269–R271): per channel RMS voltage in mV and mean squared current in mA²,
per element mean active and reactive power in mW, frequency in mHz, whether a sample stood at full scale, and
whether the Seal level has restored the bad structure of legal registers since the last edge (R305). -/
structure LegMeas where
  v : List (BitVec 32)
  i2 : List (BitVec 64)
  p : List (BitVec 48)
  q : List (BitVec 48)
  freq : BitVec 17
  overload : Bool
  restored : Bool
  deriving DecidableEq, Repr

/-- How a codeword read: decoded in hard or soft decision after a number of read-level steps, with
the bits corrected, or uncorrectable (08_clamp_media.md R234). -/
inductive CwRead where
  | hard (steps : Fin 9) (bits : BitVec 16)
  | soft (steps : Fin 9) (bits : BitVec 16)
  | fail
  deriving DecidableEq, Repr

/-- A page that did not read clean, and how the codewords read of it were decoded. -/
structure PageFound where
  ppa : BitVec 31
  cws : List CwRead
  deriving DecidableEq, Repr

/-- A command to the block. -/
inductive Instr where
  /-- REGISTER_WRITE (R8): A write to a register that has no row of its own takes effect under the access code of each field. -/
  | registerWrite (target : RegTarget) (v : Word) (who : Who)
  /-- COUNTER_READ (R72): A read of an RC counter returns its value and clears it; an increment in the same cycle leaves the counter at 1. -/
  | counterRead (target : RegTarget)
  /-- BUS_ACCESS (R26): A fabric or configuration transaction by an initiator at its level is checked against the access plan and served. -/
  | busAccess (write : Bool) (addr : BitVec 48) (len : BitVec 8) (data : List Byte) (who : Who) (ecc : Ecc)
  /-- BUS_TIMEOUT (R20): A configuration-bus or fabric read that has not completed within 65,536 cycles ends with a bus error and an Ember record. -/
  | busTimeout (fabric : Bool) (addr : BitVec 48) (who : Who)
  /-- ENERGY_SNAPSHOT (R34): A write of CRP_NRG_CTRL.SNAP starts a copy of all thirteen energy counters into their shadows at one CFG edge. -/
  | energySnapshot
  /-- ENERGY_SNAPSHOT_DONE (R34): The shadow copy completes and SNAP clears. -/
  | energySnapshotDone
  /-- ZC_CROSSING (R39): A rising crossing on an LZC input held for 20 µs is accepted, time-stamped, and updates the period. -/
  | zcCrossing (ref : Fin 3) (t : BitVec 64)
  /-- ZC_LOST (R39): After 100 ms with no accepted crossing, ZC_LOSTn is set and the reference is treated as absent. -/
  | zcLost (ref : Fin 3)
  /-- PREAMBLE_DETECTED (R53): A detector finds a preamble and hands the frame to the lowest-numbered idle enabled lane of that input and band. -/
  | preambleDetected (input : Fin 4) (band : Fin 4) (power : BitVec 16) (gain : Fin 8) (ts : BitVec 64)
  /-- HEADER_DECODED (R51): A lane finishes decoding the frame header and judges it. -/
  | headerDecoded (lane : Fin 24) (robust : Bool) (soft : List Int) (snr : BitVec 8)
  /-- FRAME_DECODED (R57): A lane completes the payload decode within 80 µs of the last symbol and hands the frame on, or counts its failure. -/
  | frameDecoded (lane : Fin 24) (soft : List Int) (noiseRise : BitVec 16) (gsnr : List Byte)
  /-- HELD_FRAME_PACKED (R57): A frame held for want of a packet buffer is handed to the packing queue once a slot frees. -/
  | heldFramePacked (lane : Fin 24)
  /-- FRAME_HOLD_DISCARD (R57): A frame held for 10 ms is discarded, counted in LMA_PQ_DROP, and the lane becomes idle. -/
  | frameHoldDiscard (lane : Fin 24)
  /-- FRAME_STORED (R65): Once the slot's last line is written, the LMA posts the frame-arrived operand. -/
  | frameStored
  /-- PACKET_BUFFER_FREE (R65): A write to a PB_FREE register returns a slot, or a run of slots, to its pool, or is ignored with FREE_ERR. -/
  | packetBufferFree (pool : Pool) (v : Word)
  /-- PQ_DATA_READ (R66): A read of LMA_PQ_DATA returns the next direct-mode word, stalls while the queue is empty, or returns 0 in buffer mode. -/
  | pqDataRead
  /-- PQ_DATA_STALL_END (R66): A word arriving completes a stalled LMA_PQ_DATA read. -/
  | pqDataStallEnd
  /-- PQ_FLUSH (R66): LMA_PQ_CTRL.FLUSH discards the direct-mode frames and counts each one. -/
  | pqFlush
  /-- PQ_MODE_APPLY (R66): A change of LMA_PQ_CTRL.MODE takes effect at the next frame boundary. -/
  | pqModeApply
  /-- LANE_CFG_WRITE (R56): A write to LMA_LANE_CFGn is recorded, to take effect when the lane is next idle. -/
  | laneCfgWrite (lane : Fin 24) (v : Word)
  /-- LANE_CFG_APPLY (R56): A pending lane configuration takes effect when the lane becomes idle. -/
  | laneCfgApply (lane : Fin 24)
  /-- TX_CFG_WRITE (R60): A write to LMA_TX_CFGn that would enable a second chain on one input leaves ENABLE 0 and sets CFG_ERR. -/
  | txCfgWrite (chain : Fin 3) (v : Word)
  /-- TX_REQUEST_FETCH (R62): A modulation chain reaches the next transmit request and judges it. -/
  | txRequestFetch (chain : Fin 3)
  /-- TX_LAUNCH (R63): At its launch time the chain places the first preamble sample at the pins, filling ZCO. -/
  | txLaunch (chain : Fin 3) (t : BitVec 64)
  /-- BLANKING_END (R61): Blanking ends 200 µs after the last transmitted sample. -/
  | blankingEnd (chain : Fin 3)
  /-- TX_FRAME_END (R62): A transmission ends; the chain writes STATUS and SENT_AT and advances the consumer index. -/
  | txFrameEnd (chain : Fin 3)
  /-- HALT_TX (R63): A write of LMA_CTRL.HALT_TX stops every chain and beacon at the next symbol boundary. -/
  | haltTx (v : Word)
  /-- TX_HALTED (R63): At the symbol boundary the cut-short frame completes with status 0x05. -/
  | txHalted (chain : Fin 3)
  /-- PH_LOAD (R71): A write of LMA_PH_LOAD restores or clears a committed phase relation without sending a notice. -/
  | phLoad (v : Word)
  /-- CELL_CFG_WRITE (R73): A write of LMA_CELL_CFGc is refused with CFG_ERR on an input and band already used; otherwise it applies from the next beacon. -/
  | cellCfgWrite (cell : Fin 12) (v : Word)
  /-- BEACON_LAUNCH (R78): At each scheduled network time the LMA launches the cell's beacon with the computed BSN. -/
  | beaconLaunch (cell : Fin 12) (t : BitVec 64)
  /-- AUTOACK (R89): Three ticks after a frame asking for acknowledgement, the coordinator sends the acknowledgement. -/
  | autoack (t : BitVec 64)
  /-- RT_LOSS (R94): A write of LMA_RT_LOSS charges one loss to the named direct link. -/
  | rtLoss (v : Word)
  /-- EXPECTATION_CLOSE (R95): The expectation window ends REPLY_TICKS after the frame. -/
  | expectationClose (cell : Fin 12)
  /-- NOISE_CLEAR (R95): At each 60 s multiple of network time, NOISE is cleared in every entry. -/
  | noiseClear
  /-- RT_ENTRY_WRITE (R99): A routing-table write is checked for hops and loops, and a change to a route field starts a sweep. -/
  | rtEntryWrite (dest : BitVec 15) (word : Fin 4) (v : Word)
  /-- ROUTE_SWEEP (R100): The sweep recomputes HOPS, NEXT and ROUTE_COST until nothing changes, then ends and judges pending offers. -/
  | routeSweep
  /-- RT_OFFER (R101): A write of LMA_RT_OFFER proposes a route change, which is accepted or refused with a result code. -/
  | rtOffer (v : Word)
  /-- STANDBY_BEACON_WATCH (R102): A standby judges each expected partner beacon as heard or unheard when its window passes. -/
  | standbyBeaconWatch (cell : Fin 12) (t : BitVec 64)
  /-- IQ_ALIGNMENT (R107): Four successive words with MARK 0b10 align the IQ receiver. -/
  | iqAlignment (unit : Fin 2)
  /-- IQ_ALIGNMENT_LOSS (R107): Two bad MARKs end alignment; the loss is counted and any frame in progress is abandoned. -/
  | iqAlignmentLoss (unit : Fin 2)
  /-- IQ_FREQ_MEASURE (R108): Every 1 ms the unit measures f_IQCLK into AIR_IQ_FREQu. -/
  | iqFreqMeasure (unit : Fin 2) (khz : BitVec 16)
  /-- PHY_CFG_WRITE (R108): A PHY selection needing more than f_IQCLK/8 is refused with CFG_ERR. -/
  | phyCfgWrite (unit : Fin 2) (alt : Bool) (v : Word)
  /-- AIR_ENABLE (R112): Writing ENABLE 1 checks the PHY rate and the pool overlap, and runs the INIT script. -/
  | airEnable (unit : Fin 2)
  /-- AIR_DISABLE (R112): Writing ENABLE 0 runs the SLEEP script. -/
  | airDisable (unit : Fin 2)
  /-- SCRIPT_RUN (R113): A write to AIR_SCR_RUNu runs a script while the unit is disabled, or is refused with CFG_ERR. -/
  | scriptRun (unit : Fin 2) (v : Word)
  /-- SCRIPT_END (R111): An SPI script ends at END or in error, and the MAC continues the slot. -/
  | scriptEnd (unit : Fin 2) (us : BitVec 32) (miso : List Byte) (irq : List (BitVec 24))
  /-- AIR_SLOT_START (R118): At each slot boundary the unit resolves cells, evaluates guard times and runs CHAN or IDLE. -/
  | airSlotStart (unit : Fin 2) (t : BitVec 64)
  /-- HOP_CTRL_SWAP (R117): Setting AIR_HOP_CTRLu.SWAP requests the shadow list, or refuses it in duty mode. -/
  | hopCtrlSwap (unit : Fin 2) (v : Word)
  /-- AIR_TX_LAUNCH (R116): At slot start plus TXOFS the unit launches the frame or Enhanced Beacon of the chosen cell. -/
  | airTxLaunch (unit : Fin 2)
  /-- AIR_FRAME_RECEIVED (R123): A received frame is judged by the acceptance table, stored, posted and recorded in its neighbour entry. -/
  | airFrameReceived (unit : Fin 2) (alt modeSwitch : Bool) (t : BitVec 64) (psdu : List Byte) (rssi snr : Byte)
  /-- AIR_ACK_SEND (R124): ACKDLY after an accepted frame, the unit sends an Enhanced Acknowledgement carrying −TOFS. -/
  | airAckSend (unit : Fin 2)
  /-- AIR_ACK_RECEIVED (R124): A received Enhanced Acknowledgement completes the request, and from a time source it may move the slot boundary. -/
  | airAckReceived (unit : Fin 2) (dsn : Byte) (corr : BitVec 16) (t : BitVec 64)
  /-- AIR_ACK_TIMEOUT (R119): With no acknowledgement in the window, the frame is retried or completes not acknowledged. -/
  | airAckTimeout (unit : Fin 2)
  /-- AIR_TX_EXPIRE (R119): A request not completed within AIR_TXQ_EXPIREu completes with status 0x06. -/
  | airTxExpire (unit : Fin 2) (q : Fin 4) (idx : Fin 64)
  /-- AIR_RX_WINDOW_CLOSE (R131): At the end of a timekeeping receive cell an unheard beacon raises MISS. -/
  | airRxWindowClose (unit : Fin 2)
  /-- RSYNC_DWELL_EXPIRY (R133): During resynchronisation the unit moves to the next hopping-list channel after RSYNC_DWELL. -/
  | rsyncDwellExpiry (unit : Fin 2)
  /-- RESYNC_LIMIT (R133): Resynchronisation lasting LIMIT seconds sets RESYNC_FAIL and posts a notice. -/
  | resyncLimit (unit : Fin 2)
  /-- SEARCH_LIMIT (R130): A search lasting LIMIT seconds sets the neighbour lost and posts a notice. -/
  | searchLimit (unit : Fin 2) (nbr : BitVec 12)
  /-- DWELL_BUCKET_BOUNDARY (R126): At each bucket boundary the dwell accumulators advance to a new bucket. -/
  | dwellBucketBoundary (unit : Fin 2) (t : BitVec 64)
  /-- HCX_LOOKUP (R140): The context engine looks up a pod's handle, posting on a hit or starting write-back and fetch on a miss. -/
  | hcxLookup
  /-- HCX_FETCH_DONE (R138): A fetched record is checked and copied into the way, and the HCX operand is posted. -/
  | hcxFetchDone (way : BitVec 14)
  /-- HCX_WRITEBACK_DONE (R140): The write-back of an evicted or flushed context completes. -/
  | hcxWritebackDone (way : BitVec 14)
  /-- HCX_FLUSH (R142): A write of APC_HCX_FLUSH requests a write-back, and optionally invalidation, of a handle's context. -/
  | hcxFlush (v : Word)
  /-- HCX_FLUSH_DONE (R142): Once the context is unpinned and written back, the flush completes and DONE is set. -/
  | hcxFlushDone
  /-- KEY_WINDOW_WRITE (R147): A write to the key load window claims it for its level, or is dropped. -/
  | keyWindowWrite (idx : Fin 9) (v : Word) (who : Who)
  /-- KEY_LOAD_GO (R148): A write of CIU_KEY_CMD with GO checks the load and commits it or refuses it with a RESULT. -/
  | keyLoadGo (v : Word) (who : Who)
  /-- KEY_LOAD_APPLY (R149): A load or erase takes effect once every earlier request naming the slot has completed. -/
  | keyLoadApply
  /-- KEY_WINDOW_TIMEOUT (R147): A window not committed within 65,536 CFG cycles is cleared with RESULT 7. -/
  | keyWindowTimeout
  /-- KEY_ERASE (R149): A write of CIU_KEY_ERASE erases one fixed slot, or is refused. -/
  | keyErase (v : Word) (who : Who)
  /-- SESSION_LOOKUP (R151): The CIU looks up a pod's handle in the session cache, posting on a hit or waiting for the hot context on a miss. -/
  | sessionLookup
  /-- SESSION_UNWRAP_DONE (R151): The unwrapped session key is written to the chosen way and the key-readiness operand is posted. -/
  | sessionUnwrapDone (pod : BitVec 10)
  /-- SESS_INVAL (R152): A write of CIU_SESS_INVAL erases a handle's session ways once they are unpinned. -/
  | sessInval (v : Word)
  /-- CIU_REQUEST_ACCEPT (R156): The CIU takes a request entry from a queue in weighted round robin within its limits. -/
  | ciuRequestAccept
  /-- AES_ECB_ENCRYPT (R159): OP 0x01 encrypts in ECB mode. -/
  | aesEcbEncrypt (q : Fin 8) (idx : BitVec 10) (lane : Fin 4) (busy : BitVec 32)
  /-- AES_ECB_DECRYPT (R159): OP 0x02 decrypts in ECB mode. -/
  | aesEcbDecrypt (q : Fin 8) (idx : BitVec 10) (lane : Fin 4) (busy : BitVec 32)
  /-- AES_CBC_ENCRYPT (R159): OP 0x03 encrypts in CBC mode with optional padding. -/
  | aesCbcEncrypt (q : Fin 8) (idx : BitVec 10) (lane : Fin 4) (busy : BitVec 32)
  /-- AES_CBC_DECRYPT (R159): OP 0x04 decrypts in CBC mode and checks the padding. -/
  | aesCbcDecrypt (q : Fin 8) (idx : BitVec 10) (lane : Fin 4) (busy : BitVec 32)
  /-- AES_CTR (R159): OP 0x05 applies AES-CTR. -/
  | aesCtr (q : Fin 8) (idx : BitVec 10) (lane : Fin 4) (busy : BitVec 32)
  /-- AES_GCM_ENCRYPT (R159): OP 0x06 encrypts and tags in GCM mode. -/
  | aesGcmEncrypt (q : Fin 8) (idx : BitVec 10) (lane : Fin 4) (busy : BitVec 32)
  /-- AES_GCM_DECRYPT (R159): OP 0x07 verifies and decrypts in GCM mode. -/
  | aesGcmDecrypt (q : Fin 8) (idx : BitVec 10) (lane : Fin 4) (busy : BitVec 32)
  /-- AES_CCM_ENCRYPT (R159): OP 0x08 encrypts in CCM* mode. -/
  | aesCcmEncrypt (q : Fin 8) (idx : BitVec 10) (lane : Fin 4) (busy : BitVec 32)
  /-- AES_CCM_DECRYPT (R159): OP 0x09 decrypts and verifies in CCM* mode. -/
  | aesCcmDecrypt (q : Fin 8) (idx : BitVec 10) (lane : Fin 4) (busy : BitVec 32)
  /-- AES_CMAC_GENERATE (R159): OP 0x0A generates a CMAC. -/
  | aesCmacGenerate (q : Fin 8) (idx : BitVec 10) (lane : Fin 4) (busy : BitVec 32)
  /-- AES_CMAC_VERIFY (R159): OP 0x0B verifies a CMAC. -/
  | aesCmacVerify (q : Fin 8) (idx : BitVec 10) (lane : Fin 4) (busy : BitVec 32)
  /-- SHA_256 (R159): OP 0x10 computes SHA-256. -/
  | sha256 (q : Fin 8) (idx : BitVec 10) (busy : BitVec 32)
  /-- SHA_384 (R159): OP 0x11 computes SHA-384. -/
  | sha384 (q : Fin 8) (idx : BitVec 10) (busy : BitVec 32)
  /-- HMAC_SHA_256 (R159): OP 0x12 generates HMAC-SHA-256. -/
  | hmacSha256 (q : Fin 8) (idx : BitVec 10) (busy : BitVec 32)
  /-- HMAC_SHA_384 (R159): OP 0x13 generates HMAC-SHA-384. -/
  | hmacSha384 (q : Fin 8) (idx : BitVec 10) (busy : BitVec 32)
  /-- KEY_WRAP (R159): OP 0x18 wraps the data at SRC under a KEK into DST. -/
  | keyWrap (q : Fin 8) (idx : BitVec 10) (lane : Fin 4) (busy : BitVec 32)
  /-- KEY_UNWRAP (R155): OP 0x19 unwraps data under a KEK into OSLOT. -/
  | keyUnwrap (q : Fin 8) (idx : BitVec 10) (lane : Fin 4) (busy : BitVec 32)
  /-- DLMS_RECEIVE (R162): OP 0x20 checks the policy and the inbound counter, then authenticates and decrypts a DLMS APDU. -/
  | dlmsReceive (q : Fin 8) (idx : BitVec 10) (lane : Fin 4) (busy : BitVec 32)
  /-- DLMS_TRANSMIT (R165): OP 0x21 increments TX_IC and protects an outbound APDU, or completes 0x07 at the ceiling. -/
  | dlmsTransmit (q : Fin 8) (idx : BitVec 10) (lane : Fin 4) (busy : BitVec 32)
  /-- COUNTER_MODE_DERIVATION (R155): OP 0x28 derives a key into OSLOT by the SP 800-108 counter mode. -/
  | counterModeDerivation (q : Fin 8) (idx : BitVec 10) (busy : BitVec 32)
  /-- SINGLE_STEP_DERIVATION (R155): OP 0x29 derives a key into OSLOT by single-step derivation. -/
  | singleStepDerivation (q : Fin 8) (idx : BitVec 10) (busy : BitVec 32)
  /-- ECDSA_SIGN (R155): OP 0x30 signs a digest with an EC private key. -/
  | ecdsaSign (q : Fin 8) (idx : BitVec 10) (busy : BitVec 32)
  /-- ECDSA_VERIFY (R155): OP 0x31 verifies a signature against the public key at AUX. -/
  | ecdsaVerify (q : Fin 8) (idx : BitVec 10) (busy : BitVec 32)
  /-- ECDH (R155): OP 0x32 computes ECDH into OSLOT. -/
  | ecdh (q : Fin 8) (idx : BitVec 10) (busy : BitVec 32)
  /-- KEY_PAIR_GENERATION (R155): OP 0x33 generates a key pair into OSLOT, with the public key to DST. -/
  | keyPairGeneration (q : Fin 8) (idx : BitVec 10) (busy : BitVec 32)
  /-- DRBG_OUTPUT (R153): OP 0x38 writes DRBG output to DST. -/
  | drbgOutput (q : Fin 8) (idx : BitVec 10)
  /-- RANDOM_KEY (R155): OP 0x39 generates a random key into OSLOT. -/
  | randomKey (q : Fin 8) (idx : BitVec 10)
  /-- CIU_ALARM (R167): A CIU detector alarm starts the erase of every key. -/
  | ciuAlarm (det : Fin 5)
  /-- BULK_CLEAR_DONE (R168): The bulk clear completes, ERASED is set, in-progress requests complete 0x09, and an Ember record is written. -/
  | bulkClearDone
  /-- CIU_ENABLE (R170): Writing ENABLE 1 reseeds the DRBG, draws new masks if the register was erased, and sets READY, unless blocked. -/
  | ciuEnable
  /-- CIU_DISABLE (R170): Writing ENABLE 0 stops intake while entries in progress complete. -/
  | ciuDisable
  /-- RESEED (R153): CIU_CTRL.RESEED reseeds the DRBG and, if the start-up tests pass, clears an entropy failure. -/
  | reseed (pass : Bool)
  /-- ENTROPY_HEALTH_FAILURE (R153): A failed health test sets ENTROPY_FAIL and refuses every DRBG, mask and key generation. -/
  | entropyHealthFailure (adaptive : Bool)
  /-- POD_ALLOCATE (R180): The FLO allocates a pod to the head operand of a source queue and issues its operand requests. -/
  | podAllocate
  /-- POD_OPERAND_POST (R174): A hardware producer's operand fills the matching slot of its pod, or is dropped and counted. -/
  | podOperandPost (pod : BitVec 10) (kind : BitVec 4) (status : Byte) (value : BitVec 64)
  /-- SOFTWARE_OPERAND_POST (R175): A write of FLO_OPND_POST3 posts an operand checked against GEN, or allocates a pod. -/
  | softwareOperandPost (v : Word)
  /-- POD_TIMEOUT (R179): A pod waiting FLO_POD_TMO µs has its empty slots filled with VOID and enters READY. -/
  | podTimeout (pod : BitVec 10)
  /-- CORD_BIND (R185): The oldest unbound pod binds to its cord and takes the next SEQ when the window allows. -/
  | cordBind
  /-- POD_DISPATCH (R183): The FLO dispatches a ready pod by affinity or least load into a core's inbox. -/
  | podDispatch
  /-- POD_RELEASE (R186): A bound, unheld pod in DONE is released in cord order, and its completion goes to RING. -/
  | podRelease
  /-- PORT_TAKE (R188): A read of PORT_TAKE moves the oldest inbox pod to RUN, stalls on an empty inbox, or reports misuse; `waited` counts FLO cycles since the pod entered READY. -/
  | portTake (core : Fin 24) (waited : BitVec 32)
  /-- PORT_TAKE_RESUME (R188): A pod arriving in the inbox completes a stalled PORT_TAKE; `idle` counts the units of 256 FLO cycles (320 ns) of the stall. -/
  | portTakeResume (core : Fin 24) (waited : BitVec 32) (idle : BitVec 32)
  /-- PORT_EXPECT (R189): A write of PORT_EXPECT empties the named slots and sets their expected kinds. -/
  | portExpect (core : Fin 24) (v : Word)
  /-- PORT_PARK (R189): A write of PORT_PARK returns the held pod to WAIT or READY; `ran` counts the units of 256 FLO cycles (320 ns) in RUN. -/
  | portPark (core : Fin 24) (ran : BitVec 32)
  /-- PORT_FINISH (R189): A write of PORT_FINISH copies the completion record and moves the pod to DONE; `ran` as in PORT_PARK. -/
  | portFinish (core : Fin 24) (v : Word) (ran : BitVec 32)
  /-- PORT_POST (R175): A write of PORT_POST3 posts an operand, or allocates a pod at once or reports RESULT 2. -/
  | portPost (core : Fin 24) (v : Word)
  /-- CORE_RESET (R191): Writing RESET 1 holds a flow core in reset and returns its pods to the head of READY with INTR; `ran` and `idle` as in PORT_PARK and PORT_TAKE_RESUME. -/
  | coreReset (core : Fin 24) (ran : BitVec 32) (idle : BitVec 32)
  /-- CORE_START (R191): Writing RESET 0 starts the core at local address 0. -/
  | coreStart (core : Fin 24)
  /-- FMT_LOOKUP (R200): BAL answers an FMT request with the format entry address, or with STATUS 1. -/
  | fmtLookup
  /-- BAL_REQUEST_ACCEPT (R198): BAL takes a request from its queue, up to 64 in progress. -/
  | balRequestAccept
  /-- BAL_REQUEST_PROCESS (R206): A request, serialised per handle, is parsed, validated and estimated, and its batch and BDN are sent. -/
  | balRequestProcess (idx : BitVec 10)
  /-- FORMAT_IMAGE_LOAD (R205): BAL_IMG_CMD kind 1 requests a format table load and stops request intake. -/
  | formatImageLoad (v : Word)
  /-- CURVE_IMAGE_LOAD (R205): BAL_IMG_CMD kind 2 requests a curve table load and stops request intake. -/
  | curveImageLoad (v : Word)
  /-- BAL_IMAGE_APPLY (R205): Once the requests in progress drain, BAL checks and copies the image and resumes. -/
  | balImageApply
  /-- JOIN (R215): A JOIN membership command adds a handle to a group from the oldest open interval, or is refused. -/
  | join (v : Word)
  /-- LEAVE (R215): A LEAVE membership command removes a handle from its group. -/
  | leave (v : Word)
  /-- EXCLUDE (R215): An EXCLUDE membership command stops a member being summed. -/
  | exclude (v : Word)
  /-- INCLUDE (R215): An INCLUDE membership command sums a member again. -/
  | include (v : Word)
  /-- PHASE_NOTICE (R216): A phase notice from the LMA records the relation and may move a phase-family member. -/
  | phaseNotice
  /-- INTERVAL_CLOSE (R217): At C_k, BAL sweeps every enabled group, summing members and computing loss, residual and flags. -/
  | intervalClose (us : BitVec 32)
  /-- DAY_CLOSE (R224): After the last interval of a day, BAL ranks suspects, refits the loss and posts the day reports. -/
  | dayClose
  /-- GROUP_RELEARN (R222): BAL_GRP_CMD RELEARN returns a group to learning. -/
  | groupRelearn (v : Word)
  /-- CLM_ENABLE (R233): Writing CLM ENABLE 1 identifies every target, checks the geometry and starts the rebuild. -/
  | clmEnable (v : Word) (who : Who) (found : List PageFound)
  /-- CLM_REBUILD_DONE (R258): The rebuild from the checkpoint and scan completes, setting STATE 4 and taking a checkpoint. -/
  | clmRebuildDone (ms : Word) (found : List PageFound) (duds : List (BitVec 17))
  /-- FULL_SCAN_DONE (R260): The full scan of every block completes and the map is rebuilt. -/
  | fullScanDone (ms : Word) (found : List PageFound) (duds : List (BitVec 17))
  /-- CLM_DISABLE (R256): Writing CLM ENABLE 0 flushes, checkpoints and stops. -/
  | clmDisable (v : Word) (who : Who)
  /-- ARCHIVE_BATCH (R242): A BAL batch reaches the Clamp and is queued in order, or refused with STATUS 1. -/
  | archiveBatch
  /-- ARCHIVE_BATCH_ACCEPTED (R242): When all of a batch's records are in the write buffer, the Clamp posts the ADN operand. -/
  | archiveBatchAccepted
  /-- CLM_READ (R244): A READ command reads sectors of a namespace, reporting lost units. -/
  | clmRead (queue : Fin 3)
  /-- CLM_WRITE (R245): A WRITE command places units in the write buffer, merging partial units. -/
  | clmWrite (queue : Fin 3)
  /-- CLM_FLUSH_COMMAND (R245): A FLUSH command programs every buffered unit. -/
  | clmFlushCommand (queue : Fin 3)
  /-- NSFORMAT (R245): An NSFORMAT command writes a marker page and clears the namespace's map. -/
  | nsformat (queue : Fin 3)
  /-- RAWREAD (R245): A RAWREAD command returns a whole plane page undecoded if RAW_EN = 1. -/
  | rawread (queue : Fin 3)
  /-- CLM_COMMAND_COMPLETE (R245): A command completes with STATUS, optionally posting an ADN operand in command form. -/
  | clmCommandComplete
  /-- PAGE_PROGRAM_DONE (R241): A page program completes; map entries and VALID counts are updated. -/
  | pageProgramDone (duds : List (BitVec 17))
  /-- RICK_VERIFIED (R240): Verification read-back completes, and the blocks become VERIFIED or are rebuilt and retired. -/
  | rickVerified (found : List PageFound)
  /-- PAGE_READ_DONE (R234): A page read is decoded through the hard, soft and retry stages. -/
  | pageReadDone (codewords : List CwRead)
  /-- PROGRAM_FAILURE (R250): A program failure stops the block, rewrites its pages into a fresh rick, and retires it. -/
  | programFailure (parity sys : Bool) (duds : List (BitVec 17))
  /-- BLOCK_ERASE_DONE (R249): An erase completes; the block becomes FREE with EC increased. -/
  | blockEraseDone (failed : Bool)
  /-- PATROL_READ (R255): The paced patrol reads the next block, refreshing where needed and erasing FREE_NEW blocks. -/
  | patrolRead (found : List PageFound) (duds : List (BitVec 17))
  /-- CHECKPOINT_DUE (R256): CKPT_RICKS ricks opened or CKPT_MIN minutes passed start a checkpoint. -/
  | checkpointDue
  /-- CKPT_NOW (R256): A write of CLM_CTRL.CKPT_NOW starts a checkpoint. -/
  | ckptNow (v : Word) (who : Who)
  /-- CHECKPOINT_COMPLETE (R256): The checkpoint's segments, block table and directory are written, and its anchor record completes it. -/
  | checkpointComplete (duds : List (BitVec 17))
  /-- CTRL_FLUSH (R241): A write of CLM_CTRL.FLUSH programs every buffered unit and clears when done. -/
  | ctrlFlush (v : Word) (who : Who)
  /-- RIDE_FLUSH_DONE (R261): The ride flush of the write buffer into stream 7 completes, and RIDE_DONE is set. -/
  | rideFlushDone (fails : List (BitVec 31)) (duds : List (BitVec 17))
  /-- MEDIA_FORMAT (R262): FORMAT from the Seal level checks the sizes, marks bad blocks, writes the first anchor and sets STATE 4. -/
  | mediaFormat (v : Word) (who : Who) (duds : List (BitVec 17))
  /-- LEGAL_SECOND_EDGE (R279): At each legal second edge the engine registers the second's energy and processes boundaries in order. -/
  | legalSecondEdge (m : LegMeas)
  /-- LEGAL_REGISTER_COMMIT (R272): The legal registers are committed to eMRAM at least every 10 s. -/
  | legalRegisterCommit
  /-- PREPAYMENT_SWEEP (R296): Once a legal minute, the sweep charges standing charges, sets states and posts disconnects. -/
  | prepaymentSweep (us : BitVec 32)
  /-- POWER_FAIL_CLOSE (R281): On the RIDE notice, after boundary processing, the engine latches the part-second, closes the interval PFAIL, commits and logs. -/
  | powerFailClose (m : LegMeas) (us : BitVec 20)
  /-- MET_FAULT_START (R271): A reference or modulator fault sets MET_FAULT, stops registration and writes a class M entry. -/
  | metFaultStart
  /-- MET_FAULT_END (R271): The end of the fault clears MET_FAULT and writes a class M entry. -/
  | metFaultEnd
  /-- MET_CONFIG_APPLY (R286): A pending change to MI, DPER, SUB or CONN takes effect at the next whole UTC hour. -/
  | metConfigApply
  /-- LEG_MET_CFG_WRITE (R286): A Seal-level write of LEG_MET_CFG is logged and made pending, or refused. -/
  | legMetCfgWrite (v : Word) (who : Who)
  /-- LEG_CLK_CFG_WRITE (R275): A Seal-level write of ADJ_LIMIT is a class P change, logged or refused. -/
  | legClkCfgWrite (v : Word) (who : Who)
  /-- READ_REGS (R301): Legal request 0x01 returns the register sets and the legal time. -/
  | readRegs (rqid : Word)
  /-- READ_SNAP (R291): Legal request 0x02 returns a held snapshot. -/
  | readSnap (rqid : Word) (num : BitVec 32)
  /-- LOG_READ (R300): Legal request 0x03 returns log entries and advances LEG_LOG_RDMARK. -/
  | logRead (rqid : Word) (first : BitVec 32) (count : Byte)
  /-- READ_ACCOUNT (R292): Legal request 0x04 returns a prepayment account. -/
  | readAccount (rqid : Word) (slot : BitVec 16)
  /-- READ_CLOCK (R276): Legal request 0x05 returns the legal time, BMARK and CLK_INVALID. -/
  | readClock (rqid : Word)
  /-- SET_CLOCK (R275): Legal request 0x10 schedules an adjustment to a new time, judged small or large. -/
  | setClock (rqid : Word) (time : BitVec 40) (tag : BitVec 64)
  /-- ADJ_CLOCK (R275): Legal request 0x11 schedules a signed adjustment, judged small or large. -/
  | adjClock (rqid : Word) (delta : BitVec 32) (tag : BitVec 64)
  /-- CAL_LOAD (R288): Legal request 0x12 checks and loads a calendar into the passive slot. -/
  | calLoad (rqid : Word) (body : List Byte) (tag : BitVec 64)
  /-- CAL_ACTIVATE (R290): Legal request 0x13 sets the activation time of the passive calendar. -/
  | calActivate (rqid : Word) (time : BitVec 40) (tag : BitVec 64)
  /-- OVERRIDE (R290): Legal request 0x14 forces a tariff until an end time, or cancels an override. -/
  | override (rqid : Word) (cancel : Bool) (tariff : Byte) (endTime : BitVec 40) (tag : BitVec 64)
  /-- BILL_CLOSE (R291): Legal request 0x15 closes the billing period by request. -/
  | billClose (rqid : Word) (tag : BitVec 64)
  /-- MET_CONFIG (R286): Legal request 0x16 sets a new LEG_MET_CFG, pending to the next hour. -/
  | metConfig (rqid : Word) (v : Word) (tag : BitVec 64)
  /-- CALIBRATE (R302): Legal request 0x17 changes the calibration set when MET_CALEN_N is low. -/
  | calibrate (rqid : Word) (data : List Byte) (calenLow : Bool) (tag : BitVec 64)
  /-- PRICE_PLAN (R292): Legal request 0x18 writes a price plan. -/
  | pricePlan (rqid : Word) (num : Byte) (body : List Byte) (tag : BitVec 64)
  /-- FRIENDLY_CAL (R292): Legal request 0x19 writes a friendly calendar. -/
  | friendlyCal (rqid : Word) (num : Byte) (body : List Byte) (tag : BitVec 64)
  /-- LOG_ARCHIVE (R300): Legal request 0x1A frees log entries up to a SEQ, no further than RDMARK. -/
  | logArchive (rqid : Word) (seq : BitVec 32) (tag : BitVec 64)
  /-- ACC_CREATE (R297): Legal request 0x20 writes a zeroed account with the given settings. -/
  | accCreate (rqid : Word) (slot : BitVec 16) (handle : BitVec 20) (plan : Byte) (friendly : Byte) (flags : Byte) (ecLimit : BitVec 64) (lowTh : BitVec 64)
  /-- ACC_DELETE (R297): Legal request 0x21 clears VALID, or is refused while CREDIT < 0. -/
  | accDelete (rqid : Word) (slot : BitVec 16)
  /-- TOPUP (R295): Legal request 0x22 adds credit if the sequence is new and the vending tag verifies. -/
  | topup (rqid : Word) (slot : BitVec 16) (amount : BitVec 64) (seq : BitVec 32) (tag : BitVec 64)
  /-- EC_ON (R295): Legal request 0x23 activates emergency credit in LOW or EXHAUSTED. -/
  | ecOn (rqid : Word) (slot : BitVec 16) (tag : BitVec 64)
  /-- CHARGE (R293): Legal request 0x24 charges an interval's energy at its tariff if it is newer than LAST_END. -/
  | charge (rqid : Word) (slot : BitVec 16) (endMin : BitVec 32) (length : BitVec 16) (energy : BitVec 32)
  /-- ACC_SET (R297): Legal request 0x25 changes an account's plan, calendar, flags and thresholds. -/
  | accSet (rqid : Word) (slot : BitVec 16) (plan : Byte) (friendly : Byte) (flags : Byte) (ecLimit : BitVec 64) (lowTh : BitVec 64)
  /-- LEGAL_ENGINE_START (R305): At each start the legal engine reads its storage, checks the CRCs and writes a start-up entry. -/
  | legalEngineStart (regsGood : Bool) (badAccounts : List (BitVec 14))
  /-- ETH_FRAME_RECEIVED (R309): A received Ethernet frame is stamped, classified and written to a queue or to ingest. -/
  | ethFrameReceived (port : Fin 2) (frame : List Byte) (fcsGood : Bool) (phase : BitVec 16)
  /-- BLOCK_INGEST (R313): A relayed block is checked and accepted into the ingest buffer, forwarded, or dropped. -/
  | blockIngest
  /-- BLOCK_ENTRY_UNPACK (R315): BKB unpacks the next entry into slots and posts a frame-arrived operand, pausing when it cannot. -/
  | blockEntryUnpack
  /-- PAUSE_REPEAT (R316): While INGEST_HI holds, PAUSE with quanta 0xFFFF is repeated every 1 ms. -/
  | pauseRepeat
  /-- ETH_TRANSMIT_START (R311): A port starts sending the head frame of its highest-priority queue, or a released gated frame. -/
  | ethTransmitStart (port : Fin 2) (phase : BitVec 16)
  /-- ETH_TRANSMIT_DONE (R311): A frame finishes sending; STATUS and TXTS are written. -/
  | ethTransmitDone (port : Fin 2)
  /-- ETH_LINK_CHANGE (R307): A port's receive PCS gains or loses synchronisation and LINK changes. -/
  | ethLinkChange (port : Fin 2) (sync : Bool) (speed : Fin 3)
  /-- TIM_INC_WRITE (R317): A write of BKB_TIM_INC_HI applies the held INC pair, clipped, from the next cycle. -/
  | timIncWrite (v : Word)
  /-- TIM_STEP (R319): Writing STEP adds the step to network time, unless STATE is LOCKED. -/
  | timStep (v : Word)
  /-- SLEW_GO (R320): Setting SLEW_GO starts or replaces a slew, or sets CFG_ERR if out of range. -/
  | slewGo (v : Word)
  /-- SLEW_COMPLETE (R320): The slew's last cycle adds what remains, and SLEWING clears. -/
  | slewComplete
  /-- TIM_STATE_WRITE (R318): A write of BKB_TIM_CTRL.STATE records the servo state; a change to LOCKED writes a time mark. -/
  | timStateWrite (v : Word)
  /-- UTC_OFS_APPLY (R324): A new BKB_UTC_OFS takes effect at the next whole second of network time. -/
  | utcOfsApply
  /-- COMPARATOR_FIRE (R327): A comparator fires when network time reaches NEXT and takes its ACTION. -/
  | comparatorFire (cmp : Fin 16)
  /-- PULSE_END (R328): A PULSE output returns low after WIDTH × 8 ns. -/
  | pulseEnd (out : Fin 4)
  /-- COMPARATOR_ENABLE (R327): Enabling a comparator computes NEXT, or fires a past one-shot at once with LATE. -/
  | comparatorEnable (cmp : Fin 16) (v : Word)
  /-- COMPARATOR_TGT_WRITE (R327): A write of the TGT_HI register applies the TGT pair and recomputes NEXT. -/
  | comparatorTgtWrite (cmp : Fin 16) (v : Word)
  /-- COMPARATOR_PER_WRITE (R327): A write of the PER_HI register applies the PER pair and recomputes NEXT. -/
  | comparatorPerWrite (cmp : Fin 16) (v : Word)
  /-- TIM_IN_EDGE (R330): A rising edge on TIM_IN0 or TIM_IN1 is stamped into BKB_CAPi and counted. -/
  | timInEdge (pin : Fin 2) (time : BitVec 64)
  /-- PCIE_RESET (R337): An FLR, hot reset, link down, PERST or D3hot disables Host rings, masks vectors and drops IOMMU caches. -/
  | pcieReset (cause : PcieReset)
  /-- PCIE_LINK_UP (R336): The link's first training after reset latches the subsystem IDs. -/
  | pcieLinkUp (speed : Fin 4) (width : LinkWidth) (setup : PciSetup)
  /-- DOORBELL_WRITE (R348): A write to a doorbell page updates a producer or consumer index, or sets DB_ERR. -/
  | doorbellWrite (page : Fin 72) (offset : BitVec 12) (v : Word) (who : Who)
  /-- DESCRIPTOR_FETCH (R341): RING fetches a submission descriptor and passes it to its service. -/
  | descriptorFetch
  /-- LGL_REQUEST (R342): The Seal level serves an LGL descriptor, submits the body and writes the reply. -/
  | lglRequest
  /-- COMPLETION_WRITE (R344): RING writes a 64-byte completion entry with PHASE and SQHD, waiting while the ring is full. -/
  | completionWrite
  /-- INTERRUPT_TIMEOUT (R349): TMO µs after the oldest unsignalled entry, the vector is signalled. -/
  | interruptTimeout (ring : RingSel)
  /-- MSIX_VECTOR_UNMASK (R349): Unmasking a vector with its pending bit set sends the message. -/
  | msixVectorUnmask (vector : BitVec 7)
  /-- NOTICE_WRITE (R347): A notice is routed to its event ring and written, queued, or discarded. -/
  | noticeWrite
  /-- BLN_REPORT_DELIVER (R346): A BAL report is written to every enabled BLN ring, and BAL_RPT_CI advances. -/
  | blnReportDeliver
  /-- IOMMU_INVAL (R352): A write of RING_IOMMU_INVAL starts dropping cached translations. -/
  | iommuInval (v : Word)
  /-- IOMMU_INVAL_DONE (R352): Once affected translations are dropped and their beats issued, GO clears. -/
  | iommuInvalDone
  /-- RING_ENABLE (R361): Enabling a ring restarts its indices at 0 and sets PHASE to 1. -/
  | ringEnable (ring : RingSel)
  /-- APC_CORE_RUN (R356): A Seal-level write of APC_CORE_RUN releases cluster cores at APC_BOOT_VEC. -/
  | apcCoreRun (v : Word) (who : Who)
  /-- INTERRUPT_CLAIM (R357): A read of a hart's claim register returns the highest pending source and clears its pending bit. -/
  | interruptClaim (hart : Fin 4) (smode : Bool)
  /-- CLAIM_COMPLETE (R357): A write of the claim register completes the claim, and a still-asserted source pends again. -/
  | claimComplete (hart : Fin 4) (smode : Bool) (v : Word)
  /-- DDR_ENABLE (R358): Writing APC_DDR_CFG.ENABLE 1 trains the interface and initialises or keeps the DRAM. -/
  | ddrEnable (v : Word)
  /-- DDR_READY (R358): Training and preparation complete and READY is set, with KEPT when contents were kept. -/
  | ddrReady (trained : Bool)
  /-- DDR_DISABLE (R358): Writing ENABLE 0 clears READY and enters self-refresh. -/
  | ddrDisable
  /-- PATROL_SCRUB (R360): The paced scrub reads DRAM, correcting errors and raising source 156 on an uncorrectable one. -/
  | patrolScrub (word : BitVec 31) (ecc : Ecc)
  /-- GUARD_START (R363): At start the Guard takes the life-cycle state by majority of four copies and unwraps the root secret. -/
  | guardStart
  /-- KINDLING (R366): In BLANK with no kindling record, the Guard creates, wraps and verifies the root secret. -/
  | kindling (testsPass : Bool)
  /-- KINDLING_ENTROPY_RETRY (R366): Failed start-up tests of the entropy source repeat every 10 ms. -/
  | kindlingEntropyRetry (testsPass : Bool)
  /-- PERSONALISE (R363): GRD_LC_CMD PERSONALISE moves BLANK to PERSONALISED if its conditions hold. -/
  | personalise (who : Who)
  /-- SEAL (R363): GRD_LC_CMD SEAL moves PERSONALISED to SEALED and write-protects the Seal-level image. -/
  | seal (who : Who)
  /-- RETIRE (R365): GRD_LC_CMD RETIRE overwrites the root secret, erases keys and holds the tamper line. -/
  | retire (who : Who)
  /-- CLEAR_TRIP (R364): GRD_LC_CMD CLEAR_TRIP clears TRIPPED when no source is present and ROOT_KILLED is 0. -/
  | clearTrip (who : Who)
  /-- KEY_DERIVATION (R369): A write of GRD_KDF_CMD GO starts a root-secret derivation into a fixed slot, or is refused. -/
  | keyDerivation (v : Word) (who : Who)
  /-- KEY_DERIVATION_DONE (R370): The derived key is placed with forced attributes and RESULT written, with the public point if requested. -/
  | keyDerivationDone
  /-- ACCESS_PLAN_COMMIT (R374): GRD_AP_CTRL.COMMIT copies the shadow plan into the active plan at every checker. -/
  | accessPlanCommit (v : Word) (who : Who)
  /-- TAMPER_CONDITION (R377): A tamper source's condition appears, and its ACTION is taken. -/
  | tamperCondition (src : Fin 11)
  /-- TAMPER_CONDITION_END (R377): A source's condition ends, and the tamper line is released after at least 1 µs unless held. -/
  | tamperConditionEnd (src : Fin 11)
  /-- TAMPER_CFG_WRITE (R380): A write of GRD_TMP_CFGi changes the action, ignored in SEALED if lowering; a raise while present acts at once. -/
  | tamperCfgWrite (src : Fin 11) (v : Word) (who : Who)
  /-- IDCODE (R381): The IDCODE debug instruction returns GRD_DEV_ID. -/
  | idcode
  /-- BYPASS (R381): The BYPASS debug instruction passes data through one bit. -/
  | bypass (tdi : Bool)
  /-- CHALLENGE (R381): The CHALLENGE instruction returns a fresh 32-byte challenge. -/
  | challenge
  /-- RESPOND (R381): The RESPOND instruction carries a state request and signature, checked and raised to the Seal level. -/
  | respond (req : Byte) (sig : List Byte) (fresh : Bool)
  /-- DSTATUS (R381): The DSTATUS instruction returns the debug state. -/
  | dstatus
  /-- DEBUG_BACKOFF_END (R382): The back-off after a refused response ends. -/
  | debugBackoffEnd
  /-- DEBUG_GRANT (R381): A Seal-level write of GRD_DBG_GRANT grants, refuses or ends a debug state. -/
  | debugGrant (v : Word) (who : Who)
  /-- DEBUG_GRANT_EXPIRY (R383): A grant ends after GRD_DBG_TMO minutes. -/
  | debugGrantExpiry
  /-- UPDATE_CHECK (R393): GRD_UPD_CMD CHECK judges the table image at GRD_UPD_TBL_ADDR. -/
  | updateCheck
  /-- UPDATE_START (R395): GRD_UPD_CMD START checks the refusal conditions and begins copying from STAGED. -/
  | updateStart
  /-- UPDATE_ACTIVATE (R399): GRD_UPD_CMD ACTIVATE checks the conditions and loads the installed image. -/
  | updateActivate
  /-- UPDATE_ABORT (R396): GRD_UPD_CMD ABORT returns RECEIVING or STAGED to IDLE, and is refused from COPYING. -/
  | updateAbort
  /-- CHAIN_HEADER_PIECE (R403): A chain frame of TYPE 1 carries a wrapper piece; a complete manifest is judged and accepted. -/
  | chainHeaderPiece (frame : List Byte)
  /-- CHAIN_BODY_PIECE (R403): A chain frame of TYPE 2 carries body or chunk data toward a verified chunk. -/
  | chainBodyPiece (frame : List Byte)
  /-- CHAIN_REQUEST (R401): A chain frame of TYPE 3 asks the parent for a chunk. -/
  | chainRequest (frame : List Byte)
  /-- CHAIN_HAVE (R402): A chain frame of TYPE 4 reports that chunk c has been verified. -/
  | chainHave (frame : List Byte)
  /-- CHUNK_COPY_DONE (R397): A chunk's SYNC write to IMAGE completes, NEXT advances, and the next chunk is copied. -/
  | chunkCopyDone (status : Byte)
  /-- COPY_RESUME (R398): At the RUN notice or a start, once the Clamp is ready, Tinder rewrites chunk NEXT. -/
  | copyResume
  /-- IMAGE_LOAD (R399): At start or ACTIVATE, Tinder loads the installed image and releases the cores. -/
  | imageLoad
  /-- XA_LOST (R411): An SRC cycle with fewer than 300 XA edges loses XA and enters TRIM. -/
  | xaLost
  /-- XA_VALID (R412): XA valid for the required run returns the PLLs to XA and the device to RUN. -/
  | xaValid
  /-- XB_LOST (R407): No XB edge for 2 ms moves SEAL to FRC ÷3. -/
  | xbLost
  /-- XB_VALID (R407): 1,024 good XB edges return SEAL to PLL_D. -/
  | xbValid
  /-- PLL_LOCK (R406): A PLL in holdover relocks once a valid reference returns. -/
  | pllLock (pll : Fin 5)
  /-- MUX_SELECT (R408): A write of CRP_MUXm_SEL starts a glitch-free switch, or is ignored while BUSY. -/
  | muxSelect (mux : Fin 10) (v : Word) (who : Who)
  /-- MUX_SWITCH_DONE (R408): The new clock is passed and BUSY clears. -/
  | muxSwitchDone (mux : Fin 10)
  /-- FORCED_SWITCH (R409): A switch still BUSY after 64 SRC cycles resets the fed domains and switches asynchronously. -/
  | forcedSwitch (mux : Fin 10) (newSide : Bool)
  /-- FORCED_SWITCH_RELEASE (R409): After enough new-clock edges the reset is released, FORCED is set, and an Ember record is written. -/
  | forcedSwitchRelease (mux : Fin 10)
  /-- TRIM_START (R414): A trim run starts on VDD_CORE valid, on PERIOD, or on a temperature change. -/
  | trimStart
  /-- TRIM_WINDOW_END (R414): A measurement window ends and the trim code moves by −round(e / 60 ppm). -/
  | trimWindowEnd (count : BitVec 32) (expected : BitVec 32)
  /-- CLOCK_GATE_WRITE (R416): A write of CRP_CLK_GATE requests a block's clock stopped or restarted. -/
  | clockGateWrite (v : Word)
  /-- GATE_CLOSE (R416): The gate closes at the first cycle the block's ports are idle. -/
  | gateClose (block : Fin 12)
  /-- BLOCK_RESET_WRITE (R418): A write of CRP_BLK_RST holds blocks in reset or releases them. -/
  | blockResetWrite (v : Word)
  /-- DCQ_REHANDSHAKE (R420): Both sides see UP and READY, and traffic resumes. -/
  | dcqRehandshake (block : Fin 12)
  /-- POWER_ON_RESET (R423): VDD_SEAL crossing the threshold resets everything and starts the start sequence. -/
  | powerOnReset
  /-- CORE_POWER_ON (R423): VDD_CORE becoming valid restores the counters and runs the start sequence from step 2. -/
  | corePowerOn
  /-- RST_N_ASSERT (R422): RST_N low for 1 µs gives a device reset outside the retained set. -/
  | rstNAssert
  /-- RST_N_RELEASE (R423): RST_N released lets the start sequence continue from step 3. -/
  | rstNRelease
  /-- DEVICE_RESET_CMD (R422): CRP_RST_CMD.DEVICE from the Seal level places DRAM in self-refresh and resets the device. -/
  | deviceResetCmd (v : Word) (who : Who)
  /-- WDT_ENABLE (R424): Setting CRP_WDT_CFG.ENABLE starts the watchdog. -/
  | wdtEnable (v : Word)
  /-- WDT_KICK (R424): A write of 0xA5C3 to CRP_WDT_KICK restarts the count. -/
  | wdtKick (v : Word)
  /-- WDT_EXPIRY (R424): A first expiry sets WDT; a second without a kick makes a device reset. -/
  | wdtExpiry
  /-- HOLD_COMMAND (R427): CRP_PWR_CMD HOLD sends the HOLD notice, or is refused with RESULT 2. -/
  | holdCommand
  /-- HOLD_ENTERED (R427): Once the Clamp reports its buffer empty, CRP stops the domains and enters HOLD. -/
  | holdEntered
  /-- RUN_COMMAND (R425): CRP_PWR_CMD RUN from the Seal level leaves HOLD and sends the RUN notice. -/
  | runCommand (who : Who)
  /-- RIDE_COMMAND (R425): CRP_PWR_CMD RIDE from the Seal level enters RIDE. -/
  | rideCommand (who : Who)
  /-- WAKE_EVENT (R425): An event enabled in CRP_WAKE_EN wakes the device from HOLD. -/
  | wakeEvent (event : Fin 19)
  /-- PFAIL_ASSERT (R428): PFAIL_N asserted for FILT µs causes RIDE, or is deferred during kindling. -/
  | pfailAssert
  /-- VDD_CORE_LOW (R425): VDD_CORE below 0.74 V for 1 µs causes RIDE. -/
  | vddCoreLow
  /-- PFAIL_NEGATED (R429): PFAIL_N negated for RETURN × 10 ms after the flush returns RIDE to RUN. -/
  | pfailNegated
  /-- RIDE_LIMIT (R429): TMAX expiry or CHARGE below DORM_CHG calls for a descent to DORMANT. -/
  | rideLimit (tmax : Bool) (charge : Bool)
  /-- DESCENT_TO_DORMANT (R429): Once legal processing and the flush end, CRP saves the counters, writes a record and drops CORE_EN. -/
  | descentToDormant
  /-- DORMANT_WAKE (R425): PFAIL_N negated for RETURN × 10 ms in DORMANT raises CORE_EN. -/
  | dormantWake
  /-- VDD_SEAL_LOSS (R426): Loss of VDD_SEAL ends all activity at once and puts the device in OFF. -/
  | vddSealLoss
  /-- VBKP_MEASURE (R431): Every 10 ms CRP measures VBKP and computes CHARGE. -/
  | vbkpMeasure (vbkp : BitVec 9)
  /-- TEMP_SAMPLE (R484): Every 1 ms the junction temperature is sampled into CRP_TEMP. -/
  | tempSample (temp : BitVec 12)
  /-- KILN_BOOT (R439): CRP_KLN_CTRL GO with MODE BOOT starts the boot test of every present partition, or is refused. -/
  | kilnBoot (v : Word) (who : Who)
  /-- KILN_SLICE (R440): CRP_KLN_CTRL GO with MODE SLICE starts segments of one partition, or is refused. -/
  | kilnSlice (v : Word) (who : Who)
  /-- KILN_CLOCK_CHECK_END (R436): The 1 ms test clock check ends; the run is refused or its partitions are cleared and scanned. -/
  | kilnClockCheckEnd (count : BitVec 20) (mv : BitVec 10)
  /-- KILN_SEGMENT_END (R434): A segment ends and its MISR is compared with the ROM signature. -/
  | kilnSegmentEnd (part : Fin 13) (misr : Word)
  /-- KILN_VDD_SAMPLE (R436): Every 10 µs of a run VDD_CORE is sampled. -/
  | kilnVddSample (mv : BitVec 10)
  /-- KILN_RUN_END (R442): At the end of a run each partition receives a block reset, and failures are recorded. -/
  | kilnRunEnd (us : BitVec 32)
  /-- HEARTBEAT_SEND (R445): Every 1 ms each side sends a HEARTBEAT with its health word. -/
  | heartbeatSend
  /-- HEARTBEAT_FRAME (R450): A received HEARTBEAT records the partner's health and state. -/
  | heartbeatFrame (frame : List Byte)
  /-- ORDER_FRAME (R447): A standby receives an ORDER frame, writes its records' slots, posts the operands and acknowledges. -/
  | orderFrame (frame : List Byte)
  /-- TAKEOVER_FRAME (R453): A received TAKEOVER makes a primary-side chip mute and demote. -/
  | takeoverFrame (frame : List Byte)
  /-- DROP_FRAME (R449): A received DROP sets OUT_OF_STEP and health bit 8 on the standby. -/
  | dropFrame (frame : List Byte)
  /-- PAIR_LINK_UP (R444): The pair receiver gains word alignment and a valid frame. -/
  | pairLinkUp (frame : List Byte)
  /-- PAIR_LINK_LOST (R445): No valid frame for HB_LOST ms judges the link lost. -/
  | pairLinkLost
  /-- ORDER_RESEND (R446): ACK not advancing for 2 ms makes the primary resend from ACK + 1. -/
  | orderResend
  /-- REPLAY_LAG_EXPIRY (R449): A replay buffer full for LAG ms makes the primary send DROP and stop streaming. -/
  | replayLagExpiry
  /-- MUTE_DELAY_EXPIRY (R454): MUTE_DELAY ms after isolation, the primary mutes and enters MUTED. -/
  | muteDelayExpiry
  /-- RECLAIM_EXPIRY (R454): A MUTED chip that hears no partner for RECLAIM ms restores its outputs and enters SOLO. -/
  | reclaimExpiry
  /-- PAIR_CMD_TAKEOVER (R451): BKB_PAIR_CMD TAKEOVER makes a standby take over. -/
  | pairCmdTakeover
  /-- PAIR_CMD_DEMOTE (R453): BKB_PAIR_CMD DEMOTE mutes a primary-side chip. -/
  | pairCmdDemote
  /-- CLEAR_OOS (R449): BKB_PAIR_CMD CLEAR_OOS clears OUT_OF_STEP and starts a new stream. -/
  | clearOos
  /-- PAIR_CFG_WRITE (R457): A write of BKB_PAIR_CFG enters PRIMARY, STANDBY or ALONE as ROLE gives and ends DEMOTED. -/
  | pairCfgWrite (v : Word)
  /-- EMBER_RECORD_COMMIT (R461): The writer commits the next intake record to the last area, and to the first area where due. -/
  | emberRecordCommit
  /-- EMBER_SNAPSHOT (R465): After a trigger record is committed, the recent records are copied into a snapshot slot. -/
  | emberSnapshot
  /-- EMBER_DROP_REPORT (R462): At the first second edge after drops, a type 0xE01 record carries the count. -/
  | emberDropReport
  /-- TIME_MARK (R469): Every 3,600 operating seconds, and at resets and locking, a time mark record is written. -/
  | timeMark
  /-- EMBER_TIME_COMMIT (R460): OPSEC, SUB and PCYC are committed to eMRAM every 16 s. -/
  | emberTimeCommit
  /-- EMBER_STAGING_WRITE (R466): A write to the staging window claims it for its level, or is dropped with STAGE_BUSY. -/
  | emberStagingWrite (offset : BitVec 12) (v : Word) (who : Who)
  /-- EMBER_SOFTWARE_WRITE (R466): GRD_EMB_WCMD GO submits a software record, or refuses it by TYPE range. -/
  | emberSoftwareWrite (v : Word) (who : Who)
  /-- OLDEST (R468): GRD_EMB_CMD OLDEST moves the cursor to the oldest record and loads it. -/
  | oldest
  /-- NEXT (R468): GRD_EMB_CMD NEXT moves past the record at the cursor, skipping pads, or reports the end. -/
  | next
  /-- FIND (R468): GRD_EMB_CMD FIND moves to the record with SEQ equal to GRD_EMB_FSEQ. -/
  | find
  /-- NEWEST (R468): GRD_EMB_CMD NEWEST moves the cursor to the newest record and loads it. -/
  | newest
  /-- CLEAR_LAST (R467): GRD_EMB_CMD CLEAR_LAST empties the last area in BLANK or RETIRED, or is refused. -/
  | clearLast (who : Who)
  /-- CURSOR_WRITE (R468): A write of GRD_EMB_CURSOR loads the window with the record or snapshot slot at that position. -/
  | cursorWrite (v : Word)
  /-- AIR_HALT_TX (R119): A write of AIR_MAC_CTRLu.HALT_TX stops the unit's transmissions and completes the affected requests with status 0x05. -/
  | airHaltTx (unit : Fin 2)
  /-- PAIR_ALIGNMENT_LOSS (R444): The pair-link receiver loses word alignment, so the link no longer counts as up and LINK_UP clears. -/
  | pairAlignmentLoss
  /-- XA_START_TIMEOUT (R412): When XA is not valid within 10 ms of VDD_CORE becoming valid at start, CRP completes the start sequence in TRIM. -/
  | xaStartTimeout
  deriving DecidableEq, Repr

end Sys2Proof
end

