-- ==== Sys2Proof/Machine/Bits.lean ====
section
/-!
DEFINITION. Bit fields, byte order, small arithmetic and the sparse tables that memory, the
register file and the per-entry stores of the blocks are held in.
-/
namespace Sys2Proof.Machine

/-- Bits [hi:lo] of `w` (00_scope.md, Conventions: bit ranges are [msb:lsb]). -/
def fld (w hi lo : Nat) : Nat := w / 2 ^ lo % 2 ^ (hi + 1 - lo)

/-- Bit `b` of `w`. -/
def bitOf (w b : Nat) : Bool := w / 2 ^ b % 2 == 1

/-- `w` with bits [hi:lo] replaced by the low bits of `v`. -/
def putFld (w hi lo v : Nat) : Nat :=
  w / 2 ^ (hi + 1) * 2 ^ (hi + 1) + v % 2 ^ (hi + 1 - lo) * 2 ^ lo + w % 2 ^ lo

/-- `w` with bit `b` set to `on`. -/
def putBit (w b : Nat) (on : Bool) : Nat := putFld w b b (if on then 1 else 0)

/-- A Boolean as a bit. -/
def b2n (b : Bool) : Nat := if b then 1 else 0

/-- The value of `n` low bits of `v` read as two's complement. -/
def sgn (n v : Nat) : Int :=
  if v % 2 ^ n < 2 ^ (n - 1) then (v % 2 ^ n : Nat) else (v % 2 ^ n : Nat) - (2 ^ n : Nat)

/-- The `n`-bit two's complement of an integer. -/
def uns (n : Nat) (i : Int) : Nat := (i % (2 ^ n : Nat)).toNat

/-- `v` limited to `lo … hi`. -/
def clamp (lo hi v : Nat) : Nat := max lo (min hi v)

/-- An integer limited to `lo … hi`. -/
def clampI (lo hi v : Int) : Int := max lo (min hi v)

/-- Rounded quotient, halves away from zero, for a positive divisor. -/
def roundDiv (a : Int) (b : Nat) : Int :=
  if 0 ≤ a then (a + (b : Int) / 2) / b else -((-a + (b : Int) / 2) / b)

/-- Saturating increment of a 32-bit counter (02_line_modem_array.md R72). -/
def satInc (v : Nat) : Nat := min (v + 1) 0xFFFFFFFF

/-- Saturating addition to a 32-bit counter (R72). -/
def satAdd (v n : Nat) : Nat := min (v + n) 0xFFFFFFFF

/-- `n` little-endian bytes of `v`, lowest address first (R7). -/
def leBytes : Nat → Nat → List Byte
  | 0, _ => []
  | n + 1, v => BitVec.ofNat 8 (v % 256) :: leBytes n (v / 256)

/-- The value of bytes in ascending address order, little-endian (R7). -/
def leVal : List Byte → Nat
  | [] => 0
  | b :: bs => b.toNat + 256 * leVal bs

/-- `n` big-endian bytes of `v`. -/
def beBytes (n v : Nat) : List Byte := (leBytes n v).reverse

/-- The value of big-endian bytes. -/
def beVal (bs : List Byte) : Nat := leVal bs.reverse

/-- The first `n` bytes, zero-filled when there are fewer. -/
def padTo (n : Nat) (bs : List Byte) : List Byte :=
  bs.take n ++ List.replicate (n - bs.length) 0

/-- Bytes `off … off+n-1` of a byte list, zero beyond its end. -/
def slice (bs : List Byte) (off n : Nat) : List Byte := padTo n (bs.drop off)

/-- Little-endian value of `n` bytes at `off` of a byte list. -/
def leAt (bs : List Byte) (off n : Nat) : Nat := leVal (slice bs off n)

/-- `bs` with the bytes from `off` replaced by `v` (the length is kept when it fits). -/
def splice (bs : List Byte) (off : Nat) (v : List Byte) : List Byte :=
  padTo off bs ++ v ++ bs.drop (off + v.length)

/-- Bytewise exclusive or. -/
def xorBytes (a b : List Byte) : List Byte := List.zipWith (· ^^^ ·) a b

/-! ### Sparse tables

A table is a list of (key, value) pairs, keys strictly rising, holding no entry equal to what
the key reads as when it is not listed.  Equal tables are then equal lists. -/

/-- What a table reads at `k`; `d` gives what an unlisted key reads as. -/
def Tab.get {α : Type} (d : Nat → α) : List (Nat × α) → Nat → α
  | [], k => d k
  | (j, v) :: t, k => if j = k then v else Tab.get d t k

/-- The table with `k` removed. -/
def Tab.del {α : Type} : List (Nat × α) → Nat → List (Nat × α)
  | [], _ => []
  | (j, v) :: t, k => if j = k then Tab.del t k else (j, v) :: Tab.del t k

/-- Insertion in key order, for a key that is not listed. -/
def Tab.ins {α : Type} : List (Nat × α) → Nat → α → List (Nat × α)
  | [], k, x => [(k, x)]
  | (j, v) :: t, k, x => if k < j then (k, x) :: (j, v) :: t else (j, v) :: Tab.ins t k x

/-- The table with `k` reading `x`; writing what an unlisted key reads as removes the entry. -/
def Tab.put {α : Type} [DecidableEq α] (d : Nat → α) (t : List (Nat × α)) (k : Nat) (x : α) :
    List (Nat × α) :=
  if x = d k then Tab.del t k else Tab.ins (Tab.del t k) k x

/-- The canonical form of a table. -/
def Tab.wf {α : Type} [DecidableEq α] (d : Nat → α) : List (Nat × α) → Bool
  | [] => true
  | [(k, v)] => decide (v ≠ d k)
  | (k, v) :: (j, w) :: t => decide (v ≠ d k) && decide (k < j) && Tab.wf d ((j, w) :: t)

/-- Keys listed in a table for which `p` holds are dropped (they read as unlisted again). -/
def Tab.drop {α : Type} (p : Nat → Bool) (t : List (Nat × α)) : List (Nat × α) :=
  t.filter (fun e => !p e.1)

/-- `n` numbers from `a`. -/
def upFrom (a n : Nat) : List Nat := (List.range n).map (a + ·)

/-- The position of the first element for which `p` holds. -/
def findIdx {α : Type} (p : α → Bool) (l : List α) : Option Nat := l.findIdx? p

/-- The first `n` of `a, a+1, … a+len-1` for which `p` holds. -/
def firstFrom (p : Nat → Bool) : Nat → Nat → Option Nat
  | 0, _ => none
  | n + 1, a => if p a then some a else firstFrom p n (a + 1)

end Sys2Proof.Machine
end

