-- ==== Sys2Proof/Machine/Crypto.lean ====
section
/-!
DEFINITION. The algorithms that the manual names by their standards (05_sessions_and_cipher.md
Table 4; 12_guard.md R369): AES, its modes, RFC 3394, SHA-256 and SHA-384, HMAC, the two
derivations, the curves P-256 and P-384, CRC-32 and CRC-16.  The manual gives the names; the
algorithms are those of the standards (PRESUMED, log entry 20).
-/
namespace Sys2Proof.Machine

/-! ### AES -/

/-- The substitution table of AES: row h holds, first byte on the left, the images of h0 to hF. -/
def aesSbox : List Nat :=
  [0x637C777BF26B6FC53001672BFED7AB76, 0xCA82C97DFA5947F0ADD4A2AF9CA472C0,
   0xB7FD9326363FF7CC34A5E5F171D83115, 0x04C723C31896059A071280E2EB27B275,
   0x09832C1A1B6E5AA0523BD6B329E32F84, 0x53D100ED20FCB15B6ACBBE394A4C58CF,
   0xD0EFAAFB434D338545F9027F503C9FA8, 0x51A3408F929D38F5BCB6DA2110FFF3D2,
   0xCD0C13EC5F974417C4A77E3D645D1973, 0x60814FDC222A908846EEB814DE5E0BDB,
   0xE0323A0A4906245CC2D3AC629195E479, 0xE7C8376D8DD54EA96C56F4EA657AAE08,
   0xBA78252E1CA6B4C6E8DD741F4BBD8B8A, 0x703EB5664803F60E613557B986C11D9E,
   0xE1F8981169D98E949B1E87E9CE5528DF, 0x8CA1890DBFE6426841992D0FB054BB16]

/-- The inverse substitution table of AES, in the same form. -/
def aesInvSbox : List Nat :=
  [0x52096AD53036A538BF40A39E81F3D7FB, 0x7CE339829B2FFF87348E4344C4DEE9CB,
   0x547B9432A6C2233DEE4C950B42FAC34E, 0x082EA16628D924B2765BA2496D8BD125,
   0x72F8F66486689816D4A45CCC5D65B692, 0x6C704850FDEDB9DA5E154657A78D9D84,
   0x90D8AB008CBCD30AF7E45805B8B34506, 0xD02C1E8FCA3F0F02C1AFBD0301138A6B,
   0x3A9111414F67DCEA97F2CFCEF0B4E673, 0x96AC7422E7AD3585E2F937E81C75DF6E,
   0x47F11A711D29C5896FB7620EAA18BE1B, 0xFC563E4BC6D279209ADBC0FE78CD5AF4,
   0x1FDDA8338807C731B11210592780EC5F, 0x60517FA919B54A0D2DE57A9F93C99CEF,
   0xA0E03B4DAE2AF5B0C8EBBB3C83539961, 0x172B047EBA77D626E169146355210C7D]

/-- The byte that stands in such a table for `b`. -/
def tableByte (rows : List Nat) (b : Byte) : Byte :=
  BitVec.ofNat 8 (rows.getD (b.toNat / 16) 0 / 256 ^ (15 - b.toNat % 16))

/-- Substitution of one byte. -/
def subByte (b : Byte) : Byte := tableByte aesSbox b

/-- Inverse substitution of one byte. -/
def invSubByte (b : Byte) : Byte := tableByte aesInvSbox b

/-- Multiplication by x in the field of AES. -/
def xtime (b : Byte) : Byte := (b <<< 1) ^^^ (if b.msb then 0x1B else 0)

/-- Product with a small constant, by its bits. -/
def gmul (k : Nat) (b : Byte) : Byte :=
  (if bitOf k 0 then b else 0) ^^^ (if bitOf k 1 then xtime b else 0) ^^^
  (if bitOf k 2 then xtime (xtime b) else 0) ^^^ (if bitOf k 3 then xtime (xtime (xtime b)) else 0)

/-- Words of a key schedule of `nk` key words, newest first; `n` more are to come. -/
def aesExpand (nk : Nat) : Nat → Byte → List (List Byte) → List (List Byte)
  | 0, _, ws => ws
  | n + 1, rc, ws =>
    let i := ws.length
    let prev := ws.headD []
    let back := ws.getD (nk - 1) []
    if i % nk = 0 then
      let t := (prev.drop 1 ++ prev.take 1).map subByte
      aesExpand nk n (xtime rc) (xorBytes back (xorBytes t [rc, 0, 0, 0]) :: ws)
    else if nk = 8 ∧ i % nk = 4 then aesExpand nk n rc (xorBytes back (prev.map subByte) :: ws)
    else aesExpand nk n rc (xorBytes back prev :: ws)

/-- The list cut into pieces of `k`; `n` bounds their number. -/
def chunks {α : Type} (k : Nat) : Nat → List α → List (List α)
  | 0, _ => []
  | n + 1, l => if l.isEmpty then [] else l.take k :: chunks k n (l.drop k)

/-- Pieces of `k`, all of them. -/
def pieces {α : Type} (k : Nat) (l : List α) : List (List α) := chunks k (l.length) l

/-- Round keys of a 16- or 32-byte key, first round first. -/
def aesKeys (key : List Byte) : List (List Byte) :=
  let nk := key.length / 4
  let ws := aesExpand nk (4 * (nk + 7) - nk) 1 (pieces 4 key).reverse
  (pieces 4 ws.reverse).map List.flatten

/-- The state with row r rotated by r places, left for `dir` 1 and right for 3. -/
def shiftRows (dir : Nat) (s : List Byte) : List Byte :=
  (List.range 16).map fun i => s.getD ((i + 4 * dir * (i % 4)) % 16) 0

/-- One column times the circulant of `m`. -/
def mixColumn (m : List Nat) (c : List Byte) : List Byte :=
  (List.range 4).map fun r => (List.range 4).foldl (fun a j =>
    a ^^^ gmul (m.getD ((j + 4 - r) % 4) 0) (c.getD j 0)) 0

/-- All four columns. -/
def mixColumns (m : List Nat) (s : List Byte) : List Byte := (pieces 4 s).flatMap (mixColumn m)

/-- AES of one block. -/
def aesEnc (key block : List Byte) : List Byte :=
  let ks := aesKeys key
  let n := ks.length - 1
  let s := (upFrom 1 (n - 1)).foldl (fun s r =>
    xorBytes (mixColumns [2, 3, 1, 1] (shiftRows 1 (s.map subByte))) (ks.getD r [])) (xorBytes block (ks.headD []))
  xorBytes (shiftRows 1 (s.map subByte)) (ks.getD n [])

/-- Inverse AES of one block. -/
def aesDec (key block : List Byte) : List Byte :=
  let ks := aesKeys key
  let n := ks.length - 1
  let s := (upFrom 1 (n - 1)).reverse.foldl (fun s r =>
    mixColumns [14, 11, 13, 9] (xorBytes ((shiftRows 3 s).map invSubByte) (ks.getD r []))) (xorBytes block (ks.getD n []))
  xorBytes ((shiftRows 3 s).map invSubByte) (ks.headD [])

/-! ### Modes -/

/-- ECB. -/
def ecb (f : List Byte → List Byte) (data : List Byte) : List Byte := (pieces 16 data).flatMap f

/-- CBC encryption. -/
def cbcEnc (key iv data : List Byte) : List Byte :=
  ((pieces 16 data).foldl (fun (acc : List Byte × List Byte) b =>
    let x := aesEnc key (xorBytes acc.1 b)
    (x, acc.2 ++ x)) (iv, [])).2

/-- CBC decryption. -/
def cbcDec (key iv data : List Byte) : List Byte :=
  ((pieces 16 data).foldl (fun (acc : List Byte × List Byte) b =>
    (b, acc.2 ++ xorBytes acc.1 (aesDec key b))) (iv, [])).2

/-- CTR, the counter block counting modulo 2^`w` in its last `w / 8` bytes. -/
def ctr (w : Nat) (key ctr0 data : List Byte) : List Byte :=
  let base := beVal ctr0
  ((pieces 16 data).mapIdx fun i b =>
    let blk := base / 2 ^ w * 2 ^ w + (base + i) % 2 ^ w
    xorBytes b (aesEnc key (beBytes 16 blk))).flatten

/-- Zero-filled to a multiple of 16. -/
def pad16 (b : List Byte) : List Byte := b ++ List.replicate ((16 - b.length % 16) % 16) 0

/-- Product in the field of GCM, by the bits of `x` from the first. -/
def ghMul (x y : Nat) : Nat :=
  ((List.range 128).foldl (fun (zv : Nat × Nat) i =>
    let z := if x.testBit (127 - i) then zv.1 ^^^ zv.2 else zv.1
    let v := if zv.2 % 2 = 1 then (zv.2 / 2) ^^^ (0xE1 * 2 ^ 120) else zv.2 / 2
    (z, v)) (0, y)).1

/-- GHASH of whole blocks. -/
def ghash (h : Nat) (data : List Byte) : Nat :=
  (pieces 16 data).foldl (fun a b => ghMul (a ^^^ beVal b) h) 0

/-- The tag of GCM over AAD and ciphertext with a 12-byte IV. -/
def gcmTag (key iv aad ct : List Byte) : List Byte :=
  let h := beVal (aesEnc key (List.replicate 16 0))
  let s := ghash h (pad16 aad ++ pad16 ct ++ beBytes 8 (8 * aad.length) ++ beBytes 8 (8 * ct.length))
  xorBytes (beBytes 16 s) (aesEnc key (iv ++ [0, 0, 0, 1]))

/-- The data of GCM in either direction. -/
def gcmData (key iv data : List Byte) : List Byte := ctr 32 key (iv ++ [0, 0, 0, 2]) data

/-- The last block of a CBC-MAC. -/
def cbcMac (key data : List Byte) : List Byte :=
  (pieces 16 data).foldl (fun a b => aesEnc key (xorBytes a b)) (List.replicate 16 0)

/-- The untruncated CCM* tag: nonce of 13 bytes, a 2-byte length field. -/
def ccmMac (key nonce aad data : List Byte) (m : Nat) : List Byte :=
  let flags := (if aad = [] then 0 else 64) + (if m = 0 then 0 else (m - 2) / 2 * 8) + 1
  let b0 := beBytes 1 flags ++ nonce ++ beBytes 2 data.length
  let a := if aad = [] then [] else
    if aad.length < 0xFF00 then beBytes 2 aad.length ++ aad
    else [0xFF, 0xFE] ++ beBytes 4 aad.length ++ aad
  cbcMac key (b0 ++ pad16 a ++ pad16 data)

/-- The data of CCM* in either direction, counter from 1. -/
def ccmData (key nonce data : List Byte) : List Byte := ctr 16 key ([1] ++ nonce ++ [0, 1]) data

/-- A CCM* tag encrypted or decrypted under counter 0. -/
def ccmTag (key nonce mac : List Byte) : List Byte := xorBytes mac (aesEnc key ([1] ++ nonce ++ [0, 0]))

/-- Doubling of a CMAC subkey. -/
def cmacDouble (b : List Byte) : List Byte :=
  let v := beVal b
  beBytes 16 ((2 * v % 2 ^ 128) ^^^ (if v.testBit 127 then 0x87 else 0))

/-- AES-CMAC. -/
def cmac (key data : List Byte) : List Byte :=
  let k1 := cmacDouble (aesEnc key (List.replicate 16 0))
  let n := (data.length - 1) / 16 * 16
  let last := data.drop n
  let tail := if last.length = 16 then xorBytes last k1
    else xorBytes (padTo 16 (last ++ [0x80])) (cmacDouble k1)
  cbcMac key (data.take n ++ tail)

/-- One step of RFC 3394 wrap over register `r.i`. -/
def wrapStep (key : List Byte) (n : Nat) (s : List Byte × List (List Byte)) (t : Nat) :
    List Byte × List (List Byte) :=
  let i := t % n
  let b := aesEnc key (s.1 ++ s.2.getD i [])
  (xorBytes (b.take 8) (beBytes 8 (t + 1)), s.2.set i (b.drop 8))

/-- RFC 3394 wrap. -/
def keyWrap (key data : List Byte) : List Byte :=
  let r := pieces 8 data
  let s := (List.range (6 * r.length)).foldl (wrapStep key r.length) (List.replicate 8 0xA6, r)
  s.1 ++ s.2.flatten

/-- One step of RFC 3394 unwrap. -/
def unwrapStep (key : List Byte) (n : Nat) (s : List Byte × List (List Byte)) (t : Nat) :
    List Byte × List (List Byte) :=
  let i := t % n
  let b := aesDec key (xorBytes s.1 (beBytes 8 (t + 1)) ++ s.2.getD i [])
  (b.take 8, s.2.set i (b.drop 8))

/-- RFC 3394 unwrap; none where the integrity check fails. -/
def keyUnwrap (key data : List Byte) : Option (List Byte) :=
  let r := (pieces 8 data).drop 1
  let s := (List.range (6 * r.length)).reverse.foldl (unwrapStep key r.length) (data.take 8, r)
  if s.1 = List.replicate 8 0xA6 then some s.2.flatten else none

/-! ### Hashes -/

/-- Round constants of SHA-256. -/
def k256 : List (BitVec 32) :=
  [0x428A2F98, 0x71374491, 0xB5C0FBCF, 0xE9B5DBA5, 0x3956C25B, 0x59F111F1, 0x923F82A4, 0xAB1C5ED5,
   0xD807AA98, 0x12835B01, 0x243185BE, 0x550C7DC3, 0x72BE5D74, 0x80DEB1FE, 0x9BDC06A7, 0xC19BF174,
   0xE49B69C1, 0xEFBE4786, 0x0FC19DC6, 0x240CA1CC, 0x2DE92C6F, 0x4A7484AA, 0x5CB0A9DC, 0x76F988DA,
   0x983E5152, 0xA831C66D, 0xB00327C8, 0xBF597FC7, 0xC6E00BF3, 0xD5A79147, 0x06CA6351, 0x14292967] ++
  [0x27B70A85, 0x2E1B2138, 0x4D2C6DFC, 0x53380D13, 0x650A7354, 0x766A0ABB, 0x81C2C92E, 0x92722C85,
   0xA2BFE8A1, 0xA81A664B, 0xC24B8B70, 0xC76C51A3, 0xD192E819, 0xD6990624, 0xF40E3585, 0x106AA070,
   0x19A4C116, 0x1E376C08, 0x2748774C, 0x34B0BCB5, 0x391C0CB3, 0x4ED8AA4A, 0x5B9CCA4F, 0x682E6FF3,
   0x748F82EE, 0x78A5636F, 0x84C87814, 0x8CC70208, 0x90BEFFFA, 0xA4506CEB, 0xBEF9A3F7, 0xC67178F2]

/-- Round constants of SHA-384. -/
def k512 : List (BitVec 64) :=
  [0x428A2F98D728AE22, 0x7137449123EF65CD, 0xB5C0FBCFEC4D3B2F, 0xE9B5DBA58189DBBC,
   0x3956C25BF348B538, 0x59F111F1B605D019, 0x923F82A4AF194F9B, 0xAB1C5ED5DA6D8118,
   0xD807AA98A3030242, 0x12835B0145706FBE, 0x243185BE4EE4B28C, 0x550C7DC3D5FFB4E2,
   0x72BE5D74F27B896F, 0x80DEB1FE3B1696B1, 0x9BDC06A725C71235, 0xC19BF174CF692694] ++
  [0xE49B69C19EF14AD2, 0xEFBE4786384F25E3, 0x0FC19DC68B8CD5B5, 0x240CA1CC77AC9C65,
   0x2DE92C6F592B0275, 0x4A7484AA6EA6E483, 0x5CB0A9DCBD41FBD4, 0x76F988DA831153B5,
   0x983E5152EE66DFAB, 0xA831C66D2DB43210, 0xB00327C898FB213F, 0xBF597FC7BEEF0EE4,
   0xC6E00BF33DA88FC2, 0xD5A79147930AA725, 0x06CA6351E003826F, 0x142929670A0E6E70] ++
  [0x27B70A8546D22FFC, 0x2E1B21385C26C926, 0x4D2C6DFC5AC42AED, 0x53380D139D95B3DF,
   0x650A73548BAF63DE, 0x766A0ABB3C77B2A8, 0x81C2C92E47EDAEE6, 0x92722C851482353B,
   0xA2BFE8A14CF10364, 0xA81A664BBC423001, 0xC24B8B70D0F89791, 0xC76C51A30654BE30,
   0xD192E819D6EF5218, 0xD69906245565A910, 0xF40E35855771202A, 0x106AA07032BBD1B8] ++
  [0x19A4C116B8D2D0C8, 0x1E376C085141AB53, 0x2748774CDF8EEB99, 0x34B0BCB5E19B48A8,
   0x391C0CB3C5C95A63, 0x4ED8AA4AE3418ACB, 0x5B9CCA4F7763E373, 0x682E6FF3D6B2B8A3,
   0x748F82EE5DEFB2FC, 0x78A5636F43172F60, 0x84C87814A1F0AB72, 0x8CC702081A6439EC,
   0x90BEFFFA23631E28, 0xA4506CEBDE82BDE9, 0xBEF9A3F7B2C67915, 0xC67178F2E372532B] ++
  [0xCA273ECEEA26619C, 0xD186B8C721C0C207, 0xEADA7DD6CDE0EB1E, 0xF57D4F7FEE6ED178,
   0x06F067AA72176FBA, 0x0A637DC5A2C898A6, 0x113F9804BEF90DAE, 0x1B710B35131C471B,
   0x28DB77F523047D84, 0x32CAAB7B40C72493, 0x3C9EBE0A15C9BEBC, 0x431D67C49C100D4C,
   0x4CC5D4BECB3E42B6, 0x597F299CFC657E2A, 0x5FCB6FAB3AD6FAEC, 0x6C44198C4A475817]

/-- Initial value of SHA-256. -/
def h256 : List (BitVec 32) :=
  [0x6A09E667, 0xBB67AE85, 0x3C6EF372, 0xA54FF53A, 0x510E527F, 0x9B05688C, 0x1F83D9AB, 0x5BE0CD19]

/-- Initial value of SHA-384. -/
def h384 : List (BitVec 64) :=
  [0xCBBB9D5DC1059ED8, 0x629A292A367CD507, 0x9159015A3070DD17, 0x152FECD8F70E5939,
   0x67332667FFC00B31, 0x8EB44A8768581511, 0xDB0C2E0D64F98FA7, 0x47B5481DBEFA4FA4]

/-- Rotation amounts and shifts of a member of SHA-2: Σ0, Σ1, then σ0, σ1 with their shift. -/
structure ShaSpec (w : Nat) where
  big0 : Nat × Nat × Nat
  big1 : Nat × Nat × Nat
  small0 : Nat × Nat × Nat
  small1 : Nat × Nat × Nat
  k : List (BitVec w)

/-- SHA-256. -/
def spec256 : ShaSpec 32 := ⟨(2, 13, 22), (6, 11, 25), (7, 18, 3), (17, 19, 10), k256⟩

/-- SHA-384 and its family. -/
def spec512 : ShaSpec 64 := ⟨(28, 34, 39), (14, 18, 41), (1, 8, 7), (19, 61, 6), k512⟩

/-- Three rotations. -/
def rot3 {w : Nat} (r : Nat × Nat × Nat) (x : BitVec w) : BitVec w :=
  x.rotateRight r.1 ^^^ x.rotateRight r.2.1 ^^^ x.rotateRight r.2.2

/-- Two rotations and a shift. -/
def rot2s {w : Nat} (r : Nat × Nat × Nat) (x : BitVec w) : BitVec w :=
  x.rotateRight r.1 ^^^ x.rotateRight r.2.1 ^^^ (x >>> r.2.2)

/-- The message schedule, newest word first; `n` more words are to come. -/
def shaSched {w : Nat} (p : ShaSpec w) : Nat → List (BitVec w) → List (BitVec w)
  | 0, ws => ws
  | n + 1, ws => shaSched p n
      ((rot2s p.small1 (ws.getD 1 0) + ws.getD 6 0 + rot2s p.small0 (ws.getD 14 0) + ws.getD 15 0) :: ws)

/-- One round on the eight working words. -/
def shaRound {w : Nat} (p : ShaSpec w) (v : List (BitVec w)) (kw : BitVec w × BitVec w) :
    List (BitVec w) :=
  match v with
  | [a, b, c, d, e, f, g, h] =>
    let t1 := h + rot3 p.big1 e + ((e &&& f) ^^^ (~~~e &&& g)) + kw.1 + kw.2
    let t2 := rot3 p.big0 a + ((a &&& b) ^^^ (a &&& c) ^^^ (b &&& c))
    [t1 + t2, a, b, c, d + t1, e, f, g]
  | _ => v

/-- Compression of one block. -/
def shaBlock {w : Nat} (p : ShaSpec w) (h : List (BitVec w)) (blk : List Byte) : List (BitVec w) :=
  let m := (pieces (w / 8) blk).map fun b => BitVec.ofNat w (beVal b)
  let ws := (shaSched p (p.k.length - 16) m.reverse).reverse
  List.zipWith (· + ·) h ((p.k.zip ws).foldl (shaRound p) h)

/-- Padding of a message for blocks of `b` bytes. -/
def shaPad (b : Nat) (m : List Byte) : List Byte :=
  m ++ [0x80] ++ List.replicate ((2 * b - 1 - b / 8 - m.length % b) % b) 0 ++ beBytes (b / 8) (8 * m.length)

/-- SHA-256. -/
def sha256 (m : List Byte) : List Byte :=
  ((pieces 64 (shaPad 64 m)).foldl (shaBlock spec256) h256).flatMap fun w => beBytes 4 w.toNat

/-- SHA-384. -/
def sha384 (m : List Byte) : List Byte :=
  ((((pieces 128 (shaPad 128 m)).foldl (shaBlock spec512) h384).take 6).flatMap fun w => beBytes 8 w.toNat)

/-- HMAC with a hash of block size `b`. -/
def hmacOf (h : List Byte → List Byte) (b : Nat) (key m : List Byte) : List Byte :=
  let k := padTo b (if key.length ≤ b then key else h key)
  h (k.map (· ^^^ 0x5C) ++ h (k.map (· ^^^ 0x36) ++ m))

/-- HMAC-SHA-256. -/
def hmac256 : List Byte → List Byte → List Byte := hmacOf sha256 64

/-- HMAC-SHA-384. -/
def hmac384 : List Byte → List Byte → List Byte := hmacOf sha384 128

/-- The counter-mode construction of R155 and 12 R369: PRF(K, [i]32 ‖ F), truncated to `l` bytes. -/
def counterKdf (wide : Bool) (key f : List Byte) (l : Nat) : List Byte :=
  ((upFrom 1 (l / (if wide then 48 else 32) + 1)).flatMap fun i =>
    (if wide then hmac384 else hmac256) key (beBytes 4 i ++ f)).take l

/-- The single-step construction of R155. -/
def singleStepKdf (wide : Bool) (key f : List Byte) (l : Nat) : List Byte :=
  ((if wide then sha384 else sha256) (beBytes 4 1 ++ key ++ f)).take l

/-! ### Curves -/

/-- A prime-field curve y² = x³ − 3x + b with its group order, generator and scalar bytes. -/
structure Curve where
  p : Nat
  b : Nat
  n : Nat
  gx : Nat
  gy : Nat
  bytes : Nat
  deriving DecidableEq, Repr

/-- P-256. -/
def curve256 : Curve :=
  { p := 0xFFFFFFFF00000001000000000000000000000000FFFFFFFFFFFFFFFFFFFFFFFF
    b := 0x5AC635D8AA3A93E7B3EBBD55769886BC651D06B0CC53B0F63BCE3C3E27D2604B
    n := 0xFFFFFFFF00000000FFFFFFFFFFFFFFFFBCE6FAADA7179E84F3B9CAC2FC632551
    gx := 0x6B17D1F2E12C4247F8BCE6E563A440F277037D812DEB33A0F4A13945D898C296
    gy := 0x4FE342E2FE1A7F9B8EE7EB4A7C0F9E162BCE33576B315ECECBB6406837BF51F5
    bytes := 32 }

/-- P-384. -/
def curve384 : Curve :=
  { p := 0xFFFFFFFFFFFFFFFFFFFFFFFFFFFFFFFFFFFFFFFFFFFFFFFFFFFFFFFFFFFFFFFEFFFFFFFF0000000000000000FFFFFFFF
    b := 0xB3312FA7E23EE7E4988E056BE3F82D19181D9C6EFE8141120314088F5013875AC656398D8A2ED19D2A85C8EDD3EC2AEF
    n := 0xFFFFFFFFFFFFFFFFFFFFFFFFFFFFFFFFFFFFFFFFFFFFFFFFC7634D81F4372DDF581A0DB248B0A77AECEC196ACCC52973
    gx := 0xAA87CA22BE8B05378EB1C71EF320AD746E1D3B628BA79B9859F741E082542A385502F25DBF55296C3A545E3872760AB7
    gy := 0x3617DE4A96262C6F5D9E98BF9292DC29F8F41DBD289A147CE9DA3113B5F0B8C00A60B1CE1D7E819D7A431D7C90EA0E5F
    bytes := 48 }

/-- Power modulo `m`; `n` bounds the bits of the exponent. -/
def powMod (m : Nat) : Nat → Nat → Nat → Nat
  | 0, _, _ => 1 % m
  | n + 1, b, e =>
    let h := powMod m n (b * b % m) (e / 2)
    if e % 2 = 1 then h * b % m else h

/-- Inverse modulo a prime of at most 384 bits. -/
def invMod (m x : Nat) : Nat := powMod m 384 (x % m) (m - 2)

/-- Sum of two points; none is the point at infinity. -/
def Curve.add (c : Curve) (s t : Option (Nat × Nat)) : Option (Nat × Nat) :=
  match s, t with
  | none, q => q
  | q, none => q
  | some (x1, y1), some (x2, y2) =>
    if x1 = x2 ∧ (y1 + y2) % c.p = 0 then none
    else
      let l := if x1 = x2 then (3 * x1 * x1 + (c.p - 3)) % c.p * invMod c.p (2 * y1) % c.p
        else (y2 + c.p - y1) % c.p * invMod c.p (x2 + c.p - x1) % c.p
      let x3 := (l * l + 2 * c.p - x1 - x2) % c.p
      some (x3, (l * (x1 + c.p - x3) + (c.p - y1)) % c.p)

/-- A multiple of a point; `n` bounds the bits of the scalar. -/
def Curve.mul (c : Curve) : Nat → Nat → Option (Nat × Nat) → Option (Nat × Nat)
  | 0, _, _ => none
  | n + 1, k, q =>
    let r := c.mul n (k / 2) (c.add q q)
    if k % 2 = 1 then c.add r q else r

/-- The generator. -/
def Curve.gen (c : Curve) : Option (Nat × Nat) := some (c.gx, c.gy)

/-- Whether a point lies on the curve, with both coordinates reduced. -/
def Curve.onCurve (c : Curve) (x y : Nat) : Bool :=
  decide (x < c.p) && decide (y < c.p) &&
    decide (y * y % c.p = (x * x * x + (c.p - 3) * x + c.b) % c.p)

/-- Whether a scalar is valid. -/
def Curve.scalarOk (c : Curve) (k : Nat) : Bool := decide (0 < k) && decide (k < c.n)

/-- A digest as an integer truncated to the bit length of the order (R159). -/
def Curve.digestVal (c : Curve) (d : List Byte) : Nat := beVal (d.take c.bytes)

/-- The ECDSA signature of a digest with nonce `k`. -/
def Curve.sign (c : Curve) (key k : Nat) (digest : List Byte) : List Byte :=
  let r := ((c.mul 384 k c.gen).getD (0, 0)).1 % c.n
  let s := invMod c.n k * ((c.digestVal digest + r * key) % c.n) % c.n
  beBytes c.bytes r ++ beBytes c.bytes s

/-- Whether an ECDSA signature verifies. -/
def Curve.verify (c : Curve) (x y : Nat) (digest sig : List Byte) : Bool :=
  let r := beVal (slice sig 0 c.bytes)
  let s := beVal (slice sig c.bytes c.bytes)
  c.scalarOk r && c.scalarOk s &&
    (let w := invMod c.n s
     match c.add (c.mul 384 (c.digestVal digest * w % c.n) c.gen)
        (c.mul 384 (r * w % c.n) (some (x, y))) with
     | none => false
     | some (vx, _) => decide (vx % c.n = r))

/-! ### Checks -/

/-- One bit of a reflected CRC. -/
def crcBit (poly c : Nat) : Nat := if c % 2 = 1 then (c / 2) ^^^ poly else c / 2

/-- Eight bits of a reflected CRC. -/
def crcByte (poly c : Nat) (b : Byte) : Nat :=
  (List.range 8).foldl (fun c _ => crcBit poly c) (c ^^^ b.toNat)

/-- CRC-32 with the IEEE 802.3 polynomial, initial 0xFFFF_FFFF, final complement (R137). -/
def crc32 (bs : List Byte) : Nat := bs.foldl (crcByte 0xEDB88320) 0xFFFFFFFF ^^^ 0xFFFFFFFF

/-- CRC-16 of 00_scope.md R489. -/
def crc16 (bs : List Byte) : Nat :=
  bs.foldl (fun c b => (List.range 8).foldl (fun c _ =>
    if c.testBit 15 then (2 * c % 65536) ^^^ 0x1021 else 2 * c) (c ^^^ (b.toNat * 256))) 0xFFFF

end Sys2Proof.Machine
end

