-- ==== Sys2Proof/Config.lean ====
section
/-!
DEFINITION. What the manual leaves open: values it says exist but does not fix. None has a
body, so no proof can see one; a claim about a step that uses one holds whatever it is.
Each is applied to a plain counter that State holds (`freeCtr`), advanced at every use, or to what it
depends on.
-/
namespace Sys2Proof.Config

/-- A byte the manual does not fix: output of the random bit generator and of the entropy
source (R153, R381), key masks (R146), the root secret and PUF response (R366), contents of
DRAM that were lost (R358). The argument is the number of free bytes used before it. -/
opaque freeByte : Nat → Byte

/-- A prepayment credit whose exact value lies outside its 64-bit format (09_legal_partition.md
Table 10 gives the format, no rule says what an account then holds). The argument is the exact
value. -/
opaque creditBeyond : Int → BitVec 64

/-- What the check bits of a 64-bit DRAM word show to a block that reads it at a network time: the error that has
come upon the word since, or none (11_host_rings_and_cluster.md R359; log entry 17). -/
opaque dramEcc : BitVec 64 → Nat → Ecc

/-- The gain at which the automatic control of an input stands before any frame, by the noise floor
(02_line_modem_array.md R37; log entry 1). -/
opaque idleGain : Nat → Nat

/-- The Ethernet address of a node of the chain (13_update_and_tinder.md R402; log entry 51). -/
opaque nodeMac : Nat → BitVec 48

/-- The signature that the Kiln's ROM holds for a partition and a segment (15 R434). -/
opaque kilnSig : Nat → Nat → Word

/-- The share of a partition's modelled faults that a segment detects first, in 0.01 % (15 R435). -/
opaque kilnShare : Nat → Nat → Nat

end Sys2Proof.Config
end

