-- ==== Sys2Proof/Machine/Regs.lean ====
section
/-!
DEFINITION. The register file's map: the offset of every configuration-space register under
the manual's own name, and for each its reset value and which bits each access code of
00_scope.md R8 covers.  An offset is relative to 0x00_F000_0000, so that it is also the
register's BAR0 offset (R7): block b begins at b * 0x0010_0000.  Written from the register
tables of the chapters named before each group.
-/
namespace Sys2Proof.Machine.Reg


/-! 00_scope.md, Table 2. -/
def GRD_DEV_ID : Nat := 0xA00000

/-! 01_architecture.md, Table 11. -/
def CRP_NRG_CTRL : Nat := 0xB00400

/-! 01_architecture.md, Table 12. -/
def CRP_NRG_CNT (n : Nat) : Nat := 0xB00408 + 0x8 * n
def CRP_NRG_RDG : Nat := 0xB00468
def CRP_NRG_CNT_HI (n : Nat) : Nat := 0xB0040C + 8 * n
def CRP_NRG_RDG_HI : Nat := 0xB0046C

/-! 02_line_modem_array.md, Table 12. -/
def LMA_LANE_CFG (n : Nat) : Nat := 0x200100 + 0x10 * n

/-! 02_line_modem_array.md, Table 13. -/
def LMA_TX_CFG (n : Nat) : Nat := 0x200040 + 0x4 * n

/-! 02_line_modem_array.md, Table 14. -/
def LMA_PH_CFG : Nat := 0x200600

/-! 02_line_modem_array.md, Table 15. -/
def LMA_PQ_CTRL : Nat := 0x200700

/-! 02_line_modem_array.md, Table 16. -/
def LMA_ID : Nat := 0x200000
def LMA_STATUS : Nat := 0x200004
def LMA_CTRL : Nat := 0x200010
def LMA_IN_CFG (n : Nat) : Nat := 0x200020 + 0x4 * n
def LMA_ZC_COMP (n : Nat) : Nat := 0x200030 + 0x4 * n
def LMA_ZC_PERIOD : Nat := 0x20003C
def LMA_DET_CFG : Nat := 0x200050
def LMA_PB_LO : Nat := 0x200060
def LMA_PB_HI : Nat := 0x200064
def LMA_PB_FREE : Nat := 0x200068
def LMA_PB_AVAIL : Nat := 0x20006C
def LMA_LANE_STAT (n : Nat) : Nat := 0x200104 + 0x10 * n
def LMA_LANE_SNR (n : Nat) : Nat := 0x200108 + 0x10 * n
def LMA_LANE_OK (n : Nat) : Nat := 0x200300 + 0x10 * n
def LMA_LANE_HCSF (n : Nat) : Nat := 0x200304 + 0x10 * n
def LMA_LANE_RSF (n : Nat) : Nat := 0x200308 + 0x10 * n
def LMA_LANE_ABAN (n : Nat) : Nat := 0x20030C + 0x10 * n
def LMA_DET_MISS (n : Nat) : Nat := 0x200480 + 0x4 * n
def LMA_PH_LOAD : Nat := 0x200604
def LMA_PH_INDEX : Nat := 0x200608
def LMA_PH_DATA : Nat := 0x20060C
def LMA_PH_AMBIG : Nat := 0x200610
def LMA_PQ_LEVEL : Nat := 0x200704
def LMA_PQ_DROP : Nat := 0x200708
def LMA_PQ_DATA : Nat := 0x20070C
def LMA_TXQ_BASE_LO (n : Nat) : Nat := 0x200800 + 0x10 * n
def LMA_TXQ_BASE_HI (n : Nat) : Nat := 0x200804 + 0x10 * n
def LMA_TXQ_PI (n : Nat) : Nat := 0x200808 + 0x10 * n
def LMA_TXQ_CI (n : Nat) : Nat := 0x20080C + 0x10 * n

/-! 03_line_network.md, Table 8. -/
def LMA_CELL_CFG (n : Nat) : Nat := 0x202000 + 0x20 * n

/-! 03_line_network.md, Table 9. -/
def LMA_NET_CTRL : Nat := 0x202400

/-! 03_line_network.md, Table 10. -/
def LMA_CELL_BOFS (n : Nat) : Nat := 0x202004 + 0x20 * n
def LMA_CELL_CAP (n : Nat) : Nat := 0x202008 + 0x20 * n
def LMA_CELL_STAT (n : Nat) : Nat := 0x20200C + 0x20 * n
def LMA_CELL_MISS (n : Nat) : Nat := 0x202010 + 0x20 * n
def LMA_CELL_SKIP (n : Nat) : Nat := 0x202014 + 0x20 * n
def LMA_CELL_FOREIGN (n : Nat) : Nat := 0x202018 + 0x20 * n
def LMA_CELL_NOISE (n : Nat) : Nat := 0x20201C + 0x20 * n
def LMA_NET_STATUS : Nat := 0x202404
def LMA_MTAB0 : Nat := 0x202410
def LMA_MTAB1 : Nat := 0x202414
def LMA_RT_OFFER : Nat := 0x202420
def LMA_RT_OFFER_LINK : Nat := 0x202424
def LMA_RT_RESULT : Nat := 0x202428
def LMA_RT_LOSS : Nat := 0x20242C
def LMA_NET_DUP : Nat := 0x202430
def LMA_NET_ACKSKIP : Nat := 0x202434
def LMA_NET_ATTRIB : Nat := 0x202438

/-! 03_line_network.md, Table 7. -/
def RT_WORD (d : Nat) (w : Nat) : Nat := 0x280000 + 0x10 * d + 4 * w

/-! 04_air_units.md, Table 12. -/
def AIR_MAC_CFG (u : Nat) : Nat := 0x300014 + 0x80000 * u

/-! 04_air_units.md, Table 13. -/
def AIR_GUARD (u : Nat) : Nat := 0x300040 + 0x80000 * u

/-! 04_air_units.md, Table 14. -/
def AIR_ID (u : Nat) : Nat := 0x300000 + 0x80000 * u
def AIR_STATUS (u : Nat) : Nat := 0x300004 + 0x80000 * u
def AIR_MAC_CTRL (u : Nat) : Nat := 0x300010 + 0x80000 * u
def AIR_TS_LEN (u : Nat) : Nat := 0x300020 + 0x80000 * u
def AIR_TS_TXOFS (u : Nat) : Nat := 0x300024 + 0x80000 * u
def AIR_TS_ACK (u : Nat) : Nat := 0x300028 + 0x80000 * u
def AIR_EPOCH_LO (u : Nat) : Nat := 0x300030 + 0x80000 * u
def AIR_EPOCH_HI (u : Nat) : Nat := 0x300034 + 0x80000 * u
def AIR_ASN_LO (u : Nat) : Nat := 0x300038 + 0x80000 * u
def AIR_ASN_HI (u : Nat) : Nat := 0x30003C + 0x80000 * u
def AIR_GUARD_PPM (u : Nat) : Nat := 0x300044 + 0x80000 * u
def AIR_SRCH (u : Nat) : Nat := 0x300048 + 0x80000 * u
def AIR_TCORR (u : Nat) : Nat := 0x30004C + 0x80000 * u
def AIR_IQ_CFG (u : Nat) : Nat := 0x300050 + 0x80000 * u
def AIR_IQ_FREQ (u : Nat) : Nat := 0x300054 + 0x80000 * u
def AIR_IQ_COMP (u : Nat) : Nat := 0x300058 + 0x80000 * u
def AIR_IQ_RSSIOFS (u : Nat) : Nat := 0x30005C + 0x80000 * u
def AIR_SPI_CFG (u : Nat) : Nat := 0x300060 + 0x80000 * u
def AIR_SCR_RUN (u : Nat) : Nat := 0x300064 + 0x80000 * u
def AIR_SCR_RD (u : Nat) : Nat := 0x300068 + 0x80000 * u
def AIR_SCR_CHBASE (u : Nat) : Nat := 0x30006C + 0x80000 * u
def AIR_SCR_CHSTEP (u : Nat) : Nat := 0x300070 + 0x80000 * u
def AIR_SCR_MAXT (u : Nat) : Nat := 0x300074 + 0x80000 * u
def AIR_SCR_VEC (u : Nat) (n : Nat) : Nat := 0x300080 + 0x80000 * u + 0x4 * n
def AIR_PHY_CFG (u : Nat) : Nat := 0x3000A0 + 0x80000 * u
def AIR_PHY_ALT (u : Nat) : Nat := 0x3000A4 + 0x80000 * u
def AIR_EUI_LO (u : Nat) : Nat := 0x3000B0 + 0x80000 * u
def AIR_EUI_HI (u : Nat) : Nat := 0x3000B4 + 0x80000 * u
def AIR_EB_CFG (u : Nat) : Nat := 0x3000B8 + 0x80000 * u
def AIR_DWELL_CFG (u : Nat) : Nat := 0x3000C0 + 0x80000 * u
def AIR_DWELL_LIMIT (u : Nat) : Nat := 0x3000C4 + 0x80000 * u
def AIR_SUBBAND (u : Nat) (n : Nat) : Nat := 0x3000D0 + 0x80000 * u + 0x4 * n
def AIR_TXFC (u : Nat) : Nat := 0x3000E0 + 0x80000 * u
def AIR_TXQ_BASE_LO (u : Nat) (n : Nat) : Nat := 0x300100 + 0x80000 * u + 0x10 * n
def AIR_TXQ_BASE_HI (u : Nat) (n : Nat) : Nat := 0x300104 + 0x80000 * u + 0x10 * n
def AIR_TXQ_PI (u : Nat) (n : Nat) : Nat := 0x300108 + 0x80000 * u + 0x10 * n
def AIR_TXQ_CI (u : Nat) (n : Nat) : Nat := 0x30010C + 0x80000 * u + 0x10 * n
def AIR_TXQ_EXPIRE (u : Nat) : Nat := 0x300140 + 0x80000 * u
def AIR_PB_LO (u : Nat) : Nat := 0x300150 + 0x80000 * u
def AIR_PB_HI (u : Nat) : Nat := 0x300154 + 0x80000 * u
def AIR_PB_FREE (u : Nat) : Nat := 0x300158 + 0x80000 * u
def AIR_PB_AVAIL (u : Nat) : Nat := 0x30015C + 0x80000 * u
def AIR_FCSF (u : Nat) : Nat := 0x300200 + 0x80000 * u
def AIR_SECF (u : Nat) : Nat := 0x300204 + 0x80000 * u
def AIR_DUP (u : Nat) : Nat := 0x300208 + 0x80000 * u
def AIR_REPLAY (u : Nat) : Nat := 0x30020C + 0x80000 * u
def AIR_UNKNOWN (u : Nat) : Nat := 0x300210 + 0x80000 * u
def AIR_PB_DROP (u : Nat) : Nat := 0x300214 + 0x80000 * u
def AIR_MODESW (u : Nat) : Nat := 0x300218 + 0x80000 * u
def AIR_SCR_LATE (u : Nat) : Nat := 0x30021C + 0x80000 * u
def AIR_IQ_SYNCERR (u : Nat) : Nat := 0x300220 + 0x80000 * u
def AIR_IQ_ABSENT (u : Nat) : Nat := 0x300224 + 0x80000 * u
def AIR_GUARD_CAP (u : Nat) : Nat := 0x300228 + 0x80000 * u
def AIR_DWELL_DEFER (u : Nat) : Nat := 0x30022C + 0x80000 * u
def AIR_DWELL_ACKSKIP (u : Nat) : Nat := 0x300230 + 0x80000 * u
def AIR_DWELL_EBSKIP (u : Nat) : Nat := 0x300234 + 0x80000 * u
def AIR_KEYMAP (u : Nat) (n : Nat) : Nat := 0x300400 + 0x80000 * u + 0x4 * n
def AIR_HOP_CTRL (u : Nat) : Nat := 0x301500 + 0x80000 * u
def AIR_SF_CFG (u : Nat) (n : Nat) : Nat := 0x302000 + 0x80000 * u + 0x4 * n

/-! 04_air_units.md, Table 9. -/
def NB_WORD (u : Nat) (i : Nat) (w : Nat) : Nat := 0x340000 + 0x80000 * u + 0x20 * i + 4 * w

/-! 04_air_units.md, Table 14. -/
def AIR_SCRIPT (u : Nat) (i : Nat) : Nat := 0x301000 + 0x80000 * u + 4 * i
def AIR_HOP_ACTIVE (u : Nat) (i : Nat) : Nat := 0x301400 + 0x80000 * u + 4 * i
def AIR_HOP_SHADOW (u : Nat) (i : Nat) : Nat := 0x301480 + 0x80000 * u + 4 * i
def AIR_EB_TEMPLATE (u : Nat) (i : Nat) : Nat := 0x301600 + 0x80000 * u + 4 * i
def AIR_CELL_WORD (u : Nat) (i : Nat) : Nat := 0x304000 + 0x80000 * u + 4 * i

/-! 05_sessions_and_cipher.md, Table 12. -/
def CIU_CTRL : Nat := 0x400010

/-! 05_sessions_and_cipher.md, Table 13. -/
def CIU_ALARM : Nat := 0x400008

/-! 05_sessions_and_cipher.md, Table 14. -/
def CIU_KEY_CMD : Nat := 0x400124

/-! 05_sessions_and_cipher.md, Table 15. -/
def CIU_QCFG (n : Nat) : Nat := 0x400200 + 0x20 * n

/-! 05_sessions_and_cipher.md, Table 16. -/
def CIU_ID : Nat := 0x400000
def CIU_STATUS : Nat := 0x400004
def CIU_IC_CFG : Nat := 0x400014
def CIU_KEY_LOAD (n : Nat) : Nat := 0x400100 + 0x4 * n
def CIU_KEY_ATTR : Nat := 0x400120
def CIU_KEY_STATUS : Nat := 0x400128
def CIU_KEY_ERASE : Nat := 0x40012C
def CIU_SLOT_SEL : Nat := 0x400130
def CIU_SLOT_ATTR : Nat := 0x400134
def CIU_KEY_HOSTW : Nat := 0x400138
def CIU_QBASE_LO (n : Nat) : Nat := 0x400204 + 0x20 * n
def CIU_QBASE_HI (n : Nat) : Nat := 0x400208 + 0x20 * n
def CIU_QPI (n : Nat) : Nat := 0x40020C + 0x20 * n
def CIU_QCI (n : Nat) : Nat := 0x400210 + 0x20 * n
def CIU_QINFL (n : Nat) : Nat := 0x400214 + 0x20 * n
def CIU_SEC_REJ : Nat := 0x400400
def CIU_REQ_OK : Nat := 0x400404
def CIU_BUSY (n : Nat) : Nat := 0x400408 + 0x4 * n
def CIU_SESS_CTRL : Nat := 0x400500
def CIU_SESS_INVAL : Nat := 0x400504
def CIU_SESS_HIT : Nat := 0x400508
def CIU_SESS_MISS : Nat := 0x40050C
def CIU_SESS_UNWRAPF : Nat := 0x400510
def CIU_SESS_WAIT : Nat := 0x400514
def CIU_DRBG_HEALTH : Nat := 0x400600
def APC_MREC_BASE_LO : Nat := 0x680000
def APC_MREC_BASE_HI : Nat := 0x680004
def APC_HCX_CTRL : Nat := 0x680010
def APC_HCX_FLUSH : Nat := 0x680014
def APC_HCX_STATUS : Nat := 0x680018
def APC_HCX_HIT : Nat := 0x680020
def APC_HCX_MISS : Nat := 0x680024
def APC_HCX_EVICT : Nat := 0x680028
def APC_HCX_WAIT : Nat := 0x68002C
def APC_HCX_BADREC : Nat := 0x680030
def APC_HCX_WBERR : Nat := 0x680034

/-! 06_flow_scheduler.md, Table 11. -/
def FLO_CLASS_CFG (n : Nat) : Nat := 0x500100 + 0x10 * n

/-! 06_flow_scheduler.md, Table 12. -/
def FLO_CLASS_PROF (n : Nat) : Nat := 0x500104 + 0x10 * n

/-! 06_flow_scheduler.md, Table 13. -/
def FLO_CORE_CFG (n : Nat) : Nat := 0x500800 + 0x40 * n

/-! 06_flow_scheduler.md, Table 14. -/
def FLO_AFF_CFG : Nat := 0x50001C

/-! 06_flow_scheduler.md, Table 15. -/
def FLO_ID : Nat := 0x500000
def FLO_STATUS : Nat := 0x500004
def FLO_CTRL : Nat := 0x500010
def FLO_POOL_CFG : Nat := 0x500014
def FLO_POD_TMO : Nat := 0x500018
def FLO_POD_USED : Nat := 0x500020
def FLO_POD_HWM : Nat := 0x500024
def FLO_TICKET : Nat := 0x500028
def FLO_POST_STATUS : Nat := 0x500040
def FLO_POD_SEL : Nat := 0x500044
def FLO_POD_INFO : Nat := 0x500048
def FLO_POD_TICKET : Nat := 0x50004C
def FLO_CORD_SEL : Nat := 0x500050
def FLO_CORD_STAT : Nat := 0x500054
def FLO_CORD_AFF : Nat := 0x500058
def FLO_BIND_STALL : Nat := 0x500060
def FLO_OPND_UNEXP : Nat := 0x500064
def FLO_OPND_STALE : Nat := 0x500068
def FLO_OPND_DUP : Nat := 0x50006C
def FLO_POD_TMOCNT : Nat := 0x500070
def FLO_ALLOC_WAIT : Nat := 0x500074
def FLO_REL_CNT : Nat := 0x500078
def FLO_REL_RINGWAIT : Nat := 0x50007C
def FLO_SRC_CFG (n : Nat) : Nat := 0x500080 + 0x4 * n
def FLO_CLASS_READY (n : Nat) : Nat := 0x500108 + 0x10 * n
def FLO_CLASS_INUSE (n : Nat) : Nat := 0x50010C + 0x10 * n
def FLO_CORE_CLASS_LO (n : Nat) : Nat := 0x500804 + 0x40 * n
def FLO_CORE_CLASS_HI (n : Nat) : Nat := 0x500808 + 0x40 * n
def FLO_CORE_STAT (n : Nat) : Nat := 0x50080C + 0x40 * n
def FLO_CORE_DISP (n : Nat) : Nat := 0x500810 + 0x40 * n
def FLO_CORE_AFF (n : Nat) : Nat := 0x500814 + 0x40 * n
def FLO_CORE_OVF (n : Nat) : Nat := 0x500818 + 0x40 * n
def FLO_CORE_BUSY (n : Nat) : Nat := 0x50081C + 0x40 * n
def FLO_CORE_IDLE (n : Nat) : Nat := 0x500820 + 0x40 * n
def FLO_CORE_QMAX (n : Nat) : Nat := 0x500824 + 0x40 * n
def FLO_CORE_WHIST (n : Nat) (i : Nat) : Nat := 0x501000 + 0x40 * n + 4 * i
def FLO_OPND_POST (i : Nat) : Nat := 0x500030 + 4 * i

/-! 07_validation_and_balance.md, Table 17. -/
def BAL_CFG : Nat := 0x900014

/-! 07_validation_and_balance.md, Table 19. -/
def BAL_SUS_CFG : Nat := 0x900020

/-! 07_validation_and_balance.md, Table 20. -/
def BAL_ID : Nat := 0x900000
def BAL_STATUS : Nat := 0x900004
def BAL_CTRL : Nat := 0x900010
def BAL_TIME_CFG : Nat := 0x900018
def BAL_EST_CFG : Nat := 0x90001C
def BAL_SUS_TH : Nat := 0x900024
def BAL_SHIFT_TH : Nat := 0x900028
def BAL_BASE_LO (i : Nat) : Nat := 0x900030 + 8 * i
def BAL_BASE_HI (i : Nat) : Nat := 0x900034 + 8 * i
def BAL_RPT_CFG : Nat := 0x900060
def BAL_RPT_PI : Nat := 0x900064
def BAL_RPT_CI : Nat := 0x900068
def BAL_RPT_DROP : Nat := 0x90006C
def BAL_IMG_ADDR_LO : Nat := 0x900070
def BAL_IMG_ADDR_HI : Nat := 0x900074
def BAL_IMG_CMD : Nat := 0x900078
def BAL_IMG_STATUS : Nat := 0x90007C
def BAL_MEMB_ARG : Nat := 0x900080
def BAL_MEMB_CMD : Nat := 0x900084
def BAL_MEMB_RESULT : Nat := 0x900088
def BAL_GRP_CMD : Nat := 0x90008C
def BAL_QBASE_LO : Nat := 0x900100
def BAL_QBASE_HI : Nat := 0x900104
def BAL_QCFG : Nat := 0x900108
def BAL_QPI : Nat := 0x90010C
def BAL_QCI : Nat := 0x900110
def BAL_REQ_OK : Nat := 0x900200
def BAL_PARSEF : Nat := 0x900204
def BAL_NOFMT : Nat := 0x900208
def BAL_VFAIL : Nat := 0x90020C
def BAL_ESTCNT : Nat := 0x900210
def BAL_LATE : Nat := 0x900214
def BAL_RESEND : Nat := 0x900218
def BAL_PH_NOTICE : Nat := 0x90021C
def BAL_PH_MOVE : Nat := 0x900220
def BAL_CLOSE_MAXT : Nat := 0x900224

/-! 07_validation_and_balance.md, Table 18. -/
def GROUP_WORD (g : Nat) (w : Nat) : Nat := 0x910000 + 0x40 * g + 4 * w

/-! 08_clamp_media.md, Table 11. -/
def CLM_CTRL : Nat := 0x700010

/-! 08_clamp_media.md, Table 12. -/
def CLM_GEOM : Nat := 0x700014

/-! 08_clamp_media.md, Table 13. -/
def CLM_HK_CFG : Nat := 0x700018

/-! 08_clamp_media.md, Table 14. -/
def CLM_ID : Nat := 0x700000
def CLM_STATUS : Nat := 0x700004
def CLM_CKPT_CFG : Nat := 0x70001C
def CLM_PATROL_TH : Nat := 0x700020
def CLM_RL_CFG : Nat := 0x700024
def CLM_RL_TAB (n : Nat) : Nat := 0x700040 + 0x4 * n
def CLM_MEDIA_CMD : Nat := 0x700060
def CLM_MEDIA_RESULT : Nat := 0x700064
def CLM_NS_SIZE (n : Nat) : Nat := 0x700070 + 0x4 * n
def CLM_MAP_BASE_LO : Nat := 0x700080
def CLM_MAP_BASE_HI : Nat := 0x700084
def CLM_BLK_BASE_LO : Nat := 0x700088
def CLM_BLK_BASE_HI : Nat := 0x70008C
def CLM_QCFG (n : Nat) : Nat := 0x700100 + 0x20 * n
def CLM_QBASE_LO (n : Nat) : Nat := 0x700104 + 0x20 * n
def CLM_QBASE_HI (n : Nat) : Nat := 0x700108 + 0x20 * n
def CLM_QPI (n : Nat) : Nat := 0x70010C + 0x20 * n
def CLM_QCI (n : Nat) : Nat := 0x700110 + 0x20 * n
def CLM_WR_PAGES : Nat := 0x700200
def CLM_RD_PAGES : Nat := 0x700204
def CLM_ERASES : Nat := 0x700208
def CLM_SOFT : Nat := 0x70020C
def CLM_UNCORR : Nat := 0x700210
def CLM_PAR_REBUILD : Nat := 0x700214
def CLM_PROGF : Nat := 0x700218
def CLM_ERASEF : Nat := 0x70021C
def CLM_RETIRED : Nat := 0x700220
def CLM_GC_PAGES : Nat := 0x700224
def CLM_WL_PAGES : Nat := 0x700228
def CLM_LOST : Nat := 0x70022C
def CLM_WB_WAIT : Nat := 0x700230
def CLM_ARC_WRAP : Nat := 0x700234
def CLM_SEQ_LO : Nat := 0x700300
def CLM_SEQ_HI : Nat := 0x700304
def CLM_CKPT_SEQ_LO : Nat := 0x700308
def CLM_CKPT_SEQ_HI : Nat := 0x70030C
def CLM_ARC_HEAD_LO : Nat := 0x700310
def CLM_ARC_HEAD_HI : Nat := 0x700314
def CLM_PATROL_POS : Nat := 0x700318
def CLM_EC_MIN : Nat := 0x70031C
def CLM_EC_MAX : Nat := 0x700320
def CLM_REBUILD_MS : Nat := 0x700324

/-! 09_legal_partition.md, Table 17. -/
def LEG_STATUS : Nat := 0x800004

/-! 09_legal_partition.md, Table 18. -/
def LEG_MET_CFG : Nat := 0x801004

/-! 09_legal_partition.md, Table 19. -/
def LEG_CLK_CFG : Nat := 0x801008

/-! 09_legal_partition.md, Table 20. -/
def LEG_ID : Nat := 0x800000
def LEG_TIME_LO : Nat := 0x800008
def LEG_TIME_HI : Nat := 0x80000C
def LEG_SWID : Nat := 0x800010
def LEG_INST_V (n : Nat) : Nat := 0x800100 + 0x10 * n
def LEG_INST_I (n : Nat) : Nat := 0x800104 + 0x10 * n
def LEG_INST_P (n : Nat) : Nat := 0x800108 + 0x10 * n
def LEG_INST_Q (n : Nat) : Nat := 0x80010C + 0x10 * n
def LEG_INST_FREQ : Nat := 0x800140
def LEG_CTRL : Nat := 0x801000
def LEG_ERR : Nat := 0x801010
def LEG_ADJ_SMALL : Nat := 0x801014
def LEG_BMARK_LO : Nat := 0x801018
def LEG_BMARK_HI : Nat := 0x80101C
def LEG_CMD : Nat := 0x801020
def LEG_CMD_ADDR : Nat := 0x801024
def LEG_CMD_STATUS : Nat := 0x801028
def LEG_KEYS : Nat := 0x801030
def LEG_COPY_LEVEL : Nat := 0x801040
def LEG_COPY_DROP : Nat := 0x801044
def LEG_LOG_FILL : Nat := 0x801050
def LEG_LOG_SEQ : Nat := 0x801054
def LEG_LOG_RDMARK : Nat := 0x801058
def LEG_LOG_LOST : Nat := 0x80105C
def LEG_PF_CNT : Nat := 0x801060
def LEG_OVL_CNT : Nat := 0x801064
def LEG_SWEEP_MAXT : Nat := 0x801068

/-! 10_time_and_backbone.md, Table 10. -/
def BKB_PORT_CFG (n : Nat) : Nat := 0x100020 + 0x20 * n

/-! 10_time_and_backbone.md, Table 11. -/
def BKB_TIM_CTRL : Nat := 0x100400

/-! 10_time_and_backbone.md, Table 12. -/
def BKB_CMP_CFG (n : Nat) : Nat := 0x100800 + 0x20 * n

/-! 10_time_and_backbone.md, Table 13. -/
def BKB_ID : Nat := 0x100000
def BKB_STATUS : Nat := 0x100004
def BKB_CTRL : Nat := 0x100010
def BKB_NODE : Nat := 0x100014
def BKB_MAC_LO (n : Nat) : Nat := 0x100024 + 0x20 * n
def BKB_MAC_HI (n : Nat) : Nat := 0x100028 + 0x20 * n
def BKB_LAT (n : Nat) : Nat := 0x10002C + 0x20 * n
def BKB_MCAST (n : Nat) : Nat := 0x100030 + 0x20 * n
def BKB_ETYPE : Nat := 0x100080
def BKB_PB_LO : Nat := 0x100090
def BKB_PB_HI : Nat := 0x100094
def BKB_PB_FREE : Nat := 0x100098
def BKB_PB_AVAIL : Nat := 0x10009C
def BKB_RXQ_CFG (n : Nat) : Nat := 0x100100 + 0x20 * n
def BKB_RXQ_BASE_LO (n : Nat) : Nat := 0x100104 + 0x20 * n
def BKB_RXQ_BASE_HI (n : Nat) : Nat := 0x100108 + 0x20 * n
def BKB_RXQ_PI (n : Nat) : Nat := 0x10010C + 0x20 * n
def BKB_RXQ_CI (n : Nat) : Nat := 0x100110 + 0x20 * n
def BKB_TXQ_CFG (p : Nat) (q : Nat) : Nat := 0x100200 + 0x80 * p + 0x20 * q
def BKB_TXQ_BASE_LO (p : Nat) (q : Nat) : Nat := 0x100204 + 0x80 * p + 0x20 * q
def BKB_TXQ_BASE_HI (p : Nat) (q : Nat) : Nat := 0x100208 + 0x80 * p + 0x20 * q
def BKB_TXQ_PI (p : Nat) (q : Nat) : Nat := 0x10020C + 0x80 * p + 0x20 * q
def BKB_TXQ_CI (p : Nat) (q : Nat) : Nat := 0x100210 + 0x80 * p + 0x20 * q
def BKB_TIM_NOW_LO : Nat := 0x100408
def BKB_TIM_NOW_HI : Nat := 0x10040C
def BKB_TIM_INC_LO : Nat := 0x100410
def BKB_TIM_INC_HI : Nat := 0x100414
def BKB_TIM_STEP_LO : Nat := 0x100418
def BKB_TIM_STEP_HI : Nat := 0x10041C
def BKB_TIM_SLEW : Nat := 0x100420
def BKB_TIM_SLEW_REM : Nat := 0x100424
def BKB_UTC_OFS : Nat := 0x100428
def BKB_CAP_LO (n : Nat) : Nat := 0x100430 + 0x8 * n
def BKB_CAP_HI (n : Nat) : Nat := 0x100434 + 0x8 * n
def BKB_CAP_CNT : Nat := 0x100440
def BKB_CMP_TGT_LO (n : Nat) : Nat := 0x100804 + 0x20 * n
def BKB_CMP_TGT_HI (n : Nat) : Nat := 0x100808 + 0x20 * n
def BKB_CMP_PER_LO (n : Nat) : Nat := 0x10080C + 0x20 * n
def BKB_CMP_PER_HI (n : Nat) : Nat := 0x100810 + 0x20 * n
def BKB_CMP_NEXT_LO (n : Nat) : Nat := 0x100814 + 0x20 * n
def BKB_CMP_NEXT_HI (n : Nat) : Nat := 0x100818 + 0x20 * n
def BKB_CMP_STAT (n : Nat) : Nat := 0x10081C + 0x20 * n
def BKB_CMP_IRQ : Nat := 0x100A00
def BKB_RX_FCS (n : Nat) : Nat := 0x100C00 + 0x4 * n
def BKB_RX_LONG (n : Nat) : Nat := 0x100C08 + 0x4 * n
def BKB_RX_DROP (n : Nat) : Nat := 0x100C10 + 0x4 * n
def BKB_TX_OK (n : Nat) : Nat := 0x100C20 + 0x4 * n
def BKB_TX_LATE (n : Nat) : Nat := 0x100C28 + 0x4 * n
def BKB_BLK_OK : Nat := 0x100C30
def BKB_BLK_BAD : Nat := 0x100C34
def BKB_BLK_DUP : Nat := 0x100C38
def BKB_BLK_GAP : Nat := 0x100C3C
def BKB_BLK_FOREIGN : Nat := 0x100C40
def BKB_BLK_FWD : Nat := 0x100C44
def BKB_INGEST_DROP : Nat := 0x100C48
def BKB_PAUSE_TX (n : Nat) : Nat := 0x100C4C + 0x4 * n
def BKB_BLK_ENTLOST : Nat := 0x100C54
def BKB_BLK_LAST (s : Nat) : Nat := 0x110000 + 8 * s

/-! 11_host_rings_and_cluster.md, Table 13. -/
def RING_RP_BIND (n : Nat) : Nat := 0x1000 + 0x40 * n

/-! 11_host_rings_and_cluster.md, Table 14. -/
def RING_RP_CQ_CFG (n : Nat) : Nat := 0x1010 + 0x40 * n

/-! 11_host_rings_and_cluster.md, Table 16. -/
def RING_ID : Nat := 0x0
def RING_STATUS : Nat := 0x4
def RING_CTRL : Nat := 0x10
def RING_PCI_SUBSYS : Nat := 0x14
def RING_PB_LO : Nat := 0x60
def RING_PB_HI : Nat := 0x64
def RING_PB_FREE : Nat := 0x68
def RING_PB_AVAIL : Nat := 0x6C
def RING_EVT_ROUTE_LO : Nat := 0x80
def RING_EVT_ROUTE_HI : Nat := 0x84
def RING_CPL_DISCARD : Nat := 0x100
def RING_EVT_LOST : Nat := 0x104
def RING_DESC_BAD : Nat := 0x108
def RING_RP_SQ_CFG (n : Nat) : Nat := 0x1004 + 0x40 * n
def RING_RP_SQ_BASE_LO (n : Nat) : Nat := 0x1008 + 0x40 * n
def RING_RP_SQ_BASE_HI (n : Nat) : Nat := 0x100C + 0x40 * n
def RING_RP_CQ_BASE_LO (n : Nat) : Nat := 0x1014 + 0x40 * n
def RING_RP_CQ_BASE_HI (n : Nat) : Nat := 0x1018 + 0x40 * n
def RING_RP_CQ_TMO (n : Nat) : Nat := 0x101C + 0x40 * n
def RING_RP_FETCH (n : Nat) : Nat := 0x1020 + 0x40 * n
def RING_RP_CPL (n : Nat) : Nat := 0x1024 + 0x40 * n
def RING_EVT_CFG (n : Nat) : Nat := 0x2000 + 0x20 * n
def RING_EVT_BASE_LO (n : Nat) : Nat := 0x2004 + 0x20 * n
def RING_EVT_BASE_HI (n : Nat) : Nat := 0x2008 + 0x20 * n
def RING_EVT_TMO (n : Nat) : Nat := 0x200C + 0x20 * n
def RING_IOMMU_INVAL : Nat := 0x3000
def RING_IOMMU_FLT_INFO : Nat := 0x3004
def RING_IOMMU_FLT_ADDR_LO : Nat := 0x3008
def RING_IOMMU_FLT_ADDR_HI : Nat := 0x300C
def RING_IOMMU_FLTCNT : Nat := 0x3010
def RING_IOMMU_MISS : Nat := 0x3014
def RING_IOMMU_DOM (n : Nat) : Nat := 0x3100 + 0x8 * n
def RING_IOMMU_DOM_HI (n : Nat) : Nat := 0x3104 + 0x8 * n
def APC_CORE_RUN : Nat := 0x600100
def APC_BOOT_VEC_LO : Nat := 0x600108
def APC_BOOT_VEC_HI : Nat := 0x60010C
def APC_DDR_STATUS : Nat := 0x610004
def APC_DDR_SCRUB : Nat := 0x610010
def APC_DDR_CE : Nat := 0x610020
def APC_DDR_UE : Nat := 0x610024
def APC_DDR_CE_ADDR_LO : Nat := 0x610028
def APC_DDR_CE_ADDR_HI : Nat := 0x61002C
def APC_DDR_UE_ADDR_LO : Nat := 0x610030
def APC_DDR_UE_ADDR_HI : Nat := 0x610034
def MSIX_WORD (v : Nat) (w : Nat) : Nat := 0x80000 + 0x10 * v + 4 * w
def MSIX_PEND (i : Nat) : Nat := 0x90000 + 4 * i

/-! 11_host_rings_and_cluster.md, Table 15. -/
def APC_DDR_CFG : Nat := 0x610000

/-! 11_host_rings_and_cluster.md, Table 16. -/
def PIC_PRIO (i : Nat) : Nat := 0x640000 + 4 * i
def PIC_PEND (i : Nat) : Nat := 0x641000 + 4 * i
def PIC_ENABLE (x : Nat) (i : Nat) : Nat := 0x642000 + 0x80 * x + 4 * i
def PIC_THRESH (x : Nat) : Nat := 0x644000 + 8 * x
def PIC_CLAIM (x : Nat) : Nat := 0x644004 + 8 * x

/-! 12_guard.md, Table 11. -/
def GRD_LC_CMD : Nat := 0xA00014

/-! 12_guard.md, Table 12. -/
def GRD_TMP_CFG (n : Nat) : Nat := 0xA00400 + 0x4 * n

/-! 12_guard.md, Table 13. -/
def GRD_DBG_GRANT : Nat := 0xA00520

/-! 12_guard.md, Table 14. -/
def GRD_STATUS : Nat := 0xA00004
def GRD_LC_STATE : Nat := 0xA00010
def GRD_SERIAL_LO : Nat := 0xA00018
def GRD_SERIAL_HI : Nat := 0xA0001C
def GRD_KDF_CMD : Nat := 0xA00100
def GRD_KDF_ATTR : Nat := 0xA00104
def GRD_KDF_STATUS : Nat := 0xA00108
def GRD_KDF_CTX (n : Nat) : Nat := 0xA00120 + 0x4 * n
def GRD_KDF_PUB (n : Nat) : Nat := 0xA00140 + 0x4 * n
def GRD_TMP_STATUS : Nat := 0xA00440
def GRD_TMP_LATCH : Nat := 0xA00444
def GRD_TMP_CTRL : Nat := 0xA00448
def GRD_TMP_CNT (n : Nat) : Nat := 0xA0044C + 0x4 * n
def GRD_DBG_STATE : Nat := 0xA00500
def GRD_DBG_REQ : Nat := 0xA00504
def GRD_DBG_TMO : Nat := 0xA00524
def GRD_DBG_AUTH (n : Nat) : Nat := 0xA00540 + 0x4 * n
def GRD_AP_CTRL : Nat := 0xA00800
def GRD_AP_VIOL : Nat := 0xA00804
def GRD_AP_VINFO : Nat := 0xA00808
def GRD_AP_VADDR_LO : Nat := 0xA0080C
def GRD_AP_VADDR_HI : Nat := 0xA00810

/-! 12_guard.md, Table 5. -/
def AP_SHADOW (r : Nat) (w : Nat) : Nat := 0xA01000 + 0x20 * r + 4 * w
def AP_ACTIVE (r : Nat) (w : Nat) : Nat := 0xA02000 + 0x20 * r + 4 * w

/-! 13_update_and_tinder.md, Table 10. -/
def GRD_UPD_CTRL : Nat := 0xA06000

/-! 13_update_and_tinder.md, Table 11. -/
def GRD_UPD_CMD : Nat := 0xA06004

/-! 13_update_and_tinder.md, Table 12. -/
def GRD_UPD_STATUS : Nat := 0xA06008

/-! 13_update_and_tinder.md, Table 13. -/
def GRD_UPD_NEXT : Nat := 0xA0600C
def GRD_UPD_STAGE : Nat := 0xA06010
def GRD_UPD_TBL_ADDR_LO : Nat := 0xA06018
def GRD_UPD_TBL_ADDR_HI : Nat := 0xA0601C
def GRD_UPD_AUTH (n : Nat) : Nat := 0xA06020 + 0x4 * n
def GRD_UPD_SERIES (n : Nat) : Nat := 0xA06040 + 0x4 * n
def GRD_UPD_REFCNT : Nat := 0xA06080
def GRD_UPD_STAGE_HI : Nat := 0xA06014

/-! 14_clocks_power_reset.md, Table 13. -/
def CRP_MUX_SEL (n : Nat) : Nat := 0xB00100 + 0x4 * n

/-! 14_clocks_power_reset.md, Table 14. -/
def CRP_PWR_CMD : Nat := 0xB00010

/-! 14_clocks_power_reset.md, Table 15. -/
def CRP_RIDE_CFG : Nat := 0xB0001C

/-! 14_clocks_power_reset.md, Table 16. -/
def CRP_TRIM_CFG : Nat := 0xB00300

/-! 14_clocks_power_reset.md, Table 17. -/
def CRP_RST_CAUSE : Nat := 0xB00044

/-! 14_clocks_power_reset.md, Table 18. -/
def CRP_ID : Nat := 0xB00000
def CRP_STATUS : Nat := 0xB00004
def CRP_PWR_STATUS : Nat := 0xB00014
def CRP_WAKE_EN : Nat := 0xB00018
def CRP_BKP_CFG : Nat := 0xB00020
def CRP_BKP_STATUS : Nat := 0xB00024
def CRP_RST_CMD : Nat := 0xB00040
def CRP_BLK_RST : Nat := 0xB00048
def CRP_WDT_CFG : Nat := 0xB0004C
def CRP_WDT_KICK : Nat := 0xB00050
def CRP_PLL_STATUS (n : Nat) : Nat := 0xB00180 + 0x4 * n
def CRP_CLK_GATE : Nat := 0xB001C0
def CRP_GATED_CNT (n : Nat) : Nat := 0xB00200 + 0x4 * n
def CRP_DCQ_LOST (n : Nat) : Nat := 0xB00240 + 0x4 * n
def CRP_FORCED_CNT : Nat := 0xB00280
def CRP_TRIM_STATUS : Nat := 0xB00304
def CRP_TRIM_CODE : Nat := 0xB00308

/-! 15_selftest_and_pairing.md, Table 8. -/
def CRP_KLN_CTRL : Nat := 0xB00800

/-! 15_selftest_and_pairing.md, Table 9. -/
def CRP_KLN_STATUS : Nat := 0xB00804

/-! 15_selftest_and_pairing.md, Table 10. -/
def CRP_KLN_FAILMASK : Nat := 0xB00808
def CRP_KLN_DUR : Nat := 0xB0080C
def CRP_KLN_VMON : Nat := 0xB00810
def CRP_KLN_TCLK : Nat := 0xB00814
def CRP_KLN_RUNS : Nat := 0xB00818
def CRP_KLN_SIG (n : Nat) : Nat := 0xB00840 + 0x4 * n
def CRP_KLN_COV (n : Nat) : Nat := 0xB00880 + 0x4 * n
def CRP_KLN_MASK_LO (n : Nat) : Nat := 0xB00900 + 0x8 * n
def CRP_KLN_MASK_HI (n : Nat) : Nat := 0xB00904 + 0x8 * n

/-! 15_selftest_and_pairing.md, Table 11. -/
def BKB_PAIR_CFG : Nat := 0x120000

/-! 15_selftest_and_pairing.md, Table 12. -/
def BKB_PAIR_STATUS : Nat := 0x120004

/-! 15_selftest_and_pairing.md, Table 13. -/
def BKB_PAIR_TIMES : Nat := 0x120008
def BKB_PAIR_CMD : Nat := 0x12000C
def BKB_PAIR_HEALTH : Nat := 0x120010
def BKB_PAIR_PHEALTH : Nat := 0x120014
def BKB_PAIR_HMASK : Nat := 0x120018
def BKB_PAIR_REPLAY : Nat := 0x12001C
def BKB_PAIR_PB_LO : Nat := 0x120020
def BKB_PAIR_PB_HI : Nat := 0x120024
def BKB_PAIR_PB_FREE : Nat := 0x120028
def BKB_PAIR_TXFRM : Nat := 0x120040
def BKB_PAIR_RXFRM : Nat := 0x120044
def BKB_PAIR_CRCERR : Nat := 0x120048
def BKB_PAIR_RETX : Nat := 0x12004C
def BKB_PAIR_LOCALDROP : Nat := 0x120050
def BKB_PAIR_TAKEOVERS : Nat := 0x120054

/-! 16_ember_log.md, Table 5. -/
def GRD_EMB_STATUS : Nat := 0xA04000

/-! 16_ember_log.md, Table 6. -/
def GRD_EMB_CMD : Nat := 0xA04004

/-! 16_ember_log.md, Table 7. -/
def GRD_EMB_CURSOR : Nat := 0xA04008

/-! 16_ember_log.md, Table 8. -/
def GRD_EMB_RSTAT : Nat := 0xA0400C
def GRD_EMB_FSEQ : Nat := 0xA04010
def GRD_EMB_SEQ : Nat := 0xA04014
def GRD_EMB_DROP : Nat := 0xA04018
def GRD_EMB_HEAD : Nat := 0xA0401C
def GRD_EMB_OLDEST : Nat := 0xA04020
def GRD_EMB_FIRSTFILL : Nat := 0xA04024
def GRD_EMB_OPSEC : Nat := 0xA04028
def GRD_EMB_PCYC : Nat := 0xA0402C
def GRD_EMB_WCMD : Nat := 0xA04040
def GRD_EMB_WSTAT : Nat := 0xA04044
def GRD_EMB_WINDOW (i : Nat) : Nat := 0xA05000 + 4 * i
def GRD_EMB_STAGE (i : Nat) : Nat := 0xA07000 + 4 * i

/-! 17_electrical_and_package.md, Table 8. -/
def CRP_TEMP : Nat := 0xB00060

/-! 17_electrical_and_package.md, Table 9. -/
def CRP_TEMP_CFG : Nat := 0xB00064

end Sys2Proof.Machine.Reg

namespace Sys2Proof.Machine

/-- One register, or an array of like registers: where it lies, its reset value, and the bits
under each access code of R8 (bits under no mask are RO, WO or reserved: a generic write
leaves them). -/
structure RegRow where
  base : Nat
  count : Nat
  stride : Nat
  reset : Nat
  rw : Nat
  rws : Nat
  w1c : Nat
  w1s : Nat
  rc : Nat
  deriving DecidableEq, Repr

/-- Whether a row covers the register at an offset. -/
def RegRow.covers (r : RegRow) (key : Nat) : Bool :=
  decide (r.base ≤ key) && (key - r.base) % r.stride == 0 && decide ((key - r.base) / r.stride < r.count)

/-- Registers of RING, part 1. -/
def regRowsRing1 : List RegRow := [
  ⟨0x0, 1, 0x1, 0x1, 0x0, 0x0, 0x0, 0x0, 0x0⟩,
  ⟨0x4, 1, 0x1, 0x0, 0x0, 0x0, 0xB, 0x0, 0x0⟩,
  ⟨0x10, 1, 0x1, 0x0, 0x7, 0x0, 0x0, 0x0, 0x0⟩,
  ⟨0x14, 1, 0x1, 0x0, 0x0, 0xFFFFFFFF, 0x0, 0x0, 0x0⟩,
  ⟨0x60, 1, 0x1, 0x0, 0x7FF, 0x0, 0x0, 0x0, 0x0⟩,
  ⟨0x64, 1, 0x1, 0x0, 0x7FF, 0x0, 0x0, 0x0, 0x0⟩,
  ⟨0x68, 1, 0x1, 0x0, 0x0, 0x0, 0x0, 0x0, 0x0⟩,
  ⟨0x6C, 1, 0x1, 0x0, 0x0, 0x0, 0x0, 0x0, 0x0⟩,
  ⟨0x80, 1, 0x1, 0x0, 0xFFFFFFFF, 0x0, 0x0, 0x0, 0x0⟩,
  ⟨0x84, 1, 0x1, 0x0, 0xFFFF, 0x0, 0x0, 0x0, 0x0⟩,
  ⟨0x100, 1, 0x1, 0x0, 0x0, 0x0, 0x0, 0x0, 0xFFFFFFFF⟩,
  ⟨0x104, 1, 0x1, 0x0, 0x0, 0x0, 0x0, 0x0, 0xFFFFFFFF⟩,
  ⟨0x108, 1, 0x1, 0x0, 0x0, 0x0, 0x0, 0x0, 0xFFFFFFFF⟩,
  ⟨0x1000, 64, 0x40, 0x0, 0xF3F07, 0x10, 0x0, 0x0, 0x0⟩,
  ⟨0x1004, 64, 0x40, 0x0, 0x8000000F, 0x0, 0x0, 0x0, 0x0⟩,
  ⟨0x1008, 64, 0x40, 0x0, 0xFFFFFC00, 0x0, 0x0, 0x0, 0x0⟩,
  ⟨0x100C, 64, 0x40, 0x0, 0xFFFF, 0x0, 0x0, 0x0, 0x0⟩,
  ⟨0x1010, 64, 0x40, 0x10000, 0xFFFF000F, 0x0, 0x0, 0x0, 0x0⟩,
  ⟨0x1014, 64, 0x40, 0x0, 0xFFFFFC00, 0x0, 0x0, 0x0, 0x0⟩,
  ⟨0x1018, 64, 0x40, 0x0, 0xFFFF, 0x0, 0x0, 0x0, 0x0⟩,
  ⟨0x101C, 64, 0x40, 0x0, 0xFFFF, 0x0, 0x0, 0x0, 0x0⟩,
  ⟨0x1020, 64, 0x40, 0x0, 0x0, 0x0, 0x0, 0x0, 0xFFFFFFFF⟩,
  ⟨0x1024, 64, 0x40, 0x0, 0x0, 0x0, 0x0, 0x0, 0xFFFFFFFF⟩,
  ⟨0x2000, 8, 0x20, 0x0, 0x87FFFF0F, 0x40000000, 0x0, 0x0, 0x0⟩]
/-- Registers of RING, part 2. -/
def regRowsRing2 : List RegRow := [
  ⟨0x2004, 8, 0x20, 0x0, 0xFFFFFC00, 0x0, 0x0, 0x0, 0x0⟩,
  ⟨0x2008, 8, 0x20, 0x0, 0xFFFF, 0x0, 0x0, 0x0, 0x0⟩,
  ⟨0x200C, 8, 0x20, 0x0, 0xFFFF, 0x0, 0x0, 0x0, 0x0⟩,
  ⟨0x3000, 1, 0x1, 0x0, 0x8000001F, 0x0, 0x0, 0x0, 0x0⟩,
  ⟨0x3004, 1, 0x1, 0x0, 0x0, 0x0, 0x0, 0x0, 0xFFFFFFFF⟩,
  ⟨0x3008, 1, 0x1, 0x0, 0x0, 0x0, 0x0, 0x0, 0x0⟩,
  ⟨0x300C, 1, 0x1, 0x0, 0x0, 0x0, 0x0, 0x0, 0x0⟩,
  ⟨0x3010, 1, 0x1, 0x0, 0x0, 0x0, 0x0, 0x0, 0xFFFFFFFF⟩,
  ⟨0x3014, 1, 0x1, 0x0, 0x0, 0x0, 0x0, 0x0, 0xFFFFFFFF⟩,
  ⟨0x3100, 16, 0x8, 0x0, 0xFFFFF003, 0x0, 0x0, 0x0, 0x0⟩,
  ⟨0x3104, 16, 0x8, 0x0, 0xFFFF, 0x0, 0x0, 0x0, 0x0⟩,
  ⟨0x80000, 128, 0x10, 0x0, 0xFFFFFFFC, 0x0, 0x0, 0x0, 0x0⟩,
  ⟨0x80004, 128, 0x10, 0x0, 0xFFFFFFFF, 0x0, 0x0, 0x0, 0x0⟩,
  ⟨0x80008, 128, 0x10, 0x0, 0xFFFFFFFF, 0x0, 0x0, 0x0, 0x0⟩,
  ⟨0x8000C, 128, 0x10, 0x1, 0x1, 0x0, 0x0, 0x0, 0x0⟩,
  ⟨0x90000, 4, 0x4, 0x0, 0x0, 0x0, 0x0, 0x0, 0x0⟩]
/-- Registers of RING. -/
def regRowsRing : List RegRow := regRowsRing1 ++ regRowsRing2
/-- Registers of BKB, part 1. -/
def regRowsBkb1 : List RegRow := [
  ⟨0x100000, 1, 0x1, 0x10001, 0x0, 0x0, 0x0, 0x0, 0x0⟩,
  ⟨0x100004, 1, 0x1, 0x0, 0x0, 0x0, 0x3, 0x0, 0x0⟩,
  ⟨0x100010, 1, 0x1, 0x0, 0x3, 0x0, 0x0, 0x0, 0x0⟩,
  ⟨0x100014, 1, 0x1, 0x0, 0xFFF, 0x0, 0x0, 0x0, 0x0⟩,
  ⟨0x100020, 2, 0x20, 0x5EE, 0xFC003FFF, 0x0, 0x0, 0x0, 0x0⟩,
  ⟨0x100024, 2, 0x20, 0x0, 0xFFFFFFFF, 0x0, 0x0, 0x0, 0x0⟩,
  ⟨0x100028, 2, 0x20, 0x0, 0xFFFF, 0x0, 0x0, 0x0, 0x0⟩,
  ⟨0x10002C, 2, 0x20, 0x0, 0xFFFFFFFF, 0x0, 0x0, 0x0, 0x0⟩,
  ⟨0x100030, 2, 0x20, 0x0, 0x7, 0x0, 0x0, 0x0, 0x0⟩,
  ⟨0x100080, 1, 0x1, 0x88B688B5, 0xFFFFFFFF, 0x0, 0x0, 0x0, 0x0⟩,
  ⟨0x100090, 1, 0x1, 0x0, 0x7FF, 0x0, 0x0, 0x0, 0x0⟩,
  ⟨0x100094, 1, 0x1, 0x0, 0x7FF, 0x0, 0x0, 0x0, 0x0⟩,
  ⟨0x100098, 1, 0x1, 0x0, 0x0, 0x0, 0x0, 0x0, 0x0⟩,
  ⟨0x10009C, 1, 0x1, 0x0, 0x0, 0x0, 0x0, 0x0, 0x0⟩,
  ⟨0x100100, 3, 0x20, 0x0, 0x8000001F, 0x0, 0x0, 0x0, 0x0⟩,
  ⟨0x100104, 3, 0x20, 0x0, 0xFFFFF000, 0x0, 0x0, 0x0, 0x0⟩,
  ⟨0x100108, 3, 0x20, 0x0, 0xFFFF, 0x0, 0x0, 0x0, 0x0⟩,
  ⟨0x10010C, 3, 0x20, 0x0, 0x0, 0x0, 0x0, 0x0, 0x0⟩,
  ⟨0x100110, 3, 0x20, 0x0, 0x7FF, 0x0, 0x0, 0x0, 0x0⟩,
  ⟨0x100200, 4, 0x20, 0x0, 0x800003FF, 0x0, 0x0, 0x0, 0x0⟩,
  ⟨0x100204, 4, 0x20, 0x0, 0xFFFFFFE0, 0x0, 0x0, 0x0, 0x0⟩,
  ⟨0x100208, 4, 0x20, 0x0, 0xFFFF, 0x0, 0x0, 0x0, 0x0⟩,
  ⟨0x10020C, 4, 0x20, 0x0, 0x3FF, 0x0, 0x0, 0x0, 0x0⟩,
  ⟨0x100210, 4, 0x20, 0x0, 0x0, 0x0, 0x0, 0x0, 0x0⟩]
/-- Registers of BKB, part 2. -/
def regRowsBkb2 : List RegRow := [
  ⟨0x100280, 4, 0x20, 0x0, 0x800003FF, 0x0, 0x0, 0x0, 0x0⟩,
  ⟨0x100284, 4, 0x20, 0x0, 0xFFFFFFE0, 0x0, 0x0, 0x0, 0x0⟩,
  ⟨0x100288, 4, 0x20, 0x0, 0xFFFF, 0x0, 0x0, 0x0, 0x0⟩,
  ⟨0x10028C, 4, 0x20, 0x0, 0x3FF, 0x0, 0x0, 0x0, 0x0⟩,
  ⟨0x100290, 4, 0x20, 0x0, 0x0, 0x0, 0x0, 0x0, 0x0⟩,
  ⟨0x100400, 1, 0x1, 0x640000, 0x1FF0003, 0x0, 0x0, 0x30, 0x0⟩,
  ⟨0x100408, 1, 0x1, 0x0, 0x0, 0x0, 0x0, 0x0, 0x0⟩,
  ⟨0x10040C, 1, 0x1, 0x0, 0x0, 0x0, 0x0, 0x0, 0x0⟩,
  ⟨0x100410, 1, 0x1, 0x0, 0xFFFFFFFF, 0x0, 0x0, 0x0, 0x0⟩,
  ⟨0x100414, 1, 0x1, 0x2, 0xFF, 0x0, 0x0, 0x0, 0x0⟩,
  ⟨0x100418, 1, 0x1, 0x0, 0xFFFFFFFF, 0x0, 0x0, 0x0, 0x0⟩,
  ⟨0x10041C, 1, 0x1, 0x0, 0xFFFFFFFF, 0x0, 0x0, 0x0, 0x0⟩,
  ⟨0x100420, 1, 0x1, 0x0, 0xFFFFFFFF, 0x0, 0x0, 0x0, 0x0⟩,
  ⟨0x100424, 1, 0x1, 0x0, 0x0, 0x0, 0x0, 0x0, 0x0⟩,
  ⟨0x100428, 1, 0x1, 0x0, 0xFFFF, 0x0, 0x0, 0x0, 0x0⟩,
  ⟨0x100430, 2, 0x8, 0x0, 0x0, 0x0, 0x0, 0x0, 0x0⟩,
  ⟨0x100434, 2, 0x8, 0x0, 0x0, 0x0, 0x0, 0x0, 0x0⟩,
  ⟨0x100440, 1, 0x1, 0x0, 0x0, 0x0, 0x0, 0x0, 0xFFFFFFFF⟩,
  ⟨0x100800, 16, 0x20, 0x0, 0xF0FFFF00, 0x0, 0x0, 0x0, 0x0⟩,
  ⟨0x100804, 16, 0x20, 0x0, 0xFFFFFFFF, 0x0, 0x0, 0x0, 0x0⟩,
  ⟨0x100808, 16, 0x20, 0x0, 0xFFFFFFFF, 0x0, 0x0, 0x0, 0x0⟩,
  ⟨0x10080C, 16, 0x20, 0x0, 0xFFFFFFFF, 0x0, 0x0, 0x0, 0x0⟩,
  ⟨0x100810, 16, 0x20, 0x0, 0xFFFFFFFF, 0x0, 0x0, 0x0, 0x0⟩,
  ⟨0x100814, 16, 0x20, 0x0, 0x0, 0x0, 0x0, 0x0, 0x0⟩]
/-- Registers of BKB, part 3. -/
def regRowsBkb3 : List RegRow := [
  ⟨0x100818, 16, 0x20, 0x0, 0x0, 0x0, 0x0, 0x0, 0x0⟩,
  ⟨0x10081C, 16, 0x20, 0x0, 0x0, 0x0, 0x0, 0x0, 0xFFFFFFFF⟩,
  ⟨0x100A00, 1, 0x1, 0x0, 0x0, 0x0, 0xFFFF, 0x0, 0x0⟩,
  ⟨0x100C00, 2, 0x4, 0x0, 0x0, 0x0, 0x0, 0x0, 0xFFFFFFFF⟩,
  ⟨0x100C08, 2, 0x4, 0x0, 0x0, 0x0, 0x0, 0x0, 0xFFFFFFFF⟩,
  ⟨0x100C10, 3, 0x4, 0x0, 0x0, 0x0, 0x0, 0x0, 0xFFFFFFFF⟩,
  ⟨0x100C20, 2, 0x4, 0x0, 0x0, 0x0, 0x0, 0x0, 0xFFFFFFFF⟩,
  ⟨0x100C28, 2, 0x4, 0x0, 0x0, 0x0, 0x0, 0x0, 0xFFFFFFFF⟩,
  ⟨0x100C30, 1, 0x1, 0x0, 0x0, 0x0, 0x0, 0x0, 0xFFFFFFFF⟩,
  ⟨0x100C34, 1, 0x1, 0x0, 0x0, 0x0, 0x0, 0x0, 0xFFFFFFFF⟩,
  ⟨0x100C38, 1, 0x1, 0x0, 0x0, 0x0, 0x0, 0x0, 0xFFFFFFFF⟩,
  ⟨0x100C3C, 1, 0x1, 0x0, 0x0, 0x0, 0x0, 0x0, 0xFFFFFFFF⟩,
  ⟨0x100C40, 1, 0x1, 0x0, 0x0, 0x0, 0x0, 0x0, 0xFFFFFFFF⟩,
  ⟨0x100C44, 1, 0x1, 0x0, 0x0, 0x0, 0x0, 0x0, 0xFFFFFFFF⟩,
  ⟨0x100C48, 1, 0x1, 0x0, 0x0, 0x0, 0x0, 0x0, 0xFFFFFFFF⟩,
  ⟨0x100C4C, 2, 0x4, 0x0, 0x0, 0x0, 0x0, 0x0, 0xFFFFFFFF⟩,
  ⟨0x100C54, 1, 0x1, 0x0, 0x0, 0x0, 0x0, 0x0, 0xFFFFFFFF⟩,
  ⟨0x110000, 4096, 0x8, 0x0, 0xFFFFFFFF, 0x0, 0x0, 0x0, 0x0⟩,
  ⟨0x110004, 4096, 0x8, 0x0, 0x1, 0x0, 0x0, 0x0, 0x0⟩,
  ⟨0x120000, 1, 0x1, 0x17A88000, 0xFFFFFFFF, 0x0, 0x0, 0x0, 0x0⟩,
  ⟨0x120004, 1, 0x1, 0x0, 0x0, 0x0, 0xF0, 0x0, 0x0⟩,
  ⟨0x120008, 1, 0x1, 0x320BB8, 0xFFFFFFFF, 0x0, 0x0, 0x0, 0x0⟩,
  ⟨0x12000C, 1, 0x1, 0x0, 0x0, 0x0, 0x0, 0x0, 0x0⟩,
  ⟨0x120010, 1, 0x1, 0x0, 0x8000, 0x0, 0x0, 0x0, 0x0⟩]
/-- Registers of BKB, part 4. -/
def regRowsBkb4 : List RegRow := [
  ⟨0x120014, 1, 0x1, 0x0, 0x0, 0x0, 0x0, 0x0, 0x0⟩,
  ⟨0x120018, 1, 0x1, 0x808F, 0xFFFF, 0x0, 0x0, 0x0, 0x0⟩,
  ⟨0x12001C, 1, 0x1, 0x0, 0x0, 0x0, 0x0, 0x0, 0x0⟩,
  ⟨0x120020, 1, 0x1, 0x0, 0x7FF, 0x0, 0x0, 0x0, 0x0⟩,
  ⟨0x120024, 1, 0x1, 0x0, 0x7FF, 0x0, 0x0, 0x0, 0x0⟩,
  ⟨0x120028, 1, 0x1, 0x0, 0x0, 0x0, 0x0, 0x0, 0x0⟩,
  ⟨0x120040, 1, 0x1, 0x0, 0x0, 0x0, 0x0, 0x0, 0xFFFFFFFF⟩,
  ⟨0x120044, 1, 0x1, 0x0, 0x0, 0x0, 0x0, 0x0, 0xFFFFFFFF⟩,
  ⟨0x120048, 1, 0x1, 0x0, 0x0, 0x0, 0x0, 0x0, 0xFFFFFFFF⟩,
  ⟨0x12004C, 1, 0x1, 0x0, 0x0, 0x0, 0x0, 0x0, 0xFFFFFFFF⟩,
  ⟨0x120050, 1, 0x1, 0x0, 0x0, 0x0, 0x0, 0x0, 0xFFFFFFFF⟩,
  ⟨0x120054, 1, 0x1, 0x0, 0x0, 0x0, 0x0, 0x0, 0xFFFFFFFF⟩]
/-- Registers of BKB. -/
def regRowsBkb : List RegRow := regRowsBkb1 ++ regRowsBkb2 ++ regRowsBkb3 ++ regRowsBkb4
/-- Registers of LMA, part 1. -/
def regRowsLma1 : List RegRow := [
  ⟨0x200000, 1, 0x1, 0x20001, 0x0, 0x0, 0x0, 0x0, 0x0⟩,
  ⟨0x200004, 1, 0x1, 0x0, 0x0, 0x0, 0x300, 0x0, 0x0⟩,
  ⟨0x200010, 1, 0x1, 0x0, 0x3, 0x0, 0x0, 0x0, 0x0⟩,
  ⟨0x200020, 4, 0x4, 0x0, 0x73, 0x0, 0x0, 0x0, 0x0⟩,
  ⟨0x200030, 3, 0x4, 0x0, 0xFFFF, 0x0, 0x0, 0x0, 0x0⟩,
  ⟨0x20003C, 1, 0x1, 0x0, 0x0, 0x0, 0x0, 0x0, 0x0⟩,
  ⟨0x200040, 3, 0x4, 0x0, 0xFC1FF000, 0x0, 0x0, 0x0, 0x0⟩,
  ⟨0x200050, 1, 0x1, 0xA0603, 0xFFFFFF, 0x0, 0x0, 0x0, 0x0⟩,
  ⟨0x200060, 1, 0x1, 0x0, 0x7FF, 0x0, 0x0, 0x0, 0x0⟩,
  ⟨0x200064, 1, 0x1, 0x3FF, 0x7FF, 0x0, 0x0, 0x0, 0x0⟩,
  ⟨0x200068, 1, 0x1, 0x0, 0x0, 0x0, 0x0, 0x0, 0x0⟩,
  ⟨0x20006C, 1, 0x1, 0x400, 0x0, 0x0, 0x0, 0x0, 0x0⟩,
  ⟨0x200100, 24, 0x10, 0x0, 0x8FFFFF06, 0x0, 0x0, 0x0, 0x0⟩,
  ⟨0x200104, 24, 0x10, 0x0, 0x0, 0x0, 0x0, 0x0, 0x0⟩,
  ⟨0x200108, 24, 0x10, 0x0, 0x0, 0x0, 0x0, 0x0, 0x0⟩,
  ⟨0x200300, 24, 0x10, 0x0, 0x0, 0x0, 0x0, 0x0, 0xFFFFFFFF⟩,
  ⟨0x200304, 24, 0x10, 0x0, 0x0, 0x0, 0x0, 0x0, 0xFFFFFFFF⟩,
  ⟨0x200308, 24, 0x10, 0x0, 0x0, 0x0, 0x0, 0x0, 0xFFFFFFFF⟩,
  ⟨0x20030C, 24, 0x10, 0x0, 0x0, 0x0, 0x0, 0x0, 0xFFFFFFFF⟩,
  ⟨0x200480, 16, 0x4, 0x0, 0x0, 0x0, 0x0, 0x0, 0xFFFFFFFF⟩,
  ⟨0x200600, 1, 0x1, 0x80080F00, 0x803FFF03, 0x0, 0x0, 0x0, 0x0⟩,
  ⟨0x200604, 1, 0x1, 0x0, 0x0, 0x0, 0x0, 0x0, 0x0⟩,
  ⟨0x200608, 1, 0x1, 0x0, 0x7FFF, 0x0, 0x0, 0x0, 0x0⟩,
  ⟨0x20060C, 1, 0x1, 0x3F, 0x0, 0x0, 0x0, 0x0, 0x0⟩]
/-- Registers of LMA, part 2. -/
def regRowsLma2 : List RegRow := [
  ⟨0x200610, 1, 0x1, 0x0, 0x0, 0x0, 0x0, 0x0, 0xFFFFFFFF⟩,
  ⟨0x200700, 1, 0x1, 0x0, 0x1, 0x0, 0x0, 0x2, 0x0⟩,
  ⟨0x200704, 1, 0x1, 0x0, 0x0, 0x0, 0x0, 0x0, 0x0⟩,
  ⟨0x200708, 1, 0x1, 0x0, 0x0, 0x0, 0x0, 0x0, 0xFFFFFFFF⟩,
  ⟨0x20070C, 1, 0x1, 0x0, 0x0, 0x0, 0x0, 0x0, 0x0⟩,
  ⟨0x200800, 3, 0x10, 0x0, 0xFFFFFFE0, 0x0, 0x0, 0x0, 0x0⟩,
  ⟨0x200804, 3, 0x10, 0x0, 0xFFFF, 0x0, 0x0, 0x0, 0x0⟩,
  ⟨0x200808, 3, 0x10, 0x0, 0x3F, 0x0, 0x0, 0x0, 0x0⟩,
  ⟨0x20080C, 3, 0x10, 0x0, 0x0, 0x0, 0x0, 0x0, 0x0⟩,
  ⟨0x202000, 12, 0x20, 0x2000, 0x8FFF7C00, 0x0, 0x0, 0x0, 0x0⟩,
  ⟨0x202004, 12, 0x20, 0x0, 0x1FFF, 0x0, 0x0, 0x0, 0x0⟩,
  ⟨0x202008, 12, 0x20, 0x190, 0x1FFF, 0x0, 0x0, 0x0, 0x0⟩,
  ⟨0x20200C, 12, 0x20, 0x0, 0x0, 0x0, 0xC0000, 0x0, 0x0⟩,
  ⟨0x202010, 12, 0x20, 0x0, 0x0, 0x0, 0x0, 0x0, 0x0⟩,
  ⟨0x202014, 12, 0x20, 0x0, 0x0, 0x0, 0x0, 0x0, 0xFFFFFFFF⟩,
  ⟨0x202018, 12, 0x20, 0x0, 0x0, 0x0, 0x0, 0x0, 0xFFFFFFFF⟩,
  ⟨0x20201C, 12, 0x20, 0x0, 0x0, 0x0, 0x0, 0x0, 0xFFFFFFFF⟩,
  ⟨0x202400, 1, 0x1, 0x81004, 0xFFFF07, 0x0, 0x0, 0x0, 0x0⟩,
  ⟨0x202404, 1, 0x1, 0x0, 0x0, 0x0, 0x6, 0x0, 0x0⟩,
  ⟨0x202410, 1, 0x1, 0x30240E06, 0xFFFFFFFF, 0x0, 0x0, 0x0, 0x0⟩,
  ⟨0x202414, 1, 0x1, 0x7F46, 0xFFFF, 0x0, 0x0, 0x0, 0x0⟩,
  ⟨0x202420, 1, 0x1, 0x0, 0x0, 0x0, 0x0, 0x0, 0x0⟩,
  ⟨0x202424, 1, 0x1, 0x0, 0x7FF, 0x0, 0x0, 0x0, 0x0⟩,
  ⟨0x202428, 1, 0x1, 0x0, 0x0, 0x0, 0x0, 0x0, 0x0⟩]
/-- Registers of LMA, part 3. -/
def regRowsLma3 : List RegRow := [
  ⟨0x20242C, 1, 0x1, 0x0, 0x0, 0x0, 0x0, 0x0, 0x0⟩,
  ⟨0x202430, 1, 0x1, 0x0, 0x0, 0x0, 0x0, 0x0, 0xFFFFFFFF⟩,
  ⟨0x202434, 1, 0x1, 0x0, 0x0, 0x0, 0x0, 0x0, 0xFFFFFFFF⟩,
  ⟨0x202438, 1, 0x1, 0x0, 0x0, 0x0, 0x0, 0x0, 0xFFFFFFFF⟩,
  ⟨0x280000, 32768, 0x10, 0x0, 0x8000FFFF, 0x0, 0x0, 0x0, 0x0⟩,
  ⟨0x280004, 32768, 0x10, 0xFFF00, 0x7F0000FF, 0x0, 0x0, 0x0, 0x0⟩,
  ⟨0x280008, 32768, 0x10, 0x0, 0x7FFFFFF, 0x0, 0x0, 0x0, 0x0⟩,
  ⟨0x28000C, 32768, 0x10, 0x0, 0x1FFFFFFF, 0x0, 0x0, 0x0, 0x0⟩]
/-- Registers of LMA. -/
def regRowsLma : List RegRow := regRowsLma1 ++ regRowsLma2 ++ regRowsLma3
/-- Registers of AIR, part 1. -/
def regRowsAir1 : List RegRow := [
  ⟨0x300000, 1, 0x1, 0x30001, 0x0, 0x0, 0x0, 0x0, 0x0⟩,
  ⟨0x300004, 1, 0x1, 0x0, 0x0, 0x0, 0x37, 0x0, 0x0⟩,
  ⟨0x300010, 1, 0x1, 0x0, 0x3, 0x0, 0x0, 0x0, 0x0⟩,
  ⟨0x300014, 1, 0x1, 0x0, 0x3F3F3F, 0x0, 0x0, 0x0, 0x0⟩,
  ⟨0x300020, 1, 0x1, 0x61A8, 0xFFFF, 0x0, 0x0, 0x0, 0x0⟩,
  ⟨0x300024, 1, 0x1, 0x1F40, 0xFFFF, 0x0, 0x0, 0x0, 0x0⟩,
  ⟨0x300028, 1, 0x1, 0x57803E8, 0xFFFFFFFF, 0x0, 0x0, 0x0, 0x0⟩,
  ⟨0x300030, 1, 0x1, 0x0, 0xFFFFFFFF, 0x0, 0x0, 0x0, 0x0⟩,
  ⟨0x300034, 1, 0x1, 0x0, 0xFFFFFFFF, 0x0, 0x0, 0x0, 0x0⟩,
  ⟨0x300038, 1, 0x1, 0x0, 0x0, 0x0, 0x0, 0x0, 0x0⟩,
  ⟨0x30003C, 1, 0x1, 0x0, 0x0, 0x0, 0x0, 0x0, 0x0⟩,
  ⟨0x300040, 1, 0x1, 0x1F41B58, 0xFFFFFFF, 0x0, 0x0, 0x0, 0x0⟩,
  ⟨0x300044, 1, 0x1, 0x2, 0xFF, 0x0, 0x0, 0x0, 0x0⟩,
  ⟨0x300048, 1, 0x1, 0x7D00E10, 0xFFFFFFFF, 0x0, 0x0, 0x0, 0x0⟩,
  ⟨0x30004C, 1, 0x1, 0x0, 0x0, 0x0, 0x0, 0x0, 0x0⟩,
  ⟨0x300050, 1, 0x1, 0x0, 0x1, 0x0, 0x0, 0x0, 0x0⟩,
  ⟨0x300054, 1, 0x1, 0x0, 0x0, 0x0, 0x0, 0x0, 0x0⟩,
  ⟨0x300058, 1, 0x1, 0x0, 0xFFFFFFFF, 0x0, 0x0, 0x0, 0x0⟩,
  ⟨0x30005C, 1, 0x1, 0x0, 0xFF, 0x0, 0x0, 0x0, 0x0⟩,
  ⟨0x300060, 1, 0x1, 0x102, 0x17F, 0x0, 0x0, 0x0, 0x0⟩,
  ⟨0x300064, 1, 0x1, 0x0, 0x7, 0x0, 0x0, 0x0, 0x0⟩,
  ⟨0x300068, 1, 0x1, 0x0, 0x0, 0x0, 0x0, 0x0, 0x0⟩,
  ⟨0x30006C, 1, 0x1, 0x0, 0xFFFFFF, 0x0, 0x0, 0x0, 0x0⟩,
  ⟨0x300070, 1, 0x1, 0x0, 0xFFFFFF, 0x0, 0x0, 0x0, 0x0⟩]
/-- Registers of AIR, part 2. -/
def regRowsAir2 : List RegRow := [
  ⟨0x300074, 1, 0x1, 0x0, 0x0, 0x0, 0x0, 0x0, 0xFFFFFFFF⟩,
  ⟨0x300080, 6, 0x4, 0x0, 0xFF, 0x0, 0x0, 0x0, 0x0⟩,
  ⟨0x3000A0, 1, 0x1, 0x0, 0x3F7FFF, 0x0, 0x0, 0x0, 0x0⟩,
  ⟨0x3000A4, 1, 0x1, 0x0, 0x803F7FFF, 0x0, 0x0, 0x0, 0x0⟩,
  ⟨0x3000B0, 1, 0x1, 0x0, 0xFFFFFFFF, 0x0, 0x0, 0x0, 0x0⟩,
  ⟨0x3000B4, 1, 0x1, 0x0, 0xFFFFFFFF, 0x0, 0x0, 0x0, 0x0⟩,
  ⟨0x3000B8, 1, 0x1, 0x0, 0x1FFFF, 0x0, 0x0, 0x0, 0x0⟩,
  ⟨0x3000C0, 1, 0x1, 0x0, 0xFFF3, 0x0, 0x0, 0x0, 0x0⟩,
  ⟨0x3000C4, 1, 0x1, 0x0, 0xFFFFFFFF, 0x0, 0x0, 0x0, 0x0⟩,
  ⟨0x3000D0, 4, 0x4, 0x0, 0x80007F7F, 0x0, 0x0, 0x0, 0x0⟩,
  ⟨0x3000E0, 1, 0x1, 0x0, 0xFFFFFFFF, 0x0, 0x0, 0x0, 0x0⟩,
  ⟨0x300100, 4, 0x10, 0x0, 0xFFFFFFE0, 0x0, 0x0, 0x0, 0x0⟩,
  ⟨0x300104, 4, 0x10, 0x0, 0xFFFF, 0x0, 0x0, 0x0, 0x0⟩,
  ⟨0x300108, 4, 0x10, 0x0, 0x3F, 0x0, 0x0, 0x0, 0x0⟩,
  ⟨0x30010C, 4, 0x10, 0x0, 0x0, 0x0, 0x0, 0x0, 0x0⟩,
  ⟨0x300140, 1, 0x1, 0xEA60, 0xFFFFFFFF, 0x0, 0x0, 0x0, 0x0⟩,
  ⟨0x300150, 1, 0x1, 0x0, 0x7FF, 0x0, 0x0, 0x0, 0x0⟩,
  ⟨0x300154, 1, 0x1, 0x0, 0x7FF, 0x0, 0x0, 0x0, 0x0⟩,
  ⟨0x300158, 1, 0x1, 0x0, 0x0, 0x0, 0x0, 0x0, 0x0⟩,
  ⟨0x30015C, 1, 0x1, 0x0, 0x0, 0x0, 0x0, 0x0, 0x0⟩,
  ⟨0x300200, 1, 0x1, 0x0, 0x0, 0x0, 0x0, 0x0, 0xFFFFFFFF⟩,
  ⟨0x300204, 1, 0x1, 0x0, 0x0, 0x0, 0x0, 0x0, 0xFFFFFFFF⟩,
  ⟨0x300208, 1, 0x1, 0x0, 0x0, 0x0, 0x0, 0x0, 0xFFFFFFFF⟩,
  ⟨0x30020C, 1, 0x1, 0x0, 0x0, 0x0, 0x0, 0x0, 0xFFFFFFFF⟩]
/-- Registers of AIR, part 3. -/
def regRowsAir3 : List RegRow := [
  ⟨0x300210, 1, 0x1, 0x0, 0x0, 0x0, 0x0, 0x0, 0xFFFFFFFF⟩,
  ⟨0x300214, 1, 0x1, 0x0, 0x0, 0x0, 0x0, 0x0, 0xFFFFFFFF⟩,
  ⟨0x300218, 1, 0x1, 0x0, 0x0, 0x0, 0x0, 0x0, 0xFFFFFFFF⟩,
  ⟨0x30021C, 1, 0x1, 0x0, 0x0, 0x0, 0x0, 0x0, 0xFFFFFFFF⟩,
  ⟨0x300220, 1, 0x1, 0x0, 0x0, 0x0, 0x0, 0x0, 0xFFFFFFFF⟩,
  ⟨0x300224, 1, 0x1, 0x0, 0x0, 0x0, 0x0, 0x0, 0xFFFFFFFF⟩,
  ⟨0x300228, 1, 0x1, 0x0, 0x0, 0x0, 0x0, 0x0, 0xFFFFFFFF⟩,
  ⟨0x30022C, 1, 0x1, 0x0, 0x0, 0x0, 0x0, 0x0, 0xFFFFFFFF⟩,
  ⟨0x300230, 1, 0x1, 0x0, 0x0, 0x0, 0x0, 0x0, 0xFFFFFFFF⟩,
  ⟨0x300234, 1, 0x1, 0x0, 0x0, 0x0, 0x0, 0x0, 0xFFFFFFFF⟩,
  ⟨0x300404, 255, 0x4, 0x0, 0x7FFF, 0x0, 0x0, 0x0, 0x0⟩,
  ⟨0x301000, 256, 0x4, 0x0, 0xFFFFFFFF, 0x0, 0x0, 0x0, 0x0⟩,
  ⟨0x301400, 32, 0x4, 0x0, 0x0, 0x0, 0x0, 0x0, 0x0⟩,
  ⟨0x301480, 32, 0x4, 0x0, 0xFFFFFFFF, 0x0, 0x0, 0x0, 0x0⟩,
  ⟨0x301500, 1, 0x1, 0x0, 0xFF, 0x0, 0x0, 0x80000000, 0x0⟩,
  ⟨0x301600, 64, 0x4, 0x0, 0xFFFFFFFF, 0x0, 0x0, 0x0, 0x0⟩,
  ⟨0x302000, 8, 0x4, 0x0, 0xFFFF, 0x0, 0x0, 0x0, 0x0⟩,
  ⟨0x304000, 2048, 0x8, 0x0, 0xFF7FFFFF, 0x0, 0x0, 0x0, 0x0⟩,
  ⟨0x304004, 2048, 0x8, 0x0, 0xFFF, 0x0, 0x0, 0x0, 0x0⟩,
  ⟨0x340000, 4096, 0x20, 0x0, 0xFFFFFFFF, 0x0, 0x0, 0x0, 0x0⟩,
  ⟨0x340004, 4096, 0x20, 0x0, 0xFFFFFFFF, 0x0, 0x0, 0x0, 0x0⟩,
  ⟨0x340008, 4096, 0x20, 0xFFFF, 0xFF79FFFF, 0x0, 0x0, 0x0, 0x0⟩,
  ⟨0x34000C, 4096, 0x20, 0x0, 0xFFFFFFFF, 0x0, 0x0, 0x0, 0x0⟩,
  ⟨0x340010, 4096, 0x20, 0x0, 0xFF7FFF, 0x0, 0x0, 0x0, 0x0⟩,
  ⟨0x340014, 4096, 0x20, 0x0, 0x0, 0x0, 0x0, 0x0, 0x0⟩]
/-- Registers of AIR, part 4. -/
def regRowsAir4 : List RegRow := [
  ⟨0x340018, 4096, 0x20, 0x0, 0xFFFFF, 0x0, 0x0, 0x0, 0x0⟩,
  ⟨0x34001C, 4096, 0x20, 0x0, 0x0, 0x0, 0x0, 0x0, 0x0⟩]
/-- Registers of AIR. -/
def regRowsAir : List RegRow := regRowsAir1 ++ regRowsAir2 ++ regRowsAir3 ++ regRowsAir4
/-- Registers of CIU, part 1. -/
def regRowsCiu1 : List RegRow := [
  ⟨0x400000, 1, 0x1, 0x40001, 0x0, 0x0, 0x0, 0x0, 0x0⟩,
  ⟨0x400004, 1, 0x1, 0x0, 0x0, 0x0, 0x1A, 0x0, 0x0⟩,
  ⟨0x400008, 1, 0x1, 0x0, 0x0, 0x0, 0x5F, 0x0, 0x0⟩,
  ⟨0x400010, 1, 0x1, 0x1F00, 0x3, 0x1F00, 0x0, 0x4, 0x0⟩,
  ⟨0x400014, 1, 0x1, 0x400, 0xFFFF, 0x0, 0x0, 0x0, 0x0⟩,
  ⟨0x400100, 8, 0x4, 0x0, 0x0, 0x0, 0x0, 0x0, 0x0⟩,
  ⟨0x400120, 1, 0x1, 0x0, 0x0, 0x0, 0x0, 0x0, 0x0⟩,
  ⟨0x400124, 1, 0x1, 0x0, 0x0, 0x0, 0x0, 0x0, 0x0⟩,
  ⟨0x400128, 1, 0x1, 0x0, 0x0, 0x0, 0x0, 0x0, 0x0⟩,
  ⟨0x40012C, 1, 0x1, 0x0, 0x0, 0x0, 0x0, 0x0, 0x0⟩,
  ⟨0x400130, 1, 0x1, 0x0, 0x7FFF, 0x0, 0x0, 0x0, 0x0⟩,
  ⟨0x400134, 1, 0x1, 0x0, 0x0, 0x0, 0x0, 0x0, 0x0⟩,
  ⟨0x400138, 1, 0x1, 0x0, 0x0, 0x0, 0x0, 0x0, 0xFFFFFFFF⟩,
  ⟨0x400200, 8, 0x20, 0x100, 0x800FFF0F, 0x60000000, 0x0, 0x0, 0x0⟩,
  ⟨0x400204, 8, 0x20, 0x0, 0xFFFFFFC0, 0x0, 0x0, 0x0, 0x0⟩,
  ⟨0x400208, 8, 0x20, 0x0, 0xFFFF, 0x0, 0x0, 0x0, 0x0⟩,
  ⟨0x40020C, 8, 0x20, 0x0, 0x3FF, 0x0, 0x0, 0x0, 0x0⟩,
  ⟨0x400210, 8, 0x20, 0x0, 0x0, 0x0, 0x0, 0x0, 0x0⟩,
  ⟨0x400214, 8, 0x20, 0x0, 0x0, 0x0, 0x0, 0x0, 0x0⟩,
  ⟨0x400400, 1, 0x1, 0x0, 0x0, 0x0, 0x0, 0x0, 0xFFFFFFFF⟩,
  ⟨0x400404, 1, 0x1, 0x0, 0x0, 0x0, 0x0, 0x0, 0xFFFFFFFF⟩,
  ⟨0x400408, 6, 0x4, 0x0, 0x0, 0x0, 0x0, 0x0, 0xFFFFFFFF⟩,
  ⟨0x400500, 1, 0x1, 0x0, 0x1, 0x0, 0x0, 0x0, 0x0⟩,
  ⟨0x400504, 1, 0x1, 0x0, 0x0, 0x0, 0x0, 0x0, 0x0⟩]
/-- Registers of CIU, part 2. -/
def regRowsCiu2 : List RegRow := [
  ⟨0x400508, 1, 0x1, 0x0, 0x0, 0x0, 0x0, 0x0, 0xFFFFFFFF⟩,
  ⟨0x40050C, 1, 0x1, 0x0, 0x0, 0x0, 0x0, 0x0, 0xFFFFFFFF⟩,
  ⟨0x400510, 1, 0x1, 0x0, 0x0, 0x0, 0x0, 0x0, 0xFFFFFFFF⟩,
  ⟨0x400514, 1, 0x1, 0x0, 0x0, 0x0, 0x0, 0x0, 0xFFFFFFFF⟩,
  ⟨0x400600, 1, 0x1, 0x0, 0x0, 0x0, 0x0, 0x0, 0xFFFFFFFF⟩]
/-- Registers of CIU. -/
def regRowsCiu : List RegRow := regRowsCiu1 ++ regRowsCiu2
/-- Registers of FLO, part 1. -/
def regRowsFlo1 : List RegRow := [
  ⟨0x500000, 1, 0x1, 0x50001, 0x0, 0x0, 0x0, 0x0, 0x0⟩,
  ⟨0x500004, 1, 0x1, 0x0, 0x0, 0x0, 0x0, 0x0, 0x0⟩,
  ⟨0x500010, 1, 0x1, 0x0, 0x7, 0x0, 0x0, 0x0, 0x0⟩,
  ⟨0x500014, 1, 0x1, 0x20, 0x3FF, 0x0, 0x0, 0x0, 0x0⟩,
  ⟨0x500018, 1, 0x1, 0x2710, 0xFFFFFF, 0x0, 0x0, 0x0, 0x0⟩,
  ⟨0x50001C, 1, 0x1, 0x80000403, 0x80000F0F, 0x0, 0x0, 0x0, 0x0⟩,
  ⟨0x500020, 1, 0x1, 0x0, 0x0, 0x0, 0x0, 0x0, 0x0⟩,
  ⟨0x500024, 1, 0x1, 0x0, 0x0, 0x0, 0x0, 0x0, 0xFFFFFFFF⟩,
  ⟨0x500028, 1, 0x1, 0x0, 0x0, 0x0, 0x0, 0x0, 0x0⟩,
  ⟨0x500030, 4, 0x4, 0x0, 0x0, 0x0, 0x0, 0x0, 0x0⟩,
  ⟨0x500040, 1, 0x1, 0x0, 0x0, 0x0, 0x0, 0x0, 0x0⟩,
  ⟨0x500044, 1, 0x1, 0x0, 0x3FF, 0x0, 0x0, 0x0, 0x0⟩,
  ⟨0x500048, 1, 0x1, 0x0, 0x0, 0x0, 0x0, 0x0, 0x0⟩,
  ⟨0x50004C, 1, 0x1, 0x0, 0x0, 0x0, 0x0, 0x0, 0x0⟩,
  ⟨0x500050, 1, 0x1, 0x0, 0xFFF, 0x0, 0x0, 0x0, 0x0⟩,
  ⟨0x500054, 1, 0x1, 0x0, 0x0, 0x0, 0x0, 0x0, 0x0⟩,
  ⟨0x500058, 1, 0x1, 0x1F, 0x0, 0x0, 0x0, 0x0, 0x0⟩,
  ⟨0x500060, 1, 0x1, 0x0, 0x0, 0x0, 0x0, 0x0, 0xFFFFFFFF⟩,
  ⟨0x500064, 1, 0x1, 0x0, 0x0, 0x0, 0x0, 0x0, 0xFFFFFFFF⟩,
  ⟨0x500068, 1, 0x1, 0x0, 0x0, 0x0, 0x0, 0x0, 0xFFFFFFFF⟩,
  ⟨0x50006C, 1, 0x1, 0x0, 0x0, 0x0, 0x0, 0x0, 0xFFFFFFFF⟩,
  ⟨0x500070, 1, 0x1, 0x0, 0x0, 0x0, 0x0, 0x0, 0xFFFFFFFF⟩,
  ⟨0x500074, 1, 0x1, 0x0, 0x0, 0x0, 0x0, 0x0, 0xFFFFFFFF⟩,
  ⟨0x500078, 1, 0x1, 0x0, 0x0, 0x0, 0x0, 0x0, 0xFFFFFFFF⟩]
/-- Registers of FLO, part 2. -/
def regRowsFlo2 : List RegRow := [
  ⟨0x50007C, 1, 0x1, 0x0, 0x0, 0x0, 0x0, 0x0, 0xFFFFFFFF⟩,
  ⟨0x500080, 7, 0x4, 0x0, 0x1FF3F, 0x0, 0x0, 0x0, 0x0⟩,
  ⟨0x500100, 64, 0x10, 0x7F000, 0xFFE7FFFF, 0x0, 0x0, 0x0, 0x0⟩,
  ⟨0x500104, 64, 0x10, 0x0, 0xFFE0FFF0, 0x0, 0x0, 0x0, 0x0⟩,
  ⟨0x500108, 64, 0x10, 0x0, 0x0, 0x0, 0x0, 0x0, 0x0⟩,
  ⟨0x50010C, 64, 0x10, 0x0, 0x0, 0x0, 0x0, 0x0, 0x0⟩,
  ⟨0x500800, 24, 0x40, 0x40000000, 0xC0000000, 0x0, 0x0, 0x0, 0x0⟩,
  ⟨0x500804, 24, 0x40, 0x0, 0xFFFFFFFF, 0x0, 0x0, 0x0, 0x0⟩,
  ⟨0x500808, 24, 0x40, 0x0, 0xFFFFFFFF, 0x0, 0x0, 0x0, 0x0⟩,
  ⟨0x50080C, 24, 0x40, 0x0, 0x0, 0x0, 0x0, 0x0, 0x0⟩,
  ⟨0x500810, 24, 0x40, 0x0, 0x0, 0x0, 0x0, 0x0, 0xFFFFFFFF⟩,
  ⟨0x500814, 24, 0x40, 0x0, 0x0, 0x0, 0x0, 0x0, 0xFFFFFFFF⟩,
  ⟨0x500818, 24, 0x40, 0x0, 0x0, 0x0, 0x0, 0x0, 0xFFFFFFFF⟩,
  ⟨0x50081C, 24, 0x40, 0x0, 0x0, 0x0, 0x0, 0x0, 0xFFFFFFFF⟩,
  ⟨0x500820, 24, 0x40, 0x0, 0x0, 0x0, 0x0, 0x0, 0xFFFFFFFF⟩,
  ⟨0x500824, 24, 0x40, 0x0, 0x0, 0x0, 0x0, 0x0, 0xFFFFFFFF⟩,
  ⟨0x501000, 24, 0x40, 0x0, 0x0, 0x0, 0x0, 0x0, 0xFFFFFFFF⟩,
  ⟨0x501004, 24, 0x40, 0x0, 0x0, 0x0, 0x0, 0x0, 0xFFFFFFFF⟩,
  ⟨0x501008, 24, 0x40, 0x0, 0x0, 0x0, 0x0, 0x0, 0xFFFFFFFF⟩,
  ⟨0x50100C, 24, 0x40, 0x0, 0x0, 0x0, 0x0, 0x0, 0xFFFFFFFF⟩,
  ⟨0x501010, 24, 0x40, 0x0, 0x0, 0x0, 0x0, 0x0, 0xFFFFFFFF⟩,
  ⟨0x501014, 24, 0x40, 0x0, 0x0, 0x0, 0x0, 0x0, 0xFFFFFFFF⟩,
  ⟨0x501018, 24, 0x40, 0x0, 0x0, 0x0, 0x0, 0x0, 0xFFFFFFFF⟩,
  ⟨0x50101C, 24, 0x40, 0x0, 0x0, 0x0, 0x0, 0x0, 0xFFFFFFFF⟩]
/-- Registers of FLO, part 3. -/
def regRowsFlo3 : List RegRow := [
  ⟨0x501020, 24, 0x40, 0x0, 0x0, 0x0, 0x0, 0x0, 0xFFFFFFFF⟩,
  ⟨0x501024, 24, 0x40, 0x0, 0x0, 0x0, 0x0, 0x0, 0xFFFFFFFF⟩,
  ⟨0x501028, 24, 0x40, 0x0, 0x0, 0x0, 0x0, 0x0, 0xFFFFFFFF⟩,
  ⟨0x50102C, 24, 0x40, 0x0, 0x0, 0x0, 0x0, 0x0, 0xFFFFFFFF⟩,
  ⟨0x501030, 24, 0x40, 0x0, 0x0, 0x0, 0x0, 0x0, 0xFFFFFFFF⟩,
  ⟨0x501034, 24, 0x40, 0x0, 0x0, 0x0, 0x0, 0x0, 0xFFFFFFFF⟩,
  ⟨0x501038, 24, 0x40, 0x0, 0x0, 0x0, 0x0, 0x0, 0xFFFFFFFF⟩,
  ⟨0x50103C, 24, 0x40, 0x0, 0x0, 0x0, 0x0, 0x0, 0xFFFFFFFF⟩]
/-- Registers of FLO. -/
def regRowsFlo : List RegRow := regRowsFlo1 ++ regRowsFlo2 ++ regRowsFlo3
/-- Registers of APC, part 1. -/
def regRowsApc1 : List RegRow := [
  ⟨0x600100, 1, 0x1, 0x0, 0x0, 0xF, 0x0, 0x0, 0x0⟩,
  ⟨0x600108, 1, 0x1, 0x0, 0x0, 0xFFFFFFFF, 0x0, 0x0, 0x0⟩,
  ⟨0x60010C, 1, 0x1, 0x0, 0x0, 0xFFFF, 0x0, 0x0, 0x0⟩,
  ⟨0x610000, 1, 0x1, 0x0, 0xF8000000, 0x0, 0x0, 0x0, 0x0⟩,
  ⟨0x610004, 1, 0x1, 0x0, 0x0, 0x0, 0x4, 0x0, 0x0⟩,
  ⟨0x610010, 1, 0x1, 0x18, 0xFF, 0x0, 0x0, 0x0, 0x0⟩,
  ⟨0x610020, 1, 0x1, 0x0, 0x0, 0x0, 0x0, 0x0, 0xFFFFFFFF⟩,
  ⟨0x610024, 1, 0x1, 0x0, 0x0, 0x0, 0x0, 0x0, 0xFFFFFFFF⟩,
  ⟨0x610028, 1, 0x1, 0x0, 0x0, 0x0, 0x0, 0x0, 0x0⟩,
  ⟨0x61002C, 1, 0x1, 0x0, 0x0, 0x0, 0x0, 0x0, 0x0⟩,
  ⟨0x610030, 1, 0x1, 0x0, 0x0, 0x0, 0x0, 0x0, 0x0⟩,
  ⟨0x610034, 1, 0x1, 0x0, 0x0, 0x0, 0x0, 0x0, 0x0⟩,
  ⟨0x640000, 256, 0x4, 0x0, 0x7, 0x0, 0x0, 0x0, 0x0⟩,
  ⟨0x641000, 8, 0x4, 0x0, 0x0, 0x0, 0x0, 0x0, 0x0⟩,
  ⟨0x642000, 8, 0x4, 0x0, 0xFFFFFFFF, 0x0, 0x0, 0x0, 0x0⟩,
  ⟨0x642080, 8, 0x4, 0x0, 0xFFFFFFFF, 0x0, 0x0, 0x0, 0x0⟩,
  ⟨0x642100, 8, 0x4, 0x0, 0xFFFFFFFF, 0x0, 0x0, 0x0, 0x0⟩,
  ⟨0x642180, 8, 0x4, 0x0, 0xFFFFFFFF, 0x0, 0x0, 0x0, 0x0⟩,
  ⟨0x642200, 8, 0x4, 0x0, 0xFFFFFFFF, 0x0, 0x0, 0x0, 0x0⟩,
  ⟨0x642280, 8, 0x4, 0x0, 0xFFFFFFFF, 0x0, 0x0, 0x0, 0x0⟩,
  ⟨0x642300, 8, 0x4, 0x0, 0xFFFFFFFF, 0x0, 0x0, 0x0, 0x0⟩,
  ⟨0x642380, 8, 0x4, 0x0, 0xFFFFFFFF, 0x0, 0x0, 0x0, 0x0⟩,
  ⟨0x644000, 8, 0x8, 0x0, 0x7, 0x0, 0x0, 0x0, 0x0⟩,
  ⟨0x644004, 8, 0x8, 0x0, 0x0, 0x0, 0x0, 0x0, 0x0⟩,
  ⟨0x680000, 1, 0x1, 0x0, 0xFFFFF000, 0x0, 0x0, 0x0, 0x0⟩]
/-- Registers of APC, part 2. -/
def regRowsApc2 : List RegRow := [
  ⟨0x680004, 1, 0x1, 0x0, 0xFFFF, 0x0, 0x0, 0x0, 0x0⟩,
  ⟨0x680010, 1, 0x1, 0x0, 0x1, 0x0, 0x0, 0x0, 0x0⟩,
  ⟨0x680014, 1, 0x1, 0x0, 0x0, 0x0, 0x0, 0x0, 0x0⟩,
  ⟨0x680018, 1, 0x1, 0x0, 0x0, 0x0, 0xE, 0x0, 0x0⟩,
  ⟨0x680020, 1, 0x1, 0x0, 0x0, 0x0, 0x0, 0x0, 0xFFFFFFFF⟩,
  ⟨0x680024, 1, 0x1, 0x0, 0x0, 0x0, 0x0, 0x0, 0xFFFFFFFF⟩,
  ⟨0x680028, 1, 0x1, 0x0, 0x0, 0x0, 0x0, 0x0, 0xFFFFFFFF⟩,
  ⟨0x68002C, 1, 0x1, 0x0, 0x0, 0x0, 0x0, 0x0, 0xFFFFFFFF⟩,
  ⟨0x680030, 1, 0x1, 0x0, 0x0, 0x0, 0x0, 0x0, 0xFFFFFFFF⟩,
  ⟨0x680034, 1, 0x1, 0x0, 0x0, 0x0, 0x0, 0x0, 0xFFFFFFFF⟩]
/-- Registers of APC. -/
def regRowsApc : List RegRow := regRowsApc1 ++ regRowsApc2
/-- Registers of CLM, part 1. -/
def regRowsClm1 : List RegRow := [
  ⟨0x700000, 1, 0x1, 0x70001, 0x0, 0x0, 0x0, 0x0, 0x0⟩,
  ⟨0x700004, 1, 0x1, 0x0, 0x0, 0x0, 0x3800, 0x0, 0x0⟩,
  ⟨0x700010, 1, 0x1, 0x0, 0x7, 0x10, 0x0, 0x28, 0x0⟩,
  ⟨0x700014, 1, 0x1, 0x0, 0x3FFFFFFF, 0x0, 0x0, 0x0, 0x0⟩,
  ⟨0x700018, 1, 0x1, 0x1CC86040, 0x7FFFFFFF, 0x0, 0x0, 0x0, 0x0⟩,
  ⟨0x70001C, 1, 0x1, 0x3C10, 0xFFFFFF, 0x0, 0x0, 0x0, 0x0⟩,
  ⟨0x700020, 1, 0x1, 0x64, 0xFFFF, 0x0, 0x0, 0x0, 0x0⟩,
  ⟨0x700024, 1, 0x1, 0x0, 0x7FFFF, 0x0, 0x0, 0x0, 0x0⟩,
  ⟨0x700040, 8, 0x4, 0x0, 0xFFFFFFFF, 0x0, 0x0, 0x0, 0x0⟩,
  ⟨0x700060, 1, 0x1, 0x0, 0x0, 0x3, 0x0, 0x0, 0x0⟩,
  ⟨0x700064, 1, 0x1, 0x0, 0x0, 0x0, 0x0, 0x0, 0x0⟩,
  ⟨0x700070, 4, 0x4, 0x0, 0x0, 0xFFFFFFF, 0x0, 0x0, 0x0⟩,
  ⟨0x700080, 1, 0x1, 0x0, 0xFFFFF000, 0x0, 0x0, 0x0, 0x0⟩,
  ⟨0x700084, 1, 0x1, 0x0, 0xFFFF, 0x0, 0x0, 0x0, 0x0⟩,
  ⟨0x700088, 1, 0x1, 0x0, 0xFFFFF000, 0x0, 0x0, 0x0, 0x0⟩,
  ⟨0x70008C, 1, 0x1, 0x0, 0xFFFF, 0x0, 0x0, 0x0, 0x0⟩,
  ⟨0x700100, 3, 0x20, 0x0, 0x8000000F, 0x0, 0x0, 0x0, 0x0⟩,
  ⟨0x700104, 3, 0x20, 0x0, 0xFFFFFFE0, 0x0, 0x0, 0x0, 0x0⟩,
  ⟨0x700108, 3, 0x20, 0x0, 0xFFFF, 0x0, 0x0, 0x0, 0x0⟩,
  ⟨0x70010C, 3, 0x20, 0x0, 0x3FF, 0x0, 0x0, 0x0, 0x0⟩,
  ⟨0x700110, 3, 0x20, 0x0, 0x0, 0x0, 0x0, 0x0, 0x0⟩,
  ⟨0x700200, 1, 0x1, 0x0, 0x0, 0x0, 0x0, 0x0, 0xFFFFFFFF⟩,
  ⟨0x700204, 1, 0x1, 0x0, 0x0, 0x0, 0x0, 0x0, 0xFFFFFFFF⟩,
  ⟨0x700208, 1, 0x1, 0x0, 0x0, 0x0, 0x0, 0x0, 0xFFFFFFFF⟩]
/-- Registers of CLM, part 2. -/
def regRowsClm2 : List RegRow := [
  ⟨0x70020C, 1, 0x1, 0x0, 0x0, 0x0, 0x0, 0x0, 0xFFFFFFFF⟩,
  ⟨0x700210, 1, 0x1, 0x0, 0x0, 0x0, 0x0, 0x0, 0xFFFFFFFF⟩,
  ⟨0x700214, 1, 0x1, 0x0, 0x0, 0x0, 0x0, 0x0, 0xFFFFFFFF⟩,
  ⟨0x700218, 1, 0x1, 0x0, 0x0, 0x0, 0x0, 0x0, 0xFFFFFFFF⟩,
  ⟨0x70021C, 1, 0x1, 0x0, 0x0, 0x0, 0x0, 0x0, 0xFFFFFFFF⟩,
  ⟨0x700220, 1, 0x1, 0x0, 0x0, 0x0, 0x0, 0x0, 0x0⟩,
  ⟨0x700224, 1, 0x1, 0x0, 0x0, 0x0, 0x0, 0x0, 0xFFFFFFFF⟩,
  ⟨0x700228, 1, 0x1, 0x0, 0x0, 0x0, 0x0, 0x0, 0xFFFFFFFF⟩,
  ⟨0x70022C, 1, 0x1, 0x0, 0x0, 0x0, 0x0, 0x0, 0xFFFFFFFF⟩,
  ⟨0x700230, 1, 0x1, 0x0, 0x0, 0x0, 0x0, 0x0, 0xFFFFFFFF⟩,
  ⟨0x700234, 1, 0x1, 0x0, 0x0, 0x0, 0x0, 0x0, 0xFFFFFFFF⟩,
  ⟨0x700300, 1, 0x1, 0x0, 0x0, 0x0, 0x0, 0x0, 0x0⟩,
  ⟨0x700304, 1, 0x1, 0x0, 0x0, 0x0, 0x0, 0x0, 0x0⟩,
  ⟨0x700308, 1, 0x1, 0x0, 0x0, 0x0, 0x0, 0x0, 0x0⟩,
  ⟨0x70030C, 1, 0x1, 0x0, 0x0, 0x0, 0x0, 0x0, 0x0⟩,
  ⟨0x700310, 1, 0x1, 0x0, 0x0, 0x0, 0x0, 0x0, 0x0⟩,
  ⟨0x700314, 1, 0x1, 0x0, 0x0, 0x0, 0x0, 0x0, 0x0⟩,
  ⟨0x700318, 1, 0x1, 0x0, 0x0, 0x0, 0x0, 0x0, 0x0⟩,
  ⟨0x70031C, 1, 0x1, 0x0, 0x0, 0x0, 0x0, 0x0, 0x0⟩,
  ⟨0x700320, 1, 0x1, 0x0, 0x0, 0x0, 0x0, 0x0, 0x0⟩,
  ⟨0x700324, 1, 0x1, 0x0, 0x0, 0x0, 0x0, 0x0, 0x0⟩]
/-- Registers of CLM. -/
def regRowsClm : List RegRow := regRowsClm1 ++ regRowsClm2
/-- Registers of LEG, part 1. -/
def regRowsLeg1 : List RegRow := [
  ⟨0x800000, 1, 0x1, 0x80001, 0x0, 0x0, 0x0, 0x0, 0x0⟩,
  ⟨0x800004, 1, 0x1, 0x0, 0x0, 0x0, 0x0, 0x0, 0x0⟩,
  ⟨0x800008, 1, 0x1, 0x0, 0x0, 0x0, 0x0, 0x0, 0x0⟩,
  ⟨0x80000C, 1, 0x1, 0x0, 0x0, 0x0, 0x0, 0x0, 0x0⟩,
  ⟨0x800010, 1, 0x1, 0x0, 0x0, 0x0, 0x0, 0x0, 0x0⟩,
  ⟨0x800100, 4, 0x10, 0x0, 0x0, 0x0, 0x0, 0x0, 0x0⟩,
  ⟨0x800104, 4, 0x10, 0x0, 0x0, 0x0, 0x0, 0x0, 0x0⟩,
  ⟨0x800108, 4, 0x10, 0x0, 0x0, 0x0, 0x0, 0x0, 0x0⟩,
  ⟨0x80010C, 4, 0x10, 0x0, 0x0, 0x0, 0x0, 0x0, 0x0⟩,
  ⟨0x800140, 1, 0x1, 0x0, 0x0, 0x0, 0x0, 0x0, 0x0⟩,
  ⟨0x801000, 1, 0x1, 0x0, 0x0, 0x7, 0x0, 0x0, 0x0⟩,
  ⟨0x801004, 1, 0x1, 0x29, 0x0, 0xFFFF07FF, 0x0, 0x0, 0x0⟩,
  ⟨0x801008, 1, 0x1, 0xF, 0x0, 0xFF, 0x0, 0x0, 0x0⟩,
  ⟨0x801010, 1, 0x1, 0x0, 0x0, 0x0, 0x3, 0x0, 0x0⟩,
  ⟨0x801014, 1, 0x1, 0x0, 0x0, 0x0, 0x0, 0x0, 0xFFFFFFFF⟩,
  ⟨0x801018, 1, 0x1, 0x0, 0x0, 0x0, 0x0, 0x0, 0x0⟩,
  ⟨0x80101C, 1, 0x1, 0x0, 0x0, 0x0, 0x0, 0x0, 0x0⟩,
  ⟨0x801020, 1, 0x1, 0x0, 0x0, 0x800000FF, 0x0, 0x0, 0x0⟩,
  ⟨0x801024, 1, 0x1, 0x0, 0x0, 0xFFFFFFFF, 0x0, 0x0, 0x0⟩,
  ⟨0x801028, 1, 0x1, 0x0, 0x0, 0x0, 0x0, 0x0, 0x0⟩,
  ⟨0x801030, 1, 0x1, 0x0, 0x0, 0x7FFF7FFF, 0x0, 0x0, 0x0⟩,
  ⟨0x801040, 1, 0x1, 0x0, 0x0, 0x0, 0x0, 0x0, 0x0⟩,
  ⟨0x801044, 1, 0x1, 0x0, 0x0, 0x0, 0x0, 0x0, 0xFFFFFFFF⟩,
  ⟨0x801050, 1, 0x1, 0x0, 0x0, 0x0, 0x0, 0x0, 0x0⟩]
/-- Registers of LEG, part 2. -/
def regRowsLeg2 : List RegRow := [
  ⟨0x801054, 1, 0x1, 0x0, 0x0, 0x0, 0x0, 0x0, 0x0⟩,
  ⟨0x801058, 1, 0x1, 0x0, 0x0, 0x0, 0x0, 0x0, 0x0⟩,
  ⟨0x80105C, 1, 0x1, 0x0, 0x0, 0x0, 0x0, 0x0, 0xFFFFFFFF⟩,
  ⟨0x801060, 1, 0x1, 0x0, 0x0, 0x0, 0x0, 0x0, 0x0⟩,
  ⟨0x801064, 1, 0x1, 0x0, 0x0, 0x0, 0x0, 0x0, 0xFFFFFFFF⟩,
  ⟨0x801068, 1, 0x1, 0x0, 0x0, 0x0, 0x0, 0x0, 0xFFFFFFFF⟩]
/-- Registers of LEG. -/
def regRowsLeg : List RegRow := regRowsLeg1 ++ regRowsLeg2
/-- Registers of BAL, part 1. -/
def regRowsBal1 : List RegRow := [
  ⟨0x900000, 1, 0x1, 0x90001, 0x0, 0x0, 0x0, 0x0, 0x0⟩,
  ⟨0x900004, 1, 0x1, 0x0, 0x0, 0x0, 0xC, 0x0, 0x0⟩,
  ⟨0x900010, 1, 0x1, 0x0, 0x3, 0x0, 0x0, 0x0, 0x0⟩,
  ⟨0x900014, 1, 0x1, 0x41, 0xFFFF3, 0x0, 0x0, 0x0, 0x0⟩,
  ⟨0x900018, 1, 0x1, 0x783C05, 0xFFFFFFFF, 0x0, 0x0, 0x0, 0x0⟩,
  ⟨0x90001C, 1, 0x1, 0x41A60, 0xFFFF7F, 0x0, 0x0, 0x0, 0x0⟩,
  ⟨0x900020, 1, 0x1, 0x1E0071F, 0xFFF1F1F, 0x0, 0x0, 0x0, 0x0⟩,
  ⟨0x900024, 1, 0x1, 0xCD199A, 0xFFFFFFFF, 0x0, 0x0, 0x0, 0x0⟩,
  ⟨0x900028, 1, 0x1, 0x0, 0xFFFFFFFF, 0x0, 0x0, 0x0, 0x0⟩,
  ⟨0x900030, 6, 0x8, 0x0, 0xFFFFF000, 0x0, 0x0, 0x0, 0x0⟩,
  ⟨0x900034, 6, 0x8, 0x0, 0xFFFF, 0x0, 0x0, 0x0, 0x0⟩,
  ⟨0x900060, 1, 0x1, 0x0, 0xF, 0x0, 0x0, 0x0, 0x0⟩,
  ⟨0x900064, 1, 0x1, 0x0, 0x0, 0x0, 0x0, 0x0, 0x0⟩,
  ⟨0x900068, 1, 0x1, 0x0, 0xFFFFFFFF, 0x0, 0x0, 0x0, 0x0⟩,
  ⟨0x90006C, 1, 0x1, 0x0, 0x0, 0x0, 0x0, 0x0, 0xFFFFFFFF⟩,
  ⟨0x900070, 1, 0x1, 0x0, 0xFFFFFFFF, 0x0, 0x0, 0x0, 0x0⟩,
  ⟨0x900074, 1, 0x1, 0x0, 0xFFFF, 0x0, 0x0, 0x0, 0x0⟩,
  ⟨0x900078, 1, 0x1, 0x0, 0x0, 0x0, 0x0, 0x0, 0x0⟩,
  ⟨0x90007C, 1, 0x1, 0x0, 0x0, 0x0, 0x0, 0x0, 0x0⟩,
  ⟨0x900080, 1, 0x1, 0x0, 0x3FFF, 0x0, 0x0, 0x0, 0x0⟩,
  ⟨0x900084, 1, 0x1, 0x0, 0x0, 0x0, 0x0, 0x0, 0x0⟩,
  ⟨0x900088, 1, 0x1, 0x0, 0x0, 0x0, 0x0, 0x0, 0x0⟩,
  ⟨0x90008C, 1, 0x1, 0x0, 0x0, 0x0, 0x0, 0x0, 0x0⟩,
  ⟨0x900100, 1, 0x1, 0x0, 0xFFFFFFE0, 0x0, 0x0, 0x0, 0x0⟩]
/-- Registers of BAL, part 2. -/
def regRowsBal2 : List RegRow := [
  ⟨0x900104, 1, 0x1, 0x0, 0xFFFF, 0x0, 0x0, 0x0, 0x0⟩,
  ⟨0x900108, 1, 0x1, 0x0, 0x8000000F, 0x0, 0x0, 0x0, 0x0⟩,
  ⟨0x90010C, 1, 0x1, 0x0, 0x3FF, 0x0, 0x0, 0x0, 0x0⟩,
  ⟨0x900110, 1, 0x1, 0x0, 0x0, 0x0, 0x0, 0x0, 0x0⟩,
  ⟨0x900200, 1, 0x1, 0x0, 0x0, 0x0, 0x0, 0x0, 0xFFFFFFFF⟩,
  ⟨0x900204, 1, 0x1, 0x0, 0x0, 0x0, 0x0, 0x0, 0xFFFFFFFF⟩,
  ⟨0x900208, 1, 0x1, 0x0, 0x0, 0x0, 0x0, 0x0, 0xFFFFFFFF⟩,
  ⟨0x90020C, 1, 0x1, 0x0, 0x0, 0x0, 0x0, 0x0, 0xFFFFFFFF⟩,
  ⟨0x900210, 1, 0x1, 0x0, 0x0, 0x0, 0x0, 0x0, 0xFFFFFFFF⟩,
  ⟨0x900214, 1, 0x1, 0x0, 0x0, 0x0, 0x0, 0x0, 0xFFFFFFFF⟩,
  ⟨0x900218, 1, 0x1, 0x0, 0x0, 0x0, 0x0, 0x0, 0xFFFFFFFF⟩,
  ⟨0x90021C, 1, 0x1, 0x0, 0x0, 0x0, 0x0, 0x0, 0xFFFFFFFF⟩,
  ⟨0x900220, 1, 0x1, 0x0, 0x0, 0x0, 0x0, 0x0, 0xFFFFFFFF⟩,
  ⟨0x900224, 1, 0x1, 0x0, 0x0, 0x0, 0x0, 0x0, 0xFFFFFFFF⟩,
  ⟨0x910000, 4096, 0x40, 0x0, 0xFFFFF3FF, 0x0, 0x0, 0x0, 0x0⟩,
  ⟨0x910004, 4096, 0x40, 0x0, 0x3FFFF, 0x0, 0x0, 0x0, 0x0⟩,
  ⟨0x910008, 4096, 0x40, 0x0, 0x0, 0x0, 0x0, 0x0, 0x0⟩,
  ⟨0x91000C, 4096, 0x40, 0x0, 0xFFFFFFFF, 0x0, 0x0, 0x0, 0x0⟩,
  ⟨0x910010, 4096, 0x40, 0x0, 0xFFFFFFFF, 0x0, 0x0, 0x0, 0x0⟩,
  ⟨0x910014, 4096, 0x40, 0x100000, 0x0, 0x0, 0x0, 0x0, 0x0⟩,
  ⟨0x910018, 4096, 0x40, 0x0, 0x0, 0x0, 0x0, 0x0, 0x0⟩,
  ⟨0x91001C, 4096, 0x40, 0x0, 0x0, 0x0, 0x0, 0x0, 0x0⟩,
  ⟨0x910020, 4096, 0x40, 0x0, 0x0, 0x0, 0x0, 0x0, 0x0⟩,
  ⟨0x910024, 4096, 0x40, 0x0, 0x0, 0x0, 0x0, 0x0, 0x0⟩]
/-- Registers of BAL. -/
def regRowsBal : List RegRow := regRowsBal1 ++ regRowsBal2
/-- Registers of GRD, part 1. -/
def regRowsGrd1 : List RegRow := [
  ⟨0xA00000, 1, 0x1, 0x81201200, 0x0, 0x0, 0x0, 0x0, 0x0⟩,
  ⟨0xA00004, 1, 0x1, 0x0, 0x0, 0x0, 0x60, 0x0, 0x0⟩,
  ⟨0xA00010, 1, 0x1, 0x0, 0x0, 0x0, 0x0, 0x0, 0x0⟩,
  ⟨0xA00014, 1, 0x1, 0x0, 0x0, 0x8000000F, 0x0, 0x0, 0x0⟩,
  ⟨0xA00018, 1, 0x1, 0x0, 0x0, 0x0, 0x0, 0x0, 0x0⟩,
  ⟨0xA0001C, 1, 0x1, 0x0, 0x0, 0x0, 0x0, 0x0, 0x0⟩,
  ⟨0xA00100, 1, 0x1, 0x0, 0x0, 0x80017FFF, 0x0, 0x0, 0x0⟩,
  ⟨0xA00104, 1, 0x1, 0x0, 0x0, 0xFFFFFFFF, 0x0, 0x0, 0x0⟩,
  ⟨0xA00108, 1, 0x1, 0x0, 0x0, 0x0, 0x0, 0x0, 0x0⟩,
  ⟨0xA00120, 8, 0x4, 0x0, 0x0, 0xFFFFFFFF, 0x0, 0x0, 0x0⟩,
  ⟨0xA00140, 24, 0x4, 0x0, 0x0, 0x0, 0x0, 0x0, 0x0⟩,
  ⟨0xA00400, 1, 0x1, 0x0, 0x0, 0x1FB, 0x0, 0x0, 0x0⟩,
  ⟨0xA00404, 1, 0x1, 0x0, 0x0, 0x1FB, 0x0, 0x0, 0x0⟩,
  ⟨0xA00408, 1, 0x1, 0x0, 0x0, 0x1FB, 0x0, 0x0, 0x0⟩,
  ⟨0xA0040C, 1, 0x1, 0x0, 0x0, 0x1FB, 0x0, 0x0, 0x0⟩,
  ⟨0xA00410, 1, 0x1, 0x0, 0x0, 0x1FB, 0x0, 0x0, 0x0⟩,
  ⟨0xA00414, 1, 0x1, 0x2, 0x0, 0x1FB, 0x0, 0x0, 0x0⟩,
  ⟨0xA00418, 1, 0x1, 0x2, 0x0, 0x1FB, 0x0, 0x0, 0x0⟩,
  ⟨0xA0041C, 1, 0x1, 0x1, 0x0, 0x1FB, 0x0, 0x0, 0x0⟩,
  ⟨0xA00420, 1, 0x1, 0x2, 0x0, 0x1FB, 0x0, 0x0, 0x0⟩,
  ⟨0xA00424, 1, 0x1, 0x1, 0x0, 0x1FB, 0x0, 0x0, 0x0⟩,
  ⟨0xA00428, 1, 0x1, 0x2, 0x0, 0x1FB, 0x0, 0x0, 0x0⟩,
  ⟨0xA00440, 1, 0x1, 0x0, 0x0, 0x0, 0x0, 0x0, 0x0⟩,
  ⟨0xA00444, 1, 0x1, 0x0, 0x0, 0x0, 0x7FF, 0x0, 0x0⟩]
/-- Registers of GRD, part 2. -/
def regRowsGrd2 : List RegRow := [
  ⟨0xA00448, 1, 0x1, 0x0, 0x0, 0x7, 0x0, 0x0, 0x0⟩,
  ⟨0xA0044C, 11, 0x4, 0x0, 0x0, 0x0, 0x0, 0x0, 0xFFFFFFFF⟩,
  ⟨0xA00500, 1, 0x1, 0x0, 0x0, 0x0, 0x0, 0x0, 0x0⟩,
  ⟨0xA00504, 1, 0x1, 0x0, 0x0, 0x0, 0x0, 0x0, 0x0⟩,
  ⟨0xA00520, 1, 0x1, 0x0, 0x0, 0x80000007, 0x0, 0x0, 0x0⟩,
  ⟨0xA00524, 1, 0x1, 0x0, 0x0, 0xFFFF, 0x0, 0x0, 0x0⟩,
  ⟨0xA00540, 8, 0x4, 0x0, 0x0, 0xFFFFFFFF, 0x0, 0x0, 0x0⟩,
  ⟨0xA00800, 1, 0x1, 0x0, 0x0, 0x1, 0x0, 0x0, 0x0⟩,
  ⟨0xA00804, 1, 0x1, 0x0, 0x0, 0x0, 0x0, 0x0, 0xFFFFFFFF⟩,
  ⟨0xA00808, 1, 0x1, 0x0, 0x0, 0x0, 0x0, 0x0, 0xFFFFFFFF⟩,
  ⟨0xA0080C, 1, 0x1, 0x0, 0x0, 0x0, 0x0, 0x0, 0x0⟩,
  ⟨0xA00810, 1, 0x1, 0x0, 0x0, 0x0, 0x0, 0x0, 0x0⟩,
  ⟨0xA01000, 64, 0x20, 0x0, 0x0, 0xFFFFFFFF, 0x0, 0x0, 0x0⟩,
  ⟨0xA01004, 64, 0x20, 0x0, 0x0, 0xF, 0x0, 0x0, 0x0⟩,
  ⟨0xA01008, 64, 0x20, 0x0, 0x0, 0xFFFFFFFF, 0x0, 0x0, 0x0⟩,
  ⟨0xA0100C, 64, 0x20, 0x0, 0x0, 0xF, 0x0, 0x0, 0x0⟩,
  ⟨0xA01010, 64, 0x20, 0x0, 0x0, 0xFFFFFFFF, 0x0, 0x0, 0x0⟩,
  ⟨0xA01014, 64, 0x20, 0x0, 0x0, 0xFFFFFFFF, 0x0, 0x0, 0x0⟩,
  ⟨0xA01018, 64, 0x20, 0x0, 0x0, 0x1, 0x0, 0x0, 0x0⟩,
  ⟨0xA0101C, 64, 0x20, 0x0, 0x0, 0x0, 0x0, 0x0, 0x0⟩,
  ⟨0xA02000, 64, 0x20, 0x0, 0x0, 0x0, 0x0, 0x0, 0x0⟩,
  ⟨0xA02004, 64, 0x20, 0x0, 0x0, 0x0, 0x0, 0x0, 0x0⟩,
  ⟨0xA02008, 64, 0x20, 0x0, 0x0, 0x0, 0x0, 0x0, 0x0⟩,
  ⟨0xA0200C, 64, 0x20, 0x0, 0x0, 0x0, 0x0, 0x0, 0x0⟩]
/-- Registers of GRD, part 3. -/
def regRowsGrd3 : List RegRow := [
  ⟨0xA02010, 64, 0x20, 0x0, 0x0, 0x0, 0x0, 0x0, 0x0⟩,
  ⟨0xA02014, 64, 0x20, 0x0, 0x0, 0x0, 0x0, 0x0, 0x0⟩,
  ⟨0xA02018, 64, 0x20, 0x0, 0x0, 0x0, 0x0, 0x0, 0x0⟩,
  ⟨0xA0201C, 64, 0x20, 0x0, 0x0, 0x0, 0x0, 0x0, 0x0⟩,
  ⟨0xA04000, 1, 0x1, 0x0, 0x0, 0x0, 0x6, 0x0, 0x0⟩,
  ⟨0xA04004, 1, 0x1, 0x0, 0x80000007, 0x0, 0x0, 0x0, 0x0⟩,
  ⟨0xA04008, 1, 0x1, 0x20000, 0xFFFF0, 0x0, 0x0, 0x0, 0x0⟩,
  ⟨0xA0400C, 1, 0x1, 0x0, 0x0, 0x0, 0x0, 0x0, 0x0⟩,
  ⟨0xA04010, 1, 0x1, 0x0, 0xFFFFFFFF, 0x0, 0x0, 0x0, 0x0⟩,
  ⟨0xA04014, 1, 0x1, 0x0, 0x0, 0x0, 0x0, 0x0, 0x0⟩,
  ⟨0xA04018, 1, 0x1, 0x0, 0x0, 0x0, 0x0, 0x0, 0xFFFFFFFF⟩,
  ⟨0xA0401C, 1, 0x1, 0x0, 0x0, 0x0, 0x0, 0x0, 0x0⟩,
  ⟨0xA04020, 1, 0x1, 0x0, 0x0, 0x0, 0x0, 0x0, 0x0⟩,
  ⟨0xA04024, 1, 0x1, 0x0, 0x0, 0x0, 0x0, 0x0, 0x0⟩,
  ⟨0xA04028, 1, 0x1, 0x0, 0x0, 0x0, 0x0, 0x0, 0x0⟩,
  ⟨0xA0402C, 1, 0x1, 0x0, 0x0, 0x0, 0x0, 0x0, 0x0⟩,
  ⟨0xA04040, 1, 0x1, 0x0, 0x81FFFFFF, 0x0, 0x0, 0x0, 0x0⟩,
  ⟨0xA04044, 1, 0x1, 0x0, 0x0, 0x0, 0x0, 0x0, 0x0⟩,
  ⟨0xA05000, 1024, 0x4, 0x0, 0x0, 0x0, 0x0, 0x0, 0x0⟩,
  ⟨0xA06000, 1, 0x1, 0x0, 0x0, 0x1, 0x0, 0x0, 0x0⟩,
  ⟨0xA06004, 1, 0x1, 0x0, 0x80000007, 0x0, 0x0, 0x0, 0x0⟩,
  ⟨0xA06008, 1, 0x1, 0x0, 0x0, 0x0, 0x0, 0x0, 0x0⟩,
  ⟨0xA0600C, 1, 0x1, 0x0, 0x0, 0x0, 0x0, 0x0, 0x0⟩,
  ⟨0xA06010, 1, 0x1, 0x0, 0x0, 0xFFFFFFFF, 0x0, 0x0, 0x0⟩]
/-- Registers of GRD, part 4. -/
def regRowsGrd4 : List RegRow := [
  ⟨0xA06014, 1, 0x1, 0x0, 0x0, 0xFF, 0x0, 0x0, 0x0⟩,
  ⟨0xA06018, 1, 0x1, 0x0, 0xFFFFFFFF, 0x0, 0x0, 0x0, 0x0⟩,
  ⟨0xA0601C, 1, 0x1, 0x0, 0xFFFF, 0x0, 0x0, 0x0, 0x0⟩,
  ⟨0xA06020, 8, 0x4, 0x0, 0x0, 0xFFFFFFFF, 0x0, 0x0, 0x0⟩,
  ⟨0xA06040, 8, 0x4, 0x0, 0x0, 0x0, 0x0, 0x0, 0x0⟩,
  ⟨0xA06080, 1, 0x1, 0x0, 0x0, 0x0, 0x0, 0x0, 0xFFFFFFFF⟩,
  ⟨0xA07000, 1024, 0x4, 0x0, 0x0, 0x0, 0x0, 0x0, 0x0⟩]
/-- Registers of GRD. -/
def regRowsGrd : List RegRow := regRowsGrd1 ++ regRowsGrd2 ++ regRowsGrd3 ++ regRowsGrd4
/-- Registers of CRP, part 1. -/
def regRowsCrp1 : List RegRow := [
  ⟨0xB00000, 1, 0x1, 0xB0001, 0x0, 0x0, 0x0, 0x0, 0x0⟩,
  ⟨0xB00004, 1, 0x1, 0x0, 0x0, 0x0, 0x1C, 0x0, 0x0⟩,
  ⟨0xB00010, 1, 0x1, 0x0, 0x80000003, 0x0, 0x0, 0x0, 0x0⟩,
  ⟨0xB00014, 1, 0x1, 0x0, 0x0, 0x0, 0x0, 0x0, 0x0⟩,
  ⟨0xB00018, 1, 0x1, 0x0, 0x7FFFF, 0x0, 0x0, 0x0, 0x0⟩,
  ⟨0xB0001C, 1, 0x1, 0xA140A14, 0x0, 0xFF7FFFFF, 0x0, 0x0, 0x0⟩,
  ⟨0xB00020, 1, 0x1, 0xFA, 0x0, 0x1FF, 0x0, 0x0, 0x0⟩,
  ⟨0xB00024, 1, 0x1, 0x0, 0x0, 0x0, 0x0, 0x0, 0x0⟩,
  ⟨0xB00040, 1, 0x1, 0x0, 0x0, 0x1, 0x0, 0x0, 0x0⟩,
  ⟨0xB00044, 1, 0x1, 0x1, 0x0, 0x0, 0x3F, 0x0, 0x0⟩,
  ⟨0xB00048, 1, 0x1, 0x0, 0x3FF, 0x0, 0x0, 0x0, 0x0⟩,
  ⟨0xB0004C, 1, 0x1, 0x0, 0xFFFF, 0x0, 0x0, 0x80000000, 0x0⟩,
  ⟨0xB00050, 1, 0x1, 0x0, 0x0, 0x0, 0x0, 0x0, 0x0⟩,
  ⟨0xB00060, 1, 0x1, 0x0, 0x0, 0x0, 0x80000000, 0x0, 0x0⟩,
  ⟨0xB00064, 1, 0x1, 0x10460, 0x10FFF, 0x0, 0x0, 0x0, 0x0⟩,
  ⟨0xB00100, 1, 0x1, 0x1, 0x3, 0x0, 0x40000000, 0x0, 0x0⟩,
  ⟨0xB00104, 1, 0x1, 0x0, 0x3, 0x0, 0x40000000, 0x0, 0x0⟩,
  ⟨0xB00108, 1, 0x1, 0x0, 0x3, 0x0, 0x40000000, 0x0, 0x0⟩,
  ⟨0xB0010C, 1, 0x1, 0x0, 0x3, 0x0, 0x40000000, 0x0, 0x0⟩,
  ⟨0xB00110, 1, 0x1, 0x0, 0x3, 0x0, 0x40000000, 0x0, 0x0⟩,
  ⟨0xB00114, 1, 0x1, 0x0, 0x3, 0x0, 0x40000000, 0x0, 0x0⟩,
  ⟨0xB00118, 1, 0x1, 0x0, 0x3, 0x0, 0x40000000, 0x0, 0x0⟩,
  ⟨0xB0011C, 1, 0x1, 0x0, 0x3, 0x0, 0x40000000, 0x0, 0x0⟩,
  ⟨0xB00120, 1, 0x1, 0x1, 0x0, 0x3, 0x40000000, 0x0, 0x0⟩]
/-- Registers of CRP, part 2. -/
def regRowsCrp2 : List RegRow := [
  ⟨0xB00124, 1, 0x1, 0x0, 0x0, 0x0, 0x40000000, 0x0, 0x0⟩,
  ⟨0xB00180, 5, 0x4, 0x0, 0x0, 0x0, 0x0, 0x0, 0x0⟩,
  ⟨0xB001C0, 1, 0x1, 0x0, 0xFFF, 0x0, 0x0, 0x0, 0x0⟩,
  ⟨0xB00200, 14, 0x4, 0x0, 0x0, 0x0, 0x0, 0x0, 0xFFFFFFFF⟩,
  ⟨0xB00240, 14, 0x4, 0x0, 0x0, 0x0, 0x0, 0x0, 0xFFFFFFFF⟩,
  ⟨0xB00280, 1, 0x1, 0x0, 0x0, 0x0, 0x0, 0x0, 0xFFFFFFFF⟩,
  ⟨0xB00300, 1, 0x1, 0x84007, 0xFFF3F, 0x0, 0x0, 0x0, 0x0⟩,
  ⟨0xB00304, 1, 0x1, 0x0, 0x0, 0x0, 0x0, 0x0, 0x0⟩,
  ⟨0xB00308, 1, 0x1, 0x0, 0x0, 0x0, 0x0, 0x0, 0x0⟩,
  ⟨0xB00400, 1, 0x1, 0x100, 0x100, 0x0, 0x0, 0x1, 0x0⟩,
  ⟨0xB00408, 12, 0x8, 0x0, 0x0, 0x0, 0x0, 0x0, 0x0⟩,
  ⟨0xB0040C, 12, 0x8, 0x0, 0x0, 0x0, 0x0, 0x0, 0x0⟩,
  ⟨0xB00468, 1, 0x1, 0x0, 0x0, 0x0, 0x0, 0x0, 0x0⟩,
  ⟨0xB0046C, 1, 0x1, 0x0, 0x0, 0x0, 0x0, 0x0, 0x0⟩,
  ⟨0xB00800, 1, 0x1, 0x0, 0x60FFFF80, 0x0, 0x0, 0x80000000, 0x0⟩,
  ⟨0xB00804, 1, 0x1, 0x0, 0x0, 0x0, 0x0, 0x0, 0x0⟩,
  ⟨0xB00808, 1, 0x1, 0x0, 0x0, 0x0, 0x0, 0x0, 0x0⟩,
  ⟨0xB0080C, 1, 0x1, 0x0, 0x0, 0x0, 0x0, 0x0, 0x0⟩,
  ⟨0xB00810, 1, 0x1, 0x0, 0x0, 0x0, 0x0, 0x0, 0x0⟩,
  ⟨0xB00814, 1, 0x1, 0x0, 0x0, 0x0, 0x0, 0x0, 0x0⟩,
  ⟨0xB00818, 1, 0x1, 0x0, 0x0, 0x0, 0x0, 0x0, 0xFFFFFFFF⟩,
  ⟨0xB00840, 13, 0x4, 0x0, 0x0, 0x0, 0x0, 0x0, 0x0⟩,
  ⟨0xB00880, 13, 0x4, 0x0, 0x0, 0x0, 0x0, 0x0, 0x0⟩,
  ⟨0xB00900, 13, 0x8, 0x0, 0x0, 0x0, 0x0, 0x0, 0x0⟩]
/-- Registers of CRP, part 3. -/
def regRowsCrp3 : List RegRow := [
  ⟨0xB00904, 13, 0x8, 0x0, 0x0, 0x0, 0x0, 0x0, 0x0⟩]
/-- Registers of CRP. -/
def regRowsCrp : List RegRow := regRowsCrp1 ++ regRowsCrp2 ++ regRowsCrp3

/-- The rows of the block an offset lies in. -/
def regRowsOf (key : Nat) : List RegRow :=
  match key / 0x100000 with
  | 0 => regRowsRing
  | 1 => regRowsBkb
  | 2 => regRowsLma
  | 3 => regRowsAir
  | 4 => regRowsCiu
  | 5 => regRowsFlo
  | 6 => regRowsApc
  | 7 => regRowsClm
  | 8 => regRowsLeg
  | 9 => regRowsBal
  | 10 => regRowsGrd
  | 11 => regRowsCrp
  | _ => []

/-- Within an Air Unit's block, unit 1's window lies 512 KiB above unit 0's and has the same
registers (04_air_units.md R105). -/
def regFold (key : Nat) : Nat :=
  if key / 0x100000 = 3 ∧ 0x380000 ≤ key then key - 0x80000 else key

/-- The register at an offset, if one is there (R22: other offsets hold no register). -/
def regRow? (key : Nat) : Option RegRow := (regRowsOf key).find? (·.covers (regFold key))

/-- What a register reads as when nothing has been written to it: its reset value. -/
def regReset (key : Nat) : Word :=
  match regRow? key with
  | some r => BitVec.ofNat 32 r.reset
  | none => 0

end Sys2Proof.Machine
end

