-- ==== Sys2Proof/Machine/State.lean ====
section
/-!
DEFINITION. The state of the chip, as plain data: the register file, the addressed memory,
and for each block the state the manual gives it beside its registers; the queue of the
commands that wait; why a step can stop; and the machine right after power-on reset.
-/
namespace Sys2Proof.Machine

/-! ### Life cycle (12_guard.md R362, R363) -/

/-- The four life-cycle states, in the order the device moves through them (R362). -/
inductive LcState where
  | blank
  | personalised
  | sealed
  | retired
  deriving DecidableEq, Repr

/-- One of the four copies of the state in the life-cycle area, with whether its CRC-32
checks (R363). -/
structure LcCopy where
  state : LcState
  tripped : Bool
  rootKilled : Bool
  good : Bool
  deriving DecidableEq, Repr

/-- The life-cycle state in force, TRIPPED, ROOT_KILLED and the four copies of them in eMRAM. -/
structure LifeCycle where
  state : LcState
  tripped : Bool
  rootKilled : Bool
  copies : List LcCopy
  deriving DecidableEq, Repr

/-! ### The Ember log (16_ember_log.md) -/

/-- A record of the log (Table 2): header fields and payload. -/
structure EmbRec where
  typ : Nat
  flags : BitVec 8
  seq : BitVec 32
  opsec : BitVec 32
  pcyc : Nat
  sub : BitVec 8
  payload : List Byte
  snap : Bool
  deriving DecidableEq, Repr

/-- A snapshot slot (R465): its header and the records copied, with the count of snapshots
taken before it, which orders the slots by age. -/
structure EmbSnap where
  num : Nat
  seq : BitVec 32
  opsec : BitVec 32
  pcyc : Nat
  sub : BitVec 8
  count : Nat
  used : Nat
  body : List Byte
  deriving DecidableEq, Repr

/-- The Ember log: intake queue, areas, snapshots, counters, read window, staging window. -/
structure Ember where
  intake : List EmbRec           -- oldest first (R461)
  snapDue : List EmbRec          -- committed triggers whose snapshot is still to be taken (R465)
  first : List (Nat × EmbRec)    -- first area: position and record, in order (R463)
  firstUsed : Nat                -- bytes used in the first area
  firstFull : Bool
  last : List (Nat × EmbRec)     -- last area: position and record, oldest first (R464)
  head : Nat                     -- next write position in the last area
  snaps : List (Nat × EmbSnap)   -- slots in use
  snapCnt : Nat
  seq : BitVec 32                -- next SEQ (R460)
  opsec : BitVec 32
  sub : BitVec 8
  pcyc : Nat
  savedOpsec : BitVec 32         -- committed every 16 s (R460)
  savedSub : BitVec 8
  thisSecond : Nat               -- records accepted in this operating second (R462)
  dropsNow : Nat                 -- drops in this second
  dropsTyp : Nat                 -- TYPE of the first of them
  dropsDue : Option (Nat × Nat)  -- count and first TYPE of a past second, still to be reported
  window : List Byte             -- read window
  loadedAt : Option Nat          -- position of the record the window was loaded from
  stage : List (Nat × Word)      -- staging window, by word offset
  stageOwner : Option Level
  markDue : Bool                 -- the time mark of a power-on reset is still to be written (R469)
  deriving DecidableEq, Repr

/-! ### Flow Scheduler (06_flow_scheduler.md) -/

/-- An allocation operand (Table 2). -/
structure AllocOp where
  cls : BitVec 6
  src : BitVec 4
  hvalid : Bool
  fmtv : Bool
  cordv : Bool
  kind : BitVec 4
  smn : BitVec 32
  cord : BitVec 12
  buf : BitVec 11
  fmt : BitVec 8
  arg : BitVec 16
  deriving DecidableEq, Repr

/-- A pod operand (Table 3) as it stands in a slot. -/
structure PodOp where
  kind : BitVec 4
  status : BitVec 8
  value : BitVec 64
  deriving DecidableEq, Repr

/-- Slots 1–3 of a pod: the kind expected (0 NONE) and the operand held. -/
structure Slot where
  exp : BitVec 4
  op : Option PodOp
  deriving DecidableEq, Repr

/-- Pod states (Table 4). -/
inductive PodState where
  | free
  | wait
  | ready
  | queued
  | run
  | done
  deriving DecidableEq, Repr

/-- Whether a pod has passed the binding stage (R185). -/
inductive Binding where
  | unbound
  | unordered
  | bound (cord : BitVec 12) (seq : BitVec 20)
  deriving DecidableEq, Repr

/-- A pod: header and operand slots (Table 4, R178–R190). -/
structure Pod where
  state : PodState
  gen : BitVec 8
  alloc : AllocOp
  slots : List Slot              -- slots 1, 2 and 3
  cordSrc : BitVec 2             -- CORDSRC and DEFCORD as at allocation
  defCord : BitVec 12
  cord : Option (BitVec 12)      -- cord once known for binding (R185)
  binding : Binding
  holds : Nat
  fmtReqs : Nat                  -- FMT requests that BAL has not answered (R176, R177)
  staleFmt : Nat                 -- those of them that a later one has replaced (R177)
  ctxGone : Bool                 -- the context engine has found no context (R177)
  intr : Bool
  ticket : BitVec 32
  nocpl : Bool
  cpl : List Word                -- PORT_CPL0–15 as finished
  core : Nat                     -- core whose inbox or RUN holds it
  order : Nat                    -- frame number of its order record, 0 none (15 R446)
  deriving DecidableEq, Repr

/-- A flow core as the scheduler sees it (R183, R188–R191), with its ports (Table 8). -/
structure FlowCore where
  inbox : List (Nat × Nat)       -- (entry, pod), oldest first
  run : Option (Nat × Nat)       -- (entry, pod) held in RUN
  stalled : Bool                 -- a PORT_TAKE read waits
  post : List Word               -- PORT_POST0–2 as last written
  postst : Word
  win : List (Nat × Word)        -- PORT_WIN0–3
  cpl : List (Nat × Word)        -- PORT_CPL0–15
  err : Word                     -- PORT_ERR
  take : Word                    -- value the last completed PORT_TAKE returned
  deriving DecidableEq, Repr

/-- A cord (R184–R186). -/
structure Cord where
  next : BitVec 20
  rel : BitVec 20
  aff : Option (Fin 24)
  deriving DecidableEq, Repr

/-- A request the scheduler has issued to a producer for a pod (R176, R177). -/
inductive ProdReq where
  | hcx (pod : BitVec 10) (handle : BitVec 20)
  | key (pod : BitVec 10) (handle : BitVec 20)
  | fmt (pod : BitVec 10) (index : BitVec 8)
  deriving DecidableEq, Repr

/-- The Flow Scheduler. -/
structure Flo where
  pods : List (Nat × Pod)        -- entries that differ from a pod never allocated
  freeList : List (BitVec 10)    -- first in, first out (R175)
  queues : List (Nat × List AllocOp)  -- allocation queue of sources 0–5 (Table 5)
  srcNext : Nat                  -- source after which the allocation round robin goes on
  ticket : BitVec 32
  unbound : List (BitVec 10)     -- allocated, not yet bound, in ticket order
  ready : List (Nat × List (BitVec 10))  -- ready list of each class, head first
  prioTurn : List (Nat × (Nat × Nat))    -- per PRIO: class in turn and dispatches left to it
  rr : Nat                       -- R183
  cords : List (Nat × Cord)
  cordTurn : Nat                 -- cord after which the release round robin goes on
  cores : List (Nat × FlowCore)
  reqs : List ProdReq            -- issued and not yet taken up, in ticket order
  post : List Word               -- FLO_OPND_POST0–2 as last written
  deriving DecidableEq, Repr

/-! ### Host rings and the cluster (11_host_rings_and_cluster.md) -/

/-- Indices of a ring pair (R344, Table 9). -/
structure RingPair where
  sqPi : Nat
  sqCi : Nat
  cqPi : Nat
  cqCi : Nat
  phase : Bool                   -- PHASE of the pass in progress
  unsig : Nat                    -- entries written and not yet signalled (R349)
  deriving DecidableEq, Repr

/-- Indices of an event ring (R347). -/
structure EvtRing where
  pi : Nat
  ci : Nat
  phase : Bool
  nseq : BitVec 32
  unsig : Nat
  lost : Nat                     -- notices lost and not yet told of by a 0x0001 notice
  deriving DecidableEq, Repr

/-- A completion on its way to a completion ring (Table 5). -/
structure Cpl where
  pair : Nat
  tag : BitVec 32
  kind : BitVec 8
  status : BitVec 8
  body : List Byte               -- bytes 8–63
  desc : Bool                    -- caused by a descriptor
  order : Nat                    -- order record that ACK must cover first, 0 none (15 R448)
  deriving DecidableEq, Repr

/-- A notice (Table 7) before its NSEQ is given. -/
structure Notice where
  typ : Nat
  time : BitVec 64
  body : List Byte               -- bytes 16–63
  deriving DecidableEq, Repr

/-- A legal descriptor waiting for the Seal level (R342). -/
structure LglDesc where
  pair : Nat
  tag : BitVec 32
  addr : BitVec 64
  len : Nat
  reply : BitVec 64
  cap : Nat
  deriving DecidableEq, Repr

/-- A cached translation (R352): domain, page, page it maps to, permissions. -/
structure Xlat where
  dom : Nat
  page : Nat
  target : Nat
  rd : Bool
  wr : Bool
  deriving DecidableEq, Repr

/-- A request that RING holds in its image of the Clamp's queue 2 or the CIU's queue 7 (R342):
the pair and tag it completes to, and the entry. -/
structure RingCmd where
  pair : Nat
  tag : BitVec 32
  entry : List Byte
  deriving DecidableEq, Repr

/-- Advanced Error Reporting of the endpoint (R335; its layout: log entry 102): uncorrectable and correctable status
and masks, severity, the first error that was not masked, and the header of its TLP. -/
structure Aer where
  uncorr : Word
  mask : Word
  severity : Word
  corr : Word
  corrMask : Word
  first : Nat
  header : List Byte
  deriving DecidableEq, Repr

/-- The Ring Interface. -/
structure Ring where
  pairs : List (Nat × RingPair)
  evts : List (Nat × EvtRing)
  fetchTurn : Nat
  cpls : List Cpl                -- completions waiting, oldest first
  posted : List Notice           -- notices posted by sources, not yet routed
  queued : List (Nat × Notice)   -- internal queue of 256: (event ring, notice)
  lgl : List LglDesc
  cry : List RingCmd             -- image of CIU queue 7
  clm : List RingCmd             -- image of the Clamp's queue 2
  cache : List Xlat
  inval : Bool                   -- a RING_IOMMU_INVAL is in progress
  linkTrained : Bool             -- the link has trained since the last reset (R336)
  subsys : Word                  -- subsystem IDs latched at that training
  setup : PciSetup               -- configuration space as the host has programmed it (R335)
  d3hot : Bool                   -- the function is in D3hot
  aer : Aer
  sent : List Nat                -- MSI-X messages sent, newest first
  deriving DecidableEq, Repr

/-- A transfer to or from a packet-buffer slot, pools (02_line_modem_array.md R65, R490). -/
structure PoolState where
  ranged : Bool                  -- the pool has taken the range LO to HI
  runs : List (Nat × Nat)        -- runs of slots not free: first slot and length
  deriving DecidableEq, Repr

/-- Privilege modes of a hart (R353). -/
inductive HartMode where
  | machine
  | supervisor
  | user
  deriving DecidableEq, Repr

/-- A hart (R353, R354, R356; the names and layout of its control registers: log entry 105): its mode, program counter,
paging (satp: bare, Sv39 or Sv48), the configuration and address of its 16 PMP regions, and the machine-mode trap
registers. -/
structure Hart where
  mode : HartMode
  pc : BitVec 64
  satp : BitVec 64
  pmp : List (Byte × BitVec 64)
  mstatus : BitVec 64
  mtvec : BitVec 64
  mepc : BitVec 64
  mcause : BitVec 64
  mtval : BitVec 64
  deriving DecidableEq, Repr

/-- The Application Cluster (R353–R360). -/
structure Apc where
  started : List Nat             -- cores released
  harts : List (Nat × Hart)
  claimed : List (Nat × Nat)     -- (context, source) claimed and not completed
  ddrSelfRefresh : Bool
  poison : List Nat              -- 64-bit DRAM words stored as uncorrectable (R359)
  lastUe : Option (BitVec 64)    -- network time of the last uncorrectable error (15 Table 5)
  mtime : Nat                    -- the cores' timer in 1/4 µs (R353)
  deriving DecidableEq, Repr

/-! ### Guard (12_guard.md) -/

/-- Debug states (Table 8). -/
inductive DbgState where
  | closed
  | service
  | opened
  deriving DecidableEq, Repr

/-- A derivation in progress (R368–R371): what GRD_KDF_CMD, _ATTR and _CTX held at the GO, and how
many cipher requests had been accepted before it (R149). -/
structure KdfReq where
  slot : Nat
  attr : Word
  ctx : List Byte
  pub : Bool
  since : Nat
  deriving DecidableEq, Repr

/-- The Guard, apart from the life cycle. -/
structure Grd where
  kindled : Bool                 -- the kindling record exists
  entropyWait : Bool             -- kindling waits for the entropy source (step 3)
  pufKey : List Byte             -- what PUF and helper data reconstruct
  wrapped : List (List Byte)     -- the two wrapped copies of the root secret
  root : Option (List Byte)      -- root working register
  kdf : Option KdfReq            -- derivation in progress
  present : List Nat             -- tamper sources whose condition is present
  dbg : DbgState
  dbgReq : Option Nat            -- state requested and raised to the firmware
  challenge : Option (List Byte)
  backoff : Bool
  refusals : Nat                 -- consecutive refused responses
  coreHeld : Bool                -- Guard core held in reset (R384)
  pathCut : Bool                 -- its path to legal and life-cycle regions cut (R384)
  sram : List Host.Cell          -- the Guard core's 64 KiB SRAM, the bytes that are not 0 (R384)
  tdo : List Byte                -- what the debug port last returned
  bypass : Bool
  deriving DecidableEq, Repr

/-! ### Updates (13_update_and_tinder.md) -/

/-- A manifest (Table 4) with its wrapper: the whole image, and what it spells. -/
structure Manifest where
  image : List Byte
  series : BitVec 32
  imgLen : Nat
  nChunk : Nat
  entry : BitVec 64
  loads : List (Nat × Nat × Nat) -- image offset, length, destination
  chash : List (List Byte)
  deriving DecidableEq, Repr

/-- An image arriving over the chain in pieces: KIND, SERIES and the bytes so far. -/
structure Arriving where
  kind : Nat
  series : BitVec 32
  got : List (Nat × Byte)
  deriving DecidableEq, Repr

/-- A chain frame to a node (Table 8), its sender's node number and FCRC apart. -/
structure ChainFrame where
  typ : Nat
  dest : Nat
  series : BitVec 32
  kind : Nat
  chunk : Nat
  offset : Nat
  data : List Byte
  deriving DecidableEq, Repr

/-- What the journal holds (R396; the chain order: log entry 51). -/
structure Journal where
  state : Nat
  next : Nat
  verified : List Nat
  installed : Option Manifest
  pending : Option Manifest
  series : List (Nat × Word)
  order : List (Nat × Nat)
  deriving DecidableEq, Repr

/-- A copy of the journal in eMRAM: which write it was, and its CRC-32. -/
structure JournalCopy where
  num : Nat
  journal : Journal
  crc : Nat
  deriving DecidableEq, Repr

/-- Tinder's journal, its two copies, and the chain (R396, R402). -/
structure Upd where
  state : Nat                    -- Table 7
  next : Nat
  verified : List Nat            -- chunks verified in staging
  installed : Option Manifest
  pending : Option Manifest
  series : List (Nat × Word)     -- accepted series by kind (0 the image manifest)
  order : List (Nat × Nat)       -- chain order in force: node, parent
  arriving : List Arriving
  pieces : List (Nat × Byte)     -- bytes of the chunk being received
  pieceChunk : Nat
  copies : List JournalCopy      -- in eMRAM, the one written last first; at most two
  write : Option (Nat × Nat)     -- the WRITE of chunk NEXT: its number in the Clamp, and its STATUS once it ends
  retried : Bool                 -- the WRITE of chunk NEXT has failed once (R397)
  paused : Bool                  -- stopped by the RIDE notice (R398)
  deriving DecidableEq, Repr

/-! ### Clocks, power and reset (14_clocks_power_reset.md) -/

/-- Power states (Table 10). -/
inductive Power where
  | run
  | trim
  | hold
  | ride
  | dormant
  | off
  deriving DecidableEq, Repr

/-- A switch of a source multiplexer in progress (R408, R409). -/
structure MuxSwitch where
  old : Nat
  new : Nat
  forced : Bool
  newSide : Bool                 -- the new side did not respond
  deriving DecidableEq, Repr

/-- CRP. -/
structure Crp where
  power : Power
  before : Power                 -- RUN or TRIM before HOLD or RIDE
  coreEn : Bool                  -- the pin CORE_EN (R428)
  startStep : Nat                -- step of Table 9 reached; 8 when every block is released
  rstLow : Bool                  -- RST_N is low
  xaValid : Bool
  xbValid : Bool
  switches : List (Nat × MuxSwitch)
  code : Nat                     -- trim code (retained)
  factory : Nat                  -- fused factory code
  trim : Option Nat              -- measurements made in a trim run in progress
  trimRef : Nat                  -- its reference, in the order of Table 7
  trimTemp : Nat                 -- CRP_TEMP.TEMP at the start of the last trim (R414, 17 R484)
  closing : List Nat             -- gates requested and not yet closed
  closed : List Nat              -- blocks whose gate is closed
  noted : List Nat               -- gated blocks whose first access is recorded
  downs : List Nat               -- crossings that await re-handshake: blocks, and 16 + m for multiplexer m
  energy : List Nat              -- 12 subsystem counters and the count of readings
  saved : List Nat               -- their retained copy (R33)
  snapping : Bool
  wdtFirst : Bool                -- a first expiry without a kick since
  holdEntry : Bool               -- a HOLD command is being entered
  pfail : Bool                   -- PFAIL_N asserted
  coreLow : Bool                 -- VDD_CORE below 0.74 V
  deferred : Bool                -- RIDE deferred by kindling
  rideWaits : Bool               -- RIDE waits for a forced switch to end (R409)
  flushed : Bool                 -- steps 6 and 7 of the RIDE sequence have ended (Table 12)
  descent : Nat                  -- cause of a descent called for (1–3), 0 none
  keptDram : Bool                -- DRAM was placed in self-refresh ahead of a reset (R422)
  deriving DecidableEq, Repr

/-! ### Network time (10_time_and_backbone.md R317–R320) -/

/-- The timing unit's counter: nanoseconds, 2^-32 ns fraction, the increment in force (in
2^-32 ns), the pair half held for the write of the other, and what remains of a slew. -/
structure Tim where
  now : BitVec 64
  frac : BitVec 32
  inc : Nat
  incLo : Word
  slewing : Bool
  slewRem : Int
  utcOfs : BitVec 16             -- TAI − UTC in force (R324)
  nowHi : Word                   -- _HI as latched by the last read of _LO (R321)
  deriving DecidableEq, Repr
/-! ### Line Modem Array (02_line_modem_array.md, 03_line_network.md) -/

/-- What a lane is doing (LMA_LANE_STATn). -/
inductive LanePhase where
  | idle
  | header
  | payload
  | held
  deriving DecidableEq, Repr

/-- A frame header that was judged valid (Table 5). -/
structure TlHeader where
  mod : Nat
  rep : Nat
  gmask : Nat
  len : Nat
  zco : Nat
  crel : Nat
  snid : Nat
  deriving DecidableEq, Repr

/-- A decoded frame on its way to the packing queue: its record (Table 8), its payload, and
whether it failed its decode. -/
structure LineFrame where
  record : List Byte
  payload : List Byte
  dest : Nat
  rawFail : Bool
  deriving DecidableEq, Repr

/-- A demodulation lane. -/
structure Lane where
  phase : LanePhase
  cfg : Word                     -- LMA_LANE_CFGn in force (R56)
  pending : Bool                 -- a written configuration is not yet in force
  power : BitVec 16              -- SYNC-A power of the frame, signed, 0.25 dB
  ts : BitVec 64                 -- time stamp (R58)
  tr : Nat                       -- T_R, 10 µs units; 4,095 reference lost
  hdr : TlHeader
  snr : BitVec 8
  margin : BitVec 8
  frame : Option LineFrame       -- frame held for want of a place (R57)
  deriving DecidableEq, Repr

/-- A zero-crossing reference (R39). -/
structure ZcRef where
  last : Option (BitVec 64)      -- time of the last accepted crossing
  lost : Bool
  regained : Nat                 -- crossings accepted since the loss
  periods : List Nat             -- last 16 periods, newest first, ns
  deriving DecidableEq, Repr

/-- The amplitude of a carrier in a symbol: nominal, or a point of 16QAM in steps of 1/√10 (02 Table 4). -/
inductive ToneAmp where
  | unit
  | qam (i q : Int)
  deriving DecidableEq, Repr

/-- A carrier of a symbol: its number k, its amplitude, and its phase in steps of π/8. -/
structure Tone where
  carrier : Nat
  amp : ToneAmp
  turn : Nat
  deriving DecidableEq, Repr

/-- A symbol on the wire: its samples at 1.6 Msps, how many of its last ones are sent before it as a cyclic prefix,
and its carriers; all others have zero amplitude (02 R41, R42). -/
structure LineSym where
  samples : Nat
  cyclic : Nat
  tones : List Tone
  deriving DecidableEq, Repr

/-- What a modulation chain sends. -/
inductive LineTxKind where
  | request
  | beacon (cell : Nat)
  | ack
  deriving DecidableEq, Repr

/-- A transmission waiting for its launch or on the wire. -/
structure LineTx where
  kind : LineTxKind
  band : Nat
  mode : Nat                     -- MOD and REP as in byte 18 of Table 7
  gmask : Nat
  crel : Nat
  snid : Nat
  zco : Nat                      -- filled at the launch
  payload : List Byte
  launchAt : BitVec 64           -- LAUNCH_AT, 0 when there is none
  sentAt : Option (BitVec 64)    -- actual launch
  header : BitVec 80             -- the frame header as sent, formed at the launch (R50)
  wave : List LineSym            -- the symbols put on the wire, formed at the launch (R41, R42)
  atten : Nat                    -- digital attenuation in force, dB (Table 13)
  clip : Nat                     -- peak-to-average limit in force, 0.5 dB (Table 13)
  deriving DecidableEq, Repr

/-- A modulation chain: what it sends, the bands blanked on its input, and what it last put on
the wire. -/
structure LineChain where
  tx : Option LineTx
  blank : List (List Nat)        -- bands, one list for each frame whose blanking is not over (R61)
  last : Option LineTx
  deriving DecidableEq, Repr

/-- A phase record (R70): relations 0–5, 7 unknown; the last 64 classified frames, newest
first. -/
structure PhaseRec where
  committed : Nat
  candidate : Nat
  run : Nat
  window : List Nat
  deriving DecidableEq, Repr

/-- A phase notice on its way to BAL (07 Table 11). -/
structure PhaseNotice where
  handle : BitVec 20
  rel : Nat
  conf : Nat
  hvalid : Bool
  dest : Nat
  deriving DecidableEq, Repr

/-- What the LMA keeps of a cell beside its registers: the configuration in force (Table 8), the open
expectation (R95) and the last partner beacon, as its BSN and time stamp (R102). -/
structure LineCell where
  cfg : Word
  expect : Option Nat
  heard : Option (Nat × BitVec 64)
  deriving DecidableEq, Repr

/-- An acknowledgement due (R89). -/
structure AckDue where
  cell : Nat
  dest : Nat
  seq : Byte
  margin : BitVec 8
  deriving DecidableEq, Repr

/-- The Line Modem Array. -/
structure Lma where
  lanes : List (Nat × Lane)
  gains : List (Nat × Option Nat) -- gain that the automatic control of an input has set, 6 dB steps (R37)
  zc : List (Nat × ZcRef)
  chains : List (Nat × LineChain)
  storing : List AllocOp         -- frames written to slots, operand not yet posted (R65)
  direct : Bool                  -- mode in force (R66)
  pq : List (List Word)          -- frames of direct mode, oldest first, the first perhaps part read
  stalled : Bool                 -- a read of LMA_PQ_DATA waits
  phase : List (Nat × PhaseRec)
  notices : List PhaseNotice
  cells : List (Nat × LineCell)
  acks : List AckDue
  offers : List (Word × Word)    -- offers waiting for the sweep, oldest first: LMA_RT_OFFER and _LINK (R101)
  deriving DecidableEq, Repr


/-! ### Air Units (04_air_units.md) -/

/-- What a unit does in a slot (R118, R120, R129). -/
inductive AirWork where
  | idle
  | send (q idx cell nbr : Nat)
  | beacon (cell : Nat)
  | listen (cell nbr : Nat)
  | extended (nbr : Nat)         -- an idle slot given to a neighbour in search
  deriving DecidableEq, Repr

/-- The slot in progress: its ASN and start, its work, its channel, the half width of the receive
window in µs (none: the whole slot), the time its scripts have taken, whether they have ended,
whether its frame was launched, whether an expected beacon was heard, and whether it began without
IQCLK (R108). -/
structure AirSlot where
  asn : Nat
  start : BitVec 64
  work : AirWork
  chan : Nat
  window : Option Nat
  us : Nat
  ready : Bool
  launched : Bool
  heard : Bool
  deaf : Bool
  deriving DecidableEq, Repr

/-- A transmit request taken from a queue and not completed (R119): its entry as read, attempts
made, the frame counter of its first attempt, the last launch time, and since when it has been
the oldest request for its neighbour. -/
structure AirReq where
  q : Nat
  idx : Nat
  entry : List Byte
  tries : Nat
  fc : Option (BitVec 32)
  sentAt : BitVec 32
  since : Option (BitVec 64)
  deriving DecidableEq, Repr

/-- A request whose frame is on the air or awaits its acknowledgement, and when that frame ends. -/
structure AirAwait where
  q : Nat
  idx : Nat
  nbr : Nat
  shared : Bool
  dsn : Option Nat
  ends : BitVec 64
  deriving DecidableEq, Repr

/-- An acknowledgement due (R124): the frame to send and its channel. -/
structure AirAck where
  frame : List Byte
  chan : Nat
  deriving DecidableEq, Repr

/-- What a script serves: an event of its own (INIT, SLEEP, IDLE, software), the slot that runs, or a slot that
has ended under it, with the time the scripts of that slot had taken before it. -/
inductive ScriptOf where
  | own
  | slot
  | past (us : Nat)
  deriving DecidableEq, Repr

/-- One Air Unit, beside its registers and tables. -/
structure AirUnit where
  aligned : Bool                 -- the IQ receiver is aligned (R107)
  anchor : Option (Nat × BitVec 64) -- TIMEBASE 1: an ASN and the time of its boundary
  source : Option Nat            -- TIMEBASE 1: the current time source
  resyncAt : BitVec 64           -- when resynchronisation began (R133)
  resyncTold : Bool              -- its limit has passed
  hopAt : Nat                    -- entry of the hopping list listened to in resynchronisation
  hopLen : Nat                   -- length of the active hopping list (R117)
  scripts : List (Nat × ScriptOf) -- the script that runs, then those to follow, each with what it serves
  spi : List (List Byte)         -- bytes sent by the last script, one list for each CS_N low
  slot : Option AirSlot
  idling : Bool                  -- IDLE has run in this run of slots without work (R112)
  reqs : List AirReq
  done : List (Nat × Nat)        -- (queue, index) completed and not yet passed by CI
  wait : Option AirAwait
  ack : Option AirAck
  backoff : List (Nat × (Nat × Nat)) -- neighbour: backoff exponent and shared cells to let pass
  dwell : List (Nat × List Nat)  -- accumulator: 17 buckets, the current one first (R126)
  sent : List Byte               -- the last PSDU sent, with its FCS
  held : List (Nat × Word)       -- control registers written in the slot: the value still in force (R136)
  deriving DecidableEq, Repr

/-! ### Context engine and Cipher Unit (05_sessions_and_cipher.md) -/

/-- A way of the hot context store (R139, R493). -/
structure HcxWay where
  handle : BitVec 20
  valid : Bool
  held : Bool
  deriving DecidableEq, Repr

/-- A look-up that waits for a flush or a way: its pod and handle, and whether it is counted as a miss and as a
wait already (R140, R142). -/
structure HcxWait where
  pod : BitVec 10
  handle : BitVec 20
  missed : Bool
  counted : Bool
  deriving DecidableEq, Repr

/-- A miss being served: the way chosen, the handle wanted, the pods that asked, and the
context still to be written back out of the way (R140). -/
structure HcxMove where
  way : Nat
  handle : BitVec 20
  pods : List (BitVec 10)
  out : Option (BitVec 20 × List Byte)
  counted : List (BitVec 10)     -- those of the pods whose wait for a way is counted
  deriving DecidableEq, Repr

/-- A flush in progress (R142). -/
structure HcxFlush where
  handle : BitVec 20
  inval : Bool
  written : Bool
  deriving DecidableEq, Repr

/-- The context engine. -/
structure Hcx where
  ways : List (Nat × HcxWay)
  used : List (Nat × List Nat)   -- per set: ways, least recently used first
  waiting : List HcxWait         -- look-ups waiting, in ticket order
  moves : List HcxMove
  flush : Option HcxFlush
  deriving DecidableEq, Repr

/-- A key slot: its attribute word (Table 3) and its content XORed with its mask (R145). -/
structure KeySlot where
  attr : Word
  stored : BitVec 256
  deriving DecidableEq, Repr

/-- A load or erase of a slot waiting for the requests that name it (R149). -/
structure KeyLoad where
  slot : Nat
  erase : Bool
  attr : Word
  key : BitVec 256
  bySeal : Bool
  since : Nat                    -- requests accepted before it (R149)
  deriving DecidableEq, Repr

/-- A request in progress: queue, entry index, the 64-byte entry, and its place in the order of
acceptance. -/
structure CiuReq where
  queue : Nat
  idx : Nat
  entry : List Byte
  order : Nat
  owner : Option (Nat × BitVec 32)  -- ring pair and tag of a request of RING
  deriving DecidableEq, Repr

/-- A session miss being served (R151): pods asking, handle, whether the hot context has come. -/
structure SessMiss where
  pod : BitVec 10
  handle : BitVec 20
  counted : Bool
  deriving DecidableEq, Repr

/-- Why an erase of every key is running (R167). -/
inductive EraseCause where
  | alarm
  | tamper
  | power
  | kiln
  deriving DecidableEq, Repr

/-- The Cipher Unit and the Key Register. -/
structure Ciu where
  slots : List (Nat × KeySlot)
  masks : List (BitVec 256)      -- empty while destroyed
  winOwner : Option Level
  winKey : List (Nat × Word)
  winAttr : Word
  loads : List KeyLoad           -- loads and erases waiting, oldest first
  sessUsed : List (Nat × List Nat)  -- per set: ways, least recently used first
  sessHandle : List (Nat × BitVec 21) -- handle a session slot is for, bit 20 set when one is
  misses : List SessMiss
  sessInval : List (BitVec 20)   -- invalidations waiting for a way to be unpinned
  inflight : List CiuReq
  finished : List (Nat × Nat)    -- (queue, index) completed out of order, not yet passed
  fetched : List (Nat × Nat)     -- per queue: entries accepted, as an index
  accepted : Nat                 -- requests accepted in all
  turn : Nat                     -- queue the round robin stands at
  left : Nat                     -- entries left to it in this round
  laneKeys : List Nat            -- slots whose expanded keys the lanes hold
  airKeys : List (Nat × BitVec 256) -- CCM* key registers of the Air Units
  erasing : Option EraseCause
  drbgSeeded : Bool
  drbgCalls : Nat
  ceilNoticed : List (Nat × Word) -- per handle: TX_CEIL whose low water was told of
  rxNoticed : List (BitVec 20)   -- handles whose exhaustion was told of
  deriving DecidableEq, Repr

/-! ### Balance and Validation Engine (07_validation_and_balance.md) -/

/-- A request in progress: entry index, the 32-byte entry, whether its reading was refused. -/
structure BalReq where
  idx : Nat
  entry : List Byte
  refused : Bool
  deriving DecidableEq, Repr

/-- A batch of archive records on its way to the Clamp, and the pod it names (R199). -/
structure Batch where
  pod : BitVec 10
  records : List (List Byte)
  deriving DecidableEq, Repr

/-- A value of a check meter for an interval (R218): balance value, or squared current. -/
structure CheckVal where
  handle : Nat
  k : Int
  i2h : Bool
  v : Int
  deriving DecidableEq, Repr

/-- The residuals of the last two closed intervals of a group, newest first, with whether each was
VALID, how many have closed since the last declared shift, to 3, and the index of the newest (R223). -/
structure ShiftHist where
  last : List (Int × Bool)
  fresh : Nat
  upTo : Int
  deriving DecidableEq, Repr

/-- The Balance and Validation Engine. -/
structure Bal where
  reqs : List BalReq             -- in progress, in the order taken (R198)
  fetched : Nat                  -- index of the next entry to take
  done : List Nat                -- completed and not yet passed by QCI
  image : Option Nat             -- kind of an image load that waits (R205)
  out : List Batch
  nextOpen : Option Int          -- oldest interval not yet closed
  dayDue : Option Int            -- a day whose last interval has closed (R224)
  checks : List CheckVal
  shifts : List (Nat × ShiftHist)
  reports : List (List Byte)     -- internal queue of 64 (R229), RSEQ not yet given
  rseq : BitVec 32
  deriving DecidableEq, Repr
/-! ### The Clamp (08_clamp_media.md) -/

/-- A programmed plane page: the metadata of its codewords (Table 4) and its user bytes.  `sector`
is that of codeword 0, or the object number of a system page. -/
structure NandPage where
  sector : Nat
  stream : Nat
  flags : Nat
  seq : Nat
  rick : Nat
  ec : Nat
  data : List Byte
  deriving DecidableEq, Repr

/-- An anchor record (R257): its place in the order of writing, its two pages, the SEQ of the first (the
second's is one more), the erase count of its block, and what it holds. -/
structure Anchor where
  num : Nat
  ppa : Nat
  ppa2 : Nat
  seq : Nat
  ec : Nat
  geom : Word
  sizes : List Nat
  sck : Nat
  nextSeq : Nat
  nextRick : Nat
  dir : List Nat                 -- PPAs of the directory; none before the first checkpoint
  blk : List Nat                 -- PPAs of the block table
  marks : List Nat               -- SEQ of the last marker of each namespace
  patrol : Nat
  retired : List (Nat × Nat)     -- retired blocks and their STATE
  deriving DecidableEq, Repr

/-- The NAND devices: their geometry as CLM_GEOM would spell it, the blocks marked bad by the
factory, the programmed pages of ricks by PPA, and the records in the anchor blocks, newest first. -/
structure Nand where
  devices : Word
  badMarks : List Nat
  pages : List (Nat × NandPage)
  anchors : List Anchor
  deriving DecidableEq, Repr

/-- A unit in the write buffer: SEQ, content, and the PPA once programmed while the parity of its
row is not yet (R241). -/
structure WbUnit where
  unit : Nat
  seq : Nat
  data : List Byte
  place : Option Nat
  deriving DecidableEq, Repr

/-- An open or closed rick (R238–R240): its block on each channel, data pages programmed, the XOR
of the row of each plane, and what program failures have left of it (R250, R261). -/
structure Rick where
  num : Nat
  stream : Nat
  blocks : List Nat
  pos : Nat
  par : List (List Byte)
  failed : List Nat              -- channels whose blocks failed
  noParity : Bool
  deriving DecidableEq, Repr

/-- A copy formed and not yet programmed (R248): the block collected, the page the map entry must
still name, the unit, SEQ and content. -/
structure CopyJob where
  victim : Nat
  src : Nat
  unit : Nat
  seq : Nat
  stream : Nat
  data : List Byte
  deriving DecidableEq, Repr

/-- A namespace marker asked for by a command and not yet programmed (R245). -/
structure Marker where
  ns : Nat
  cmd : Nat
  deriving DecidableEq, Repr

/-- Why a block is collected. -/
inductive Why where
  | collection
  | refresh
  | wear
  | failed
  deriving DecidableEq, Repr

/-- A block in COLLECT: the parity block that waits for it (R240), and its pages not yet read (R248). -/
structure Victim where
  block : Nat
  why : Why
  parity : Option Nat
  todo : List Nat
  deriving DecidableEq, Repr

/-- What a page read is for. -/
inductive ReadUse where
  | sectors (cmd unit : Nat)
  | raw (cmd : Nat)
  | merge (unit : Nat)
  | copy (block : Nat)
  | check (block src : Nat)
  | sync (seq : Nat)
  deriving DecidableEq, Repr

/-- A page read in progress. -/
structure PageRead where
  ppa : Nat
  use : ReadUse
  deriving DecidableEq, Repr

/-- A command in progress (R244): its place in the order of acceptance, queue, entry, the pair and
tag of one of RING's, STATUS once decided, the SEQs and reads it waits for, and the units a READ has not yet
looked up. -/
structure ClmCmd where
  n : Nat
  queue : Nat
  idx : Nat
  entry : List Byte
  owner : Option (Nat × BitVec 32)
  status : Nat
  seq : Nat
  nlost : Nat
  waits : List Nat
  reads : Nat
  todo : List Nat
  deriving DecidableEq, Repr

/-- A WRITE that waits for the other sectors of its partial units (R245), or for room in the write buffer
(R241): its units not yet in the buffer. -/
structure Merge where
  cmd : Nat
  data : List Byte
  got : List (Nat × List Byte)
  left : Nat
  lost : Bool
  todo : List Nat
  deriving DecidableEq, Repr

/-- The Clamp, apart from its registers, the map and the block table. -/
structure Clm where
  formatted : Bool
  sizes : List Nat               -- formatted namespace sizes
  buf : List WbUnit              -- write buffer, in SEQ order
  batches : List Batch
  cmds : List ClmCmd
  fetched : List (Nat × Nat)     -- per queue: next entry to take
  done : List (Nat × Nat)        -- (queue, index) completed and not yet passed by QCI
  accepted : Nat
  merge : Option Merge
  markers : List Marker
  copies : List CopyJob
  ricks : List Rick              -- open
  verify : List Rick             -- closed, not yet verified
  held : List Rick               -- verified, with the parity kept until failed blocks are collected
  victims : List Victim
  erasing : List Nat
  reads : List PageRead          -- in progress
  later : List PageRead          -- not yet begun
  wears : List Nat               -- per channel: programs since the last wear-levelling copy
  anchor : Option Anchor         -- the record in force
  head : Nat                     -- ARCHIVE head sector, slot, and the content of its unit
  slot : Nat
  headData : List Byte
  nextSeq : Nat
  nextRick : Nat
  sck : Nat
  dirty : List Nat               -- map segments changed since the last checkpoint
  dir : List (Nat × Nat)         -- segment and the page that holds it
  marks : List Nat
  opened : Nat                   -- ricks opened since the last checkpoint
  ckptAt : BitVec 64
  ckpt : Option Nat              -- S_ck of a checkpoint in progress
  stopping : Bool
  flush : Option (List Nat)      -- SEQs a write of CTRL.FLUSH waits for
  collecting : Bool
  levelling : Bool
  told : Bool                    -- the full scan in progress was recorded
  wearing : Option Nat           -- the wear-levelling victim, until its erase (R254)
  anchorOwed : Bool              -- a retirement waits for an anchor block to take its record (R257)
  rideErase : Option Nat         -- the erase in progress when the RIDE notice came (R261)
  deriving DecidableEq, Repr

/-! ### Backbone (10_time_and_backbone.md) -/

/-- A frame on the wire (R311): its queue, entry and bytes, whether a gated launch was delayed, and
its time stamp. -/
structure EthTx where
  queue : Nat
  entry : List Byte
  frame : List Byte
  late : Bool
  ts : BitVec 64
  sub : Byte
  deriving DecidableEq, Repr

/-- An Ethernet port beside its registers: PCS synchronised, SGMII speed (0 10, 1 100, 2 1,000 Mb/s),
until when a PAUSE stops it, the frame on the wire, the queues whose gated head is released and
whether it was delayed, and the frames sent, newest first, without FCS. -/
structure EthPort where
  sync : Bool
  speed : Nat
  pauseUntil : BitVec 64
  tx : Option EthTx
  released : List (Nat × Bool)
  sent : List (List Byte)
  deriving DecidableEq, Repr

/-- A received frame that carries a relayed block, not yet judged, with its stamp and whether STATE was LOCKED at it
(R310, R313). -/
structure BlockIn where
  port : Nat
  frame : List Byte
  block : List Byte
  ts : BitVec 64
  sub : Byte
  locked : Bool
  deriving DecidableEq, Repr

/-- An accepted block in the ingest buffer: its bytes, receipt time, and the next entry's place and
index (R315, R316). -/
structure IngestBlock where
  data : List Byte
  rxts : BitVec 64
  off : Nat
  idx : Nat
  deriving DecidableEq, Repr

/-- The backbone's ports and ingest, the low halves held for their pairs, and the levels of
TIM_OUT0–3. -/
structure Bkb where
  ports : List (Nat × EthPort)
  arrived : List BlockIn
  ingest : List IngestBlock
  held : List (Nat × Word)
  outs : List Bool
  pps : Option (BitVec 64)       -- last edge on TIM_IN0
  ppsGood : Bool                 -- the last two were 1 s apart (14 R415)
  deriving DecidableEq, Repr

/-! ### The redundant pair (15_selftest_and_pairing.md R444–R457) -/

/-- An ORDER frame that waits for its acknowledgement (R446). -/
structure OrderFrame where
  lseq : Nat
  payload : List Byte
  deriving DecidableEq, Repr

/-- A pair frame as sent (Table 4), without its FCRC. -/
structure PairFrame where
  typ : Nat
  state : Nat
  lseq : Nat
  ack : Nat
  epoch : Nat
  node : Nat
  payload : List Byte
  deriving DecidableEq, Repr

/-- The output settings that muting replaces (R453, R454): LMA_CTRL.HALT_TX, LMA_NET_CTRL.ROLE,
and HALT_TX and ROLE of each Air Unit. -/
structure MuteSaved where
  lineHalt : Bool
  lineRole : Nat
  airHalt : List Bool
  airRole : List Nat
  deriving DecidableEq, Repr

/-- The pair logic. -/
structure Pair where
  aligned : Bool                 -- the receiver holds word alignment (R444)
  alive : Bool                   -- a valid frame has come within HB_LOST (R445)
  partner : Nat                  -- pair state the partner last reported
  saved : Option MuteSaved
  lseq : Nat                     -- frame number of the last ORDER frame built
  acked : Nat                    -- highest frame number the partner has acknowledged
  replay : List OrderFrame       -- replay buffer, oldest first (R446)
  streaming : Bool               -- the primary has not ceased streaming (R449)
  rxSeq : Nat                    -- highest LSEQ received in order
  rxPart : List Byte             -- bytes of a record whose frames have not all come
  queue : List AllocOp           -- received records' operands not yet allocated
  sent : List PairFrame          -- frames sent, newest first
  deriving DecidableEq, Repr

/-- The Kiln (R433–R443): the run in progress, the segments each partition has passed, and which
partitions last failed. -/
structure KilnRun where
  boot : Bool
  parts : List Nat               -- partitions of the run
  checked : Bool                 -- the clock check has ended (R436)
  done : List (Nat × Nat)        -- per partition: segments done
  first : Nat
  count : Nat
  fail : List Nat                -- partitions that have failed a segment
  stop : Option Nat              -- RESULT of an abort
  deriving DecidableEq, Repr

/-- The Kiln. -/
structure Kiln where
  run : Option KilnRun
  passed : List (Nat × List Nat) -- per partition: segments passed
  failed : List Nat              -- partitions whose last run failed
  rstDue : List (Nat × Bool)     -- writes of CRP_BLK_RST and CRP_CLK_GATE held up by the run (R441)
  gateDue : List (Nat × Bool)
  deriving DecidableEq, Repr


/-! ### Legal Partition (09_legal_partition.md) -/

/-- A legal energy register: its count of 1 mWh or 1 mvarh and its remainder, in mW·µs, below
one unit (R272). -/
structure Energy where
  units : BitVec 64
  rem : Nat
  deriving DecidableEq, Repr

/-- The registers of Table 3 that a commit covers. `energy` holds, in this order, import and
export of tariffs 0–7, their two totals, quadrants 1–4 of tariffs 0–7, and their four totals;
the demand lists hold import then export of tariffs 0–7. -/
structure LegRegs where
  energy : List Energy           -- 54
  maxDem : List (BitVec 32 × BitVec 40)  -- 16: watts and the interval end that set them
  demand : List (List Nat)       -- 16: mW·µs of the subintervals, the open one first
  deriving DecidableEq, Repr

/-- The open measuring interval (R283, R284): OPEN, whether it is a part, its flags, and the
energies in mW·µs and mA²·µs, remainders of the last copy included. -/
structure LegMi where
  since : Nat
  part : Bool
  split : Bool
  restore : Bool
  overload : Bool
  fault : Bool
  deriving DecidableEq, Repr

/-- A feeder copy (Table 5). -/
structure FeederCopy where
  opened : Nat
  closed : Nat
  dur : Nat
  flags : Nat
  imp : Nat
  exp : Nat
  i2h : List Nat
  deriving DecidableEq, Repr

/-- Start or end of summer time (Table 6). -/
structure DstRule where
  month : Nat
  week : Nat
  weekday : Nat
  minute : Nat
  deriving DecidableEq, Repr

/-- A special day (Table 7). -/
structure SpecialDay where
  year : Nat
  month : Nat
  day : Nat
  profile : Nat
  friendly : Bool
  deriving DecidableEq, Repr

/-- A tariff calendar (Tables 6 and 7). -/
structure Calendar where
  billDay : Nat
  billMin : Nat
  stdOfs : Int
  dstOfs : Nat
  dstStart : DstRule
  dstEnd : DstRule
  calId : Word
  seasons : List (Nat × Nat × Nat)   -- month, day, week
  weeks : List (List Nat)            -- day profile of Monday to Sunday
  days : List (List (Nat × Nat))     -- minute and tariff
  specials : List SpecialDay
  deriving DecidableEq, Repr

/-- A billing snapshot (R291). -/
structure LegSnap where
  num : Nat
  closed : Nat
  reason : Nat                   -- 0 scheduled, 1 request, 2 catch-up
  calId : Word
  clkInvalid : Bool
  regs : LegRegs
  deriving DecidableEq, Repr

/-- A legal log entry (Table 12). -/
structure LegEntry where
  seq : Nat
  time : Nat
  typ : Nat
  src : Nat
  flags : Nat
  rqid : Word
  old : List Byte
  new : List Byte
  digest : List Byte
  swid : Word
  deriving DecidableEq, Repr

/-- A prepayment account (Table 10); `good` is whether its CRC checks (R292). -/
structure Account where
  valid : Bool
  handle : BitVec 20
  state : Nat                    -- 0 CREDIT to 4 DISCONNECT
  plan : BitVec 6
  friendly : Byte
  ecAuto : Bool
  ecActive : Bool
  credit : BitVec 64
  ecLimit : BitVec 64
  lowTh : BitVec 64
  lastEnd : BitVec 32
  topupSeq : BitVec 32
  dayCharged : BitVec 32
  noticeT : BitVec 40
  good : Bool
  deriving DecidableEq, Repr

/-- A clock adjustment waiting for the next edge (R275). -/
structure Adjust where
  delta : Int
  large : Bool
  rqid : Word
  digest : List Byte
  deriving DecidableEq, Repr

/-- The Legal Partition. -/
structure Leg where
  secs : Nat                     -- legal seconds (R274)
  frac : Nat                     -- 1/32,768 s
  clkInvalid : Bool
  adjusts : List Adjust
  adjSum : Nat                   -- |Δ| of small adjustments since the open interval began
  bmark : Nat
  edge : Nat                     -- the latest edge processed
  regs : LegRegs
  kept : LegRegs                 -- as last committed (R272)
  keptSecs : Nat
  impAcc : Nat                   -- for the next copy, with remainders carried (R284)
  expAcc : Nat
  i2Acc : List Nat
  mi : Option LegMi
  copies : List FeederCopy       -- waiting for BAL, oldest first
  active : Option Calendar
  passive : Option Calendar
  activateAt : Option Nat
  override : Option (Nat × Nat)  -- forced tariff and end time
  overrideReq : Option (Option (Nat × Nat) × Word × List Byte)  -- due at the next edge
  tariff : Nat
  billReqs : Nat                 -- closes by request due at the next edge
  snapNo : Nat
  snaps : List (Nat × LegSnap)   -- by slot
  log : List LegEntry            -- oldest first
  logSeq : Nat
  logMark : Nat                  -- LEG_LOG_RDMARK
  logLostSince : Nat             -- class M events lost and not yet told of by a 0x07 entry
  told90 : Bool
  calib : List Byte              -- the calibration set
  calenLow : Bool                -- MET_CALEN_N is low (R302)
  plans : List (Nat × List Byte) -- price plans
  friendly : List (Nat × List Byte)
  accounts : List (Nat × Account)
  metFault : Bool                -- a fault of the monitor or of a modulator (R271)
  badRegs : Bool                 -- a structure of legal registers fails its CRC and is not restored (R305)
  pfail : Bool
  down : Option Nat              -- metering stopped by power; legal time it went down
  tripSeen : Bool
  swid : Word
  notices : List (Nat × List Byte)  -- posted by the engine for the Seal level to pass on
  reply : List Byte              -- last reply body (R301)
  ctrl : Word                    -- registers of Tables 18–20
  metCfg : Word
  metPending : Option Word
  clkCfg : Word
  err : Word
  adjSmall : Nat
  cmd : Word
  cmdAddr : Word
  cmdStatus : Word
  keys : Word
  copyDrop : Nat
  logLost : Nat
  pfCnt : Nat
  ovlCnt : Nat
  sweepMax : Nat
  inst : List Word               -- LEG_INST_V, I, P, Q of elements 0–3, then FREQ
  deriving DecidableEq, Repr


/-! ### The whole chip -/

/-- What is fused into the part (00_scope.md R2, R3; 12_guard.md Table 14; 14 R413). -/
structure Fuses where
  headEnd : Bool                 -- ordering code TZS8120-H
  serial : BitVec 64
  devClass : BitVec 4
  deriving DecidableEq, Repr

/-- How the last transaction or debug instruction was answered. -/
inductive Resp where
  | none
  | data (d : List Byte)
  | written
  | busError
  | unsupported
  | completerAbort
  | stalled
  deriving DecidableEq, Repr

/-- Everything but the life cycle, the legal partition and the queue. -/
structure Chip where
  regs : List (Nat × Word)       -- register file: words that differ from their reset value
  mem : List Host.Cell           -- addressed memory: bytes that are not 0
  pools : List (Nat × PoolState)
  resp : Resp
  freeCtr : Nat                  -- the model's own: free values used so far
  fuses : Fuses
  ember : Ember
  flo : Flo
  ring : Ring
  apc : Apc
  grd : Grd
  upd : Upd
  crp : Crp
  tim : Tim
  lma : Lma
  air : List (Nat × AirUnit)
  hcx : Hcx
  ciu : Ciu
  bal : Bal
  nand : Nand
  clm : Clm
  bkb : Bkb
  pair : Pair
  kiln : Kiln
  deriving DecidableEq, Repr

/-- The state of the machine. -/
structure State where
  chip : Chip
  lc : LifeCycle
  leg : Leg
  pending : List Instr           -- commands waiting, first in first out
  deriving DecidableEq, Repr

/-- Reasons a step can end in a fault. -/
inductive Fault where
  /-- Raised by no command: the block has no effect of a command that ends the machine. -/
  | none
  deriving DecidableEq, Repr

/-- Reasons a command is refused a meaning. -/
inductive Refusal where
  /-- Raised by the arm of a command that has no meaning yet. Safe: nothing is claimed of it. -/
  | notModelled (mnemonic : String)
  deriving DecidableEq, Repr

/-! ### Reset -/

/-- Life cycle as delivered: BLANK, four good copies (R362, R363). -/
def LifeCycle.delivered : LifeCycle :=
  { state := .blank, tripped := false, rootKilled := false,
    copies := List.replicate 4 ⟨.blank, false, false, true⟩ }

/-- The Ember log at the first start: empty areas, PCYC 1 (R460). -/
def Ember.delivered : Ember :=
  { intake := [], snapDue := [], first := [], firstUsed := 0, firstFull := false, last := [],
    head := 0x20000, snaps := [], snapCnt := 0, seq := 0, opsec := 0, sub := 0, pcyc := 1,
    savedOpsec := 0, savedSub := 0, thisSecond := 0, dropsNow := 0, dropsTyp := 0,
    dropsDue := none, window := [], loadedAt := none, stage := [], stageOwner := none,
    markDue := true }

/-- A pod that has never been allocated. -/
def Pod.initial : Pod :=
  { state := .free, gen := 0, alloc := ⟨0, 0, false, false, false, 0, 0, 0, 0, 0, 0⟩,
    slots := List.replicate 3 ⟨0, none⟩, cordSrc := 0, defCord := 0, cord := none, binding := .unbound, holds := 0, fmtReqs := 0, staleFmt := 0, ctxGone := false, intr := false, ticket := 0, nocpl := false,
    cpl := [], core := 0, order := 0 }

/-- A cord after reset (R193). -/
def Cord.initial : Cord := ⟨0, 0, none⟩

/-- A flow core after reset. -/
def FlowCore.initial : FlowCore :=
  { inbox := [], run := none, stalled := false, post := [0, 0, 0], postst := 0, win := [],
    cpl := [], err := 0, take := 0 }

/-- The Flow Scheduler after reset (R175, R183, R193). -/
def Flo.reset : Flo :=
  { pods := [], freeList := (List.range 1024).map (BitVec.ofNat 10), queues := [], srcNext := 5,
    ticket := 0, unbound := [], ready := [], prioTurn := [], rr := 23, cords := [],
    cordTurn := 4095, cores := [], reqs := [], post := [0, 0, 0] }

/-- A ring pair after reset. -/
def RingPair.initial : RingPair := ⟨0, 0, 0, 0, true, 0⟩

/-- An event ring after reset. -/
def EvtRing.initial : EvtRing := ⟨0, 0, true, 0, 0, 0⟩

/-- AER after reset (PRESUMED, log entry 102). -/
def Aer.reset : Aer := ⟨0, 0, 0x462030, 0, 0x2000, 0, List.replicate 16 0⟩

/-- The Ring Interface after reset (R361). -/
def Ring.reset : Ring :=
  { pairs := [], evts := [], fetchTurn := 63, cpls := [], posted := [], queued := [], lgl := [], cry := [], clm := [],
    cache := [], inval := false, linkTrained := false, subsys := 0, setup := ⟨0, 0, 0, 2, false⟩, d3hot := false, aer := .reset,
    sent := [] }

/-- A hart that starts at an address, in machine mode (R356; its other registers: log entry 105). -/
def Hart.start (pc : BitVec 64) : Hart := ⟨.machine, pc, 0, List.replicate 16 (0, 0), 0, 0, 0, 0, 0⟩

/-- The cluster after reset (R356, R358). -/
def Apc.reset : Apc :=
  { started := [], harts := [], claimed := [], ddrSelfRefresh := false, poison := [], lastUe := none, mtime := 0 }

/-- A pool that has not yet taken a range; the LMA's has from reset (02 R490). -/
def PoolState.initial (pool : Nat) : PoolState := ⟨pool == 0, []⟩

/-- The Guard after power-on reset, as delivered. -/
def Grd.delivered : Grd :=
  { kindled := false, entropyWait := false, pufKey := [], wrapped := [[], []], root := none,
    kdf := none, present := [], dbg := .closed, dbgReq := none,
    challenge := none, backoff := false, refusals := 0, coreHeld := false, pathCut := false,
    sram := [], tdo := [], bypass := false }

/-- Tinder as delivered: IDLE with no image. -/
def Upd.delivered : Upd :=
  { state := 0, next := 0, verified := [], installed := none, pending := none, series := [],
    order := [], arriving := [], pieces := [], pieceChunk := 0, copies := [], write := none,
    retried := false, paused := false }

/-- CRP right after power-on reset: nothing valid yet, step 1 of Table 9 done. -/
def Crp.reset (factory : Nat) : Crp :=
  { power := .run, before := .run, coreEn := false, startStep := 1, rstLow := false, xaValid := false,
    xbValid := false, switches := [], code := factory, factory := factory,
    trim := none, trimRef := 0, trimTemp := 0,
    closing := [], closed := [], noted := [], downs := [], energy := List.replicate 13 0,
    saved := List.replicate 13 0, snapping := false, wdtFirst := false, holdEntry := false,
    pfail := false, coreLow := false, deferred := false, rideWaits := false,
    flushed := false, descent := 0, keptDram := false }

/-- Network time after power-on reset: 0, INC 2 ns (10 Table 13). -/
def Tim.reset : Tim :=
  { now := 0, frac := 0, inc := 0x200000000, incLo := 0, slewing := false, slewRem := 0, utcOfs := 0, nowHi := 0 }
/-- A lane after reset. -/
def Lane.initial : Lane :=
  { phase := .idle, cfg := 0, pending := false, power := 0, ts := 0, tr := 4095,
    hdr := ⟨0, 0, 0, 0, 0, 0, 0⟩, snr := 0, margin := 0, frame := none }

/-- A reference after reset: no crossing yet. -/
def ZcRef.initial : ZcRef := ⟨none, false, 0, []⟩

/-- A chain after reset. -/
def LineChain.initial : LineChain := ⟨none, [], none⟩

/-- A phase record after reset: unknown (02 R71). -/
def PhaseRec.initial : PhaseRec := ⟨7, 7, 0, []⟩

/-- A cell after reset. -/
def LineCell.initial : LineCell := ⟨0x2000, none, none⟩

/-- The LMA after reset. -/
def Lma.reset : Lma :=
  { lanes := [], gains := [], zc := [], chains := [], storing := [], direct := false, pq := [],
    stalled := false, phase := [], notices := [], cells := [], acks := [], offers := [] }

/-- An Air Unit after reset. -/
def AirUnit.initial : AirUnit :=
  { aligned := false, anchor := none, source := none, resyncAt := 0, resyncTold := false, hopAt := 0,
    hopLen := 0, scripts := [], spi := [], slot := none, idling := false, reqs := [], done := [],
    wait := none, ack := none, backoff := [], dwell := [], sent := [], held := [] }

/-- A way of the hot context store after reset (05 R139). -/
def HcxWay.initial : HcxWay := ⟨0, false, false⟩

/-- The context engine after reset: every way invalid (05 R139). -/
def Hcx.reset : Hcx := { ways := [], used := [], waiting := [], moves := [], flush := none }

/-- An empty key slot. -/
def KeySlot.initial : KeySlot := ⟨0, 0⟩

/-- The Cipher Unit after reset: no masks, every slot empty (05 R145, R170). -/
def Ciu.reset : Ciu :=
  { slots := [], masks := [], winOwner := none, winKey := [], winAttr := 0, loads := [],
    sessUsed := [], sessHandle := [], misses := [], sessInval := [], inflight := [],
    finished := [], fetched := [], accepted := 0, turn := 7, left := 0, laneKeys := [],
    airKeys := [], erasing := none, drbgSeeded := false, drbgCalls := 0, ceilNoticed := [],
    rxNoticed := [] }
/-- No residual yet. -/
def ShiftHist.initial : ShiftHist := ⟨[], 3, 0⟩

/-- BAL after reset (07 R231). -/
def Bal.reset : Bal :=
  { reqs := [], fetched := 0, done := [], image := none, out := [], nextOpen := none, dayDue := none,
    checks := [], shifts := [], reports := [], rseq := 0 }

/-- The devices of a new board at full size, never written (08 R233). -/
def Nand.delivered : Nand :=
  { devices := 0x12FF38BA, badMarks := [], pages := [], anchors := [] }

/-- The Clamp after reset (08 R264). -/
def Clm.reset : Clm :=
  { formatted := false, sizes := [0, 0, 0, 0], buf := [], batches := [], cmds := [], fetched := [],
    done := [], accepted := 0, merge := none, markers := [], copies := [], ricks := [], verify := [], held := [],
    victims := [], erasing := [], reads := [], later := [], wears := List.replicate 8 0, anchor := none, head := 0, slot := 0, headData := [], nextSeq := 0,
    nextRick := 0, sck := 0, dirty := [], dir := [], marks := [0, 0, 0, 0], opened := 0, ckptAt := 0,
    ckpt := none, stopping := false, flush := none, collecting := false, levelling := false,
    told := false, wearing := none, anchorOwed := false, rideErase := none }
/-- A port after reset. -/
def EthPort.initial : EthPort := ⟨false, 2, 0, none, [], []⟩

/-- The backbone after reset. -/
def Bkb.reset : Bkb :=
  { ports := [], arrived := [], ingest := [], held := [], outs := List.replicate 4 false, pps := none,
    ppsGood := false }
/-- The pair logic after reset: ALONE (15 R457). -/
def Pair.reset : Pair :=
  { aligned := false, alive := false, partner := 0, saved := none, lseq := 0, acked := 0,
    replay := [], streaming := true, rxSeq := 0, rxPart := [], queue := [], sent := [] }

/-- The Kiln after reset: every mask clear (15 R457). -/
def Kiln.reset : Kiln := { run := none, passed := [], failed := [], rstDue := [], gateDue := [] }

/-- Legal registers in BLANK: all 0 (R305). -/
def LegRegs.zero : LegRegs :=
  { energy := List.replicate 54 ⟨0, 0⟩, maxDem := List.replicate 16 (0, 0),
    demand := List.replicate 16 [0] }

/-- A zeroed account. -/
def Account.zero : Account :=
  { valid := false, handle := 0, state := 0, plan := 0, friendly := 0, ecAuto := false,
    ecActive := false, credit := 0, ecLimit := 0, lowTh := 0, lastEnd := 0, topupSeq := 0,
    dayCharged := 0, noticeT := 0, good := true }

/-- The Legal Partition of a delivered part after power-on reset (R305). -/
def Leg.delivered : Leg :=
  { secs := 0, frac := 0, clkInvalid := true, adjusts := [], adjSum := 0, bmark := 0, edge := 0,
    regs := .zero, kept := .zero, keptSecs := 0, impAcc := 0, expAcc := 0,
    i2Acc := [0, 0, 0, 0], mi := none, copies := [], active := none, passive := none,
    activateAt := none, override := none, overrideReq := none, tariff := 0, billReqs := 0,
    snapNo := 0, snaps := [], log := [], logSeq := 1, logMark := 0, logLostSince := 0,
    told90 := false, calib := [], calenLow := false, plans := [], friendly := [], accounts := [],
    metFault := false, badRegs := false, pfail := false, down := none, tripSeen := false, swid := 0,
    notices := [], reply := [], ctrl := 0, metCfg := 0x29, metPending := none, clkCfg := 15,
    err := 0, adjSmall := 0, cmd := 0, cmdAddr := 0, cmdStatus := 0, keys := 0, copyDrop := 0,
    logLost := 0, pfCnt := 0, ovlCnt := 0, sweepMax := 0, inst := List.replicate 17 0 }



/-- The chip right after power-on reset. -/
def Chip.reset : Chip :=
  { regs := [], mem := [], pools := [], resp := .none, freeCtr := 0,
    fuses := ⟨false, 0, 0⟩, ember := .delivered, flo := .reset, ring := .reset, apc := .reset,
    grd := .delivered, upd := .delivered, crp := .reset 512, tim := .reset, lma := .reset, air := [],
    hcx := .reset, ciu := .reset, bal := .reset, nand := .delivered, clm := .reset, bkb := .reset, pair := .reset, kiln := .reset }

/-- The machine right after power-on reset of a delivered part (14 R421, R423). -/
def State.reset : State :=
  { chip := .reset, lc := .delivered, leg := .delivered, pending := [] }

end Sys2Proof.Machine
end

