-- ==== Sys2Proof/Machine/Ops.lean ====
section
/-!
DEFINITION. The named operations over the register file, the memory, the packet-buffer pools
and the paths every block uses: records to the Ember log, notices, cluster interrupts, the
access plan, transfers, gated accesses, free values.
-/
namespace Sys2Proof

/-! ### Names of levels, initiators and pools -/

/-- The initiator number as in 12_guard.md Table 4. -/
def Who.num (w : Who) : Nat := w.ini.toNat

/-- The code a record carries for a level: 0 Seal, 1 Platform, 2 Host. -/
def Level.code : Level → Nat
  | .seal => 0
  | .platform => 1
  | .host => 2

/-- The pool's number in the state. -/
def Pool.num : Pool → Nat
  | .lma => 0
  | .air0 => 1
  | .air1 => 2
  | .bkb => 3
  | .ring => 4
  | .pair => 5

/-- The register naming a pool's first slot. -/
def Pool.lo : Pool → Nat
  | .lma => Machine.Reg.LMA_PB_LO
  | .air0 => Machine.Reg.AIR_PB_LO 0
  | .air1 => Machine.Reg.AIR_PB_LO 1
  | .bkb => Machine.Reg.BKB_PB_LO
  | .ring => Machine.Reg.RING_PB_LO
  | .pair => Machine.Reg.BKB_PAIR_PB_LO

/-- The register that a slot of a pool is returned by. -/
def Pool.freeReg : Pool → Nat
  | .lma => Machine.Reg.LMA_PB_FREE
  | .air0 => Machine.Reg.AIR_PB_FREE 0
  | .air1 => Machine.Reg.AIR_PB_FREE 1
  | .bkb => Machine.Reg.BKB_PB_FREE
  | .ring => Machine.Reg.RING_PB_FREE
  | .pair => Machine.Reg.BKB_PAIR_PB_FREE

/-- The register naming a pool's last slot. -/
def Pool.hi : Pool → Nat
  | .lma => Machine.Reg.LMA_PB_HI
  | .air0 => Machine.Reg.AIR_PB_HI 0
  | .air1 => Machine.Reg.AIR_PB_HI 1
  | .bkb => Machine.Reg.BKB_PB_HI
  | .ring => Machine.Reg.RING_PB_HI
  | .pair => Machine.Reg.BKB_PAIR_PB_HI

end Sys2Proof

namespace Sys2Proof.Machine

/-! ### How a meaning answers -/

/-- Answer the next state with the chip changed. -/
def State.onChip (s : State) (f : Chip → Chip) : Host.Outcome State Fault Refusal :=
  .next { s with chip := f s.chip }

/-- As `onChip`, the change reading the life cycle. -/
def State.onChipLc (s : State) (f : LifeCycle → Chip → Chip) : Host.Outcome State Fault Refusal :=
  .next { s with chip := f s.lc s.chip }

/-- As `onChip`, the change reading the legal partition. -/
def State.onChipSee (s : State) (f : State → Chip) : Host.Outcome State Fault Refusal :=
  .next { s with chip := f s }

/-- Answer the next state with chip and legal partition changed. -/
def State.onLegal (s : State) (f : State → Chip × Leg) : Host.Outcome State Fault Refusal :=
  .next { s with chip := (f s).1, leg := (f s).2 }

/-- Answer the next state with anything but the queue changed. -/
def State.onAll (s : State) (f : State → State) : Host.Outcome State Fault Refusal :=
  .next { f s with pending := s.pending }

/-! ### Register file -/

/-- The word a register reads as, before any computed field is laid over it. -/
def Chip.rdW (c : Chip) (r : Nat) : Word := Tab.get regReset c.regs r

/-- The value of a register. -/
def Chip.rd (c : Chip) (r : Nat) : Nat := (c.rdW r).toNat

/-- Give a register a value (of which it keeps 32 bits). -/
def Chip.wr (c : Chip) (r v : Nat) : Chip :=
  { c with regs := Tab.put regReset c.regs r (BitVec.ofNat 32 v) }

/-- Bits [hi:lo] of a register. -/
def Chip.fl (c : Chip) (r hi lo : Nat) : Nat := fld (c.rd r) hi lo

/-- Bit `b` of a register. -/
def Chip.bit (c : Chip) (r b : Nat) : Bool := bitOf (c.rd r) b

/-- Set bits [hi:lo] of a register. -/
def Chip.setFl (c : Chip) (r hi lo v : Nat) : Chip := c.wr r (putFld (c.rd r) hi lo v)

/-- Set bit `b` of a register to `on`. -/
def Chip.setBit (c : Chip) (r b : Nat) (on : Bool) : Chip := c.wr r (putBit (c.rd r) b on)

/-- Count one event in a counter register (02_line_modem_array.md R72). -/
def Chip.bump (c : Chip) (r : Nat) : Chip := c.wr r (satInc (c.rd r))

/-- Count `n` events in a counter register. -/
def Chip.bumpBy (c : Chip) (r n : Nat) : Chip := c.wr r (satAdd (c.rd r) n)

/-- Keep the largest value seen in a register. -/
def Chip.keepMax (c : Chip) (r v : Nat) : Chip := c.wr r (max (c.rd r) v)

/-- A 64-bit value held in two registers. -/
def Chip.rd64 (c : Chip) (lo hi : Nat) : Nat := c.rd lo + c.rd hi * 2 ^ 32

/-- Give two registers the halves of a 64-bit value. -/
def Chip.wr64 (c : Chip) (lo hi v : Nat) : Chip := (c.wr lo (v % 2 ^ 32)).wr hi (v / 2 ^ 32)

/-- `f` where `b` holds, else no change. -/
def Chip.when (c : Chip) (b : Bool) (f : Chip → Chip) : Chip := if b then f c else c

/-- How a transaction is answered. -/
def Chip.answer (c : Chip) (r : Resp) : Chip := { c with resp := r }

/-! ### Memory

Bytes over the address map of 01_architecture.md R17 that are not configuration space.  An
unlisted byte reads 0 (DESIGN CHOICE, log entry 2). -/

/-- What an unlisted address reads as. -/
def memReset (_ : Nat) : Byte := 0

/-- The canonical form of memory. -/
def Memory.wf (m : List Host.Cell) : Bool := Tab.wf memReset m

/-- The byte at an address. -/
def Chip.rdb (c : Chip) (a : Nat) : Byte := Tab.get memReset c.mem a

/-- Write one byte. -/
def Chip.wrb (c : Chip) (a : Nat) (b : Byte) : Chip := { c with mem := Tab.put memReset c.mem a b }

/-- The `n` bytes from an address, in ascending order. -/
def Chip.rdMem (c : Chip) (a n : Nat) : List Byte := (List.range n).map (fun i => c.rdb (a + i))

/-- Write bytes in ascending order from an address. -/
def Chip.wrMem (c : Chip) (a : Nat) : List Byte → Chip
  | [] => c
  | b :: bs => (c.wrb a b).wrMem (a + 1) bs

/-- The little-endian value of `n` bytes at an address (R7). -/
def Chip.rdLe (c : Chip) (a n : Nat) : Nat := leVal (c.rdMem a n)

/-! ### Free values -/

/-- `n` bytes the manual does not fix, and the chip with them used up. -/
def Chip.free (c : Chip) (n : Nat) : List Byte × Chip :=
  ((List.range n).map (fun i => Config.freeByte (c.freeCtr + i)), { c with freeCtr := c.freeCtr + n })

/-! ### Names of the blocks and domains -/

/-- Domain (01 Table 6, counted from 0) of the register file of a block (14 R417). -/
def regDomain (block : Nat) : Nat :=
  match block with
  | 1 => 10
  | 2 => 11
  | 7 => 7
  | 8 => 13
  | 10 => 13
  | 11 => 13
  | _ => 5

/-! ### Network time and cluster interrupts -/

/-- Network time now, ns. -/
def Chip.time (c : Chip) : BitVec 64 := c.tim.now

/-- Make a cluster interrupt source pend (11 R357). Reserved sources never do (Table 11). -/
def Chip.irq (c : Chip) (src : Nat) : Chip :=
  c.when (decide (src < 157)) (fun c => c.setBit (Reg.PIC_PEND (src / 32)) (src % 32) true)

/-- Set a bit of a block's status register; a status event pends the status summary of the
block (11 Table 11, sources 144–155). -/
def Chip.raise (c : Chip) (reg b : Nat) : Chip := (c.setBit reg b true).irq (144 + reg / 0x100000)

/-! ### Records to the Ember log (16_ember_log.md R460–R462) -/

/-- Count a dropped record (R462). -/
def Chip.emberDrop (c : Chip) (typ : Nat) : Chip :=
  let e := c.ember
  ((c.bump Reg.GRD_EMB_DROP).raise Reg.GRD_EMB_STATUS 1) |> fun c =>
    { c with ember := { e with
        dropsNow := e.dropsNow + 1
        dropsTyp := if e.dropsNow = 0 then typ else e.dropsTyp } }

/-- Whether a record finds a place: the intake queue has 32 entries of which four are kept for
snapshot triggers (R461), and 1,000 records are accepted in a second, with the exemptions of
R462. -/
def Chip.emberRoom (c : Chip) (typ : Nat) (snap : Bool) : Bool :=
  let e := c.ember
  decide (e.intake.length < if snap then 32 else 28) &&
    (snap || typ == 0xE01 || typ == 0xE02 || decide (e.thisSecond < 1000))

/-- Post a record: accepted with the times of R460, or dropped. Those of one command stand in the order in which they are
posted, a cause before what follows from it (R461; DEDUCED, log entry 106). -/
def Chip.emberPost (c : Chip) (typ : Nat) (payload : List Byte) (snap milestone : Bool) : Chip :=
  if c.emberRoom typ snap then
    let e := c.ember
    let flags := BitVec.ofNat 8 (b2n milestone + 2 * b2n snap + 4 * b2n (!c.crp.xbValid))
    let counted := !(snap || typ == 0xE01 || typ == 0xE02)
    { c with ember := { e with
        intake := e.intake ++ [⟨typ, flags, 0, e.opsec, e.pcyc, e.sub, payload, snap⟩]
        thisSecond := e.thisSecond + b2n counted } }
  else c.emberDrop typ

/-- Post a record that is neither a milestone nor a snapshot trigger. -/
def Chip.record (c : Chip) (typ : Nat) (payload : List Byte) : Chip :=
  c.emberPost typ payload false false

/-! ### The pair's state (15_selftest_and_pairing.md R447, R453) -/

/-- BKB_PAIR_STATUS.STATE. -/
def Chip.pairState (c : Chip) : Nat := c.fl Reg.BKB_PAIR_STATUS 2 0

/-- Whether the outputs are gated: STANDBY, and muted in MUTED and DEMOTED. -/
def Chip.outputsGated (c : Chip) : Bool := c.pairState == 2 || c.pairState == 5 || c.pairState == 7

/-! ### The access plan (12_guard.md R372–R376) -/

/-- Whether active region `r` grants a page to an initiator (R373). -/
def Chip.regionGrants (c : Chip) (r page ini : Nat) (host wr : Bool) : Bool :=
  let base := c.rd (Reg.AP_ACTIVE r 0) + c.fl (Reg.AP_ACTIVE r 1) 3 0 * 2 ^ 32
  let limit := c.rd (Reg.AP_ACTIVE r 2) + c.fl (Reg.AP_ACTIVE r 3) 3 0 * 2 ^ 32
  let masks := c.rd (Reg.AP_ACTIVE r (if host then 5 else 4))
  c.bit (Reg.AP_ACTIVE r 6) 0 && decide (base ≤ page) && decide (page ≤ limit) &&
    bitOf masks (ini + if wr then 16 else 0)

/-- Whether the plan allows a transaction: every 4 KiB page it touches is granted (R373). -/
def Chip.planAllows (c : Chip) (ini : Nat) (host wr : Bool) (addr len : Nat) : Bool :=
  (upFrom (addr / 4096) ((addr + max len 1 - 1) / 4096 + 1 - addr / 4096)).all fun page =>
    (List.range 64).any fun r => c.regionGrants r page ini host wr

/-- Count, latch and record a refusal (R376). -/
def Chip.noteRefusal (c : Chip) (ini level : Nat) (wr : Bool) (addr : Nat) : Chip :=
  let c := (c.bump Reg.GRD_AP_VIOL).raise Reg.GRD_STATUS 6
  let c := c.when (!c.bit Reg.GRD_AP_VINFO 31) fun c =>
    (c.wr Reg.GRD_AP_VINFO (2 ^ 31 + 32 * b2n wr + 16 * b2n (level == 2) + ini)).wr64
      Reg.GRD_AP_VADDR_LO Reg.GRD_AP_VADDR_HI addr
  c.record 0xA05 (leBytes 1 ini ++ leBytes 1 level ++ leBytes 1 (b2n wr) ++ leBytes 6 addr)

/-- The value that the RWS fields of a register present: CLM_NS_SIZEn reads the formatted size once formatted (08
Table 14). -/
def Chip.rwsValue (c : Chip) (reg : Nat) : Word :=
  match (List.range 4).find? fun n => reg == Reg.CLM_NS_SIZE n with
  | some n => if c.clm.formatted then BitVec.ofNat 32 (c.clm.sizes.getD n 0) else c.rdW reg
  | none => c.rdW reg

/-- A write from below the Seal level to a register with RWS fields counts as a refusal when
it would change one of them (00 R492). -/
def Chip.noteRws (c : Chip) (who : Who) (reg rwsMask v : Nat) : Chip :=
  c.when (who.level != .seal &&
      (c.rwsValue reg &&& BitVec.ofNat 32 rwsMask) != (BitVec.ofNat 32 v &&& BitVec.ofNat 32 rwsMask))
    fun c => c.noteRefusal who.num who.level.code true (0xF0000000 + reg)

/-! ### Gating (14_clocks_power_reset.md R416, R417; 00 R3; 01 R22, R24) -/

/-- Whether a domain runs in the power state (14 Table 10), numbered as in 01 Table 6. -/
def domainRuns (p : Power) (d : Nat) : Bool :=
  match p with
  | .run => true
  | .trim => d != 11
  | .hold => [3, 5, 8, 9, 10, 13].contains d
  | .ride => [5, 10, 13].contains d
  | .dormant => d == 13
  | .off => false

/-- Whether a domain runs now: until the flush of a RIDE is complete the domains run on as before it
(14 Table 12, step 7). -/
def Chip.domainUp (c : Chip) (d : Nat) : Bool :=
  domainRuns (if c.crp.power = .ride ∧ c.crp.flushed = false then c.crp.before else c.crp.power) d

/-- Step of the start sequence at which a block leaves reset (14 Table 9, 01 R11). -/
def releaseStep (block : Nat) : Nat :=
  match block with
  | 11 => 1
  | 10 => 4
  | 8 => 1
  | 6 => 7
  | _ => 8

/-- Whether a block is fused off (00 R2, R3): LMA and AIR of a TZS8120-H. -/
def Chip.fused (c : Chip) (block : Nat) : Bool := c.fuses.headEnd && (block == 2 || block == 3)

/-- The block whose registers a Kiln partition scans, where it scans a whole block's (15 Table 1). -/
def kilnBlock (part : Nat) : Option Nat :=
  match part with
  | 0 => some 0
  | 2 => some 2
  | 3 => some 3
  | 4 => some 4
  | 5 => some 5
  | 8 => some 6
  | 10 => some 7
  | 11 => some 9
  | _ => none

/-- Partitions that a Kiln run holds: those of the run from the end of its clock check (15 R438). -/
def Chip.kilnHolds (c : Chip) : List Nat :=
  match c.kiln.run with
  | some r => if r.checked then r.parts else []
  | none => []

/-- Whether a block is held in reset: by the start sequence, by CRP_BLK_RST, or by a Kiln run. -/
def Chip.inReset (c : Chip) (block : Nat) : Bool :=
  decide (c.crp.startStep < releaseStep block) || (decide (block < 10) && c.bit Reg.CRP_BLK_RST block) ||
    c.kilnHolds.any fun p => kilnBlock p == some block

/-- Domain in which a block works and in which its port on the fabric lies (01 Table 6); 6 stands for the hot
context store, and 12, which is no block, for the fabric itself. -/
def workDomain (block : Nat) : Nat :=
  match block with
  | 0 => 3
  | 4 => 2
  | 5 => 1
  | 6 => 3
  | 9 => 4
  | 12 => 3
  | b => regDomain b

/-- Whether an access to a block's registers is a gated access. Those of the CIU are reached only while the
CIU domain runs too (05 R171). -/
def Chip.gated (c : Chip) (block : Nat) : Bool :=
  c.fused block || c.crp.closed.contains block || c.inReset block ||
    !c.domainUp (regDomain block) || (block == 4 && !c.domainUp 2)

/-- Whether what is sent to a block's port is a gated access: the block is gated, or the domain it works in
is stopped (14 R417, 01 R11, R24). -/
def Chip.portGated (c : Chip) (block : Nat) : Bool := c.gated block || !c.domainUp (workDomain block)

/-- Whether the block's registers have power: in DORMANT those of the Guard and the Legal Partition only,
in OFF none (14 Table 10). -/
def Chip.powered (c : Chip) (block : Nat) : Bool :=
  match c.crp.power with
  | .off => false
  | .dormant => block == 8 || block == 10
  | _ => true

/-- Count a gated access in a domain, and record the first to the block after each closing
(14 R417). Where the counters have no power none is counted (Table 10). -/
def Chip.noteGatedAt (c : Chip) (d block ini addr : Nat) (wr : Bool) : Chip :=
  if !c.powered block then c else
  let c := c.bump (Reg.CRP_GATED_CNT d)
  if c.crp.noted.contains block then c
  else ({ c with crp := { c.crp with noted := block :: c.crp.noted } }).record 0xB10
    (leBytes 1 d ++ leBytes 1 ini ++ leBytes 6 addr ++ leBytes 1 (b2n wr))

/-- A gated access to a block's registers. -/
def Chip.noteGated (c : Chip) (block ini addr : Nat) (wr : Bool) : Chip :=
  c.noteGatedAt (regDomain block) block ini addr wr

/-- An operand posted to a gated Flow Scheduler is lost, and counts as an access to its port
(14 R417). -/
def Chip.postLost (c : Chip) (ini : Nat) : Chip := c.noteGatedAt 1 5 ini 0 true

/-- The initiator that a gated write is recorded with where its row names none (log entry 7). -/
def anyIni : Nat := 15

/-- What a block sends to RING: lost where RING is gated, in reset or stopped, and counted as an access to its port in
FAB (01 R11, 14 R417). -/
def Chip.toRing (c : Chip) (f : Ring → Ring) : Chip :=
  if c.portGated 0 then c.noteGatedAt 3 0 anyIni 0 true else { c with ring := f c.ring }

/-- Post a notice: TYPE, and the body from byte 16 (11 R347). -/
def Chip.notice (c : Chip) (typ : Nat) (body : List Byte) : Chip :=
  c.toRing fun r => { r with posted := r.posted ++ [⟨typ, c.time, padTo 48 body⟩] }

/-- Post a completion on its way to a completion ring (11 R344). -/
def Chip.complete (c : Chip) (x : Cpl) : Chip := c.toRing fun r => { r with cpls := r.cpls ++ [x] }

/-- Change CRP. -/
def Chip.onCrp (c : Chip) (f : Crp → Crp) : Chip := { c with crp := f c.crp }

/-- Change what is lost in the crossing of a domain (14 R418). -/
def Chip.dcqLost (c : Chip) (d n : Nat) : Chip := c.bumpBy (Reg.CRP_DCQ_LOST d) n

/-- Whether a block's side of its dual-clock queues is down: it is in reset, or its crossing awaits re-handshake. What
is then offered to it is discarded and counted; gating only pauses a queue (14 R418). -/
def Chip.sideDown (c : Chip) (block : Nat) : Bool := c.inReset block || c.crp.downs.contains block

/-- What the subsystems have drawn since their counters last moved is counted: an amount the manual does not
give, so a free one for each of the twelve, and none while ENABLE is 0 (01 R33, Table 11; log entry 14). -/
def Chip.energyDraw (c : Chip) : Chip :=
  if c.bit Reg.CRP_NRG_CTRL 8 then
    let x := c.free 96
    x.2.onCrp fun p => { p with
      energy := ((List.range 12).map fun n => (p.energy.getD n 0 + leAt x.1 (8 * n) 8) % 2 ^ 64) ++ [p.energy.getD 12 0] }
  else c

/-- Registers of the TIM domain's timing unit and comparators (01 Table 6). -/
def isTimReg (k : Nat) : Bool := decide (0x100400 ≤ k) && decide (k < 0x100B00)

/-- Registers of a block that its reset resets. -/
def inBlock (b k : Nat) : Bool := k / 0x100000 == b && !isTimReg k

/-- Flow cores of partitions 6 and 7. -/
def groupCores (p : Nat) : List Nat := if p = 6 then upFrom 0 12 else upFrom 12 12

/-- Registers of a flow core: its configuration, and its watchdog history. -/
def inCore (n key : Nat) : Bool :=
  (decide (Reg.FLO_CORE_CFG n ≤ key) && decide (key < Reg.FLO_CORE_CFG (n + 1))) ||
    (decide (Reg.FLO_CORE_WHIST n 0 ≤ key) && decide (key < Reg.FLO_CORE_WHIST (n + 1) 0))

/-- Whether a register belongs to a partition that a run holds, for partitions that are no whole block
(R441). -/
def Chip.kilnGates (c : Chip) (key : Nat) : Bool :=
  c.kilnHolds.any fun p =>
    match p with
    | 1 => inBlock 1 key && decide (key < 0x120000)
    | 6 => (groupCores 6).any fun n => inCore n key
    | 7 => (groupCores 7).any fun n => inCore n key
    | 9 => decide (0x610000 ≤ key) && decide (key < 0x620000)
    | 12 => decide (0x120000 ≤ key) && decide (key < 0x130000)
    | _ => false

/-! ### Transfers by the blocks -/

/-- Regions of the address map (01 Table 4). -/
inductive Region where
  | contextStore
  | flowMemory (core : Nat)
  | packetBuffer
  | config
  | doorbell
  | dram
  | hostWindow
  | nowhere
  deriving DecidableEq, Repr

/-- Installed DRAM, bytes, as APC_DDR_CFG names it: eight ×8 data devices a rank (11 R358). -/
def ddrSize (cfg : Nat) : Nat :=
  (4 * 2 ^ min 2 (fld cfg 29 28)) * (1 + fld cfg 27 27) * 2 ^ 30

/-- The region an address lies in (01 Table 4); DRAM above the installed size is nowhere. -/
def Chip.regionOf (c : Chip) (a : Nat) : Region :=
  if 0x40000000 ≤ a ∧ a < 0x40400000 then .contextStore
  else if 0x50000000 ≤ a ∧ a < 0x50300000 then .flowMemory ((a - 0x50000000) / 0x20000)
  else if 0x60000000 ≤ a ∧ a < 0x60200000 then .packetBuffer
  else if 0xF0000000 ≤ a ∧ a < 0xF0C00000 then .config
  else if 0xF1000000 ≤ a ∧ a < 0xF1048000 then .doorbell
  else if 0x1000000000 ≤ a ∧ a < 0x1000000000 + ddrSize (c.rd Reg.APC_DDR_CFG) then .dram
  else if 0x800000000000 ≤ a ∧ a < 0x1000000000000 then .hostWindow
  else .nowhere

/-- Whether a multiplexer stands at Off (14 Table 3): codes with no source act as Off where Off exists. -/
def Chip.muxOff (c : Chip) (m : Nat) : Bool :=
  let sel := c.fl (Reg.CRP_MUX_SEL m) 1 0
  match m with
  | 1 => decide (1 ≤ sel)
  | 3 => decide (1 ≤ sel)
  | 4 => decide (2 ≤ sel)
  | 5 => decide (2 ≤ sel)
  | 6 => decide (2 ≤ sel)
  | 7 => decide (2 ≤ sel)
  | _ => false

/-- Whether AIRu_IQCLK is present: the last measurement found it (04 R108). -/
def Chip.iqPresent (c : Chip) (u : Nat) : Bool := c.rd (Reg.AIR_IQ_FREQ u) != 0 && !c.muxOff (6 + u) &&
  !c.crp.downs.contains (22 + u)

/-! ### Gated registers (00 R3; 01 R22, R24; 14 R417; 15 R441) -/

/-- Registers of an Air Unit that lie in the AIR domain (04 R105). -/
def iqSide (key : Nat) : Option Nat :=
  if key = Reg.AIR_IQ_FREQ 0 ∨ key = Reg.AIR_IQ_SYNCERR 0 then some 0
  else if key = Reg.AIR_IQ_FREQ 1 ∨ key = Reg.AIR_IQ_SYNCERR 1 then some 1
  else none

/-- Registers that the fused front end of the Legal Partition feeds: gated on a TZS8120-H (09 R267). -/
def isFrontReg (key : Nat) : Bool := decide (Reg.LEG_INST_V 0 ≤ key) && decide (key ≤ Reg.LEG_INST_FREQ)

/-- Domain that holds a register (14 R417): that of its block's register file, AIR for the IQ side of an Air
Unit. -/
def keyDomain (key : Nat) : Nat := if (iqSide key).isSome then 12 else regDomain (key / 0x100000)

/-- Whether the crossing to a block's register file awaits re-handshake (14 R420). -/
def Chip.crossingDown (c : Chip) (block : Nat) : Bool := c.crp.downs.contains block && regDomain block != 5

/-- The domain that counts an access to a register as gated, if it is one. -/
def Chip.gatedIn (c : Chip) (key : Nat) : Option Nat :=
  let block := key / 0x100000
  if c.gated block || c.kilnGates key || c.crossingDown block || (c.fuses.headEnd && isFrontReg key) then some (keyDomain key)
  else match iqSide key with
    | some u => if c.iqPresent u && c.domainUp 12 then none else some 12
    | none => none

/-- A gated access to a register: counted, recorded, and lost in the crossing where that is down. -/
def Chip.gatedAccess (c : Chip) (d key ini : Nat) (wr : Bool) : Chip :=
  let b := key / 0x100000
  (c.noteGatedAt d b ini (0xF0000000 + key) wr).when (c.crossingDown b) fun c => c.dcqLost 5 1

/-- Whether an access to a register reaches it: it is powered and not gated. -/
def Chip.reaches (c : Chip) (key : Nat) : Bool := c.powered (key / 0x100000) && (c.gatedIn key).isNone

/-- What an access that does not reach its register leaves: nothing where there is no power, else a gated
access. -/
def Chip.unreached (c : Chip) (key ini : Nat) (wr : Bool) : Chip :=
  if c.powered (key / 0x100000) then c.gatedAccess ((c.gatedIn key).getD (keyDomain key)) key ini wr else c

/-- A command that is a write of the register at `key`: it takes effect where the register is reached, and is
a gated access elsewhere. -/
def Chip.onReg (c : Chip) (key ini : Nat) (f : Chip → Chip) : Chip :=
  if c.reaches key then f c else c.unreached key ini true

/-- As `Chip.onReg`, for a command that answers with the whole state. -/
def State.onReg (s : State) (key ini : Nat) (f : State → State) : State :=
  if s.chip.reaches key then f s else { s with chip := s.chip.unreached key ini true }

/-- As `Chip.onReg`, for a command that moves the life cycle too. -/
def onRegLc (key ini : Nat) (f : Chip × LifeCycle → Chip × LifeCycle) (x : Chip × LifeCycle) : Chip × LifeCycle :=
  if x.1.reaches key then f x else (x.1.unreached key ini true, x.2)

/-- Kindling is to be completed before a key or a state can be had (12 R366): BLANK with no kindling
record, the Guard out of reset. -/
def Chip.kindling (c : Chip) (l : LifeCycle) : Bool :=
  l.state == .blank && !c.grd.kindled && decide (4 ≤ c.crp.startStep)

/-! ### Memory that answers -/

/-- Whether two regions are one; the flow cores' memories are. -/
def Region.like : Region → Region → Bool
  | .flowMemory _, .flowMemory _ => true
  | x, y => x == y

/-- Whether DRAM is READY (11 R358). -/
def Chip.dramUp (c : Chip) : Bool := c.bit Reg.APC_DDR_STATUS 0

/-- Whether the PCIe link carries transfers: trained, not in standalone use, clocked, and the function in D0 (01 R19,
11 R335, R337). -/
def Chip.pcieUp (c : Chip) : Bool :=
  c.bit Reg.RING_STATUS 2 && !c.bit Reg.RING_CTRL 1 && !c.muxOff 3 && !c.crp.downs.contains 19 && !c.ring.d3hot

/-- Whether the outbound window can be reached: the host has enabled the function as a bus master (01 R19, 11 R335; log
entry 102). -/
def Chip.hostUp (c : Chip) : Bool := c.pcieUp && c.ring.setup.command.getLsbD 2

/-- Whether BAR0 takes transactions: the host has enabled its memory space (11 R335; log entry 102). -/
def Chip.barUp (c : Chip) : Bool := c.pcieUp && c.ring.setup.command.getLsbD 1

/-- Whether memory at `a … a+len-1` can be reached by a transfer of a block: one populated region that is up.
Configuration space and doorbell pages take no such transfer, which ends with a bus error whatever the plan
grants: the manual gives the blocks no business there (DESIGN CHOICE, log entry 17). -/
def Chip.memUp (c : Chip) (a len : Nat) : Bool :=
  (c.regionOf a).like (c.regionOf (a + max len 1 - 1)) &&
  match c.regionOf a with
  | .contextStore | .flowMemory _ | .packetBuffer => true
  | .dram => c.dramUp
  | .hostWindow => c.hostUp
  | _ => false

/-- The 64-bit words that `a … a+len-1` touches. -/
def wordsOf (a len : Nat) : List Nat := upFrom (a / 8) ((a + max len 1 - 1) / 8 + 1 - a / 8)

/-- Whether `a … a+len-1` covers the whole of a 64-bit word. -/
def covers (a len w : Nat) : Bool := decide (a ≤ 8 * w) && decide (8 * w + 8 ≤ a + len)

/-- Change the cluster. -/
def Chip.onApc (c : Chip) (f : Apc → Apc) : Chip := { c with apc := f c.apc }

/-- What a DRAM read finds at an address (R359): a stored error shows whatever the operand says. -/
def Chip.eccAt (c : Chip) (addr : Nat) (e : Ecc) : Ecc :=
  if c.apc.poison.contains (addr / 8) then .uncorrectable else e

/-- Count, latch and record what a DRAM read finds. -/
def Chip.dramEcc (c : Chip) (addr ini : Nat) (e : Ecc) : Chip :=
  match c.eccAt addr e with
  | .good => c
  | .corrected => (c.bump Reg.APC_DDR_CE).wr64 Reg.APC_DDR_CE_ADDR_LO Reg.APC_DDR_CE_ADDR_HI addr
  | .uncorrectable =>
    (((c.bump Reg.APC_DDR_UE).wr64 Reg.APC_DDR_UE_ADDR_LO Reg.APC_DDR_UE_ADDR_HI addr).emberPost 0x601
      (leBytes 6 addr ++ leBytes 1 ini) true false).onApc fun a => { a with lastUe := some c.time }

/-- A gated access to memory behind a block's fabric port: the domain of the port reached and the block (14 R417).
DRAM lies behind the cluster's port in DRM, the outbound window behind RING's in FAB. -/
def Chip.gatedMemory (c : Chip) (r : Region) : Option (Nat × Nat) :=
  match r with
  | .contextStore => if c.portGated 6 then some (3, 6) else none
  | .flowMemory _ => if c.portGated 5 then some (1, 5) else none
  | .packetBuffer => if c.domainUp (workDomain 12) then none else some (3, 12)
  | .dram => if c.gated 6 || !c.domainUp 6 || c.muxOff 1 then some (6, 6) else none
  | .hostWindow => if c.portGated 0 then some (3, 0) else none
  | _ => none

/-- How a transfer ends. -/
inductive Access where
  /-- It has its effect. -/
  | ok
  /-- It has its effect, and the check bits of a word it read were bad: counted. -/
  | marred
  /-- It reaches a gated port: reads are zero, writes dropped, no error. -/
  | gated
  | refused
  | busError
  deriving DecidableEq, Repr

/-- Whether a transfer has its effect. -/
def Access.done (j : Access) : Bool := j == .ok || j == .marred

/-- How its initiator sees a transfer end: a gated access and one whose error was corrected look like any other. -/
def Access.seen : Access → Access
  | .marred | .gated => .ok
  | j => j

/-- What the check bits show of each word that a block's transfer reads: all that a read touches, and those that a
write covers in part (11 R359). A stored error shows always, a new one as it comes. -/
def Chip.eccFinds (c : Chip) (wr : Bool) (addr len : Nat) : List (Nat × Ecc) :=
  if c.regionOf addr = .dram then
    ((wordsOf addr len).filter fun w => !(wr && covers addr len w)).map fun w =>
      (w, c.eccAt (8 * w) (Config.dramEcc c.time w))
  else []

/-- How a transfer that the plan does not concern ends: the address map, gating, and what the check bits show. -/
def Chip.reach (c : Chip) (wr : Bool) (addr len : Nat) : Access :=
  if !c.memUp addr len then .busError
  else if (c.gatedMemory (c.regionOf addr)).isSome then .gated
  else if (c.eccFinds wr addr len).all (·.2 == .good) then .ok
  else if !wr && (c.eccFinds wr addr len).any (·.2 == .uncorrectable) then .busError
  else .marred

/-- What is counted and recorded of such a transfer: a gated access, or the errors of the words it reads. A word found
uncorrectable by a write of a part of it stays so (R359). -/
def Chip.noteReach (c : Chip) (ini : Nat) (wr : Bool) (addr len : Nat) : Chip :=
  if !c.memUp addr len then c
  else match c.gatedMemory (c.regionOf addr) with
  | some (d, b) => c.noteGatedAt d b ini addr wr
  | none =>
    let finds := (c.eccFinds wr addr len).filter (·.2 != .good)
    let bad := (finds.filter fun f => wr && f.2 == .uncorrectable && !c.apc.poison.contains f.1).map (·.1)
    let c := finds.foldl (fun c f => c.dramEcc (8 * f.1) ini f.2) c
    if bad = [] then c else c.onApc fun a => { a with poison := a.poison ++ bad }

/-- Judge a transfer of a block under the plan (01 R26, R27) and the address map. One of no bytes makes no
access. -/
def Chip.judge (c : Chip) (ini : Nat) (host wr : Bool) (addr len : Nat) : Access :=
  if len = 0 then .ok
  else if !c.planAllows ini host wr addr len then .refused
  else c.reach wr addr len

/-- Count and record a refused transfer, or what an allowed one met. -/
def Chip.noteAccess (c : Chip) (ini : Nat) (host wr : Bool) (addr len : Nat) : Chip :=
  match c.judge ini host wr addr len with
  | .ok => c
  | .refused => c.noteRefusal ini (if host then 2 else 1) wr addr
  | _ => c.noteReach ini wr addr len

/-- A read by a block: how it ended, the bytes (zero when it did not), and the chip. -/
def Chip.dmaRead (c : Chip) (ini : Nat) (host : Bool) (addr len : Nat) : Access × List Byte × Chip :=
  let j := c.judge ini host false addr len
  (j.seen, if j.done then c.rdMem addr len else List.replicate len 0, c.noteAccess ini host false addr len)

/-- Bytes are stored; words written whole get new check bits (11 R359). -/
def Chip.store (c : Chip) (addr : Nat) (bs : List Byte) : Chip :=
  let c := c.wrMem addr bs
  if c.apc.poison.isEmpty then c
  else c.onApc fun a => { a with poison := a.poison.filter fun w => !covers addr bs.length w }

/-- A write by a block. -/
def Chip.dmaWrite (c : Chip) (ini : Nat) (host : Bool) (addr : Nat) (bs : List Byte) : Access × Chip :=
  let j := c.judge ini host true addr bs.length
  (j.seen, (c.noteAccess ini host true addr bs.length).when j.done (fun c => c.store addr bs))

/-- A read at the Seal level, which no plan judges: the bytes, zero where the memory does not answer, and the chip. -/
def Chip.sealRead (c : Chip) (ini addr len : Nat) : List Byte × Chip :=
  if len = 0 then ([], c)
  else (if (c.reach false addr len).done then c.rdMem addr len else List.replicate len 0, c.noteReach ini false addr len)

/-- A write at the Seal level. -/
def Chip.sealWrite (c : Chip) (ini addr : Nat) (bs : List Byte) : Chip :=
  if bs = [] then c
  else (c.noteReach ini true addr bs.length).when (c.reach true addr bs.length).done fun c => c.store addr bs

/-! ### The IOMMU (11 R351, R352) -/

/-- Walk four levels of tables from `table`; `shifts` are the index positions still to come. RING reads each entry in
a transfer of its own, which the access plan judges; a refused one reads as zeros, which is no valid entry (01 R26,
R27; log entry 99). -/
def Chip.walk (c : Chip) (wr : Bool) (x : Nat) : List Nat → Nat → Option Nat × Chip
  | [], _ => (none, c)
  | sh :: rest, table =>
    let a := table + 8 * (x / 2 ^ sh % 512)
    if c.regionOf a = .dram && c.bit Reg.APC_DDR_STATUS 0 then
      let (_, bs, c) := c.dmaRead 4 false a 8
      let e := leVal bs
      let target := fld e 47 12 * 4096
      if !bitOf e 0 then (none, c)
      else if bitOf e 3 then
        if sh = 39 || target % 2 ^ sh != 0 || !bitOf e (if wr then 2 else 1) then (none, c)
        else (some (target + x % 2 ^ sh), c)
      else c.walk wr x rest target
    else (none, c)

/-- The address a domain maps `x` to, or a fault (R351). -/
def Chip.translate (c : Chip) (dom : Nat) (wr : Bool) (x : Nat) : Option Nat × Chip :=
  match c.fl (Reg.RING_IOMMU_DOM dom) 1 0 with
  | 1 => (if x < 2 ^ 47 then some (0x800000000000 + x) else none, c)
  | 2 => if x < 2 ^ 48 then
      c.walk wr x [39, 30, 21, 12]
        (c.fl (Reg.RING_IOMMU_DOM dom) 31 12 * 4096 + c.fl (Reg.RING_IOMMU_DOM_HI dom) 15 0 * 2 ^ 32)
    else (none, c)
  | _ => (none, c)

/-- The cached translation of a page, if one is held (R352). -/
def Chip.cached (c : Chip) (dom page : Nat) (wr : Bool) : Option Xlat :=
  c.ring.cache.find? fun e => e.dom == dom && e.page == page && (if wr then e.wr else e.rd)

/-- Count and latch a fault (R352). -/
def Chip.noteFault (c : Chip) (dom : Nat) (wr : Bool) (x : Nat) : Chip :=
  let c := (c.bump Reg.RING_IOMMU_FLTCNT).raise Reg.RING_STATUS 3
  c.when (!c.bit Reg.RING_IOMMU_FLT_INFO 31) fun c =>
    (c.wr Reg.RING_IOMMU_FLT_INFO (2 ^ 31 + 16 * b2n wr + dom)).wr64
      Reg.RING_IOMMU_FLT_ADDR_LO Reg.RING_IOMMU_FLT_ADDR_HI (x % 2 ^ 48)

/-- Translate through the cache of 512 successful translations, filling it on a miss; the
oldest makes room (R352). -/
def Chip.iova (c : Chip) (dom : Nat) (wr : Bool) (x : Nat) : Option Nat × Chip :=
  if c.fl (Reg.RING_IOMMU_DOM dom) 1 0 != 2 then
    match c.translate dom wr x with
    | (some a, c) => (some a, c)
    | (none, c) => (none, c.noteFault dom wr x)
  else
    match c.cached dom (x / 4096) wr with
    | some e => (some (e.target * 4096 + x % 4096), c)
    | none =>
      let c := c.bump Reg.RING_IOMMU_MISS
      match c.translate dom wr x with
      | (some a, c) =>
        (some a, { c with ring := { c.ring with
          cache := (⟨dom, x / 4096, a / 4096, !wr, wr⟩ :: c.ring.cache).take 512 } })
      | (none, c) => (none, c.noteFault dom wr x)

/-- Bytes of a transfer that lie in the page of its first byte. -/
def inPage (x len : Nat) : Nat := min len (4096 - x % 4096)

/-- A read on behalf of a ring: Host-level addresses are translated page by page (R338, R351).
`fuel` bounds the pages touched. -/
def Chip.ringRead (c : Chip) (ini dom : Nat) (host : Bool) : Nat → Nat → Nat →
    Access × List Byte × Chip
  | 0, _, _ => (.ok, [], c)
  | fuel + 1, x, len =>
    if len = 0 then (.ok, [], c)
    else if !host then c.dmaRead ini false x len
    else
      match c.iova dom false x with
      | (none, c) => (.refused, List.replicate len 0, c)
      | (some a, c) =>
        match c.dmaRead ini true a (inPage x len) with
        | (.ok, bs, c) =>
          match c.ringRead ini dom host fuel (x + inPage x len) (len - inPage x len) with
          | (j, rest, c) => (j, bs ++ rest, c)
        | (j, _, c) => (j, List.replicate len 0, c)

/-- A write on behalf of a ring; pages before a fault have been written (R352). -/
def Chip.ringWrite (c : Chip) (ini dom : Nat) (host : Bool) : Nat → Nat → List Byte → Access × Chip
  | 0, _, _ => (.ok, c)
  | fuel + 1, x, bs =>
    if bs = [] then (.ok, c)
    else if !host then c.dmaWrite ini false x bs
    else
      match c.iova dom true x with
      | (none, c) => (.refused, c)
      | (some a, c) =>
        match c.dmaWrite ini true a (bs.take (inPage x bs.length)) with
        | (.ok, c) => c.ringWrite ini dom host fuel (x + inPage x bs.length) (bs.drop (inPage x bs.length))
        | (j, c) => (j, c)

/-! ### Packet-buffer pools (02 R65, R490) -/

/-- The state of a pool. -/
def Chip.pool (c : Chip) (p : Pool) : PoolState := Tab.get PoolState.initial c.pools p.num

/-- Change the state of a pool. -/
def Chip.setPool (c : Chip) (p : Pool) (x : PoolState) : Chip :=
  { c with pools := Tab.put PoolState.initial c.pools p.num x }

/-- Whether a slot belongs to a pool (R490: LO to HI once the range is taken). -/
def Chip.inPool (c : Chip) (p : Pool) (slot : Nat) : Bool :=
  (c.pool p).ranged && decide (c.rd p.lo ≤ slot) && decide (slot ≤ c.rd p.hi)

/-- Whether a slot is free in a pool. -/
def Chip.slotFree (c : Chip) (p : Pool) (slot : Nat) : Bool :=
  c.inPool p slot && !((c.pool p).runs.any fun r => decide (r.1 ≤ slot) && decide (slot < r.1 + r.2))

/-- Free slots of a pool (PB_AVAIL). -/
def Chip.poolAvail (c : Chip) (p : Pool) : Nat := ((List.range 2048).filter (c.slotFree p)).length

/-- The first slot of the lowest run of `n` free neighbouring slots (DESIGN CHOICE,
log entry 19: lowest). -/
def Chip.poolFind (c : Chip) (p : Pool) (n : Nat) : Option Nat :=
  firstFrom (fun s => (upFrom s n).all (c.slotFree p)) 2048 0

/-- Take a run of slots out of a pool. -/
def Chip.poolTake (c : Chip) (p : Pool) (slot n : Nat) : Chip :=
  c.setPool p { c.pool p with runs := (c.pool p).runs ++ [(slot, n)] }

/-- Whether a slot is the first of a run taken out of a pool and still within it. -/
def Chip.isRun (c : Chip) (p : Pool) (slot : Nat) : Bool :=
  c.inPool p slot && (c.pool p).runs.any fun r => r.1 == slot

/-- Return the run that begins at a slot to its pool. -/
def Chip.poolGive (c : Chip) (p : Pool) (slot : Nat) : Chip :=
  c.setPool p { c.pool p with runs := (c.pool p).runs.filter fun r => r.1 != slot }

/-- The range of a pool is taken at the first write of LO or HI and at each later one (R490): every slot of the range
is then free, those that software still holds among them (DESIGN CHOICE, log entry 92). -/
def Chip.poolRange (c : Chip) (p : Pool) : Chip := c.setPool p ⟨true, []⟩

/-- The address of a packet-buffer slot of 1 KiB. -/
def slotAddr (slot : Nat) : Nat := 0x60000000 + slot * 0x400

end Sys2Proof.Machine
end

