-- ==== Sys2Proof/Machine/Operands.lean ====
section
/-!
DEFINITION. The operand layouts of the chip's messages: allocation and pod operands
(06_flow_scheduler.md Tables 2 and 3) between bytes and fields, the inbox entry that a flow
core reads (Table 7), and the fields of a hot context (05_sessions_and_cipher.md Table 2).
-/
namespace Sys2Proof.Machine

/-- The 16 bytes of an allocation operand (06 Table 2). -/
def AllocOp.bytes (a : AllocOp) : List Byte :=
  leBytes 1 a.cls.toNat ++ leBytes 1 a.src.toNat ++
  leBytes 1 (b2n a.hvalid + 2 * b2n a.fmtv + 4 * b2n a.cordv) ++ leBytes 1 a.kind.toNat ++
  leBytes 4 a.smn.toNat ++ leBytes 2 a.cord.toNat ++ leBytes 2 a.buf.toNat ++
  leBytes 1 a.fmt.toNat ++ leBytes 1 0 ++ leBytes 2 a.arg.toNat

/-- The allocation operand that 16 bytes spell. -/
def AllocOp.ofBytes (b : List Byte) : AllocOp :=
  let flags := leAt b 2 1
  { cls := BitVec.ofNat 6 (leAt b 0 1), src := BitVec.ofNat 4 (leAt b 1 1),
    hvalid := bitOf flags 0, fmtv := bitOf flags 1, cordv := bitOf flags 2,
    kind := BitVec.ofNat 4 (leAt b 3 1), smn := BitVec.ofNat 32 (leAt b 4 4),
    cord := BitVec.ofNat 12 (leAt b 8 2), buf := BitVec.ofNat 11 (leAt b 10 2),
    fmt := BitVec.ofNat 8 (leAt b 12 1), arg := BitVec.ofNat 16 (leAt b 14 2) }

/-- The 16 bytes of a pod operand in an inbox slot: POD and GEN read 0 (06 Table 7). -/
def PodOp.bytes (p : PodOp) : List Byte :=
  leBytes 3 0 ++ leBytes 1 p.kind.toNat ++ leBytes 1 p.status.toNat ++ leBytes 3 0 ++
  leBytes 8 p.value.toNat

/-- The pod operand that 16 bytes spell (06 Table 3), apart from POD and GEN. -/
def PodOp.ofBytes (b : List Byte) : PodOp :=
  { kind := BitVec.ofNat 4 (leAt b 3 1), status := BitVec.ofNat 8 (leAt b 4 1),
    value := BitVec.ofNat 64 (leAt b 8 8) }

/-- The bytes of four words, lowest first (R7). -/
def wordsBytes (ws : List Word) : List Byte := ws.flatMap (fun w => leBytes 4 w.toNat)

/-- The 16 bytes a slot shows in an inbox entry; KIND 0 when it is empty. -/
def Slot.bytes (s : Slot) : List Byte :=
  match s.op with
  | some p => p.bytes
  | none => List.replicate 16 0

/-- The meter handle an allocation operand names (06 Table 2). -/
def AllocOp.handle (a : AllocOp) : BitVec 20 := a.smn.setWidth 20

/-- CORD with BOUND and UNORDERED, and SEQ, as an inbox entry shows them (06 Table 7). -/
def Pod.cordSeq (p : Pod) : Nat × Nat :=
  match p.binding with
  | .bound c s => (c.toNat + 0x4000, s.toNat)
  | .unordered => (0x8000, 0)
  | .unbound => (((p.cord.map BitVec.toNat).getD 0), 0)

/-- TIMED: a slot holds VOID with STATUS 1 (06 Table 7). -/
def Pod.timed (p : Pod) : Bool := p.slots.any fun s => s.op.any fun o => o.kind == 0xB && o.status == 1

/-- The first 0x50 bytes of an inbox entry (06 Table 7). -/
def Pod.inboxBytes (p : Pod) (num : Nat) : List Byte :=
  let (cord, seq) := p.cordSeq
  leBytes 2 num ++ leBytes 1 p.gen.toNat ++ leBytes 1 p.alloc.cls.toNat ++ leBytes 2 cord ++
  leBytes 1 (b2n p.intr + 2 * b2n p.timed) ++ leBytes 1 0 ++ leBytes 4 seq ++
  leBytes 4 p.ticket.toNat ++ p.alloc.bytes ++ p.slots.flatMap Slot.bytes

/-! ### Hot contexts (05 Table 2), by context index -/

/-- Address of context `n` (05 R139). -/
def ctxAddr (n : Nat) : Nat := 0x40000000 + n * 0x100

/-- Bytes of a context, as a block reads them: zeros where the store is gated (14 R417). -/
def Chip.ctxBytes (c : Chip) (n off len : Nat) : List Byte :=
  if c.portGated 6 then List.replicate len 0 else c.rdMem (ctxAddr n + off) len

/-- A little-endian field of a context. -/
def Chip.ctx (c : Chip) (n off len : Nat) : Nat := leVal (c.ctxBytes n off len)

/-- A block reads a context: a gated access is counted (14 R417). -/
def Chip.ctxSeen (c : Chip) (ini n : Nat) : Chip :=
  c.when (c.portGated 6) fun c => c.noteGatedAt 3 6 ini (ctxAddr n) false

/-- The CIU writes a field of a context; a gated access is dropped and counted (14 R417). -/
def Chip.setCtx (c : Chip) (n off len v : Nat) : Chip :=
  if c.portGated 6 then c.noteGatedAt 3 6 5 (ctxAddr n + off) true else c.wrMem (ctxAddr n + off) (leBytes len v)

/-- FMT of a context. -/
def Chip.ctxFmt (c : Chip) (n : Nat) : Nat := c.ctx n 5 1

/-- CORD of a context. -/
def Chip.ctxCord (c : Chip) (n : Nat) : Nat := c.ctx n 0x1C 2 % 4096

/-- Address of the meter record of a handle (05 R137). -/
def Chip.recordAddr (c : Chip) (h : BitVec 20) : Nat :=
  c.rd64 Reg.APC_MREC_BASE_LO Reg.APC_MREC_BASE_HI + h.toNat * 0x200

end Sys2Proof.Machine
end

