-- ==== Sys2Proof/Machine/Flags.lean ====
section
/-!
DEFINITION. The status and error bits of the blocks: CFG_ERR of each (00_scope.md R491), the
FREE_ERR of each pool, the narrow saturating counts, and the sizes and levels of the rings.
-/
namespace Sys2Proof.Machine

/-- Set the CFG_ERR bit of a block's status register (R491). -/
def Chip.cfgErr (c : Chip) (block : Nat) : Chip :=
  match block with
  | 0 => c.raise Reg.RING_STATUS 0
  | 1 => c.raise Reg.BKB_STATUS 0
  | 2 => c.raise Reg.LMA_STATUS 8
  | 4 => c.raise Reg.CIU_STATUS 4
  | 6 => c.raise Reg.APC_DDR_STATUS 2
  | 7 => c.raise Reg.CLM_STATUS 13
  | 9 => c.raise Reg.BAL_STATUS 2
  | 11 => c.raise Reg.CRP_STATUS 4
  | _ => c

/-- Set the CFG_ERR bit of an Air Unit. -/
def Chip.airCfgErr (c : Chip) (u : Nat) : Chip := c.raise (Reg.AIR_STATUS u) 0

/-- Set the CFG_ERR bit of the context engine. -/
def Chip.hcxCfgErr (c : Chip) : Chip := c.raise Reg.APC_HCX_STATUS 2

/-- Set the FREE_ERR bit of a pool's status register where the pool has one: LMA_STATUS[9]
(02 R65) and AIR_STATUSu[5] (04 R121); the other pools have none. -/
def Chip.freeErr (c : Chip) (p : Pool) : Chip :=
  match p with
  | .lma => c.raise Reg.LMA_STATUS 9
  | .air0 => c.raise (Reg.AIR_STATUS 0) 5
  | .air1 => c.raise (Reg.AIR_STATUS 1) 5
  | _ => c

/-- Increment a counter held in bits [hi:lo] of a register, saturating in its own width. -/
def Chip.bumpFl (c : Chip) (r hi lo : Nat) : Chip :=
  c.setFl r hi lo (min (c.fl r hi lo + 1) (2 ^ (hi + 1 - lo) - 1))

/-- Entries of a ring: 2^(SIZE + 4), SIZE above 6 acting as 6 (11 Table 14). -/
def ringSize (size : Nat) : Nat := 2 ^ (min size 6 + 4)

/-- Whether the Flow Scheduler, RING and the transmitters may start new work: not while a HOLD
is entered, in HOLD or in RIDE (14 R427, Table 12). -/
def Chip.working (c : Chip) : Bool :=
  (c.crp.power == .run || c.crp.power == .trim) && !c.crp.holdEntry

end Sys2Proof.Machine
end

