-- ==== Sys2Proof/Machine/Keys.lean ====
section
/-!
DEFINITION. The Key Register: slots, masks, attribute words, pairs of halves, session ways, and
what pins a context or a session (05_sessions_and_cipher.md R143–R152).
-/
namespace Sys2Proof.Machine

/-! ### Slots and attribute words (R143, R145) -/

/-- A key slot. -/
def Chip.slot (c : Chip) (s : Nat) : KeySlot := Tab.get (fun _ => KeySlot.initial) c.ciu.slots s

/-- The attribute word of a slot. -/
def Chip.attr (c : Chip) (s : Nat) : Nat := (c.slot s).attr.toNat

/-- Fields of an attribute word (Table 3). -/
def attrAlg (a : Nat) : Nat := fld a 3 0

/-- LEVEL of an attribute word; 3 acts as 2. -/
def attrLevel (a : Nat) : Nat := min 2 (fld a 7 6)

/-- Whether DIR permits inbound use. -/
def attrIn (a : Nat) : Bool := bitOf a 5

/-- Whether DIR permits outbound use. -/
def attrOut (a : Nat) : Bool := bitOf a 4

/-- VALID of an attribute word. -/
def attrValid (a : Nat) : Bool := bitOf a 31

/-- LOCK of an attribute word. -/
def attrLock (a : Nat) : Bool := bitOf a 13

/-- The mask of a slot (R145); 0 stands for a destroyed one. -/
def Chip.mask (c : Chip) (s : Nat) : BitVec 256 := c.ciu.masks.getD (s % 16) 0

/-- Give a slot content and attributes; the content is stored under its mask. -/
def Chip.setKey (c : Chip) (s attr : Nat) (key : BitVec 256) : Chip :=
  { c with ciu := { c.ciu with
      slots := Tab.put (fun _ => KeySlot.initial) c.ciu.slots s ⟨BitVec.ofNat 32 attr, key ^^^ c.mask s⟩
      laneKeys := c.ciu.laneKeys.filter (· != s) } }

/-- Set key and attributes of a slot to 0 (R149). -/
def Chip.eraseSlot (c : Chip) (s : Nat) : Chip :=
  { c with ciu := { c.ciu with
      slots := Tab.put (fun _ => KeySlot.initial) c.ciu.slots s KeySlot.initial
      laneKeys := c.ciu.laneKeys.filter (· != s) } }

/-- The key in a slot, unmasked. -/
def Chip.key (c : Chip) (s : Nat) : BitVec 256 := (c.slot s).stored ^^^ c.mask s

/-- The bytes of the key in a slot: byte j in bits [8j+7:8j] (R144). -/
def Chip.keyBytes (c : Chip) (s n : Nat) : List Byte := leBytes n (c.key s).toNat

/-- The other half of a P-384 pair that a slot is part of, its own half empty or not (R144). -/
def Chip.otherHalf (c : Chip) (s : Nat) : Option Nat :=
  match attrAlg (c.attr s) with
  | 9 => some (s + 1)
  | 10 => some (s - 1)
  | _ =>
    if s % 2 = 1 then if attrAlg (c.attr (s - 1)) = 9 then some (s - 1) else none
    else if attrAlg (c.attr (s + 1)) = 10 then some (s + 1) else none

/-- A slot and the other half of the pair it is part of. -/
def Chip.withHalf (c : Chip) (s : Nat) : List Nat := s :: (c.otherHalf s).toList

/-- A load, erase or derivation that touches one half of a pair erases the other (R144). -/
def Chip.breakPair (c : Chip) (s : Nat) : Chip :=
  match c.otherHalf s with
  | some t => c.eraseSlot t
  | none => c

/-- Bytes of the key an ALG fixes (R144). -/
def algBytes (alg : Nat) : Nat :=
  match alg with
  | 1 => 16
  | 6 => 16
  | 9 => 48
  | _ => 32

/-- The 384-bit scalar of a pair (R144). -/
def Chip.scalar384 (c : Chip) (s : Nat) : Nat :=
  (c.key s).toNat + (c.key (s + 1)).toNat % 2 ^ 128 * 2 ^ 256

/-- Store a key of `algBytes` bytes, given as the number its slot bits make, with its attributes;
a P-384 scalar takes two slots (R144). -/
def Chip.storeKey (c : Chip) (s attr v : Nat) : Chip :=
  if attrAlg attr = 9 then
    (((c.breakPair s).breakPair (s + 1)).setKey s attr (BitVec.ofNat 256 v)).setKey (s + 1)
      (putFld attr 3 0 10) (BitVec.ofNat 256 (v / 2 ^ 256 % 2 ^ 128))
  else (c.breakPair s).setKey s attr (BitVec.ofNat 256 (v % 2 ^ (8 * algBytes (attrAlg attr))))

/-- Whether a number is a valid scalar for an ALG of a private key; other ALGs take any (R155). -/
def scalarValid (alg v : Nat) : Bool :=
  match alg with
  | 8 => curve256.scalarOk v
  | 9 => curve384.scalarOk v
  | _ => true

/-- The number a derived output makes in its slot: a scalar is read big-endian, any other key
takes byte j in bits [8j+7:8j] (R144). -/
def derivedVal (alg : Nat) (out : List Byte) : Nat :=
  if alg = 8 ∨ alg = 9 then beVal out else leVal out

/-- An attribute word with the fields that Table 3 fixes: ORIGIN and PARENT as given, SESSION and bit 15 at 0. -/
def attrOf (a origin parent : Nat) : Nat :=
  putFld (putBit (putBit (putFld a 10 8 origin) 14 false) 15 false) 30 16 parent

/-- The tamper line as the CIU sees it (CIU_ALARM.TAMPER, live; R167). -/
def Chip.tamperLine (c : Chip) : Bool := c.bit Reg.CIU_ALARM 5

/-! ### What pins a handle (R141, R151) -/

/-- The meter handle of a request entry. -/
def CiuReq.handle (r : CiuReq) : Nat := leAt r.entry 52 3 % 2 ^ 20

/-- Whether a request entry carries its handle (FLAGS.CTX). -/
def CiuReq.ctx (r : CiuReq) : Bool := bitOf (leAt r.entry 1 1) 0

/-- Whether a pod in flight names a handle. -/
def Chip.podNames (c : Chip) (h : Nat) : Bool :=
  c.flo.pods.any fun e => e.2.state != .free && e.2.alloc.hvalid && e.2.alloc.handle.toNat == h

/-- Whether a CIU request in progress carries a handle. -/
def Chip.reqNames (c : Chip) (h : Nat) : Bool :=
  c.ciu.inflight.any fun r => r.ctx && r.handle == h

/-- Whether the context or session of a handle is pinned. -/
def Chip.pinned (c : Chip) (h : Nat) : Bool := c.podNames h || c.reqNames h

/-! ### Session ways (R150–R152) -/

/-- The slot of way `w` of the session set of a handle. -/
def sessSlot (h w : Nat) : Nat := 8192 + 6 * (h % 4096) + w

/-- The handle a session slot is for. -/
def Chip.sessOwner (c : Chip) (s : Nat) : Option Nat :=
  let v := (Tab.get (fun _ => 0) c.ciu.sessHandle s).toNat
  if v < 2 ^ 20 then none else some (v - 2 ^ 20)

/-- Note the handle a session slot is for, or none. -/
def Chip.setSessOwner (c : Chip) (s : Nat) (h : Option Nat) : Chip :=
  let v := match h with | some h => 2 ^ 20 + h | none => 0
  { c with ciu := { c.ciu with
      sessHandle := Tab.put (fun _ => 0) c.ciu.sessHandle s (BitVec.ofNat 21 v) } }

/-- The first way that holds the keys of a handle. -/
def Chip.sessFind (c : Chip) (h : Nat) : Option Nat :=
  (List.range 6).find? fun w =>
    c.sessOwner (sessSlot h w) == some h && attrValid (c.attr (sessSlot h w))

/-- Ways of a set, least recently used first. -/
def Chip.sessLru (c : Chip) (set : Nat) : List Nat :=
  Tab.get (fun _ => [0, 1, 2, 3, 4, 5]) c.ciu.sessUsed set

/-- The way of a handle's set that `w` begins, or the pair of ways of a meter of suite 2 (R150). -/
def Chip.sessWays (c : Chip) (h w : Nat) : List Nat :=
  if attrAlg (c.attr (sessSlot h w)) = 2 then [w, w + 1] else [w]

/-- A way or pair of a handle's set becomes the most recently used. -/
def Chip.sessTouch (c : Chip) (h w : Nat) : Chip :=
  let ws := c.sessWays h w
  { c with ciu := { c.ciu with
      sessUsed := Tab.put (fun _ => [0, 1, 2, 3, 4, 5]) c.ciu.sessUsed (h % 4096)
        ((c.sessLru (h % 4096)).filter (fun v => !ws.contains v) ++ ws) } }

/-- Whether a way of a set may be replaced: its handle is not pinned (R151). -/
def Chip.sessWayFree (c : Chip) (h w : Nat) : Bool :=
  match c.sessOwner (sessSlot h w) with
  | none => true
  | some o => !c.pinned o

/-- Erase the way, and with it the pair it belongs to (R150). -/
def Chip.sessEraseWay (c : Chip) (h w : Nat) : Chip :=
  let erase (c : Chip) (w : Nat) : Chip := (c.eraseSlot (sessSlot h w)).setSessOwner (sessSlot h w) none
  match c.sessOwner (sessSlot h w) with
  | none => erase c w
  | some o => (List.range 6).foldl (fun c v =>
      c.when (c.sessOwner (sessSlot h v) == some o) fun c => erase c v) c

/-- Erase the sessions whose invalidation waited and that are no longer pinned (R152). -/
def Chip.sessSweep (c : Chip) : Chip :=
  let due := c.ciu.sessInval.filter fun h => !c.pinned h.toNat
  let c := due.foldl (fun c h =>
    match c.sessFind h.toNat with
    | some w => c.sessEraseWay h.toNat w
    | none => c) c
  { c with ciu := { c.ciu with sessInval := c.ciu.sessInval.filter fun h => c.pinned h.toNat } }

end Sys2Proof.Machine
end

