-- ==== Sys2Proof/Machine/Flow.lean ====
section
/-!
DEFINITION. The Flow Scheduler: pods, allocation, operands, cords, dispatch, release and the
flow-core ports (06_flow_scheduler.md).
-/
namespace Sys2Proof.Machine

/-! ### Parts of the scheduler's state -/

/-- Change the scheduler. -/
def Chip.onFlo (c : Chip) (f : Flo → Flo) : Chip := { c with flo := f c.flo }

/-- A pod. -/
def Chip.pod (c : Chip) (p : Nat) : Pod := Tab.get (fun _ => Pod.initial) c.flo.pods p

/-- Give a pod a value. -/
def Chip.setPod (c : Chip) (p : Nat) (x : Pod) : Chip :=
  c.onFlo fun f => { f with pods := Tab.put (fun _ => Pod.initial) f.pods p x }

/-- A cord. -/
def Chip.cord (c : Chip) (k : Nat) : Cord := Tab.get (fun _ => Cord.initial) c.flo.cords k

/-- Give a cord a value. -/
def Chip.setCord (c : Chip) (k : Nat) (x : Cord) : Chip :=
  c.onFlo fun f => { f with cords := Tab.put (fun _ => Cord.initial) f.cords k x }

/-- A flow core. -/
def Chip.fcore (c : Chip) (n : Nat) : FlowCore := Tab.get (fun _ => FlowCore.initial) c.flo.cores n

/-- Give a flow core a value. -/
def Chip.setFcore (c : Chip) (n : Nat) (x : FlowCore) : Chip :=
  c.onFlo fun f => { f with cores := Tab.put (fun _ => FlowCore.initial) f.cores n x }

/-- The ready list of a class. -/
def Chip.readyList (c : Chip) (k : Nat) : List (BitVec 10) := Tab.get (fun _ => []) c.flo.ready k

/-- Give a class its ready list. -/
def Chip.setReady (c : Chip) (k : Nat) (l : List (BitVec 10)) : Chip :=
  c.onFlo fun f => { f with ready := Tab.put (fun _ => []) f.ready k l }

/-- The allocation queue of a source. -/
def Chip.allocQueue (c : Chip) (src : Nat) : List AllocOp := Tab.get (fun _ => []) c.flo.queues src

/-- Give a source its allocation queue. -/
def Chip.setAllocQueue (c : Chip) (src : Nat) (l : List AllocOp) : Chip :=
  c.onFlo fun f => { f with queues := Tab.put (fun _ => []) f.queues src l }

/-- Depth of the allocation queue of a source (Table 5). -/
def allocDepth (src : Nat) : Nat :=
  match src with
  | 0 => 32
  | 1 => 16
  | 2 => 16
  | 3 => 128
  | 4 => 64
  | 5 => 16
  | _ => 0

/-- Whether a source's allocation queue has room. -/
def Chip.allocRoom (c : Chip) (src : Nat) : Bool := decide ((c.allocQueue src).length < allocDepth src)

/-- The pool a source's frames lie in. -/
def srcPool (src : Nat) : Option Pool :=
  match src with
  | 0 => some .lma
  | 1 => some .air0
  | 2 => some .air1
  | 3 => some .bkb
  | 4 => some .ring
  | _ => none

/-- Every slot of the frame an operand names returns to its pool. -/
def Chip.returnFrame (c : Chip) (a : AllocOp) : Chip :=
  match srcPool a.src.toNat with
  | some p => c.when (c.isRun p a.buf.toNat) fun c => c.poolGive p a.buf.toNat
  | none => c

/-- Put an allocation operand in its source's queue; a standby drops it (15 R447). -/
def Chip.allocPost (c : Chip) (a : AllocOp) : Chip :=
  if c.pairState = 2 ∧ a.src.toNat < 6 then (c.bump Reg.BKB_PAIR_LOCALDROP).returnFrame a
  else c.setAllocQueue a.src.toNat (c.allocQueue a.src.toNat ++ [a])

/-- Pods that are not FREE (FLO_POD_USED). -/
def Chip.podsUsed (c : Chip) : Nat := (c.flo.pods.filter fun e => e.2.state != .free).length

/-- Pods a class holds (FLO_CLASS_INUSEc). -/
def Chip.classUse (c : Chip) (k : Nat) : Nat :=
  (c.flo.pods.filter fun e => e.2.state != .free && e.2.alloc.cls.toNat == k).length

/-- A kind a slot can expect: 0x4–0xA, any other acts as NONE (Tables 8 and 12). -/
def expKind (k : Nat) : BitVec 4 := if 4 ≤ k ∧ k ≤ 10 then BitVec.ofNat 4 k else 0

/-- A VOID operand with its STATUS (Table 1). -/
def voidOp (status : Nat) : PodOp := ⟨0xB, BitVec.ofNat 8 status, 0⟩

/-- Whether every slot that expects something is filled. -/
def Pod.complete (p : Pod) : Bool := p.slots.all fun s => s.exp == 0 || s.op.isSome

/-- Fill every empty slot that expects something (R179). -/
def Pod.fillVoid (p : Pod) (status : Nat) : Pod :=
  { p with slots := p.slots.map fun s =>
      if s.exp != 0 && s.op.isNone then { s with op := some (voidOp status) } else s }

/-- Fill every empty slot, whether it expects something or not (R177). -/
def Pod.voidEmpty (p : Pod) (status : Nat) : Pod :=
  { p with slots := p.slots.map fun s => if s.op.isNone then { s with op := some (voidOp status) } else s }

/-- Whether the hot context of a pod has come back absent. -/
def Pod.hcxAbsent (p : Pod) : Bool := p.ctxGone || p.slots.any fun s => s.op.any fun o => o.kind == 4 && o.status == 2

/-- Whether the cord counts as known for affinity (R183). -/
def Pod.cordKnown (p : Pod) : Option (BitVec 12) :=
  match p.binding with
  | .bound k _ => some k
  | .unordered => none
  | .unbound => if p.cordSrc = 2 || p.cordSrc = 3 then p.cord else none

/-- Put a pod at the tail of its class's ready list (R182). -/
def Chip.joinReady (c : Chip) (p : Nat) : Chip :=
  let k := (c.pod p).alloc.cls.toNat
  (c.setPod p { c.pod p with state := .ready }).setReady k (c.readyList k ++ [BitVec.ofNat 10 p])

/-- Address of an inbox entry of a core's local memory (Table 6). -/
def inboxAddr (core entry : Nat) : Nat := 0x50000000 + core * 0x20000 + 0x1FC00 + entry * 0x80

/-- The inbox entry a pod occupies in its core, if any. -/
def Chip.podEntry (c : Chip) (p : Nat) : Option Nat :=
  let x := c.fcore (c.pod p).core
  match (x.inbox.find? (·.2 == p)), x.run with
  | some e, _ => some e.1
  | none, some e => if e.2 = p then some e.1 else none
  | none, none => none

/-- Write a pod's inbox entry in its core's local memory (Table 7). -/
def Chip.writeInbox (c : Chip) (p : Nat) : Chip :=
  match c.podEntry p with
  | some e => c.wrMem (inboxAddr (c.pod p).core e) ((c.pod p).inboxBytes p)
  | none => c

/-- Write one of slots 1–3 (index 0–2) of a pod's inbox entry (Table 7). -/
def Chip.writeSlot (c : Chip) (p i : Nat) : Chip :=
  match c.podEntry p, (c.pod p).slots[i]? with
  | some e, some s => c.wrMem (inboxAddr (c.pod p).core e + 0x20 + 16 * i) s.bytes
  | _, _ => c

/-- Write the slots of an inbox entry that differ from what the pod held before. -/
def Chip.writeChanged (c : Chip) (p : Nat) (old : List Slot) : Chip :=
  (List.range 3).foldl (fun c i => c.when (old[i]? != (c.pod p).slots[i]?) fun c => c.writeSlot p i) c

/-- Show a pod's binding in its inbox entry (Table 7). -/
def Chip.writeBinding (c : Chip) (p : Nat) : Chip :=
  match c.podEntry p with
  | some e =>
    let a := inboxAddr (c.pod p).core e
    (c.wrMem (a + 4) (leBytes 2 (c.pod p).cordSeq.1)).wrMem (a + 8) (leBytes 4 (c.pod p).cordSeq.2)
  | none => c

/-! ### Allocation (R175, R176, R180) -/

/-- Issue a request to a producer and take its hold (R176, R178). -/
def Chip.request (c : Chip) (p : Nat) (r : ProdReq) : Chip :=
  (c.setPod p { c.pod p with holds := (c.pod p).holds + 1 }).onFlo fun f =>
    { f with reqs := f.reqs ++ [r] }

/-- Ask BAL for a format entry; requests still out are replaced by it (R177). -/
def Chip.requestFmt (c : Chip) (p : Nat) (fmt : BitVec 8) : Chip :=
  (c.setPod p { c.pod p with staleFmt := (c.pod p).fmtReqs, fmtReqs := (c.pod p).fmtReqs + 1 }).request p
    (.fmt (BitVec.ofNat 10 p) fmt)

/-- What R176 does for one slot of a new pod: a request, a VOID, or nothing yet. A KEY slot of a
pod without a handle is filled like an HCX slot (DEDUCED, log entry 12). -/
def Chip.requestFor (c : Chip) (p i : Nat) : Chip :=
  let pod := c.pod p
  match pod.slots[i]? with
  | none => c
  | some s =>
    let n := BitVec.ofNat 10 p
    let void := c.setPod p { pod with slots := pod.slots.set i { s with op := some (voidOp 3) } }
    match s.exp.toNat with
    | 4 => if pod.alloc.hvalid then c.request p (.hcx n pod.alloc.handle) else void
    | 5 => if pod.alloc.hvalid then c.request p (.key n pod.alloc.handle) else void
    | 6 => if pod.alloc.fmtv then c.requestFmt p pod.alloc.fmt else c
    | _ => c

/-- The cord known from allocation on, by CORDSRC (R185). -/
def allocCord (src defcord : Nat) (a : AllocOp) (expectsHcx : Bool) : Option (BitVec 12) :=
  match src with
  | 1 => if expectsHcx then none else some (BitVec.ofNat 12 defcord)
  | 2 => some (if a.cordv then a.cord else BitVec.ofNat 12 defcord)
  | 3 => some (BitVec.ofNat 12 defcord)
  | _ => none

/-- CORDSRC 1 binds to DEFCORD when slot HCX holds VOID (R185). -/
def Chip.settleCord (c : Chip) (p : Nat) : Chip :=
  let pod := c.pod p
  c.when (pod.cordSrc == 1 && pod.cord.isNone &&
      pod.slots.any fun s => s.exp == 4 && (s.op.map (·.kind)) == some 0xB)
    fun c => c.setPod p { pod with cord := some pod.defCord }

/-- Whether an allocation operand may take a pod now (R180). -/
def Chip.mayAllocate (c : Chip) (a : AllocOp) : Bool :=
  let k := a.cls.toNat
  let limit := c.fl (Reg.FLO_CLASS_PROF k) 31 21
  c.working && c.bit Reg.FLO_CTRL 0 && !c.bit Reg.FLO_CTRL 1 && c.bit (Reg.FLO_CLASS_CFG k) 31 &&
  decide (c.classUse k < if limit = 0 then 1024 else limit) &&
  (decide (c.fl Reg.FLO_POOL_CFG 9 0 < c.flo.freeList.length) ||
    (c.bit (Reg.FLO_CLASS_CFG k) 30 && decide (0 < c.flo.freeList.length)))

/-- Allocate the pod at the head of the free list to an operand (R175, R176, R180). -/
def Chip.allocate (c : Chip) (a : AllocOp) : Chip :=
  match c.flo.freeList with
  | [] => c
  | n :: rest =>
    let p := n.toNat
    let k := a.cls.toNat
    let cfg := c.rd (Reg.FLO_CLASS_CFG k)
    let prof := c.rd (Reg.FLO_CLASS_PROF k)
    let slots : List Slot :=
      [⟨expKind (fld prof 7 4), none⟩, ⟨expKind (fld prof 11 8), none⟩, ⟨expKind (fld prof 15 12), none⟩]
    let src := fld cfg 29 28
    let pod : Pod :=
      { Pod.initial with
        state := .wait, gen := (c.pod p).gen + 1, alloc := a, slots := slots,
        cordSrc := BitVec.ofNat 2 src, defCord := BitVec.ofNat 12 (fld cfg 11 0),
        cord := allocCord src (fld cfg 11 0) a (slots.any fun s => s.exp == 4),
        binding := if src = 0 then .unordered else .unbound, ticket := c.flo.ticket }
    let c := c.onFlo fun f =>
      { f with freeList := rest, ticket := f.ticket + 1,
               unbound := if src = 0 then f.unbound else f.unbound ++ [n] }
    let c := ((((c.setPod p pod).requestFor p 0).requestFor p 1).requestFor p 2).settleCord p
    let c := c.when (c.pod p).complete fun c => c.joinReady p
    c.keepMax Reg.FLO_POD_HWM c.podsUsed

/-- The first source in round robin whose head operand may take a pod (R180). -/
def Chip.allocSource (c : Chip) : Option Nat :=
  ((List.range 6).map fun i => (c.flo.srcNext + 1 + i) % 6).find? fun s =>
    match c.allocQueue s with
    | a :: _ => c.mayAllocate a
    | [] => false

/-- Heads left waiting in this cycle, all but that of the queue served, each counted once (R180). -/
def Chip.countAllocWait (c : Chip) (served : Option Nat) : Chip :=
  c.bumpBy Reg.FLO_ALLOC_WAIT
    ((List.range 6).filter fun s => some s != served && !(c.allocQueue s).isEmpty).length

/-! ### Operands reaching a pod (R174, R177, R178) -/

/-- Give back one hold. -/
def Chip.unhold (c : Chip) (p : Nat) : Chip :=
  c.setPod p { c.pod p with holds := (c.pod p).holds - 1 }

/-- Take one hold, for a request that names the pod (R178). -/
def Chip.hold (c : Chip) (p : Nat) : Chip := c.setPod p { c.pod p with holds := (c.pod p).holds + 1 }

/-- The slot R174 fills: the lowest empty one that expects the kind, in a pod in WAIT, QUEUED or
RUN. -/
def Pod.slotFor (p : Pod) (kind : BitVec 4) : Option Nat :=
  if p.state = .wait ∨ p.state = .queued ∨ p.state = .run then
    findIdx (fun s : Slot => s.exp == kind && s.op.isNone) p.slots
  else none

/-- Count an operand that meets no slot (R174). -/
def Chip.countUnplaced (c : Chip) (p : Nat) (kind : BitVec 4) : Chip :=
  let pod := c.pod p
  if pod.state = .free then c.bump Reg.FLO_OPND_STALE
  else if pod.slots.any (fun s => s.exp == kind && s.op.isSome) then c.bump Reg.FLO_OPND_DUP
  else c.bump Reg.FLO_OPND_UNEXP

/-- The CIU's session misses of a pod whose HCX operand came back absent are abandoned, and their holds given
back (R177). A KEY request that has not been looked up is no miss yet: SESSION_LOOKUP judges it. -/
def Chip.abandonKeys (c : Chip) (p : Nat) : Chip :=
  let n := BitVec.ofNat 10 p
  let waits := (c.ciu.misses.filter fun m => m.pod == n).length
  let c := { c with ciu := { c.ciu with misses := c.ciu.misses.filter fun m => m.pod != n } }
  c.setPod p { c.pod p with holds := (c.pod p).holds - waits }

/-- What the arrival of the HCX operand does beside filling its slot (R177, R185). -/
def Chip.hcxArrived (c : Chip) (p : Nat) (op : PodOp) : Chip :=
  let pod := c.pod p
  if op.status = 2 then
    let c := (c.abandonKeys p)
    let pod := c.pod p
    c.setPod p { pod.voidEmpty 2 with
      cord := if pod.cordSrc = 1 then some pod.defCord else pod.cord }
  else
    let ctx := op.value.toNat % 0x4000
    let fmt := BitVec.ofNat 8 (c.ctxFmt ctx)
    let c := c.setPod p { pod with
      cord := if pod.cordSrc = 1 && pod.cord.isNone then some (BitVec.ofNat 12 (c.ctxCord ctx)) else pod.cord }
    match findIdx (fun s : Slot => s.exp == 6) pod.slots with
    | none => c
    | some i =>
      if pod.alloc.fmtv && pod.alloc.fmt == fmt then c
      else
        let pod := c.pod p
        (c.setPod p { pod with slots := pod.slots.set i ⟨6, none⟩ }).requestFmt p fmt

/-- A pod in WAIT whose expected slots are all filled enters READY in the same cycle (R174). -/
def Chip.settle (c : Chip) (p : Nat) : Chip :=
  let c := c.settleCord p
  c.when ((c.pod p).state == .wait && (c.pod p).complete) fun c => c.joinReady p

/-- Place an operand in a pod, or drop and count it (R174). -/
def Chip.place (c : Chip) (p : Nat) (op : PodOp) : Chip :=
  let pod := c.pod p
  match pod.slotFor op.kind with
  | none => c.countUnplaced p op.kind
  | some i =>
    let c := c.setPod p { pod with
      slots := pod.slots.set i ⟨op.kind, some op⟩ }
    let c := c.when (op.kind == 4) fun c => c.hcxArrived p op
    (c.settle p).writeChanged p pod.slots

/-- The initiator that posts operands of a kind (06 Table 3, 12 Table 4): the context engine, the CIU, BAL, the
Clamp. -/
def postIni (kind : Nat) : Nat :=
  match kind with
  | 4 => 11
  | 5 => 5
  | 7 => 5
  | 9 => 6
  | _ => 7

/-- A hardware producer's operand: its hold is given back, then R174 (R175, R178). An HCX operand with STATUS 2 ends
the pod's session misses also where it meets no slot any more (R177). The format entry of a request
that another has replaced is dropped, BAL answering a pod's requests in their order (R177, log entry 96). One posted
to a gated Flow Scheduler is lost (01 R11, 14 R417). -/
def Chip.floPost (c : Chip) (p : Nat) (kind status value : Nat) : Chip :=
  if c.portGated 5 then c.postLost (postIni kind)
  else
    let c := c.unhold p
    let c := c.when (kind == 6) fun c => c.setPod p { c.pod p with fmtReqs := (c.pod p).fmtReqs - 1 }
    let c := c.when (kind == 4 && status == 2) fun c =>
      (c.setPod p { c.pod p with ctxGone := true }).abandonKeys p
    let pod := c.pod p
    if BitVec.ofNat 4 kind = 6 ∧ 0 < pod.staleFmt then
      (c.setPod p { pod with staleFmt := pod.staleFmt - 1 }).countUnplaced p 6
    else c.place p ⟨BitVec.ofNat 4 kind, BitVec.ofNat 8 status, BitVec.ofNat 64 value⟩

/-! ### Software posts (R175, R180) -/

/-- A software post of a pod operand: RESULT 0 posted, 1 stale, 3 unexpected kind. -/
def Chip.softPlace (c : Chip) (b : List Byte) : Nat × Chip :=
  let p := leAt b 0 2 % 1024
  let op := PodOp.ofBytes b
  let pod := c.pod p
  if pod.state = .free ∨ pod.gen ≠ BitVec.ofNat 8 (leAt b 2 1) then (1, c.bump Reg.FLO_OPND_STALE)
  else if op.kind.toNat < 4 ∨ 10 < op.kind.toNat then (3, c.bump Reg.FLO_OPND_UNEXP)
  else if (pod.slotFor op.kind).isSome then (0, c.place p op)
  else (3, c.place p op)

/-- Whether 16 bytes spell an allocation operand (R172). -/
def isAlloc (b : List Byte) : Bool := let k := leAt b 3 1 % 16; decide (1 ≤ k) && decide (k ≤ 3)

/-- SOFTWARE_OPERAND_POST: the write of FLO_OPND_POST3 (R175, Table 5). -/
def Chip.softwarePost (c : Chip) (v : Word) : Chip :=
  let b := wordsBytes (c.flo.post ++ [v])
  if isAlloc b then
    if c.allocRoom 5 then
      (c.allocPost { AllocOp.ofBytes b with src := 5 }).wr Reg.FLO_POST_STATUS 0
    else c.wr Reg.FLO_POST_STATUS 4
  else (c.softPlace b).2.wr Reg.FLO_POST_STATUS (c.softPlace b).1

/-- POD_TIMEOUT: a pod in WAIT for FLO_POD_TMO (R179). -/
def Chip.podTimeout (c : Chip) (p : Nat) : Chip :=
  let pod := c.pod p
  if pod.state = .wait ∧ c.fl Reg.FLO_POD_TMO 23 0 ≠ 0 then
    ((c.setPod p (pod.fillVoid 1)).bump Reg.FLO_POD_TMOCNT).settle p
  else c

/-! ### Cords (R185) -/

/-- CORD_BIND: the oldest unbound pod takes the next SEQ of its cord, or the wait is counted. -/
def Chip.cordBind (c : Chip) : Chip :=
  match c.flo.unbound with
  | [] => c
  | n :: rest =>
    let p := n.toNat
    match (c.pod p).cord with
    | none => c.bump Reg.FLO_BIND_STALL
    | some k =>
      let x := c.cord k.toNat
      if (x.next - x.rel).toNat < 256 then
        let c := (c.setPod p { c.pod p with binding := .bound k x.next }).setCord k.toNat
          { x with next := x.next + 1 }
        (c.onFlo fun f => { f with unbound := rest }).writeBinding p
      else c.bump Reg.FLO_BIND_STALL

/-! ### Dispatch (R182–R184) -/

/-- A core's load (R183). -/
def Chip.load (c : Chip) (n : Nat) : Nat := (c.fcore n).inbox.length + b2n (c.fcore n).run.isSome

/-- QCAP and AFF_LIMIT as they act (Table 14). -/
def act18 (v : Nat) : Nat := max 1 (min v 8)

/-- Whether a core is eligible for a class (R183). -/
def Chip.eligible (c : Chip) (n k : Nat) : Bool :=
  c.bit (Reg.FLO_CORE_CFG n) 31 && !c.bit (Reg.FLO_CORE_CFG n) 30 &&
  (if k < 32 then c.bit (Reg.FLO_CORE_CLASS_LO n) k else c.bit (Reg.FLO_CORE_CLASS_HI n) (k - 32)) &&
  decide (c.load n < act18 (c.fl Reg.FLO_AFF_CFG 11 8))

/-- The cores eligible for a class. -/
def Chip.eligibles (c : Chip) (k : Nat) : List Nat := (List.range 24).filter fun n => c.eligible n k

/-- The core affinity names, when it applies (R183). -/
def Chip.affine (c : Chip) (p : Nat) : Option Nat :=
  if !c.bit Reg.FLO_AFF_CFG 31 then none
  else match (c.pod p).cordKnown with
    | none => none
    | some k =>
      match (c.cord k.toNat).aff with
      | none => none
      | some a =>
        if c.eligible a.val (c.pod p).alloc.cls.toNat &&
            decide (c.load a.val < act18 (c.fl Reg.FLO_AFF_CFG 3 0)) then some a.val else none

/-- The least loaded eligible core, searched from rr + 1 (R183). -/
def Chip.leastLoaded (c : Chip) (k : Nat) : Option Nat :=
  let e := c.eligibles k
  let m := e.foldl (fun m n => min m (c.load n)) 24
  ((List.range 24).map fun i => (c.flo.rr + 1 + i) % 24).find? fun n =>
    c.eligible n k && decide (c.load n = m)

/-- The lowest inbox entry not in use (R183). -/
def FlowCore.freeEntry (x : FlowCore) : Nat :=
  ((List.range 8).find? fun e =>
    !(x.inbox.any fun i => i.1 == e) && !(x.run.any fun r => r.1 == e)).getD 0

/-- Place a pod in a core's inbox (dispatch, R183). -/
def Chip.enqueue (c : Chip) (p n : Nat) : Chip :=
  let x := c.fcore n
  let e := x.freeEntry
  let c := (c.setPod p { c.pod p with state := .queued, core := n }).setFcore n
    { x with inbox := x.inbox ++ [(e, p)] }
  let c := match (c.pod p).cordKnown with
    | some k => c.setCord k.toNat { c.cord k.toNat with
        aff := if h : n < 24 then some ⟨n, h⟩ else none }
    | none => c
  ((c.bump (Reg.FLO_CORE_DISP n)).keepMax (Reg.FLO_CORE_QMAX n) (c.load n)).writeInbox p

/-- Classes whose head pod has an eligible core, with their PRIO. -/
def Chip.dispatchable (c : Chip) : List Nat :=
  (List.range 64).filter fun k => !(c.readyList k).isEmpty && !(c.eligibles k).isEmpty

/-- The class served: highest PRIO, then weighted round robin (R182). The class in turn goes on
until its WEIGHT is used; then the next dispatchable class above it, wrapping. -/
def Chip.chooseClass (c : Chip) : Option (Nat × Nat × Nat) :=
  let ks := c.dispatchable
  match ks with
  | [] => none
  | _ =>
    let prio := ks.foldl (fun m k => max m (c.fl (Reg.FLO_CLASS_CFG k) 27 25)) 0
    let ks := ks.filter fun k => c.fl (Reg.FLO_CLASS_CFG k) 27 25 == prio
    let (turn, left) := Tab.get (fun _ => (63, 0)) c.flo.prioTurn prio
    if ks.contains turn && decide (0 < left) then some (turn, prio, left - 1)
    else
      (((List.range 64).map fun i => (turn + 1 + i) % 64).find? ks.contains).map fun k =>
        (k, prio, max 1 (c.fl (Reg.FLO_CLASS_CFG k) 24 21) - 1)

/-- POD_DISPATCH: one pod from the head of the chosen class's ready list (R182, R183). -/
def Chip.podDispatch (c : Chip) : Chip :=
  if !c.working || !c.bit Reg.FLO_CTRL 0 || c.bit Reg.FLO_CTRL 2 then c
  else match c.chooseClass with
  | none => c
  | some (k, prio, left) =>
    match c.readyList k with
    | [] => c
    | n :: rest =>
      let p := n.toNat
      let c0 := (c.setReady k rest).onFlo fun f =>
        { f with prioTurn := Tab.put (fun _ => (63, 0)) f.prioTurn prio (k, left) }
      match c.affine p with
      | some a => (c0.bump (Reg.FLO_CORE_AFF a)).enqueue p a
      | none =>
        match c.leastLoaded k with
        | none => c
        | some a =>
          ((c0.onFlo fun f => { f with rr := a }).bump (Reg.FLO_CORE_OVF a)).enqueue p a

/-! ### Release (R186, R187, 11 R345) -/

/-- The ring pair a pod's completion goes to, if any (R187). -/
def Chip.destOf (c : Chip) (p : Pod) : Option Nat :=
  let d := c.fl (Reg.FLO_CLASS_CFG p.alloc.cls.toNat) 18 12
  if p.nocpl then none
  else if d < 64 then some d
  else if d = 0x7E ∧ p.alloc.kind = 2 then some (p.alloc.arg.toNat % 64)
  else none

/-- Indices of a ring pair. -/
def Chip.rpair (c : Chip) (p : Nat) : RingPair := Tab.get (fun _ => RingPair.initial) c.ring.pairs p

/-- Give a ring pair its indices. -/
def Chip.setRpair (c : Chip) (p : Nat) (x : RingPair) : Chip :=
  { c with ring := { c.ring with pairs := Tab.put (fun _ => RingPair.initial) c.ring.pairs p x } }

/-- Whether one more entry would fill a completion ring, counting those on their way (11 R344);
a disabled ring is never full (11 R337). -/
def Chip.cqFull (c : Chip) (p : Nat) : Bool :=
  let x := c.rpair p
  let n := ringSize (c.fl (Reg.RING_RP_CQ_CFG p) 3 0)
  let onWay := (c.ring.cpls.filter fun k => k.pair == p).length
  c.bit (Reg.RING_RP_CQ_CFG p) 31 && decide (n ≤ (x.cqPi + n - x.cqCi) % n + onWay + 1)

/-- Whether a pod is due for release: DONE, past binding, no holds, its turn on the cord. -/
def Chip.due (c : Chip) (p : Pod) : Bool :=
  p.state == .done && p.holds == 0 &&
  match p.binding with
  | .unbound => false
  | .unordered => true
  | .bound k q => (c.cord k.toNat).rel == q

/-- Where a due pod stands in the round robin over cords; unordered pods come after them. -/
def Pod.turnKey (p : Pod) : Nat :=
  match p.binding with
  | .bound k _ => k.toNat
  | _ => 4096

/-- The pods due, with room for their completion or not. -/
def Chip.duePods (c : Chip) (full : Bool) : List (Nat × Pod) :=
  c.flo.pods.filter fun e => c.due e.2 &&
    (match c.destOf e.2 with | some d => c.cqFull d | none => false) == full

/-- Tickets given since a pod's own, modulo 2^32: the older pod has the larger (R180). -/
def Chip.age (c : Chip) (p : Pod) : Nat := (c.flo.ticket - p.ticket).toNat

/-- The due pod next in round robin after `cordTurn`; among unordered ones the oldest. -/
def Chip.nextDue (c : Chip) : Option (Nat × Pod) :=
  let rank (e : Nat × Pod) : Nat :=
    ((e.2.turnKey + 4097 - (c.flo.cordTurn + 1)) % 4097) * 2 ^ 32 + (2 ^ 32 - c.age e.2)
  (c.duePods false).foldl (fun best e =>
    match best with
    | none => some e
    | some b => if rank e < rank b then some e else some b) none

/-- The completion entry that a pod's record spells (11 Table 5). -/
def cplOf (pair : Nat) (p : Pod) : Cpl :=
  let b := padTo 64 (wordsBytes p.cpl)
  { pair := pair, tag := BitVec.ofNat 32 (leAt b 0 4), kind := BitVec.ofNat 8 (leAt b 4 1),
    status := BitVec.ofNat 8 (leAt b 5 1), body := b.drop 8, desc := p.alloc.kind == 2, order := p.order }

/-- Count one more completed reading, while the counters accumulate (01 R33). -/
def Chip.countReading (c : Chip) : Chip :=
  c.when (c.bit Reg.CRP_NRG_CTRL 8) fun c =>
    { c with crp := { c.crp with
        energy := c.crp.energy.set 12 ((c.crp.energy.getD 12 0 + 1) % 2 ^ 64) } }

/-- What RING does with the kind of a released pod's record (11 R345). -/
def Chip.releaseKind (c : Chip) (x : Cpl) : Chip :=
  if x.kind = 1 ∨ x.kind = 3 then c.countReading
  else if x.kind = 2 then c.notice 0x0002 x.body
  else c

/-- POD_RELEASE: one due pod leaves, its completion goes to RING, its cord moves on (R186). -/
def Chip.podRelease (c : Chip) : Chip :=
  let c := c.when (!(c.duePods true).isEmpty) fun c => c.bump Reg.FLO_REL_RINGWAIT
  match c.nextDue with
  | none => c
  | some (n, p) =>
    let x := cplOf ((c.destOf p).getD 0) p
    let c := c.when (c.destOf p).isSome fun c => c.complete x
    let c := c.releaseKind x
    let c := match p.binding with
      | .bound k _ => c.setCord k.toNat { c.cord k.toNat with rel := (c.cord k.toNat).rel + 1 }
      | _ => c
    let c := c.setPod n { p with state := .free }
    ((c.onFlo fun f => { f with
      freeList := f.freeList ++ [BitVec.ofNat 10 n], cordTurn := p.turnKey }).bump Reg.FLO_REL_CNT).sessSweep

/-! ### Flow-core ports (R188–R192) -/

/-- Bin of a waiting time in FLO cycles (R192). -/
def waitBin (cycles : Nat) : Nat :=
  if cycles < 16 then 0
  else if 2 ^ 18 ≤ cycles then 15
  else (Nat.log2 cycles) - 3

/-- The oldest pod of the inbox moves to RUN; the read returns pod and entry (R188). -/
def Chip.takeOldest (c : Chip) (n waited : Nat) : Chip :=
  let x := c.fcore n
  match x.inbox with
  | [] => c
  | (e, p) :: rest =>
    let v := p + e * 2 ^ 16
    let c := (c.setPod p { c.pod p with state := .run }).setFcore n
      { x with inbox := rest, run := some (e, p), stalled := false, take := BitVec.ofNat 32 v }
    (c.bump (Reg.FLO_CORE_WHIST n (waitBin waited))).answer (.data (leBytes 4 v))

/-- Count a misuse of a core's ports (R188, R190). -/
def Chip.portErr (c : Chip) (n : Nat) : Chip :=
  c.setFcore n { c.fcore n with err := BitVec.ofNat 32 (satInc (c.fcore n).err.toNat) }

/-- Whether a core is held in reset. -/
def Chip.coreHeld (c : Chip) (n : Nat) : Bool := c.bit (Reg.FLO_CORE_CFG n) 30

/-- PORT_TAKE (R188). -/
def Chip.portTake (c : Chip) (n waited : Nat) : Chip :=
  if c.coreHeld n then c
  else if (c.fcore n).run.isSome then
    let c := c.portErr n
    (c.setFcore n { c.fcore n with take := 0xFFFFFFFF }).answer (.data (leBytes 4 0xFFFFFFFF))
  else if (c.fcore n).inbox.isEmpty then
    (c.setFcore n { c.fcore n with stalled := true }).answer .stalled
  else c.takeOldest n waited

/-- A span of time that nothing gives the model: free, and 0 where there is none (log entry 16). -/
def Chip.elapsed (c : Chip) (running : Bool) : Nat × Chip :=
  if running then (leVal (c.free 4).1, (c.free 4).2) else (0, c)

/-- PORT_TAKE_RESUME: a stalled read completes once a pod is in the inbox (R188, R192). -/
def Chip.portTakeResume (c : Chip) (n waited idle : Nat) : Chip :=
  if (c.fcore n).stalled ∧ ¬ (c.fcore n).inbox.isEmpty then
    (c.bumpBy (Reg.FLO_CORE_IDLE n) idle).takeOldest n waited
  else c

/-- The slots of a pod after PORT_EXPECT (R189). -/
def rearm (slots : List Slot) (v : Nat) : List Slot :=
  slots.mapIdx fun i s =>
    if bitOf v (i + 1) then ⟨expKind (fld v (4 * i + 7) (4 * i + 4)), none⟩ else s

/-- PORT_EXPECT (R189, R190). -/
def Chip.portExpect (c : Chip) (n v : Nat) : Chip :=
  match (c.fcore n).run with
  | none => c.portErr n
  | some (_, p) =>
    let c := c.setPod p { c.pod p with slots := rearm (c.pod p).slots v }
    (List.range 3).foldl (fun c i => c.when (bitOf v (i + 1)) fun c => c.writeSlot p i) c

/-- The slots as the inbox entry holds them, copied back at PORT_PARK (R189): a slot is empty where
its KIND is 0. The pod stays in its class. -/
def Chip.copyBack (c : Chip) (n e p : Nat) : Chip :=
  let a := inboxAddr n e
  let pod := c.pod p
  c.setPod p { pod with
    alloc := { AllocOp.ofBytes (c.rdMem (a + 0x10) 16) with cls := pod.alloc.cls }
    slots := pod.slots.mapIdx fun i s =>
      let op := PodOp.ofBytes (c.rdMem (a + 0x20 + 16 * i) 16)
      { s with op := if op.kind = 0 then none else some op } }

/-- PORT_PARK: to WAIT, or READY when nothing is awaited (R189). -/
def Chip.portPark (c : Chip) (n ran : Nat) : Chip :=
  match (c.fcore n).run with
  | none => c.portErr n
  | some (e, p) =>
    let c := c.copyBack n e p
    let c := (c.setFcore n { c.fcore n with run := none }).bumpBy (Reg.FLO_CORE_BUSY n) ran
    let c := c.setPod p { c.pod p with state := .wait }
    c.when (c.pod p).complete fun c => c.joinReady p

/-- PORT_FINISH: the completion record is copied and the pod is DONE (R189). -/
def Chip.portFinish (c : Chip) (n v ran : Nat) : Chip :=
  match (c.fcore n).run with
  | none => c.portErr n
  | some (_, p) =>
    let x := c.fcore n
    let c := (c.setFcore n { x with run := none }).bumpBy (Reg.FLO_CORE_BUSY n) ran
    c.setPod p { c.pod p with
      state := .done, nocpl := bitOf v 8,
      cpl := (List.range 16).map fun i => Tab.get (fun _ => 0) x.cpl i }

/-- PORT_POST3: a pod operand, or an allocation that is made at once or gives RESULT 2 (R180). -/
def Chip.portPost (c : Chip) (n : Nat) (v : Word) : Chip :=
  let b := wordsBytes ((c.fcore n).post ++ [v])
  let status (c : Chip) (r : Nat) : Chip :=
    c.setFcore n { c.fcore n with postst := BitVec.ofNat 32 r }
  if isAlloc b then
    let a := { AllocOp.ofBytes b with src := 6 }
    if c.mayAllocate a then
      status (c.allocate a) (((c.flo.freeList.head?).getD 0).toNat * 256)
    else status c 2
  else status (c.softPlace b).2 (c.softPlace b).1

/-- CORE_RESET: the core is held; its pods return to the heads of their ready lists in ticket
order, marked INTR; its affinity entries become NONE (R191). The time of the run or of the stall that ends is
counted (R192). -/
def Chip.coreReset (c : Chip) (n ran idle : Nat) : Chip :=
  let x := c.fcore n
  let pods := (x.run.toList ++ x.inbox).map (·.2)
  let sorted := pods.mergeSort fun a b => decide (c.age (c.pod b) ≤ c.age (c.pod a))
  let c := c.when x.run.isSome fun c => c.bumpBy (Reg.FLO_CORE_BUSY n) ran
  let c := c.when x.stalled fun c => c.bumpBy (Reg.FLO_CORE_IDLE n) idle
  let c := (c.setBit (Reg.FLO_CORE_CFG n) 30 true).setFcore n
    { x with inbox := [], run := none, stalled := false }
  let c := sorted.reverse.foldl (fun c p =>
    let k := (c.pod p).alloc.cls.toNat
    (c.setPod p { c.pod p with state := .ready, intr := true }).setReady k
      (BitVec.ofNat 10 p :: c.readyList k)) c
  let forget (t : List (Nat × Cord)) (e : Nat × Cord) : List (Nat × Cord) :=
    if e.2.aff.map (·.val) = some n then Tab.put (fun _ => Cord.initial) t e.1 { e.2 with aff := none }
    else t
  c.onFlo fun f => { f with cords := f.cords.foldl forget f.cords }

/-- A core is reset by something that gives the model no times. -/
def Chip.coreHold (c : Chip) (n : Nat) : Chip :=
  let r := c.elapsed (c.fcore n).run.isSome
  let i := r.2.elapsed (c.fcore n).stalled
  i.2.coreReset n r.1 i.1

/-- CORE_START: the core leaves reset and starts at local address 0, memory unchanged (R191). -/
def Chip.coreStart (c : Chip) (n : Nat) : Chip := c.setBit (Reg.FLO_CORE_CFG n) 30 false

/-! ### Meanings -/

/-- POD_OPERAND_POST (R174, R175, R178). -/
def execPodOperandPost (pod : BitVec 10) (kind : BitVec 4) (status : Byte) (value : BitVec 64)
    (s : State) : Host.Outcome State Fault Refusal :=
  s.onChip fun c => c.floPost pod.toNat kind.toNat status.toNat value.toNat

/-- SOFTWARE_OPERAND_POST (R175). -/
def execSoftwareOperandPost (v : Word) (s : State) : Host.Outcome State Fault Refusal :=
  s.onChip fun c => c.onReg (Reg.FLO_OPND_POST 3) anyIni fun c => c.softwarePost v

/-- POD_TIMEOUT (R179). -/
def execPodTimeout (pod : BitVec 10) (s : State) : Host.Outcome State Fault Refusal :=
  s.onChip fun c => c.podTimeout pod.toNat

/-- CORD_BIND (R185). -/
def execCordBind (s : State) : Host.Outcome State Fault Refusal := s.onChip Chip.cordBind

/-- POD_DISPATCH (R183). -/
def execPodDispatch (s : State) : Host.Outcome State Fault Refusal := s.onChip Chip.podDispatch

/-- POD_RELEASE (R186). -/
def execPodRelease (s : State) : Host.Outcome State Fault Refusal := s.onChip Chip.podRelease

/-- PORT_TAKE (R188). -/
def execPortTake (core : Fin 24) (waited : BitVec 32) (s : State) : Host.Outcome State Fault Refusal :=
  s.onChip fun c => c.portTake core.val waited.toNat

/-- PORT_TAKE_RESUME (R188). -/
def execPortTakeResume (core : Fin 24) (waited idle : BitVec 32) (s : State) :
    Host.Outcome State Fault Refusal :=
  s.onChip fun c => c.portTakeResume core.val waited.toNat idle.toNat

/-- PORT_EXPECT (R189). -/
def execPortExpect (core : Fin 24) (v : Word) (s : State) : Host.Outcome State Fault Refusal :=
  s.onChip fun c => c.portExpect core.val v.toNat

/-- PORT_PARK (R189). -/
def execPortPark (core : Fin 24) (ran : BitVec 32) (s : State) : Host.Outcome State Fault Refusal :=
  s.onChip fun c => c.portPark core.val ran.toNat

/-- PORT_FINISH (R189). -/
def execPortFinish (core : Fin 24) (v : Word) (ran : BitVec 32) (s : State) :
    Host.Outcome State Fault Refusal :=
  s.onChip fun c => c.portFinish core.val v.toNat ran.toNat

/-- PORT_POST (R175). -/
def execPortPost (core : Fin 24) (v : Word) (s : State) : Host.Outcome State Fault Refusal :=
  s.onChip fun c => c.portPost core.val v

/-- CORE_RESET (R191). -/
def execCoreReset (core : Fin 24) (ran idle : BitVec 32) (s : State) : Host.Outcome State Fault Refusal :=
  s.onChip fun c => c.onReg (Reg.FLO_CORE_CFG core.val) anyIni fun c => c.coreReset core.val ran.toNat idle.toNat

/-- CORE_START (R191). -/
def execCoreStart (core : Fin 24) (s : State) : Host.Outcome State Fault Refusal :=
  s.onChip fun c => c.onReg (Reg.FLO_CORE_CFG core.val) anyIni fun c => c.coreStart core.val

end Sys2Proof.Machine
end

