-- ==== Sys2Proof/Machine/Context.lean ====
section
/-!
DEFINITION. The context engine: look-ups, fetches, write-backs and flushes of hot contexts
(05_sessions_and_cipher.md R137–R142, R493).
-/
namespace Sys2Proof.Machine

/-- Change the context engine. -/
def Chip.onHcx (c : Chip) (f : Hcx → Hcx) : Chip := { c with hcx := f c.hcx }

/-- A way of the store, by context index. -/
def Chip.hway (c : Chip) (n : Nat) : HcxWay := Tab.get (fun _ => HcxWay.initial) c.hcx.ways n

/-- Give a way a value. -/
def Chip.setHway (c : Chip) (n : Nat) (x : HcxWay) : Chip :=
  c.onHcx fun e => { e with ways := Tab.put (fun _ => HcxWay.initial) e.ways n x }

/-- Context index of way `w` of the set of a handle (R139). -/
def ctxIndex (h w : Nat) : Nat := 4 * (h % 4096) + w

/-- The context index at which a handle is resident. -/
def Chip.resident (c : Chip) (h : Nat) : Option Nat :=
  ((List.range 4).map (ctxIndex h)).find? fun n => (c.hway n).valid && (c.hway n).handle.toNat == h

/-- Ways of a set, least recently used first. -/
def Chip.hcxLru (c : Chip) (set : Nat) : List Nat := Tab.get (fun _ => [0, 1, 2, 3]) c.hcx.used set

/-- A way becomes the most recently used of its set. -/
def Chip.hcxTouch (c : Chip) (n : Nat) : Chip :=
  let order := (c.hcxLru (n / 4)).filter (· != n % 4) ++ [n % 4]
  c.onHcx fun e => { e with used := Tab.put (fun _ => [0, 1, 2, 3]) e.used (n / 4) order }

/-- Whether a way may be chosen for a miss: not pinned, not held, not being moved (R140, R493). -/
def Chip.wayFree (c : Chip) (n : Nat) : Bool :=
  !(c.hcx.moves.any fun m => m.way == n) && !(c.hway n).held &&
    (!(c.hway n).valid || !c.pinned (c.hway n).handle.toNat)

/-- Post the HCX operand of a hit, a fetch or an absence (06 Table 1). -/
def Chip.postHcx (c : Chip) (pod : BitVec 10) (status n : Nat) : Chip := c.floPost pod.toNat 4 status n

/-- Whether a way's move still has the context of a handle to write back. -/
def HcxMove.writes (m : HcxMove) (h : Nat) : Bool := m.out.any fun o => o.1.toNat == h

/-- Whether the context engine runs: its block does (14 R416). -/
def Chip.hcxUp (c : Chip) : Bool := !c.portGated 6

/-- The image of a handle's context that a write-back under way holds, the latest of several (R141). -/
def Chip.writeBuffer (c : Chip) (h : Nat) : Option (List Byte) :=
  ((c.hcx.moves.filter (·.writes h)).getLast?.bind (·.out)).map (·.2)

/-- Whether a flush keeps a look-up of a handle waiting (R142). -/
def Chip.flushing (c : Chip) (h : Nat) : Bool :=
  match c.hcx.flush with
  | some f => f.handle.toNat == h
  | none => false

/-- Let a look-up wait. -/
def Chip.hcxWait (c : Chip) (x : HcxWait) : Chip := c.onHcx fun e => { e with waiting := e.waiting ++ [x] }

/-- A look-up joins the move that fetches its handle. -/
def HcxMove.join (m : HcxMove) (x : HcxWait) : HcxMove :=
  { m with pods := m.pods ++ [x.pod], counted := if x.counted then m.counted ++ [x.pod] else m.counted }

/-- Serve one look-up (R140–R142). A miss, and its wait on a full set, are counted once, whenever they come. -/
def Chip.hcxServe (c : Chip) (x : HcxWait) : Chip :=
  let h := x.handle.toNat
  if c.flushing h then c.hcxWait x
  else match c.resident h with
  | some n => (((c.bump Reg.APC_HCX_HIT).hcxTouch n).postHcx x.pod 0 n)
  | none =>
    let c := c.when (!x.missed) fun c => c.bump Reg.APC_HCX_MISS
    if c.hcx.moves.any fun m => m.handle == x.handle then
      c.onHcx fun e => { e with moves := e.moves.map fun m => if m.handle = x.handle then m.join x else m }
    else
      match (c.hcxLru (h % 4096)).find? fun w => c.wayFree (ctxIndex h w) with
      | none => (c.when (!x.counted) fun c => c.bump Reg.APC_HCX_WAIT).hcxWait { x with missed := true, counted := true }
      | some w =>
        let n := ctxIndex h w
        let y := c.hway n
        let out := if y.valid then some (y.handle, c.rdMem (ctxAddr n) 256) else none
        (c.setHway n HcxWay.initial).onHcx fun e =>
          { e with moves := e.moves ++ [HcxMove.join ⟨n, x.handle, [], out, []⟩ x] }

/-- Whether a waiting look-up can be served now. -/
def Chip.hcxReady (c : Chip) (h : BitVec 20) : Bool :=
  !c.flushing h.toNat && ((c.resident h.toNat).isSome || (c.hcx.moves.any fun m => m.handle == h) ||
    (List.range 4).any fun w => c.wayFree (ctxIndex h.toNat w))

/-- HCX_LOOKUP: one look-up, in ticket order: a waiting one that can go on, else the next request
(R140). Nothing is served while the engine is disabled, or while its block is gated (14 R416). -/
def Chip.hcxLookup (c : Chip) : Chip :=
  if !c.bit Reg.APC_HCX_CTRL 0 || !c.hcxUp then c
  else match c.hcx.waiting.find? fun x => c.hcxReady x.handle with
  | some x => (c.onHcx fun e => { e with waiting := e.waiting.erase x }).hcxServe x
  | none =>
    match c.flo.reqs.find? fun r => match r with | .hcx _ _ => true | _ => false with
    | some (.hcx pod h) =>
      (c.onFlo fun f => { f with reqs := f.reqs.erase (.hcx pod h) }).hcxServe ⟨pod, h, false, false⟩
    | _ => c

/-- A record is present: RFLAGS.VALID, and RCRC over bytes 0x100–0x1FB (R137, R138). -/
def recordGood (r : List Byte) : Bool :=
  bitOf (leAt r 0x1F0 4) 0 && decide (crc32 (slice r 0x100 0xFC) = leAt r 0x1FC 4)

/-- The context that a fetched record gives: its image with HANDLE written by the engine. -/
def contextOf (h : BitVec 20) (image : List Byte) : List Byte :=
  splice (padTo 256 image) 0 (leBytes 4 (2 ^ 20 + h.toNat))

/-- The look-ups of a move wait to be served again. -/
def Chip.hcxAgain (c : Chip) (m : HcxMove) : Chip :=
  c.onHcx fun e => { e with waiting := (m.pods.map fun p => ⟨p, m.handle, true, m.counted.contains p⟩) ++ e.waiting }

/-- HCX_FETCH_DONE: the record is checked and copied into the way, or treated as absent (R138). A context that
a failed write-back has kept resident meanwhile serves the look-ups, and the way stays empty (R493). -/
def Chip.hcxFetchDone (c : Chip) (n : Nat) : Chip :=
  match c.hcx.moves.find? fun m => m.way == n && m.out.isNone with
  | none => c
  | some m =>
    match c.dmaRead 11 false (c.recordAddr m.handle) 512 with
    | (_, r, c) =>
      let image := (c.writeBuffer m.handle.toNat).getD (r.take 256)
      let c := c.onHcx fun e => { e with moves := e.moves.erase m }
      if (c.resident m.handle.toNat).isSome then c.hcxAgain m
      else if recordGood r then
        let c := (((c.wrMem (ctxAddr n) (contextOf m.handle image)).setHway n ⟨m.handle, true, false⟩).hcxTouch n)
        m.pods.foldl (fun c p => c.postHcx p 1 n) c
      else m.pods.foldl (fun c p => (c.bump Reg.APC_HCX_BADREC).postHcx p 2 0) c

/-- A write-back that did not reach DRAM: counted, flagged and recorded (R493). -/
def Chip.writebackFailed (c : Chip) (h : BitVec 20) (how : Access) : Chip :=
  ((c.bump Reg.APC_HCX_WBERR).raise Reg.APC_HCX_STATUS 3).record 0x602
    (leBytes 4 h.toNat ++ leBytes 1 (if how = .refused then 1 else 2))

/-- A way goes on to its fetch. -/
def Chip.hcxGoOn (c : Chip) (m : HcxMove) : Chip :=
  c.onHcx fun e => { e with moves := e.moves.map fun x => if x = m then { x with out := none } else x }

/-- A write-back that failed: the context stays in its way, which is held, and the look-ups of the way wait
again (R493). Where the context has been fetched from the write-back buffer into another way since, it lives on
there, newer, and that way is held in place of the one it left; where a later image of it waits to be written
back, that one stands for it. -/
def Chip.evictFailed (c : Chip) (m : HcxMove) (h : BitVec 20) : Chip :=
  match c.resident h.toNat with
  | some n => (c.setHway n { c.hway n with held := true }).hcxGoOn m
  | none =>
    if c.hcx.moves.any fun x => x != m && x.writes h.toNat then c.hcxGoOn m
    else ((c.setHway m.way ⟨h, true, true⟩).onHcx fun e => { e with moves := e.moves.erase m }).hcxAgain m

/-- The write-back of an evicted context: the way goes on to its fetch, or its context is kept (R140, R493). -/
def Chip.evictDone (c : Chip) (m : HcxMove) (h : BitVec 20) (image : List Byte) : Chip :=
  match c.dmaWrite 11 false (c.recordAddr h) image with
  | (.ok, c) => (c.bump Reg.APC_HCX_EVICT).hcxGoOn m
  | (how, c) => (c.evictFailed m h).writebackFailed h how

/-- The flush sets DONE and ends (R142). -/
def Chip.flushEnd (c : Chip) : Chip :=
  ((c.onHcx fun e => { e with flush := none }).setBit Reg.APC_HCX_STATUS 0 false).raise Reg.APC_HCX_STATUS 1

/-- The write-back of a flush, once its context is unpinned and no older write-back of it is left; with INVAL the
way is left with it (R142, R493). -/
def Chip.flushWrite (c : Chip) (f : HcxFlush) (n : Nat) : Chip :=
  if f.written || c.pinned f.handle.toNat || (c.writeBuffer f.handle.toNat).isSome then c
  else match c.dmaWrite 11 false (c.recordAddr f.handle) (c.rdMem (ctxAddr n) 256) with
    | (.ok, c) =>
      ((c.bump Reg.APC_HCX_EVICT).setHway n (if f.inval then HcxWay.initial else { c.hway n with held := false })).onHcx fun e =>
        { e with flush := some { f with written := true } }
    | (how, c) =>
      ((c.setHway n { c.hway n with held := true }).writebackFailed f.handle how).flushEnd

/-- HCX_WRITEBACK_DONE: the write-back out of a way, of an eviction or of a flush, ends. Write-backs of one
handle end in their order. -/
def Chip.hcxWritebackDone (c : Chip) (n : Nat) : Chip :=
  match c.hcx.moves.find? fun m => m.way == n && m.out.isSome with
  | some m =>
    match m.out with
    | some (h, image) =>
      if (c.hcx.moves.find? (·.writes h.toNat)) = some m then c.evictDone m h image else c
    | none => c
  | none =>
    match c.hcx.flush with
    | some f => if c.resident f.handle.toNat = some n then c.flushWrite f n else c
    | none => c

/-- HCX_FLUSH: a write of APC_HCX_FLUSH (R142). A handle neither resident nor being written back
is done at once. -/
def Chip.hcxFlush (c : Chip) (v : Nat) : Chip :=
  if c.hcx.flush.isSome then c.hcxCfgErr
  else
    let h := v % 2 ^ 20
    let c := (c.onHcx fun e => { e with flush := some ⟨BitVec.ofNat 20 h, bitOf v 31, false⟩ }).setBit Reg.APC_HCX_STATUS 0 true
    if (c.resident h).isNone && (c.writeBuffer h).isNone then c.flushEnd else c

/-- HCX_FLUSH_DONE: the flush ends once its context is written back, or no write-back of a handle
that is not resident is left (R142). -/
def Chip.hcxFlushDone (c : Chip) : Chip :=
  match c.hcx.flush with
  | none => c
  | some f =>
    match c.resident f.handle.toNat with
    | none => if (c.writeBuffer f.handle.toNat).isNone then c.flushEnd else c
    | some _ => if f.written then c.flushEnd else c

/-! ### Meanings -/

/-- HCX_LOOKUP (R140). -/
def execHcxLookup (s : State) : Host.Outcome State Fault Refusal := s.onChip Chip.hcxLookup

/-- HCX_FETCH_DONE (R138). -/
def execHcxFetchDone (way : BitVec 14) (s : State) : Host.Outcome State Fault Refusal :=
  s.onChip fun c => c.when c.hcxUp fun c => c.hcxFetchDone way.toNat

/-- HCX_WRITEBACK_DONE (R140, R493). -/
def execHcxWritebackDone (way : BitVec 14) (s : State) : Host.Outcome State Fault Refusal :=
  s.onChip fun c => c.when c.hcxUp fun c => c.hcxWritebackDone way.toNat

/-- HCX_FLUSH (R142). -/
def execHcxFlush (v : Word) (s : State) : Host.Outcome State Fault Refusal :=
  s.onChip fun c => c.onReg Reg.APC_HCX_FLUSH anyIni fun c => c.hcxFlush v.toNat

/-- HCX_FLUSH_DONE (R142). -/
def execHcxFlushDone (s : State) : Host.Outcome State Fault Refusal :=
  s.onChip fun c => c.when c.hcxUp Chip.hcxFlushDone

end Sys2Proof.Machine
end

