-- ==== Sys2Proof/Machine/Cipher.lean ====
section
/-!
DEFINITION. The Cipher Unit: the key load window, session keys, request queues, operations,
DLMS ciphering, erasure and enabling (05_sessions_and_cipher.md R143–R171).
-/
namespace Sys2Proof.Machine

/-- Change the Cipher Unit. -/
def Chip.onCiu (c : Chip) (f : Ciu → Ciu) : Chip := { c with ciu := f c.ciu }

/-- The CIU runs: enabled, its masks drawn, clocked. -/
def Chip.ciuUp (c : Chip) : Bool := c.bit Reg.CIU_CTRL 0 && !c.gated 4 && c.domainUp 2

/-! ### The load window (R146–R149) -/

/-- Whether a load from the window is committed and not yet applied (CIU_KEY_STATUS.BUSY). -/
def Chip.keyBusy (c : Chip) : Bool := c.ciu.loads.any fun l => !l.erase

/-- The window becomes idle with a RESULT; its data words are cleared (R147). -/
def Chip.windowEnd (c : Chip) (result : Nat) : Chip :=
  (c.onCiu fun u => { u with winOwner := none, winKey := [], winAttr := 0 }).wr Reg.CIU_KEY_STATUS result

/-- Whether a write to the window from a level is dropped, and the chip with that noted (R147). -/
def Chip.windowDrops (c : Chip) (l : Level) : Bool × Chip :=
  if l = .host then
    (true, (c.bump Reg.CIU_KEY_HOSTW).when (c.keyBusy || c.ciu.winOwner.isSome) fun c => c.raise Reg.CIU_STATUS 3)
  else if c.keyBusy || (c.ciu.winOwner != none && c.ciu.winOwner != some l) then
    (true, c.raise Reg.CIU_STATUS 3)
  else (false, c)

/-- Code of a holding level in CIU_KEY_STATUS [10:9]. -/
def levelBits (l : Level) : Nat :=
  match l with
  | .host => 0
  | .platform => 1
  | .seal => 2

/-- The window is claimed by the level of its first write. -/
def Chip.windowClaim (c : Chip) (l : Level) : Chip :=
  if c.ciu.winOwner = none then
    (c.onCiu fun u => { u with winOwner := some l }).setFl Reg.CIU_KEY_STATUS 10 9 (levelBits l)
  else c

/-- KEY_WINDOW_WRITE: word 0–7 of the key, or the attribute word as 8 (R146, R147). -/
def Chip.keyWindowWrite (c : Chip) (idx : Nat) (v : Word) (l : Level) : Chip :=
  match c.windowDrops l with
  | (true, c) => c
  | (false, c) =>
    (c.windowClaim l).onCiu fun u =>
      if idx < 8 then { u with winKey := Tab.put (fun _ => 0) u.winKey idx v } else { u with winAttr := v }

/-- The 256 bits in the window. -/
def Chip.windowKey (c : Chip) : Nat :=
  (List.range 8).foldl (fun a i =>
    a + (Tab.get (fun _ => (0 : Word)) c.ciu.winKey i).toNat * 2 ^ (32 * i)) 0

/-- Whether a slot holds the low half written by a first load that an attribute word continues
(R144). -/
def Chip.awaitsHigh (c : Chip) (s attr : Nat) : Bool :=
  let low := c.attr (s - 1)
  decide (s % 2 = 1) && attrAlg low == 9 && !attrValid low &&
    putFld (putBit low 31 false) 3 0 0 == putFld (putBit (attrOf attr 0 0) 31 false) 3 0 0

/-- Whether a second load may take effect: its slot still awaits it, and the scalar is valid (R144). -/
def Chip.highFits (c : Chip) (s attr key : Nat) : Bool :=
  c.awaitsHigh s attr && curve384.scalarOk ((c.key (s - 1)).toNat + key % 2 ^ 128 * 2 ^ 256)

/-- The RESULT with which a load is refused (R148), 1 when it is not. -/
def Chip.loadResult (c : Chip) (s attr key : Nat) (l : Level) : Nat :=
  let alg := attrAlg attr
  if 8192 ≤ s then 5
  else if c.tamperLine || !c.bit Reg.CIU_CTRL 0 then 6
  else if attrLock (c.attr s) || (attrLevel (c.attr s) == 2 && l != .seal) then 3
  else if attrLevel attr = 2 ∧ l ≠ .seal then 2
  else if alg = 0 ∨ 11 ≤ alg ∨ (alg = 9 ∧ s % 2 = 1) then 4
  else if alg = 10 ∧ !c.highFits s attr key then 4
  else if alg = 8 ∧ !curve256.scalarOk key then 4
  else 1

/-- KEY_LOAD_GO: a write of CIU_KEY_CMD (R147, R148). A second load whose scalar is not valid
erases both halves (R144). -/
def Chip.keyLoadGo (c : Chip) (v : Nat) (l : Level) : Chip :=
  match c.windowDrops l with
  | (true, c) => c
  | (false, c) =>
    if !bitOf v 31 then c
    else
      let c := c.windowClaim l
      let s := v % 2 ^ 15
      let attr := attrOf c.ciu.winAttr.toNat 0 0
      let key := c.windowKey
      match c.loadResult s attr key l with
      | 1 =>
        (c.onCiu fun u => { u with
          loads := u.loads ++ [⟨s, false, BitVec.ofNat 32 attr, BitVec.ofNat 256 key, l == .seal, u.accepted⟩]
          winKey := [] }).setBit Reg.CIU_KEY_STATUS 8 true
      | r =>
        let c := c.when (r == 4 && attrAlg attr == 10 && c.awaitsHigh s attr) fun c =>
          (c.eraseSlot s).eraseSlot (s - 1)
        c.windowEnd r

/-- The slots a request names: SLOT unless it takes its keys from the context, and OSLOT for the
operations that write one, both slots of a P-384 key. -/
def CiuReq.slots (r : CiuReq) : List Nat :=
  let op := leAt r.entry 0 1
  let o := leAt r.entry 30 2 % 2 ^ 15
  (if r.ctx then [] else [leAt r.entry 2 2 % 2 ^ 15]) ++
    (if [0x19, 0x28, 0x29, 0x32, 0x33, 0x39].contains op then
      if attrAlg (leAt r.entry 32 4) = 9 then [o, o + 1] else [o] else [])

/-- Whether a request names any of some slots, itself or by the other half of a pair (R144, R149). -/
def Chip.names (c : Chip) (r : CiuReq) (slots : List Nat) : Bool :=
  r.slots.any fun s => (c.withHalf s).any slots.contains

/-- The slots that a change of a slot to an ALG touches: its own, the other half of what it holds, and the
second slot of a P-384 key (R144). -/
def Chip.touched (c : Chip) (s alg : Nat) : List Nat := c.withHalf s ++ if alg = 9 then [s + 1] else []

/-- The slots that a load or an erase touches. -/
def Chip.loadSlots (c : Chip) (l : KeyLoad) : List Nat :=
  c.touched l.slot (if l.erase then 0 else attrAlg l.attr.toNat) ++
    if !l.erase && attrAlg l.attr.toNat == 10 then [l.slot - 1] else []

/-- Whether a load or erase may take effect: no earlier request that names a slot it touches is left
(R149). -/
def Chip.loadReady (c : Chip) (l : KeyLoad) : Bool :=
  !(c.ciu.inflight.any fun r => decide (r.order < l.since) && c.names r (c.loadSlots l))

/-- Write a loaded key (R144, R148): a first half stays without VALID and erases its partner; the
second sets VALID in both. -/
def Chip.applyLoad (c : Chip) (l : KeyLoad) : Chip :=
  let a := l.attr.toNat
  match attrAlg a with
  | 9 => ((c.breakPair l.slot).eraseSlot (l.slot + 1)).setKey l.slot (putBit a 31 false) l.key
  | 10 =>
    let low := l.slot - 1
    (c.setKey l.slot (putBit a 31 true) (BitVec.ofNat 256 (l.key.toNat % 2 ^ 128))).setKey low
      (putBit (c.attr low) 31 true) (c.key low)
  | alg =>
    (c.breakPair l.slot).setKey l.slot (putBit a 31 true)
      (BitVec.ofNat 256 (l.key.toNat % 2 ^ (8 * algBytes alg)))

/-- KEY_LOAD_APPLY: the oldest load or erase that may, takes effect (R149). LOCK is judged again: a slot that
has come to be locked since keeps its content until the Seal level erases it (R143). So is a second load, for
what came before it may have taken its first half away (R144). -/
def Chip.keyLoadApply (c : Chip) : Chip :=
  match c.ciu.loads.find? c.loadReady with
  | none => c
  | some l =>
    let c := c.onCiu fun u => { u with loads := u.loads.erase l }
    let locked := attrLock (c.attr l.slot)
    if l.erase then
      if locked && !l.bySeal then c else (c.breakPair l.slot).eraseSlot l.slot
    else if locked then c.windowEnd 3
    else if attrAlg l.attr.toNat = 10 ∧ !c.highFits l.slot l.attr.toNat l.key.toNat then
      (c.when (c.awaitsHigh l.slot l.attr.toNat) fun c => (c.eraseSlot l.slot).eraseSlot (l.slot - 1)).windowEnd 4
    else (c.applyLoad l).windowEnd 1

/-- KEY_WINDOW_TIMEOUT (R147). -/
def Chip.keyWindowTimeout (c : Chip) : Chip :=
  if c.ciu.winOwner.isSome && !c.keyBusy then c.windowEnd 7 else c

/-- KEY_ERASE: a write of CIU_KEY_ERASE (R149). -/
def Chip.keyErase (c : Chip) (v : Nat) (l : Level) : Chip :=
  let s := v % 2 ^ 15
  if 8192 ≤ s then c.cfgErr 4
  else if attrLock (c.attr s) && l != .seal then c
  else c.onCiu fun u => { u with loads := u.loads ++ [⟨s, true, 0, 0, l == .seal, u.accepted⟩] }

/-! ### Sessions (R150–R152) -/

/-- Whether key-readiness requests are served (R151). -/
def Chip.sessUp (c : Chip) : Bool := c.ciuUp && c.bit Reg.CIU_SESS_CTRL 0

/-- Post the key-readiness operand (06 Table 1). -/
def Chip.postKey (c : Chip) (pod : BitVec 10) (status slot : Nat) : Chip := c.floPost pod.toNat 5 status slot

/-- SESSION_LOOKUP: one key-readiness request, in ticket order (R151). A miss of a pod whose hot context is absent is
abandoned at once (06 R177; DEDUCED, log entry 96). -/
def Chip.sessionLookup (c : Chip) : Chip :=
  if !c.sessUp then c
  else match c.flo.reqs.find? fun r => match r with | .key _ _ => true | _ => false with
  | some (.key pod h) =>
    let c := c.onFlo fun f => { f with reqs := f.reqs.erase (.key pod h) }
    match c.sessFind h.toNat with
    | some w => ((c.bump Reg.CIU_SESS_HIT).sessTouch h.toNat w).postKey pod 0 (sessSlot h.toNat w)
    | none =>
      let c := c.bump Reg.CIU_SESS_MISS
      if (c.pod pod.toNat).hcxAbsent then c.unhold pod.toNat
      else c.onCiu fun u => { u with misses := u.misses ++ [⟨pod, h, false⟩] }
  | _ => c

/-- The way or pair base a miss takes, least recently used first; a pair was last used when either of its ways
was (R151). -/
def Chip.sessChoose (c : Chip) (h : Nat) (pair : Bool) : Option Nat :=
  let lru := c.sessLru (h % 4096)
  if pair then
    ((lru.filter fun w => decide (lru.idxOf (w ^^^ 1) < lru.idxOf w)).map fun w => w / 2 * 2).find? fun w =>
      c.sessWayFree h w && c.sessWayFree h (w + 1)
  else lru.find? (c.sessWayFree h)

/-- Attribute word of a session slot (R150). -/
def sessAttr (alg : Nat) : Nat := 2 ^ 31 + 2 ^ 14 + 2 ^ 12 + 2 ^ 8 + 2 ^ 6 + 3 * 2 ^ 4 + alg

/-- The KEK a record names, when its slot may unwrap (R151). -/
def Chip.kek (c : Chip) (s : Nat) : Option (List Byte) :=
  let a := c.attr s
  if attrValid a && attrIn a && decide (s < 8192) then
    match attrAlg a with
    | 6 => some (c.keyBytes s 16)
    | 7 => some (c.keyBytes s 32)
    | _ => none
  else none

/-- The session keys that a record's WKEY unwraps to: one pair, or EK and AK (R137, R151). -/
def Chip.unwrapSession (c : Chip) (suite : Nat) (wkey : List Byte) (kekid : Nat) :
    Option (List (List Byte)) :=
  match c.kek kekid with
  | none => none
  | some kek =>
    match keyUnwrap kek (wkey.take 40) with
    | none => none
    | some a =>
      if suite = 2 then (keyUnwrap kek (slice wkey 40 40)).map fun b => [a, b] else some [a]

/-- Write unwrapped session keys to the chosen way or pair. -/
def Chip.writeSession (c : Chip) (h w alg : Nat) (keys : List (List Byte)) : Chip :=
  (keys.zipIdx.foldl (fun c k =>
    ((c.setKey (sessSlot h (w + k.2)) (sessAttr alg) (BitVec.ofNat 256 (leVal k.1))).setSessOwner
      (sessSlot h (w + k.2)) (some h))) c).sessTouch h w

/-- Count a rejection, here and in the hot context of a handle that is resident (R158). -/
def Chip.countReject (c : Chip) (h : Option Nat) : Chip :=
  let c := c.bump Reg.CIU_SEC_REJ
  match h.bind c.resident with
  | some n => c.setCtx n 0x22 2 (min (c.ctx n 0x22 2 + 1) 0xFFFF)
  | none => c

/-- A session miss whose unwrap cannot complete: status 0x0A, one of the rejection exits (R151, R158). -/
def Chip.unwrapFailed (c : Chip) (pod : BitVec 10) (h : Nat) : Chip :=
  ((c.bump Reg.CIU_SESS_UNWRAPF).countReject (some h)).postKey pod 0x0A 0

/-- SESSION_UNWRAP_DONE: the miss of a pod is served, once its hot context is resident (R151). -/
def Chip.sessionUnwrapDone (c : Chip) (pod : BitVec 10) : Chip :=
  match c.ciu.misses.find? fun m => m.pod == pod with
  | none => c
  | some m =>
    let h := m.handle.toNat
    match c.resident h with
    | none => c
    | some n =>
      if !c.sessUp then c
      else
        let drop (c : Chip) : Chip := c.onCiu fun u => { u with misses := u.misses.erase m }
        let c := c.ctxSeen 5 n
        let suite := c.ctx n 4 1 % 4
        match c.sessFind h with
        | some w => ((drop c).sessTouch h w).postKey pod 0 (sessSlot h w)
        | none =>
          if suite = 3 then (drop c).unwrapFailed pod h
          else match c.sessChoose h (suite == 2) with
          | none =>
            c.when (!m.counted) fun c => (c.bump Reg.CIU_SESS_WAIT).onCiu fun u =>
              { u with misses := u.misses.map fun x => if x = m then { x with counted := true } else x }
          | some w =>
            let c := c.sessEraseWay h w
            let c := c.when (suite == 2) fun c => c.sessEraseWay h (w + 1)
            match c.dmaRead 5 false (c.recordAddr m.handle + 0x100) 82 with
            | (how, r, c) =>
              let keys := if how = .ok then c.unwrapSession suite (r.take 80) (leAt r 80 2 % 2 ^ 15) else none
              match keys with
              | none => (drop c).unwrapFailed pod h
              | some ks => ((drop c).writeSession h w (if suite = 2 then 2 else 3) ks).postKey pod 0 (sessSlot h w)

/-- SESS_INVAL: a write of CIU_SESS_INVAL (R152). -/
def Chip.sessInvalWrite (c : Chip) (v : Nat) : Chip :=
  (c.onCiu fun u => { u with sessInval := u.sessInval ++ [BitVec.ofNat 20 (v % 2 ^ 20)] }).sessSweep

/-! ### Request entries (R154–R158) -/

/-- Fields of a request entry (Table 5). -/
structure CiuIn where
  op : Nat
  flags : Nat
  slot : Nat
  len : Nat
  tagLen : Nat
  src : Nat
  auxLen : Nat
  dst : Nat
  pod : Nat
  aux : Nat
  oslot : Nat
  oattr : Nat
  iv : List Byte
  handle : Nat
  sc : Nat
  deriving DecidableEq, Repr

/-- The fields of a 64-byte entry. -/
def CiuReq.fields (r : CiuReq) : CiuIn :=
  let e := r.entry
  { op := leAt e 0 1, flags := leAt e 1 1, slot := leAt e 2 2 % 2 ^ 15, len := leAt e 4 3,
    tagLen := leAt e 7 1 % 32, src := leAt e 8 6, auxLen := leAt e 14 2, dst := leAt e 16 6,
    pod := leAt e 22 2 % 1024, aux := leAt e 24 6, oslot := leAt e 30 2 % 2 ^ 15,
    oattr := leAt e 32 4, iv := slice e 36 16, handle := leAt e 52 3 % 2 ^ 20, sc := leAt e 55 1 }

/-- Whether a ring pair is bound to the CRY service, so that queue 7 is RING's (R154). -/
def Chip.cryBound (c : Chip) : Bool :=
  (List.range 64).any fun p => c.fl (Reg.RING_RP_BIND p) 2 0 == 4

/-- Level of a queue: 0 Host, 1 Platform, 2 Seal; 3 acts as 2 (Table 15). -/
def Chip.queueLevel (c : Chip) (q : Nat) : Nat :=
  if q = 7 ∧ c.cryBound then 0 else min 2 (c.fl (Reg.CIU_QCFG q) 30 29)

/-- Entries of a queue. -/
def Chip.queueSize (c : Chip) (q : Nat) : Nat := ringSize (c.fl (Reg.CIU_QCFG q) 3 0)

/-- Address of entry `i` of a queue. -/
def Chip.queueEntry (c : Chip) (q i : Nat) : Nat :=
  (c.rd (Reg.CIU_QBASE_LO q)) / 64 * 64 + c.fl (Reg.CIU_QBASE_HI q) 15 0 * 2 ^ 32 + 64 * i

/-- A read for a request: at the queue's level, through the pair's domain for RING's (R157,
11 R351). -/
def Chip.reqRead (c : Chip) (r : CiuReq) (addr len : Nat) : Access × List Byte × Chip :=
  match r.owner with
  | some (p, _) =>
    if c.bit (Reg.RING_RP_BIND p) 4 then c.dmaRead 5 true addr len
    else c.ringRead 5 (c.fl (Reg.RING_RP_BIND p) 19 16) true 4200 addr len
  | none => c.dmaRead 5 (c.queueLevel r.queue == 0) addr len

/-- A write for a request. -/
def Chip.reqWrite (c : Chip) (r : CiuReq) (addr : Nat) (bs : List Byte) : Access × Chip :=
  match r.owner with
  | some (p, _) =>
    if c.bit (Reg.RING_RP_BIND p) 4 then c.dmaWrite 5 true addr bs
    else c.ringWrite 5 (c.fl (Reg.RING_RP_BIND p) 19 16) true 4200 addr bs
  | none => c.dmaWrite 5 (c.queueLevel r.queue == 0) addr bs

/-- QCI advances past every entry that it and all before it have completed (R156). -/
def Chip.advanceQci (q : Nat) : Nat → Chip → Chip
  | 0, c => c
  | n + 1, c =>
    let i := c.rd (Reg.CIU_QCI q)
    if c.ciu.finished.contains (q, i) then
      advanceQci q n ((c.onCiu fun u => { u with finished := u.finished.filter (· != (q, i)) }).wr
        (Reg.CIU_QCI q) ((i + 1) % c.queueSize q))
    else c

/-- Complete a request: STATUS and RESULT in its entry, or a completion for one of RING's;
counters, the consumer index and the cipher-done operand (R156, R158). -/
def Chip.ciuFinish (c : Chip) (r : CiuReq) (status result : Nat) (sc : Option Nat) : Chip :=
  let f := r.fields
  let c := c.onCiu fun u => { u with inflight := u.inflight.erase r }
  let c := match r.owner with
    | some (p, tag) => c.complete
        ⟨p, tag, 0x30, BitVec.ofNat 8 status, padTo 56 (leBytes 4 result), true, 0⟩
    | none =>
      let host := c.queueLevel r.queue == 0
      let a := c.queueEntry r.queue r.idx
      let c := (c.dmaWrite 5 host (a + 56) (leBytes 1 status)).2
      let c := (c.dmaWrite 5 host (a + 60) (leBytes 4 result)).2
      let c := match sc with
        | some v => (c.dmaWrite 5 host (a + 55) (leBytes 1 v)).2
        | none => c
      Chip.advanceQci r.queue 1024
        (c.onCiu fun u => { u with finished := u.finished ++ [(r.queue, r.idx)] })
  let c := c.when (status == 1) fun c => c.bump Reg.CIU_REQ_OK
  let c := c.when ([2, 3, 0x0A, 0x0C].contains status) fun c => c.countReject (if r.ctx then some r.handle else none)
  let c := c.when (bitOf f.flags 2 && r.owner.isNone) fun c =>
    c.floPost f.pod 7 status (r.idx + r.queue * 1024)
  c.sessSweep

/-- The OP codes of Table 6. -/
def ciuOps : List Nat :=
  [1, 2, 3, 4, 5, 6, 7, 8, 9, 0x0A, 0x0B, 0x10, 0x11, 0x12, 0x13, 0x18, 0x19, 0x20, 0x21, 0x28,
   0x29, 0x30, 0x31, 0x32, 0x33, 0x38, 0x39]

/-- Index up to which a queue's entries have been accepted. -/
def Chip.fetchedIdx (c : Chip) (q : Nat) : Nat := Tab.get (fun _ => 0) c.ciu.fetched q

/-- Requests of a queue in progress (CIU_QINFLn). -/
def Chip.queueInflight (c : Chip) (q : Nat) : Nat :=
  (c.ciu.inflight.filter fun r => r.queue == q).length

/-- Whether a queue has an entry that may be accepted now (R156). -/
def Chip.queueReady (c : Chip) (q : Nat) : Bool :=
  let m := c.fl (Reg.CIU_QCFG q) 19 12
  c.bit (Reg.CIU_QCFG q) 31 && decide (c.queueInflight q < if m = 0 then 256 else m) &&
    (if q = 7 ∧ c.cryBound then !c.ring.cry.isEmpty
     else c.fetchedIdx q != c.fl (Reg.CIU_QPI q) 9 0 % c.queueSize q)

/-- The next queue in weighted round robin, with the entries left to it after this one. -/
def Chip.nextQueue (c : Chip) : Option (Nat × Nat) :=
  if c.queueReady c.ciu.turn && decide (0 < c.ciu.left) then some (c.ciu.turn, c.ciu.left - 1)
  else (((List.range 8).map fun i => (c.ciu.turn + 1 + i) % 8).find? c.queueReady).map fun q =>
    (q, max 1 (c.fl (Reg.CIU_QCFG q) 11 8) - 1)

/-- Take a request into progress; one naming a pod takes its hold (06 R178). An OP outside
Table 6 completes with 0x04, an entry that cannot be read with 0x0D. -/
def Chip.ciuTake (c : Chip) (r : CiuReq) (how : Access) : Chip :=
  let f := r.fields
  let c := c.onCiu fun u => { u with inflight := u.inflight ++ [r], accepted := u.accepted + 1 }
  let c := c.when (bitOf f.flags 2 && r.owner.isNone) fun c => c.hold f.pod
  if how ≠ .ok then c.ciuFinish r 0x0D 0 none
  else if !ciuOps.contains f.op then c.ciuFinish r 0x04 0 none
  else c

/-- CIU_REQUEST_ACCEPT (R156). -/
def Chip.ciuAccept (c : Chip) : Chip :=
  if !c.ciuUp || c.bit Reg.CIU_CTRL 1 || c.ciu.erasing.isSome || decide (256 ≤ c.ciu.inflight.length) then c
  else match c.nextQueue with
  | none => c
  | some (q, left) =>
    let c := c.onCiu fun u => { u with turn := q, left := left }
    if q = 7 ∧ c.cryBound then
      match c.ring.cry with
      | [] => c
      | x :: rest =>
        let c := { c with ring := { c.ring with cry := rest } }
        c.ciuTake ⟨7, c.ciu.accepted % 1024, padTo 64 x.entry, c.ciu.accepted, some (x.pair, x.tag)⟩ .ok
    else
      let i := c.fetchedIdx q
      let c := c.onCiu fun u => { u with fetched := Tab.put (fun _ => 0) u.fetched q ((i + 1) % c.queueSize q) }
      match c.dmaRead 5 (c.queueLevel q == 0) (c.queueEntry q i) 64 with
      | (how, e, c) => c.ciuTake ⟨q, i, e, c.ciu.accepted, none⟩ how

/-! ### Keys of a request (R143, R157) -/

/-- A key for a request, or the status with which it fails. `inbound` is the direction used, or
none where the operation names none. -/
def Chip.slotKey (c : Chip) (level s : Nat) (algs : List Nat) (inbound : Option Bool) : Nat ⊕ Nat :=
  let a := c.attr s
  if !attrValid a then .inl 6
  else if level < attrLevel a then .inl 5
  else if !algs.contains (attrAlg a) then .inl 5
  else match inbound with
  | some true => if attrIn a then .inr s else .inl 5
  | some false => if attrOut a then .inr s else .inl 5
  | none => .inr s

/-- The slot a request takes its key from: SLOT, or with CTX = 1, when SLOT is ignored, the session way of its
handle (R154). -/
def Chip.keySlot (c : Chip) (r : CiuReq) : Option Nat :=
  if r.ctx then (c.sessFind r.handle).map (sessSlot r.handle) else some r.fields.slot

/-- A key for a request, or the status with which it fails: a session's keys are AES keys and serve no operation
of another kind. -/
def Chip.reqKey (c : Chip) (r : CiuReq) (algs : List Nat) (inbound : Option Bool) : Nat ⊕ Nat :=
  match c.keySlot r with
  | none => .inl 6
  | some s => c.slotKey (c.queueLevel r.queue) s algs inbound

/-- The AES key of a request: its slot's, or the encryption key of its handle's session (R150, R154). -/
def Chip.aesKey (c : Chip) (r : CiuReq) (inbound : Bool) : Nat ⊕ List Byte :=
  match c.reqKey r (if r.ctx then [2, 3] else [1, 2]) (some inbound) with
  | .inl e => .inl e
  | .inr s => .inr (c.keyBytes s (if attrAlg (c.attr s) = 2 then 32 else 16))

/-- How an operation ends: status, the bytes for DST, RESULT, SC for the entry, and the chip. -/
structure CiuRes where
  status : Nat
  out : List Byte
  result : Option Nat
  sc : Option Nat
  chip : Chip

/-- An operation that ends with a status and no output. -/
def Chip.fails (c : Chip) (status : Nat) : CiuRes := ⟨status, [], none, none, c⟩

/-- An operation that gives bytes. -/
def Chip.gives (c : Chip) (out : List Byte) : CiuRes := ⟨1, out, none, none, c⟩

/-- An operation over `n` bytes at an address; 0x0D where they cannot be read. -/
def Chip.withRead (c : Chip) (r : CiuReq) (addr n : Nat) (f : Chip → List Byte → CiuRes) : CiuRes :=
  match c.reqRead r addr n with
  | (.ok, bs, c) => f c bs
  | (_, _, c) => c.fails 0x0D

/-- An AES operation: lengths, then the key, then `extra` bytes beyond the data (the tag of a
verification) and the AAD. -/
def Chip.aesOp (c : Chip) (r : CiuReq) (inbound lenOk : Bool) (extra aad : Nat)
    (f : List Byte → List Byte → List Byte → Nat ⊕ List Byte) : CiuRes :=
  let e := r.fields
  if !lenOk then c.fails 4
  else match c.aesKey r inbound with
  | .inl s => c.fails s
  | .inr key =>
    c.withRead r e.src (e.len + extra) fun c data =>
      c.withRead r e.aux aad fun c a =>
        match f key data a with
        | .inl s => c.fails s
        | .inr out => c.gives out

/-- PKCS #7 padding (Table 7). -/
def pkcsPad (b : List Byte) : List Byte :=
  let n := 16 - b.length % 16
  b ++ List.replicate n (BitVec.ofNat 8 n)

/-- PKCS #7 padding checked and removed. -/
def pkcsUnpad (b : List Byte) : Nat ⊕ List Byte :=
  let n := (b.getLastD 0).toNat
  if 1 ≤ n ∧ n ≤ 16 ∧ n ≤ b.length ∧ b.drop (b.length - n) = List.replicate n (BitVec.ofNat 8 n) then
    .inr (b.take (b.length - n))
  else .inl 8

/-- Encryption by a block mode with optional padding (Table 7). -/
def Chip.blockEnc (c : Chip) (r : CiuReq) (f : List Byte → List Byte → List Byte) : CiuRes :=
  let e := r.fields
  let pad := bitOf e.flags 1
  c.aesOp r false (decide (1 ≤ e.len) && (pad || e.len % 16 == 0)) 0 0 fun key data _ =>
    .inr (f key (if pad then pkcsPad data else data))

/-- Decryption by a block mode with the padding checked (Table 7). -/
def Chip.blockDec (c : Chip) (r : CiuReq) (f : List Byte → List Byte → List Byte) : CiuRes :=
  let e := r.fields
  c.aesOp r true (e.len % 16 == 0) 0 0 fun key data _ =>
    if bitOf e.flags 1 then pkcsUnpad (f key data) else .inr (f key data)

/-- Tag length: the default for 0, none where the table does not allow it (R159). -/
def tagSize (t dflt : Nat) (ok : List Nat) : Option Nat :=
  if t = 0 then some dflt else if ok.contains t then some t else none

/-- GCM in either direction. -/
def Chip.gcmOp (c : Chip) (r : CiuReq) (dec : Bool) : CiuRes :=
  let e := r.fields
  match tagSize e.tagLen 16 [4, 8, 12, 13, 14, 15, 16] with
  | none => c.fails 4
  | some t =>
    let iv := e.iv.take 12
    if dec then
      c.aesOp r true true t e.auxLen fun key data aad =>
        let ct := data.take e.len
        if (gcmTag key iv aad ct).take t = data.drop e.len then .inr (gcmData key iv ct) else .inl 2
    else
      c.aesOp r false true 0 e.auxLen fun key data aad =>
        let ct := gcmData key iv data
        .inr (ct ++ (gcmTag key iv aad ct).take t)

/-- CCM* in either direction; TAGLEN 0 is encryption only. -/
def Chip.ccmOp (c : Chip) (r : CiuReq) (dec : Bool) : CiuRes :=
  let e := r.fields
  let t := e.tagLen
  let ok := [0, 4, 8, 16].contains t && decide (e.len ≤ 65535)
  let nonce := e.iv.take 13
  if dec then
    c.aesOp r true ok t e.auxLen fun key data aad =>
      let p := ccmData key nonce (data.take e.len)
      if (ccmTag key nonce (ccmMac key nonce aad p t)).take t = data.drop e.len then .inr p else .inl 2
  else
    c.aesOp r false ok 0 e.auxLen fun key data aad =>
      .inr (ccmData key nonce data ++ (ccmTag key nonce (ccmMac key nonce aad data t)).take t)

/-- CMAC, generated or verified against the tag that follows the data. -/
def Chip.cmacOp (c : Chip) (r : CiuReq) (verify : Bool) : CiuRes :=
  let e := r.fields
  match tagSize e.tagLen 16 (upFrom 4 13) with
  | none => c.fails 4
  | some t =>
    if verify then
      c.aesOp r true true t 0 fun key data _ =>
        if (cmac key (data.take e.len)).take t = data.drop e.len then .inr [] else .inl 2
    else c.aesOp r false true 0 0 fun key data _ => .inr ((cmac key data).take t)

/-- A hash of the data at SRC. -/
def Chip.hashOp (c : Chip) (r : CiuReq) (h : List Byte → List Byte) : CiuRes :=
  c.withRead r r.fields.src r.fields.len fun c data => c.gives (h data)

/-- An HMAC of the data at SRC. -/
def Chip.hmacOp (c : Chip) (r : CiuReq) (h : List Byte → List Byte → List Byte) : CiuRes :=
  match c.reqKey r [4] (some false) with
  | .inl s => c.fails s
  | .inr s => c.hashOp r (h (c.keyBytes s 32))

/-- The KEK in a request's slot. -/
def Chip.kekKey (c : Chip) (r : CiuReq) (inbound : Bool) : Nat ⊕ List Byte :=
  match c.reqKey r [6, 7] (some inbound) with
  | .inl s => .inl s
  | .inr s => .inr (c.keyBytes s (if attrAlg (c.attr s) = 7 then 32 else 16))

/-- KEY_WRAP of the data at SRC. -/
def Chip.wrapOp (c : Chip) (r : CiuReq) : CiuRes :=
  let e := r.fields
  if e.len % 8 ≠ 0 ∨ e.len < 16 ∨ 512 < e.len then c.fails 4
  else match c.kekKey r false with
  | .inl s => c.fails s
  | .inr key => c.withRead r e.src e.len fun c data => c.gives (keyWrap key data)

/-! ### Output slots (R155) -/

/-- The status with which OSLOT and OATTR fail their check, 1 when they pass. -/
def Chip.oslotStatus (c : Chip) (r : CiuReq) : Nat :=
  let e := r.fields
  let alg := attrAlg e.oattr
  let level := c.queueLevel r.queue
  let touched := if alg = 9 then [e.oslot, e.oslot + 1] else [e.oslot]
  if 8192 ≤ e.oslot ∨ alg = 0 ∨ alg = 10 ∨ 12 ≤ alg ∨ (alg = 9 ∧ e.oslot % 2 = 1) then 4
  else if touched.any (fun s => attrLock (c.attr s)) then 5
  else if touched.any (fun s => decide (level < attrLevel (c.attr s))) ∨ level < attrLevel e.oattr then 5
  else if c.tamperLine || c.ciu.erasing.isSome then 9
  else 1

/-- Store a result in OSLOT with its ORIGIN and PARENT. -/
def Chip.storeOut (c : Chip) (r : CiuReq) (origin parent v : Nat) (out : List Byte) : CiuRes :=
  let e := r.fields
  let alg := attrAlg e.oattr
  match c.oslotStatus r with
  | 1 =>
    if !scalarValid alg v then c.fails 4
    else
      let attr := putBit (attrOf e.oattr origin parent) 31 true
      (c.storeKey e.oslot attr v).gives out
  | s => c.fails s

/-- KEY_UNWRAP of the data at SRC into OSLOT (ORIGIN 1). -/
def Chip.unwrapOp (c : Chip) (r : CiuReq) : CiuRes :=
  let e := r.fields
  if (e.len ≠ 24 ∧ e.len ≠ 40) ∨ e.len ≠ algBytes (attrAlg e.oattr) + 8 then c.fails 4
  else match c.kekKey r true with
  | .inl s => c.fails s
  | .inr key => c.withRead r e.src e.len fun c data =>
    match keyUnwrap key data with
    | none => c.fails 2
    | some k => c.storeOut r 1 0 (leVal k) []

/-- A derivation from a KDK or SECRET into OSLOT (R155). -/
def Chip.deriveOp (c : Chip) (r : CiuReq) (kdf : Bool → List Byte → List Byte → Nat → List Byte) :
    CiuRes :=
  let e := r.fields
  let alg := attrAlg e.oattr
  match c.reqKey r [5, 11] none with
  | .inl s => c.fails s
  | .inr s => c.withRead r e.aux e.auxLen fun c f =>
    c.storeOut r 3 s (derivedVal alg (kdf (alg == 9) (c.keyBytes s 32) f (algBytes alg))) []

/-! ### Public keys (R155, R159) -/

/-- The curve and scalar of the private key in a request's slot. -/
def Chip.ecKey (c : Chip) (r : CiuReq) (inbound : Bool) : Nat ⊕ (Curve × Nat) :=
  match c.reqKey r [8, 9] (some inbound) with
  | .inl e => .inl e
  | .inr s =>
    if attrAlg (c.attr s) = 9 && !attrValid (c.attr (s + 1)) then .inl 6
    else .inr (if attrAlg (c.attr s) = 9 then (curve384, c.scalar384 s) else (curve256, (c.key s).toNat))

/-- The digest an ECDSA request is about: SRC itself with PREHASHED, else its hash. -/
def Chip.withDigest (c : Chip) (r : CiuReq) (cv : Curve) (extra : Nat)
    (f : Chip → List Byte → List Byte → CiuRes) : CiuRes :=
  let e := r.fields
  let pre := bitOf e.flags 3
  if pre && e.len != cv.bytes then c.fails 4
  else c.withRead r e.src (e.len + extra) fun c data =>
    let m := data.take e.len
    f c (if pre then m else if cv.bytes = 48 then sha384 m else sha256 m) (data.drop e.len)

/-- Bytes of the random bit generator, or none after an entropy failure (R153). -/
def Chip.drbg (c : Chip) (n : Nat) : Option (List Byte × Chip) :=
  if c.bit Reg.CIU_STATUS 2 then none
  else
    let (bs, c) := c.free n
    some (bs, c.onCiu fun u => { u with drbgCalls := (u.drbgCalls + 1) % 65536 })

/-- A scalar of the generator, between 1 and the order less 1. -/
def Curve.fresh (cv : Curve) (bs : List Byte) : Nat := beVal bs % (cv.n - 1) + 1

/-- ECDSA_SIGN. -/
def Chip.signOp (c : Chip) (r : CiuReq) : CiuRes :=
  match c.ecKey r false with
  | .inl s => c.fails s
  | .inr (cv, d) => c.withDigest r cv 0 fun c digest _ =>
    match c.drbg (cv.bytes + 8) with
    | none => c.fails 0x0E
    | some (k, c) => c.gives (cv.sign d (cv.fresh k) digest)

/-- The curve that a public key of AUXLEN bytes lies on. -/
def pubCurve (n : Nat) : Option Curve :=
  if n = 64 then some curve256 else if n = 96 then some curve384 else none

/-- ECDSA_VERIFY with the public key at AUX; the signature follows the data at SRC. -/
def Chip.verifyOp (c : Chip) (r : CiuReq) : CiuRes :=
  let e := r.fields
  match pubCurve e.auxLen with
  | none => c.fails 4
  | some cv => c.withRead r e.aux e.auxLen fun c pub =>
    let x := beVal (pub.take cv.bytes)
    let y := beVal (pub.drop cv.bytes)
    if !cv.onCurve x y then c.fails 4
    else c.withDigest r cv (2 * cv.bytes) fun c digest sig =>
      if cv.verify x y digest sig then c.gives [] else c.fails 0x0B

/-- ECDH with the point at AUX; the first bytes of the shared coordinate go into OSLOT. -/
def Chip.ecdhOp (c : Chip) (r : CiuReq) : CiuRes :=
  let e := r.fields
  let alg := attrAlg e.oattr
  match c.ecKey r true with
  | .inl s => c.fails s
  | .inr (cv, d) =>
    if e.auxLen ≠ 2 * cv.bytes ∨ cv.bytes < algBytes alg then c.fails 4
    else c.withRead r e.aux e.auxLen fun c pub =>
      let x := beVal (pub.take cv.bytes)
      let y := beVal (pub.drop cv.bytes)
      if !cv.onCurve x y then c.fails 4
      else
        let z := beBytes cv.bytes ((cv.mul 384 d (some (x, y))).getD (0, 0)).1
        c.storeOut r 5 e.slot (derivedVal alg (z.take (algBytes alg))) []

/-- KEY_PAIR_GENERATION into OSLOT, the public key to DST. -/
def Chip.pairOp (c : Chip) (r : CiuReq) : CiuRes :=
  let alg := attrAlg r.fields.oattr
  if alg ≠ 8 ∧ alg ≠ 9 then c.fails 4
  else match c.drbg 56 with
  | none => c.fails 0x0E
  | some (k, c) =>
    let cv := if alg = 9 then curve384 else curve256
    let d := cv.fresh k
    let q := (cv.mul 384 d cv.gen).getD (0, 0)
    c.storeOut r 4 0 d (beBytes cv.bytes q.1 ++ beBytes cv.bytes q.2)

/-- DRBG_OUTPUT to DST. -/
def Chip.drbgOp (c : Chip) (r : CiuReq) : CiuRes :=
  match c.drbg r.fields.len with
  | none => c.fails 0x0E
  | some (bs, c) => c.gives bs

/-- RANDOM_KEY into OSLOT. -/
def Chip.randomOp (c : Chip) (r : CiuReq) : CiuRes :=
  let alg := attrAlg r.fields.oattr
  match c.drbg (algBytes alg) with
  | none => c.fails 0x0E
  | some (bs, c) => c.storeOut r 4 0 (derivedVal alg bs) []

/-! ### DLMS (R160–R165) -/

/-- Encryption and authentication key of a handle's session (R150). -/
def Chip.dlmsKeys (c : Chip) (h suite : Nat) : Option (List Byte × List Byte) :=
  (c.sessFind h).map fun w =>
    let s := sessSlot h w
    if suite = 2 then (c.keyBytes s 32, c.keyBytes (s + 1) 32)
    else ((c.keyBytes s 32).take 16, (c.keyBytes s 32).drop 16)

/-- Data and tag of a protected APDU (R160): what goes beside SC and the counter. -/
def dlmsSeal (ek ak iv : List Byte) (sc : Byte) (plain : List Byte) : List Byte × List Byte :=
  let a := bitOf sc.toNat 4
  let e := bitOf sc.toNat 5
  if e then
    let ct := gcmData ek iv plain
    (ct, if a then (gcmTag ek iv (sc :: ak) ct).take 12 else [])
  else (plain, if a then (gcmTag ek iv (sc :: ak ++ plain) []).take 12 else [])

/-- Plaintext of a protected APDU, or none where its tag fails (R160). -/
def dlmsOpen (ek ak iv : List Byte) (sc : Byte) (body tag : List Byte) : Option (List Byte) :=
  let a := bitOf sc.toNat 4
  let e := bitOf sc.toNat 5
  let want := if e then (gcmTag ek iv (sc :: ak) body).take 12 else (gcmTag ek iv (sc :: ak ++ body) []).take 12
  if a && want != tag then none
  else some (if e then gcmData ek iv body else body)

/-- Whether a security control byte and length fit a context (R161). -/
def dlmsPolicy (sc suite flags len : Nat) : Bool :=
  !bitOf sc 7 && !bitOf sc 6 && sc % 16 == suite && (!bitOf flags 2 || bitOf sc 4) &&
    (!bitOf flags 3 || bitOf sc 5) && decide (5 + 12 * b2n (bitOf sc 4) ≤ len)

/-- The first rejection of a meter whose inbound counter is exhausted posts a notice (R164). -/
def Chip.exhausted (c : Chip) (h rx : Nat) : Chip :=
  let k := BitVec.ofNat 20 h
  if rx ≠ 0xFFFFFFFF then c.onCiu fun u => { u with rxNoticed := u.rxNoticed.filter (· != k) }
  else if c.ciu.rxNoticed.contains k then c
  else (c.notice 0x0401 (leBytes 4 h)).onCiu fun u => { u with rxNoticed := k :: u.rxNoticed }

/-- DLMS_RECEIVE: policy, then steps 1–3 of R162. -/
def Chip.dlmsReceive (c : Chip) (r : CiuReq) : CiuRes :=
  let f := r.fields
  match c.resident f.handle with
  | none => c.fails 4
  | some n =>
    if !r.ctx then c.fails 4
    else if c.queueLevel r.queue < 1 then c.fails 5
    else (c.ctxSeen 5 n).withRead r f.src f.len fun c data =>
      let sc := leAt data 0 1
      let suite := c.ctx n 4 1
      if !dlmsPolicy sc (suite % 4) suite f.len then c.fails 0x0C
      else
        let ic := beVal (slice data 1 4)
        let rx := c.ctx n 0x10 4
        let c := c.exhausted f.handle rx
        if ic ≤ rx then ⟨3, [], some ic, some sc, c⟩
        else match c.dlmsKeys f.handle (suite % 4) with
        | none => c.fails 6
        | some (ek, ak) =>
          let iv := c.ctxBytes n 8 8 ++ beBytes 4 ic
          let t := 12 * b2n (bitOf sc 4)
          let body := (data.drop 5).take (f.len - 5 - t)
          match dlmsOpen ek ak iv (BitVec.ofNat 8 sc) body (data.drop (f.len - t)) with
          | none => ⟨2, [], some ic, some sc, c⟩
          | some p => ⟨1, p, some ic, some sc, c.setCtx n 0x10 4 ic⟩

/-- The outbound counter's notice at low water, once per TX_CEIL (R165). -/
def Chip.lowWater (c : Chip) (h tx ceil : Nat) : Chip :=
  if ceil - tx ≤ c.fl Reg.CIU_IC_CFG 15 0 ∧
      Tab.get (fun _ => (0 : Word)) c.ciu.ceilNoticed h ≠ BitVec.ofNat 32 ceil then
    (c.notice 0x0402 (leBytes 4 h ++ leBytes 4 tx ++ leBytes 4 ceil)).onCiu fun u =>
      { u with ceilNoticed := Tab.put (fun _ => 0) u.ceilNoticed h (BitVec.ofNat 32 ceil) }
  else c

/-- DLMS_TRANSMIT (R165). -/
def Chip.dlmsTransmit (c : Chip) (r : CiuReq) : CiuRes :=
  let f := r.fields
  match c.resident f.handle with
  | none => c.fails 4
  | some n =>
    let tx := c.ctx n 0x14 4
    let ceil := c.ctx n 0x18 4
    if !r.ctx then c.fails 4
    else if c.queueLevel r.queue < 1 then c.fails 5
    else match c.dlmsKeys f.handle (c.ctx n 4 1 % 4) with
    | none => c.fails 6
    | some (ek, ak) =>
      if tx = ceil ∨ tx = 0xFFFFFFFF then c.fails 7
      else (c.ctxSeen 5 n).withRead r f.src f.len fun c data =>
        let iv := c.ctxBytes n 8 8 ++ beBytes 4 (tx + 1)
        let p := dlmsSeal ek ak iv (BitVec.ofNat 8 f.sc) data
        let out := leBytes 1 f.sc ++ beBytes 4 (tx + 1) ++ p.1 ++ p.2
        ⟨1, out, some (tx + 1), none, (c.setCtx n 0x14 4 (tx + 1)).lowWater f.handle (tx + 1) ceil⟩

/-! ### Running a request -/

/-- Whether a request may run now: DLMS requests of a handle run one at a time in the order they
were accepted (R163, R166), and a request accepted after a load of its slot waits (R149). -/
def Chip.reqMayRun (c : Chip) (r : CiuReq) : Bool :=
  let dlms (x : CiuReq) : Bool := x.fields.op == 0x20 || x.fields.op == 0x21
  !(dlms r && c.ciu.inflight.any fun x =>
      dlms x && x.fields.handle == r.fields.handle && decide (x.order < r.order)) &&
    !(c.ciu.loads.any fun l => c.names r (c.loadSlots l) && decide (l.since ≤ r.order)) &&
    !(c.grd.kdf.any fun k => c.names r (c.touched k.slot (attrAlg k.attr.toNat)) && decide (k.since ≤ r.order)) &&
    c.ciu.erasing.isNone

/-- Run the request in progress at an entry with an operation, write its output and complete it.
Output that the plan refuses completes with 0x0D (R157). -/
def Chip.ciuRun (c : Chip) (op q idx : Nat) (work : Chip → CiuReq → CiuRes) : Chip :=
  match c.ciu.inflight.find? fun r => r.queue == q && r.idx == idx && r.fields.op == op with
  | none => c
  | some r =>
    if !c.reqMayRun r || c.gated 4 then c
    else
      let x := work c r
      if x.status = 1 ∧ x.out ≠ [] then
        match x.chip.reqWrite r r.fields.dst x.out with
        | (.ok, c) => c.ciuFinish r 1 (x.result.getD x.out.length) x.sc
        | (_, c) => c.ciuFinish r 0x0D (x.result.getD 0) x.sc
      else x.chip.ciuFinish r x.status (x.result.getD 0) x.sc

/-- The slots whose keys an AES lane expands for a request: its key's, and the AK's of a pair of ways. -/
def Chip.laneSlots (c : Chip) (r : CiuReq) : List Nat :=
  match c.keySlot r with
  | none => []
  | some s => if r.ctx then (c.sessWays r.handle ((s - 8192) % 6)).map (sessSlot r.handle) else [s]

/-- Run an operation on an engine, whose busy cycles are counted: AES lanes 0–3, the hash lane 4,
the public-key engine 5. A lane then holds an expanded copy of each key used (R143). -/
def State.onLane (s : State) (op : Nat) (q : Fin 8) (idx : BitVec 10) (lane : Nat) (busy : BitVec 32)
    (work : Chip → CiuReq → CiuRes) : Host.Outcome State Fault Refusal :=
  s.onChip fun c =>
    let used := (c.ciu.inflight.filter fun r => decide (lane < 4) && r.queue == q.val && r.idx == idx.toNat).flatMap
      c.laneSlots
    let c := (c.ciuRun op q.val idx.toNat work).bumpBy (Reg.CIU_BUSY lane) busy.toNat
    c.onCiu fun u => { u with laneKeys := if u.masks = [] then [] else (used ++ u.laneKeys).eraseDups }

/-! ### Erasure and enabling (R153, R167–R170) -/

/-- Change the Guard. -/
def Chip.onGrd (c : Chip) (f : Grd → Grd) : Chip := { c with grd := f c.grd }

/-- A key derivation of the Guard ends with a RESULT (12 Table 3). -/
def Chip.kdfEnd (c : Chip) (result : Nat) : Chip :=
  ((c.wr Reg.GRD_KDF_STATUS result).setBit Reg.GRD_KDF_CMD 31 false).onGrd fun g => { g with kdf := none }

/-- A derivation in progress is aborted and writes nothing (R168, 12 R371). -/
def Chip.kdfAbort (c : Chip) : Chip := if c.grd.kdf.isSome then c.kdfEnd 6 else c

/-- The erase of every key begins: steps 1–4 of Table 11. What recurs during the erase restarts no step, unless
the CIU has been enabled again meanwhile and holds new masks. -/
def Chip.eraseStart (c : Chip) (cause : EraseCause) : Chip :=
  let c := (c.when (cause == .power) fun c => c.setBit Reg.CIU_ALARM 6 true).kdfAbort
  if c.ciu.erasing.isSome && c.ciu.masks == [] then c
  else
    let c := (c.setBit Reg.CIU_CTRL 0 false).setBit Reg.CIU_STATUS 0 false
    let c := c.when (c.ciu.winOwner.isSome) fun c => c.windowEnd 6
    c.onCiu fun u => { u with
      masks := [], laneKeys := [], airKeys := [], loads := [], winKey := [],
      erasing := some cause }

/-- CIU_ALARM: an enabled detector raises an alarm (R167, Table 10). -/
def Chip.ciuAlarm (c : Chip) (det : Nat) : Chip :=
  if c.bit Reg.CIU_CTRL (8 + det) then (c.raise Reg.CIU_ALARM det).eraseStart .alarm else c

/-- BULK_CLEAR_DONE: steps 5–7 of Table 11. A generator that an enable has seeded during the clear stays so. -/
def Chip.bulkClearDone (c : Chip) : Chip :=
  match c.ciu.erasing with
  | none => c
  | some cause =>
    let c := c.onCiu fun u => { u with
      slots := [], sessHandle := [], sessUsed := [], sessInval := [],
      drbgSeeded := c.bit Reg.CIU_CTRL 0 && u.drbgSeeded, drbgCalls := 0, erasing := none }
    let misses := c.ciu.misses
    let c := c.onCiu fun u => { u with misses := [] }
    let c := misses.foldl (fun c m => c.postKey m.pod 9 0) c
    let c := c.ciu.inflight.foldl (fun c r => c.ciuFinish r 9 0 none) c
    let c := c.raise Reg.CIU_STATUS 1
    let body := leBytes 4 (c.rd Reg.CIU_ALARM) ++ leBytes 8 c.time.toNat
    match cause with
    | .alarm => c.emberPost 0x401 body true false
    | .tamper => c.record 0x401 body
    | _ => c

/-- CIU_ENABLE: a write of 1 to CIU_CTRL.ENABLE (R170). Masks are drawn only after an erase; after
an entropy failure they cannot be (R153). -/
def Chip.ciuEnable (c : Chip) : Chip :=
  if c.tamperLine || c.fl Reg.CIU_ALARM 4 0 != 0 then c
  else if c.ciu.masks != [] then
    ((c.setBit Reg.CIU_CTRL 0 true).setBit Reg.CIU_STATUS 0 true).onCiu fun u =>
      { u with drbgSeeded := true, drbgCalls := 0 }
  else match c.drbg 512 with
  | none => c
  | some (bs, c) =>
    ((c.setBit Reg.CIU_CTRL 0 true).setBit Reg.CIU_STATUS 0 true).onCiu fun u =>
      { u with drbgSeeded := true, drbgCalls := 0,
               masks := (pieces 32 bs).map fun b => BitVec.ofNat 256 (leVal b) }

/-- CIU_DISABLE: a write of 0 to CIU_CTRL.ENABLE erases nothing (R170). -/
def Chip.ciuDisable (c : Chip) : Chip := (c.setBit Reg.CIU_CTRL 0 false).setBit Reg.CIU_STATUS 0 false

/-- RESEED: the start-up tests pass, or leave an entropy failure (R153). -/
def Chip.reseed (c : Chip) (pass : Bool) : Chip :=
  ((c.setBit Reg.CIU_STATUS 2 (!pass)).setBit Reg.CIU_CTRL 2 false).onCiu fun u =>
    { u with drbgSeeded := pass || u.drbgSeeded, drbgCalls := 0 }

/-- ENTROPY_HEALTH_FAILURE: counted in its half of CIU_DRBG_HEALTH (R153). -/
def Chip.entropyFailure (c : Chip) (adaptive : Bool) : Chip :=
  let c := if adaptive then c.bumpFl Reg.CIU_DRBG_HEALTH 31 16 else c.bumpFl Reg.CIU_DRBG_HEALTH 15 0
  c.setBit Reg.CIU_STATUS 2 true

/-! ### Meanings -/

/-- KEY_WINDOW_WRITE (R147). -/
def execKeyWindowWrite (idx : Fin 9) (v : Word) (who : Who) (s : State) :
    Host.Outcome State Fault Refusal :=
  s.onChip fun c => c.onReg (if idx.val < 8 then Reg.CIU_KEY_LOAD idx.val else Reg.CIU_KEY_ATTR) who.ini.toNat fun c => c.keyWindowWrite idx.val v who.level

/-- KEY_LOAD_GO (R148). -/
def execKeyLoadGo (v : Word) (who : Who) (s : State) : Host.Outcome State Fault Refusal :=
  s.onChip fun c => c.onReg (Reg.CIU_KEY_CMD) who.ini.toNat fun c => c.keyLoadGo v.toNat who.level

/-- KEY_LOAD_APPLY (R149). -/
def execKeyLoadApply (s : State) : Host.Outcome State Fault Refusal := s.onChip Chip.keyLoadApply

/-- KEY_WINDOW_TIMEOUT (R147). -/
def execKeyWindowTimeout (s : State) : Host.Outcome State Fault Refusal := s.onChip Chip.keyWindowTimeout

/-- KEY_ERASE (R149). -/
def execKeyErase (v : Word) (who : Who) (s : State) : Host.Outcome State Fault Refusal :=
  s.onChip fun c => c.onReg (Reg.CIU_KEY_ERASE) who.ini.toNat fun c => c.keyErase v.toNat who.level

/-- SESSION_LOOKUP (R151). -/
def execSessionLookup (s : State) : Host.Outcome State Fault Refusal := s.onChip Chip.sessionLookup

/-- SESSION_UNWRAP_DONE (R151). -/
def execSessionUnwrapDone (pod : BitVec 10) (s : State) : Host.Outcome State Fault Refusal :=
  s.onChip fun c => c.sessionUnwrapDone pod

/-- SESS_INVAL (R152). -/
def execSessInval (v : Word) (s : State) : Host.Outcome State Fault Refusal :=
  s.onChip fun c => c.onReg (Reg.CIU_SESS_INVAL) anyIni fun c => c.sessInvalWrite v.toNat

/-- CIU_REQUEST_ACCEPT (R156). -/
def execCiuRequestAccept (s : State) : Host.Outcome State Fault Refusal := s.onChip Chip.ciuAccept

/-- AES_ECB_ENCRYPT, OP 0x01 (R159). -/
def execAesEcbEncrypt (q : Fin 8) (idx : BitVec 10) (lane : Fin 4) (busy : BitVec 32) (s : State) :
    Host.Outcome State Fault Refusal :=
  s.onLane 0x01 q idx lane.val busy fun c r => c.blockEnc r fun k d => ecb (aesEnc k) d

/-- AES_ECB_DECRYPT, OP 0x02 (R159). -/
def execAesEcbDecrypt (q : Fin 8) (idx : BitVec 10) (lane : Fin 4) (busy : BitVec 32) (s : State) :
    Host.Outcome State Fault Refusal :=
  s.onLane 0x02 q idx lane.val busy fun c r => c.blockDec r fun k d => ecb (aesDec k) d

/-- AES_CBC_ENCRYPT, OP 0x03 (R159). -/
def execAesCbcEncrypt (q : Fin 8) (idx : BitVec 10) (lane : Fin 4) (busy : BitVec 32) (s : State) :
    Host.Outcome State Fault Refusal :=
  s.onLane 0x03 q idx lane.val busy fun c r => c.blockEnc r fun k d => cbcEnc k r.fields.iv d

/-- AES_CBC_DECRYPT, OP 0x04 (R159). -/
def execAesCbcDecrypt (q : Fin 8) (idx : BitVec 10) (lane : Fin 4) (busy : BitVec 32) (s : State) :
    Host.Outcome State Fault Refusal :=
  s.onLane 0x04 q idx lane.val busy fun c r => c.blockDec r fun k d => cbcDec k r.fields.iv d

/-- AES_CTR, OP 0x05 (R159). -/
def execAesCtr (q : Fin 8) (idx : BitVec 10) (lane : Fin 4) (busy : BitVec 32) (s : State) :
    Host.Outcome State Fault Refusal :=
  s.onLane 0x05 q idx lane.val busy fun c r => c.aesOp r false (decide (1 ≤ r.fields.len)) 0 0 fun k d _ => .inr (ctr 128 k r.fields.iv d)

/-- AES_GCM_ENCRYPT, OP 0x06 (R159). -/
def execAesGcmEncrypt (q : Fin 8) (idx : BitVec 10) (lane : Fin 4) (busy : BitVec 32) (s : State) :
    Host.Outcome State Fault Refusal :=
  s.onLane 0x06 q idx lane.val busy fun c r => c.gcmOp r false

/-- AES_GCM_DECRYPT, OP 0x07 (R159). -/
def execAesGcmDecrypt (q : Fin 8) (idx : BitVec 10) (lane : Fin 4) (busy : BitVec 32) (s : State) :
    Host.Outcome State Fault Refusal :=
  s.onLane 0x07 q idx lane.val busy fun c r => c.gcmOp r true

/-- AES_CCM_ENCRYPT, OP 0x08 (R159). -/
def execAesCcmEncrypt (q : Fin 8) (idx : BitVec 10) (lane : Fin 4) (busy : BitVec 32) (s : State) :
    Host.Outcome State Fault Refusal :=
  s.onLane 0x08 q idx lane.val busy fun c r => c.ccmOp r false

/-- AES_CCM_DECRYPT, OP 0x09 (R159). -/
def execAesCcmDecrypt (q : Fin 8) (idx : BitVec 10) (lane : Fin 4) (busy : BitVec 32) (s : State) :
    Host.Outcome State Fault Refusal :=
  s.onLane 0x09 q idx lane.val busy fun c r => c.ccmOp r true

/-- AES_CMAC_GENERATE, OP 0x0A (R159). -/
def execAesCmacGenerate (q : Fin 8) (idx : BitVec 10) (lane : Fin 4) (busy : BitVec 32) (s : State) :
    Host.Outcome State Fault Refusal :=
  s.onLane 0x0A q idx lane.val busy fun c r => c.cmacOp r false

/-- AES_CMAC_VERIFY, OP 0x0B (R159). -/
def execAesCmacVerify (q : Fin 8) (idx : BitVec 10) (lane : Fin 4) (busy : BitVec 32) (s : State) :
    Host.Outcome State Fault Refusal :=
  s.onLane 0x0B q idx lane.val busy fun c r => c.cmacOp r true

/-- KEY_WRAP, OP 0x18 (R159). -/
def execKeyWrap (q : Fin 8) (idx : BitVec 10) (lane : Fin 4) (busy : BitVec 32) (s : State) :
    Host.Outcome State Fault Refusal :=
  s.onLane 0x18 q idx lane.val busy fun c r => c.wrapOp r

/-- KEY_UNWRAP, OP 0x19 (R155). -/
def execKeyUnwrap (q : Fin 8) (idx : BitVec 10) (lane : Fin 4) (busy : BitVec 32) (s : State) :
    Host.Outcome State Fault Refusal :=
  s.onLane 0x19 q idx lane.val busy fun c r => c.unwrapOp r

/-- DLMS_RECEIVE, OP 0x20 (R162). -/
def execDlmsReceive (q : Fin 8) (idx : BitVec 10) (lane : Fin 4) (busy : BitVec 32) (s : State) :
    Host.Outcome State Fault Refusal :=
  s.onLane 0x20 q idx lane.val busy fun c r => c.dlmsReceive r

/-- DLMS_TRANSMIT, OP 0x21 (R165). -/
def execDlmsTransmit (q : Fin 8) (idx : BitVec 10) (lane : Fin 4) (busy : BitVec 32) (s : State) :
    Host.Outcome State Fault Refusal :=
  s.onLane 0x21 q idx lane.val busy fun c r => c.dlmsTransmit r

/-- SHA_256, OP 0x10 (R159). -/
def execSha256 (q : Fin 8) (idx : BitVec 10) (busy : BitVec 32) (s : State) :
    Host.Outcome State Fault Refusal :=
  s.onLane 0x10 q idx 4 busy fun c r => c.hashOp r sha256

/-- SHA_384, OP 0x11 (R159). -/
def execSha384 (q : Fin 8) (idx : BitVec 10) (busy : BitVec 32) (s : State) :
    Host.Outcome State Fault Refusal :=
  s.onLane 0x11 q idx 4 busy fun c r => c.hashOp r sha384

/-- HMAC_SHA_256, OP 0x12 (R159). -/
def execHmacSha256 (q : Fin 8) (idx : BitVec 10) (busy : BitVec 32) (s : State) :
    Host.Outcome State Fault Refusal :=
  s.onLane 0x12 q idx 4 busy fun c r => c.hmacOp r hmac256

/-- HMAC_SHA_384, OP 0x13 (R159). -/
def execHmacSha384 (q : Fin 8) (idx : BitVec 10) (busy : BitVec 32) (s : State) :
    Host.Outcome State Fault Refusal :=
  s.onLane 0x13 q idx 4 busy fun c r => c.hmacOp r hmac384

/-- COUNTER_MODE_DERIVATION, OP 0x28 (R155). -/
def execCounterModeDerivation (q : Fin 8) (idx : BitVec 10) (busy : BitVec 32) (s : State) :
    Host.Outcome State Fault Refusal :=
  s.onLane 0x28 q idx 4 busy fun c r => c.deriveOp r counterKdf

/-- SINGLE_STEP_DERIVATION, OP 0x29 (R155). -/
def execSingleStepDerivation (q : Fin 8) (idx : BitVec 10) (busy : BitVec 32) (s : State) :
    Host.Outcome State Fault Refusal :=
  s.onLane 0x29 q idx 4 busy fun c r => c.deriveOp r singleStepKdf

/-- ECDSA_SIGN, OP 0x30 (R155). -/
def execEcdsaSign (q : Fin 8) (idx : BitVec 10) (busy : BitVec 32) (s : State) :
    Host.Outcome State Fault Refusal :=
  s.onLane 0x30 q idx 5 busy fun c r => c.signOp r

/-- ECDSA_VERIFY, OP 0x31 (R155). -/
def execEcdsaVerify (q : Fin 8) (idx : BitVec 10) (busy : BitVec 32) (s : State) :
    Host.Outcome State Fault Refusal :=
  s.onLane 0x31 q idx 5 busy fun c r => c.verifyOp r

/-- ECDH, OP 0x32 (R155). -/
def execEcdh (q : Fin 8) (idx : BitVec 10) (busy : BitVec 32) (s : State) :
    Host.Outcome State Fault Refusal :=
  s.onLane 0x32 q idx 5 busy fun c r => c.ecdhOp r

/-- KEY_PAIR_GENERATION, OP 0x33 (R155). -/
def execKeyPairGeneration (q : Fin 8) (idx : BitVec 10) (busy : BitVec 32) (s : State) :
    Host.Outcome State Fault Refusal :=
  s.onLane 0x33 q idx 5 busy fun c r => c.pairOp r

/-- DRBG_OUTPUT, OP 0x38 (R153). -/
def execDrbgOutput (q : Fin 8) (idx : BitVec 10) (s : State) : Host.Outcome State Fault Refusal :=
  s.onChip fun c => c.ciuRun 0x38 q.val idx.toNat fun c r => c.drbgOp r

/-- RANDOM_KEY, OP 0x39 (R155). -/
def execRandomKey (q : Fin 8) (idx : BitVec 10) (s : State) : Host.Outcome State Fault Refusal :=
  s.onChip fun c => c.ciuRun 0x39 q.val idx.toNat fun c r => c.randomOp r

/-- BULK_CLEAR_DONE (R168). -/
def execBulkClearDone (s : State) : Host.Outcome State Fault Refusal := s.onChip Chip.bulkClearDone

/-- CIU_ENABLE (R170). -/
def execCiuEnable (s : State) : Host.Outcome State Fault Refusal := s.onChip fun c => c.onReg (Reg.CIU_CTRL) anyIni fun c => c.ciuEnable

/-- CIU_DISABLE (R170). -/
def execCiuDisable (s : State) : Host.Outcome State Fault Refusal := s.onChip fun c => c.onReg (Reg.CIU_CTRL) anyIni fun c => c.ciuDisable

/-- RESEED (R153). -/
def execReseed (pass : Bool) (s : State) : Host.Outcome State Fault Refusal :=
  s.onChip fun c => c.onReg (Reg.CIU_CTRL) anyIni fun c => c.reseed pass

/-- ENTROPY_HEALTH_FAILURE (R153). -/
def execEntropyHealthFailure (adaptive : Bool) (s : State) : Host.Outcome State Fault Refusal :=
  s.onChip fun c => c.entropyFailure adaptive

end Sys2Proof.Machine
end

