-- ==== Sys2Proof/Machine/Calendar.lean ====
section
/-!
DEFINITION. Dates and the tariff calendar: local time, summer time, the day profile of a date,
billing boundaries, and the check of a calendar body (09_legal_partition.md R274, R287–R291).
-/
namespace Sys2Proof.Machine

/-! ### Dates -/

/-- Year, month and day of a day counted from 1970-01-01. -/
def civil (days : Int) : Nat × Nat × Nat :=
  let z := (days + 719468).toNat
  let doe := z % 146097
  let yoe := (doe - doe / 1460 + doe / 36524 - doe / 146096) / 365
  let doy := doe - (365 * yoe + yoe / 4 - yoe / 100)
  let mp := (5 * doy + 2) / 153
  let m := if mp < 10 then mp + 3 else mp - 9
  (yoe + z / 146097 * 400 + b2n (m ≤ 2), m, doy - (153 * mp + 2) / 5 + 1)

/-- The day, counted from 1970-01-01, of a date. -/
def dayOf (y m d : Nat) : Int :=
  let y := y - b2n (m ≤ 2)
  let yoe := y % 400
  let doy := (153 * (if 2 < m then m - 3 else m + 9) + 2) / 5 + d - 1
  (y / 400 * 146097 + yoe * 365 + yoe / 4 - yoe / 100 + doy : Nat) - 719468

/-- Weekday of a day, 0 Monday. -/
def weekdayOf (days : Int) : Nat := ((days + 3) % 7).toNat

/-- Days of a month. -/
def monthDays (y m : Nat) : Nat :=
  (dayOf (if m = 12 then y + 1 else y) (if m = 12 then 1 else m + 1) 1 - dayOf y m 1).toNat

/-! ### Summer and local time (R274, Table 6) -/

/-- Local standard seconds at which a rule of summer time falls in a year. -/
def DstRule.secsIn (r : DstRule) (y : Nat) : Int :=
  let f := dayOf y r.month 1
  let off := (r.weekday + 7 - weekdayOf f) % 7
  let day := off + 7 * (r.week - 1)
  let day := if monthDays y r.month ≤ day then day - 7 else day
  (f + day) * 86400 + r.minute * 60

/-- Whether summer time applies at a UTC second. -/
def Calendar.summer (k : Calendar) (t : Int) : Bool :=
  if k.dstOfs = 0 then false
  else
    let ls := t + k.stdOfs * 60
    let y := (civil (ls / 86400)).1
    let s := k.dstStart.secsIn y
    let e := k.dstEnd.secsIn y
    if s < e then decide (s ≤ ls) && decide (ls < e) else decide (s ≤ ls) || decide (ls < e)

/-- Local seconds at a UTC second. -/
def Calendar.localSecs (k : Calendar) (t : Int) : Int :=
  t + k.stdOfs * 60 + if k.summer t then k.dstOfs * 60 else 0

/-- Local day and minute at a UTC second; UTC without a calendar. -/
def localTime (k : Option Calendar) (t : Int) : Int × Nat :=
  let l := match k with
    | some k => k.localSecs t
    | none => t
  (l / 86400, (l % 86400).toNat / 60)

/-! ### Tariff of a date and minute (R289) -/

/-- The special day that a date is: a dated one before an every-year one. -/
def Calendar.special (k : Calendar) (y m d : Nat) : Option SpecialDay :=
  match k.specials.find? fun s => s.year == y && s.month == m && s.day == d with
  | some s => some s
  | none => k.specials.find? fun s => s.year == 0 && s.month == m && s.day == d

/-- The week of the season with the latest start on or before a date, wrapping to the last. -/
def Calendar.week (k : Calendar) (m d : Nat) : List Nat :=
  let due := k.seasons.filter fun s => decide (s.1 < m) || (s.1 == m && decide (s.2.1 ≤ d))
  let w := match due.getLast?, k.seasons.getLast? with
    | some s, _ => s.2.2
    | none, some s => s.2.2
    | none, none => 0
  k.weeks.getD w []

/-- The day profile of a local day. -/
def Calendar.profile (k : Calendar) (day : Int) : List (Nat × Nat) :=
  let (y, m, d) := civil day
  match k.special y m d with
  | some s => k.days.getD s.profile []
  | none => k.days.getD ((k.week m d).getD (weekdayOf day) 0) []

/-- The tariff of a UTC second: that of the last action at or before the local minute (R289). -/
def Calendar.tariffAt (k : Calendar) (t : Int) : Nat :=
  let (day, minute) := localTime (some k) t
  (((k.profile day).filter fun a => decide (a.1 ≤ minute)).getLast?.map (·.2)).getD 0

/-- The tariff the active calendar gives; 0 without one (Table 8). -/
def tariffOf (k : Option Calendar) (t : Int) : Nat :=
  match k with
  | some k => k.tariffAt t
  | none => 0

/-- Whether a local day is a special day that is friendly all day (Table 11). -/
def Calendar.friendlyDay (k : Calendar) (day : Int) : Bool :=
  let (y, m, d) := civil day
  match k.special y m d with
  | some s => s.friendly
  | none => false

/-! ### Billing boundaries (R291) -/

/-- The UTC second at which local time reaches a local second, the first where it comes twice. -/
def Calendar.utcOf (k : Calendar) (l : Int) : Int :=
  let t1 := l - k.stdOfs * 60 - k.dstOfs * 60
  let t2 := l - k.stdOfs * 60
  if k.summer t1 then t1
  else if k.summer t2 then k.dstStart.secsIn (civil ((t2 + k.stdOfs * 60) / 86400)).1 - k.stdOfs * 60
  else t2

/-- The billing boundary of a month counted from year 0. -/
def Calendar.billOf (k : Calendar) (month : Nat) : Int :=
  k.utcOf (dayOf (month / 12) (month % 12 + 1) k.billDay * 86400 + k.billMin * 60)

/-- Billing boundaries after `a` and at or before `b`, in order. -/
def billsIn (k : Option Calendar) (a b : Nat) : List Nat :=
  match k with
  | none => []
  | some k =>
    if k.billDay = 0 then []
    else
      let month (t : Nat) : Nat := let (y, m, _) := civil (k.localSecs t / 86400); y * 12 + m - 1
      let from_ := month a - 1
      ((upFrom from_ (month b + 2 - from_)).map fun n => (k.billOf n).toNat).filter fun t =>
        decide (a < t) && decide (t ≤ b)

/-! ### Calendar bodies (R287, R288) -/

/-- A rule of summer time in a header. -/
def DstRule.ofWord (w : Nat) : DstRule := ⟨fld w 3 0, fld w 6 4, fld w 9 7, fld w 20 10⟩

/-- The calendar that a body spells. -/
def Calendar.ofBytes (b : List Byte) : Calendar :=
  let ns := leAt b 1 1
  let nw := leAt b 2 1
  let nd := leAt b 3 1
  let nx := leAt b 4 1
  let at_ (off i k : Nat) : Nat := leAt b (off + i) k
  let season (i : Nat) : Nat × Nat × Nat := let o := 32 + 8 * i; (at_ o 0 1, at_ o 1 1, at_ o 2 1)
  let week (i : Nat) : List Nat := (List.range 7).map fun d => at_ (32 + 8 * ns + 8 * i) d 1
  let day (i : Nat) : List (Nat × Nat) :=
    let o := 32 + 8 * ns + 8 * nw + 64 * i
    (List.range (at_ o 0 1)).map fun a => (at_ o (1 + 4 * a) 2, at_ o (3 + 4 * a) 1)
  let special (i : Nat) : SpecialDay :=
    let o := 32 + 8 * ns + 8 * nw + 64 * nd + 8 * i
    ⟨at_ o 0 2, at_ o 2 1, at_ o 3 1, at_ o 4 1, bitOf (at_ o 5 1) 0⟩
  { billDay := leAt b 5 1, billMin := leAt b 6 2, stdOfs := sgn 16 (leAt b 8 2), dstOfs := leAt b 10 1,
    dstStart := .ofWord (leAt b 12 4), dstEnd := .ofWord (leAt b 16 4),
    calId := BitVec.ofNat 32 (leAt b 20 4), seasons := (List.range ns).map season,
    weeks := (List.range nw).map week, days := (List.range nd).map day,
    specials := (List.range nx).map special }

/-- Whether each element comes before the next. -/
def ascending : List Nat → Bool
  | a :: b :: t => decide (a < b) && ascending (b :: t)
  | _ => true

/-- A month and day that exist, in a year or (year 0) in some year. -/
def dateValid (y m d : Nat) : Bool :=
  decide (1 ≤ m) && decide (m ≤ 12) && decide (1 ≤ d) && decide (d ≤ monthDays (if y = 0 then 2000 else y) m)

/-- Whether a rule of summer time names a date. -/
def DstRule.valid (r : DstRule) : Bool :=
  decide (1 ≤ r.month) && decide (r.month ≤ 12) && decide (1 ≤ r.week) && decide (r.week ≤ 5) &&
    decide (r.weekday ≤ 6) && decide (r.minute < 1440)

/-- A day profile: 1–15 actions, ascending from minute 0, of tariffs 0–7. -/
def profileValid (p : List (Nat × Nat)) : Bool :=
  decide (1 ≤ p.length) && decide (p.length ≤ 15) && (p.head?.map (·.1)) == some 0 &&
    ascending (p.map (·.1)) && p.all fun a => decide (a.1 < 1440) && decide (a.2 ≤ 7)

/-- The check of a calendar body (R288). -/
def calendarValid (b : List Byte) : Bool :=
  let k := Calendar.ofBytes b
  let ns := k.seasons.length
  let nw := k.weeks.length
  let nd := k.days.length
  let nx := k.specials.length
  leAt b 0 1 == 1 && decide (1 ≤ ns) && decide (ns ≤ 8) && decide (1 ≤ nw) && decide (nw ≤ 8) &&
    decide (1 ≤ nd) && decide (nd ≤ 16) && decide (nx ≤ 64) &&
    decide (32 + 8 * ns + 8 * nw + 64 * nd + 8 * nx ≤ b.length) &&
    decide (k.billDay ≤ 28) && decide (k.billMin < 1440) &&
    (k.dstOfs == 0 || (k.dstStart.valid && k.dstEnd.valid)) &&
    k.seasons.all (fun s => dateValid 0 s.1 s.2.1 && decide (s.2.2 < nw)) &&
    ascending (k.seasons.map fun s => s.1 * 32 + s.2.1) &&
    k.weeks.all (fun w => w.all fun d => decide (d < nd)) && k.days.all profileValid &&
    k.specials.all fun s => dateValid s.year s.month s.day && decide (s.profile < nd)

end Sys2Proof.Machine
end

