-- ==== Sys2Proof/Machine/Legal.lean ====
section
/-!
DEFINITION. The legal engine: metering, demand, measuring intervals, the legal clock, boundaries,
billing, the legal log, the prepayment ledger, power-fail close and start
(09_legal_partition.md R265–R300, R305).
-/
namespace Sys2Proof.Machine

/-! ### The legal log (R298, R299) -/

/-- Entries the log holds when it is full. -/
def logDepth : Nat := 8192

/-- Whether the log is full (LOG_FULL). -/
def Leg.logFull (g : Leg) : Bool := decide (logDepth ≤ g.log.length)

/-- Post a notice for the Seal level to pass on (R266). -/
def Leg.tell (g : Leg) (typ : Nat) (body : List Byte) : Leg := { g with notices := g.notices ++ [(typ, body)] }

/-- The notice of a log that is 90 % full, once (R299). -/
def Leg.tell90 (g : Leg) : Leg :=
  if 7373 ≤ g.log.length then
    if g.told90 then g else { g.tell 0x0801 (leBytes 2 g.log.length) with told90 := true }
  else { g with told90 := false }

/-- Append an entry; the caller has seen that there is room. -/
def Leg.append (g : Leg) (typ src : Nat) (rqid : Word) (old new digest : List Byte) : Leg :=
  let e : LegEntry :=
    { seq := g.logSeq, time := g.secs, typ := typ, src := src,
      flags := b2n g.clkInvalid + 2 * b2n g.tripSeen, rqid := rqid, old := padTo 16 old,
      new := padTo 16 new, digest := padTo 8 digest, swid := g.swid }
  { g with log := g.log ++ [e], logSeq := (g.logSeq + 1) % 2 ^ 32 }.tell90

/-- A class M event: written, or counted as lost while the log is full (R299). -/
def Leg.logM (g : Leg) (typ : Nat) (old new : List Byte) : Leg :=
  if g.logFull then { g with logLost := satInc g.logLost, logLostSince := g.logLostSince + 1 }
  else g.append typ 0 0 old new []

/-- The device's trip seen by the engine: one entry of type 0x05 (12 R378). -/
def Leg.observe (g : Leg) (tripped : Bool) : Leg :=
  if tripped && !g.tripSeen then { g with tripSeen := true }.logM 0x05 [] [] else { g with tripSeen := tripped }

/-- The 64 bytes of an entry (Table 12). -/
def LegEntry.bytes (e : LegEntry) : List Byte :=
  let b := leBytes 4 e.seq ++ leBytes 5 e.time ++ leBytes 1 e.typ ++ leBytes 1 e.src ++ leBytes 1 e.flags ++
    leBytes 4 e.rqid.toNat ++ e.old ++ e.new ++ e.digest ++ leBytes 4 e.swid.toNat
  b ++ leBytes 4 (crc32 b)

/-- MET_FAULT: a fault of the monitor, or a structure of registers not yet restored (R271, R305). -/
def Leg.faulted (g : Leg) : Bool := g.metFault || g.badRegs

/-- A change of what sets MET_FAULT: an entry marks each start and each end of the flag (R271). -/
def Leg.fault (g : Leg) (f : Leg → Leg) : Leg :=
  let h := f g
  if h.faulted = g.faulted then h
  else { h with mi := h.mi.map fun (x : LegMi) => { x with fault := x.fault || h.faulted } }.logM 0x03
    (leBytes 1 (b2n g.faulted)) (leBytes 1 (b2n h.faulted))

/-! ### LEG_MET_CFG and LEG_CLK_CFG (Tables 18, 19) -/

/-- Measuring interval in seconds. -/
def miLen (cfg : Nat) : Nat := [300, 900, 1800, 3600].getD (fld cfg 1 0) 900

/-- Demand period in minutes; 5–7 act as 4. -/
def dperMin (cfg : Nat) : Nat := [5, 10, 15, 30, 60].getD (fld cfg 4 2) 60

/-- Subintervals; 0 acts as 1. -/
def subCount (cfg : Nat) : Nat := max 1 (fld cfg 8 5)

/-- Subinterval in seconds. -/
def subLen (cfg : Nat) : Nat := dperMin cfg / subCount cfg * 60

/-- Whether DPER / SUB is a whole number of minutes (R285). -/
def metCfgValid (cfg : Nat) : Bool := dperMin cfg % subCount cfg == 0

/-- Elements formed, by CONN; 3 acts as 0 (R269). -/
def elements (cfg : Nat) : Nat :=
  match fld cfg 10 9 with
  | 1 => 2
  | 2 => 1
  | _ => 3

/-- ADJ_LIMIT; 0 acts as 1. -/
def Leg.adjLimit (g : Leg) : Nat := max 1 (g.clkCfg.toNat % 256)

/-! ### Registration of energy (R270–R273) -/

/-- Add mW·µs to a register (1 unit is 3,600,000,000 mW·µs). -/
def Energy.add (e : Energy) (n : Nat) : Energy :=
  let t := e.rem + n
  ⟨e.units + BitVec.ofNat 64 (t / 3600000000), t % 3600000000⟩

/-- Add to several registers of the set. -/
def LegRegs.addAt (r : LegRegs) (is : List Nat) (n : Nat) : LegRegs :=
  { r with energy := r.energy.mapIdx fun i e => if is.contains i then e.add n else e }

/-- Add to the open subinterval of a demand accumulator. -/
def LegRegs.addDemand (r : LegRegs) (i n : Nat) : LegRegs :=
  { r with demand := r.demand.mapIdx fun j h => if j = i then (h.headD 0 + n) :: h.drop 1 else h }

/-- Quadrant 1–4 of a second (R270). -/
def quadrant (p q : Int) : Nat :=
  if 0 ≤ p ∧ 0 ≤ q then 1 else if p < 0 ∧ 0 ≤ q then 2 else if p < 0 ∧ q < 0 then 3 else 4

/-- Sum over the elements formed. -/
def elemSum (cfg : Nat) (l : List (BitVec 48)) : Int := (l.take (elements cfg)).foldl (fun a x => a + x.toInt) 0

/-- The channels that the registers of elements 0–3 show: with CONN 1 element 1 is (V2, I2), and the registers of
no element show the channels left over, in ascending order. -/
def channelOf (cfg : Nat) (i : Nat) : Nat :=
  if fld cfg 10 9 = 1 then [0, 2, 1, 3].getD i i else i

/-- What the front end measures is registered: energies by direction, quadrant and tariff unless
below CREEP, and the squared currents always. -/
def Leg.register (g : Leg) (m : LegMeas) (us : Nat) : Leg :=
  let p := elemSum g.metCfg.toNat m.p
  let q := elemSum g.metCfg.toNat m.q
  let t := g.tariff
  let g := { g with
    i2Acc := (List.range 4).map fun i => g.i2Acc.getD i 0 + (m.i2.getD i 0).toNat * us
    ovlCnt := if m.overload then satInc g.ovlCnt else g.ovlCnt
    mi := g.mi.map fun x => { x with overload := x.overload || m.overload } }
  if p.natAbs < fld g.metCfg.toNat 31 16 * 1000 then g
  else
    let e := p.natAbs * us
    let k := quadrant p q - 1
    let d := if 0 ≤ p then 0 else 8
    { g with
      regs := ((g.regs.addAt [d + t, 16 + d / 8] e).addAt [18 + 8 * k + t, 50 + k] (q.natAbs * us)).addDemand (d + t) e
      impAcc := if 0 ≤ p then g.impAcc + e else g.impAcc
      expAcc := if 0 ≤ p then g.expAcc else g.expAcc + e }

/-- Integer square root, by bits from `n` down. -/
def sqrtFrom (x : Nat) : Nat → Nat → Nat
  | 0, r => r
  | n + 1, r => sqrtFrom x n (if (r + 2 ^ n) * (r + 2 ^ n) ≤ x then r + 2 ^ n else r)

/-- The instantaneous values of the last second (Table 20). -/
def instOf (m : LegMeas) (cfg : Nat) : List Word :=
  let w (i : Int) : Word := BitVec.ofInt 32 i
  let on (i : Nat) : Bool := decide (i < elements cfg)
  ((List.range 4).flatMap fun i =>
    [m.v.getD (channelOf cfg i) 0, BitVec.ofNat 32 (sqrtFrom (m.i2.getD (channelOf cfg i) 0).toNat 32 0),
     w (if on i then (m.p.getD i 0).toInt.tdiv 1000 else 0),
     w (if on i then (m.q.getD i 0).toInt.tdiv 1000 else 0)]) ++ [m.freq.setWidth 32]

/-! ### Measuring intervals (R283, R284) -/

/-- Queue a copy; the queue holds 64, and a further one displaces the oldest. -/
def Leg.queueCopy (g : Leg) (x : FeederCopy) : Leg :=
  if 64 ≤ g.copies.length then
    { g with copies := g.copies.drop 1 ++ [x], copyDrop := satInc g.copyDrop }
  else { g with copies := g.copies ++ [x] }

/-- Close the open interval or part; a copy is queued with COPY_EN, a front end and DUR above 0. -/
def Leg.miClose (g : Leg) (fused : Bool) (t : Nat) (split pfail : Bool) : Leg :=
  match g.mi with
  | none => g
  | some x =>
    let part := x.part || split || pfail
    let dur := if part then t - x.since else miLen g.metCfg.toNat
    let g := { g with mi := none }
    if t - x.since = 0 then g
    else
      let copy : FeederCopy :=
        { opened := x.since, closed := t, dur := dur % 65536,
          flags := b2n (x.split || split) + 2 * b2n pfail + 4 * b2n x.restore + 8 * b2n x.overload +
            16 * b2n (x.fault || g.faulted) + 32 * b2n g.clkInvalid
          imp := g.impAcc / 360000000000 % 2 ^ 32, exp := g.expAcc / 360000000000 % 2 ^ 32,
          i2h := g.i2Acc.map fun a => a / 3600000000000000 % 2 ^ 32 }
      let g := { g with
        impAcc := g.impAcc % 360000000000, expAcc := g.expAcc % 360000000000,
        i2Acc := g.i2Acc.map fun a => a % 3600000000000000 }
      if bitOf g.ctrl.toNat 1 && !fused then g.queueCopy copy else g

/-- Open an interval or part. -/
def Leg.miOpen (g : Leg) (t : Nat) (part split restore : Bool) : Leg :=
  { g with mi := some ⟨t, part, split, restore, false, g.faulted⟩, adjSum := 0 }

/-! ### Demand (R282, R285) -/

/-- Demand in watts of the last subintervals, over the nominal period. -/
def Leg.demandOf (g : Leg) (i : Nat) : Nat :=
  let cfg := g.metCfg.toNat
  let e := ((g.regs.demand.getD i []).take (subCount cfg)).foldl (· + ·) 0
  e / 3600000000 * 3600 / (dperMin cfg * 60) / 1000

/-- Compare one demand of the tariff in force with its maximum. -/
def Leg.demandStore (g : Leg) (b i : Nat) : Leg :=
  let d := g.demandOf i
  if ((g.regs.maxDem.getD i (0, 0)).1).toNat < d then
    { g with regs := { g.regs with
        maxDem := g.regs.maxDem.set i (BitVec.ofNat 32 d, BitVec.ofNat 40 b) } }
  else g

/-- The window moves on by a subinterval. -/
def Leg.demandShift (g : Leg) : Leg :=
  { g with regs := { g.regs with
      demand := g.regs.demand.map fun h => 0 :: h.take (subCount g.metCfg.toNat) } }

/-- Close of a subinterval at `b`. -/
def Leg.demandClose (g : Leg) (b : Nat) : Leg :=
  ((g.demandStore b g.tariff).demandStore b (8 + g.tariff)).demandShift

/-- The accumulators' history is dropped: missing subintervals count as zero. -/
def Leg.demandClear (g : Leg) : Leg :=
  { g with regs := { g.regs with demand := List.replicate 16 [0] } }

/-! ### Billing (R291) -/

/-- Close of a billing period: a snapshot, then every maximum demand to 0. -/
def Leg.billClose (g : Leg) (t reason : Nat) : Leg :=
  let n := (g.snapNo + 1) % 2 ^ 32
  let id := match g.active with
    | some k => k.calId
    | none => 0
  { g with
    snapNo := n
    snaps := (n % 15, ⟨n, t, reason, id, g.clkInvalid, g.regs⟩) :: g.snaps.filter (·.1 != n % 15)
    regs := { g.regs with maxDem := List.replicate 16 (0, 0) } }

/-! ### Boundaries (R276–R279) -/

/-- Rows 1–3 of Table 4 at `b`, none of them at or before BMARK. `skipped` is a time after which a
subinterval is skipped whole and gives no value (R277). -/
def Leg.rows (g : Leg) (fused : Bool) (b skipped : Nat) : Leg :=
  if b ≤ g.bmark then g
  else
    let cfg := g.metCfg.toNat
    let mi := b % miLen cfg == 0
    let dem := b % subLen cfg == 0
    let bill := !(billsIn g.active (b - 1) b).isEmpty
    let g := if mi && g.mi.isSome then (g.miClose fused b false false).miOpen b false false false else g
    let g := if dem then (if skipped + subLen cfg ≤ b then g.demandShift else g.demandClose b) else g
    let g := if bill then g.billClose b 0 else g
    if mi || dem || bill then { g with bmark := b } else g

/-- BMARK moves on over the boundaries of intervals after `a` and at or before `b` (R276, R277). -/
def Leg.markTo (g : Leg) (a b : Nat) : Leg :=
  let cfg := g.metCfg.toNat
  let m := max (b / miLen cfg * miLen cfg) (b / subLen cfg * subLen cfg)
  if a < m then { g with bmark := max g.bmark m } else g

/-- Closes by request, in row 3 after a scheduled one (R291). -/
def Leg.billRequested (g : Leg) (t : Nat) : Leg :=
  { (List.range g.billReqs).foldl (fun g _ => g.billClose t 1) g with billReqs := 0 }

/-- The tariff of a legal time: the forced one under an override (R289, Table 8). -/
def Leg.tariffAt (g : Leg) (t : Nat) : Nat :=
  match g.override with
  | some (k, _) => k
  | none => tariffOf g.active t

/-- A passive calendar that falls due becomes active, once its entry can be logged (R290, R298). -/
def Leg.activate (g : Leg) (t : Nat) : Leg :=
  match g.passive, g.activateAt with
  | some k, some a =>
    if a ≤ t ∧ !g.logFull then
      { g with active := some k, passive := none, activateAt := none }.append 0x15 0 0
        (leBytes 4 ((g.active.map fun (x : Calendar) => x.calId.toNat).getD 0)) (leBytes 4 k.calId.toNat) []
    else g
  | _, _ => g

/-- The start, cancellation or end of an override (R290). -/
def Leg.overrideRow (g : Leg) (t : Nat) : Leg :=
  let g := match g.overrideReq with
    | some (o, _, _) => { g with override := o, overrideReq := none }
    | none => g
  match g.override with
  | some (k, e) =>
    if e ≤ t ∧ !g.logFull then { g with override := none }.append 0x16 0 0 (leBytes 1 k ++ leBytes 5 e) [] [] else g
  | none => g

/-- Row 4: activation, override, evaluation of the tariff. -/
def Leg.row4 (g : Leg) (t : Nat) : Leg :=
  let due := t % 60 == 0 || !g.adjusts.isEmpty || g.overrideReq.isSome
  let h := (g.activate t).overrideRow t
  if due || h.override != g.override || h.active != g.active then { h with tariff := h.tariffAt t } else h

/-- The time an adjustment makes of `t`. -/
def movedBy (t : Nat) (d : Int) : Nat := ((t : Int) + d).toNat % 2 ^ 40

/-- Apply one adjustment to the edge time `t`: a large one splits the open intervals and is
logged; a forward one processes what it skips and is not behind BMARK; CLK_INVALID clears (R274–R278). -/
def Leg.adjustOne (g : Leg) (fused : Bool) (t : Nat) (a : Adjust) : Leg × Nat :=
  let n := movedBy t a.delta
  if a.large && g.logFull then (g, t)
  else
    let g := if a.large then g.append 0x10 1 a.rqid (leBytes 5 t) (leBytes 5 n) a.digest
      else { g with adjSmall := satInc g.adjSmall, adjSum := g.adjSum + a.delta.natAbs }
    let g := if a.large then
        let open_ := g.mi.isSome
        let g := ((g.miClose fused t true false).demandStore t g.tariff).demandStore t (8 + g.tariff) |>.demandClear
        let g := if open_ then g.miOpen n true true false else g
        (((billsIn g.active t n).filter fun b => decide (g.bmark < b)).foldl (fun g b => { g.billClose b 0 with bmark := max g.bmark b }) g).markTo t n
      else ((upFrom (t / 60 + 1) (n / 60 - t / 60)).map (60 * ·)).foldl (fun g b => g.rows fused b t) g
    ({ g with clkInvalid := false, secs := n }, n)

/-- Row 5: the adjustments due, and the tariff of the new time. -/
def Leg.row5 (g : Leg) (fused : Bool) (t : Nat) : Leg × Nat :=
  match g.adjusts with
  | [] => (g, t)
  | l =>
    let r := l.foldl (fun (r : Leg × Nat) a => r.1.adjustOne fused r.2 a) ({ g with adjusts := [] }, t)
    ({ r.1 with tariff := r.1.tariffAt r.2 }, r.2)

/-- Every register and the second committed (R272). -/
def Leg.commit (g : Leg) : Leg := { g with kept := g.regs, keptSecs := g.secs }

/-- Boundaries missed in DORMANT or OFF, in time order and each stamped with its own time; at most
the latest 15 billing closes, marked CATCHUP (R281). The demand windows run out after their own
length, so that later subintervals change nothing. -/
def Leg.catchUp (g : Leg) (t : Nat) : Leg :=
  let step := subLen g.metCfg.toNat
  let first := max (g.edge / step + 1) (g.bmark / step + 1)
  let subs := ((upFrom first ((t - 1) / step + 1 - first)).take 16).map fun k => (k * step, false)
  let bills := (billsIn g.active g.edge (t - 1)).filter fun b => decide (g.bmark < b)
  let bills := (bills.drop (bills.length - 15)).map fun b => (b, true)
  let due := subs.merge bills fun x y => decide (x.1 ≤ y.1)
  (due.foldl (fun (g : Leg) x =>
    let g := if x.2 then g.billClose x.1 2 else g.demandClose x.1
    { g with bmark := max g.bmark x.1 }) g).markTo g.edge (t - 1)

/-- Whether energy is registered: MET_EN, a front end, no fault, no power-fail close, and not
RETIRED (R271, R281, 12 R365). -/
def Leg.metering (g : Leg) (fused retired : Bool) : Bool :=
  bitOf g.ctrl.toNat 0 && !fused && !g.faulted && !g.pfail && g.down.isNone && !retired

/-- What the engine sees of the device at an edge. -/
structure LegEnv where
  power : Power
  tripped : Bool
  fused : Bool
  retired : Bool
  deriving DecidableEq, Repr

/-- Power-up at the first edge after the RUN notice: its entry, and what was missed (R281). -/
def Leg.powerUp (g : Leg) (t : Nat) : Leg :=
  match g.down with
  | none => g
  | some d => (g.logM 0x02 (leBytes 5 d) (leBytes 5 t)).catchUp t

/-- Whether an edge did boundary processing: a row of Table 4 or the return of power changed something (R272). -/
def Leg.acted (g h : Leg) : Bool :=
  g.bmark != h.bmark || g.snapNo != h.snapNo || g.tariff != h.tariff || g.active != h.active || g.override != h.override ||
    g.adjusts != h.adjusts || g.down != h.down

/-- An edge at `t` with VDD_CORE up: the second is registered, then rows 1–5. -/
def Leg.edgeUp (g : Leg) (env : LegEnv) (m : LegMeas) (t : Nat) : Leg :=
  let on := g.metering env.fused env.retired
  let g := if on then { g.register m 1000000 with inst := instOf m g.metCfg.toNat } else g
  let before := g
  let up := env.power != .ride
  let g := if m.restored then g.fault fun g => { g with badRegs := false } else g
  let g := if up then g.powerUp t else g
  let g := (g.rows env.fused t t).billRequested t
  let g := if up then
      let restore := g.down.isSome
      let g := { g with down := none, pfail := false }
      if g.mi.isNone then g.miOpen t (restore || t % miLen g.metCfg.toNat != 0) false restore else g
    else g
  let g := g.row4 t
  let (g, n) := g.row5 env.fused t
  let g := { g with secs := n, edge := n }
  if before.acted g then g.commit else g

/-- LEGAL_SECOND_EDGE (R279): entries made at the edge carry its time; in DORMANT the clock counts and the trip is
seen; in OFF nothing runs. -/
def Leg.secondEdge (g : Leg) (env : LegEnv) (m : LegMeas) : Leg :=
  let t := (g.secs + 1) % 2 ^ 40
  let h := { g with frac := 0, secs := t }.observe env.tripped
  match env.power with
  | .off => g
  | .dormant => h
  | _ => h.edgeUp env m t

/-- POWER_FAIL_CLOSE (R281). -/
def Leg.powerFail (g : Leg) (env : LegEnv) (m : LegMeas) (us : Nat) : Leg :=
  if g.pfail then g
  else
    let g := if g.metering env.fused env.retired then g.register m us else g
    let g := g.miClose env.fused (g.secs + 1) false true
    { g with pfail := true, down := some g.secs, pfCnt := satInc g.pfCnt }.commit.logM 0x01 [] (leBytes 5 g.secs)

/-- VDD_SEAL is lost: what was not committed is gone, and the registers that are not stored come
up at their reset values (R272, R274, 14 R426). -/
def Leg.lost (g : Leg) : Leg :=
  { g with
    regs := g.kept, secs := g.keptSecs, frac := 0, clkInvalid := true, adjusts := [], adjSum := 0,
    edge := g.keptSecs, impAcc := 0, expAcc := 0, i2Acc := [0, 0, 0, 0], mi := none, copies := [],
    overrideReq := none, billReqs := 0, metFault := false, pfail := false, down := some g.keptSecs, notices := [],
    reply := [], ctrl := 0, metCfg := 0x29, metPending := none, clkCfg := 15, err := 0, adjSmall := 0,
    cmd := 0, cmdAddr := 0, cmdStatus := 0, keys := 0, copyDrop := 0, logLost := 0, ovlCnt := 0,
    sweepMax := 0, inst := List.replicate 17 0 }

/-! ### Prepayment ledger (R292–R297) -/

/-- An account. -/
def Leg.account (g : Leg) (a : Nat) : Account := Tab.get (fun _ => Account.zero) g.accounts a

/-- Give an account a value. -/
def Leg.setAccount (g : Leg) (a : Nat) (x : Account) : Leg :=
  { g with accounts := Tab.put (fun _ => Account.zero) g.accounts a x }

/-- The 64 bytes of an account (Table 10). -/
def Account.bytes (x : Account) : List Byte :=
  let b := leBytes 4 (x.handle.toNat + 2 ^ 31 * b2n x.valid) ++ leBytes 1 x.state ++ leBytes 1 x.plan.toNat ++
    leBytes 1 x.friendly.toNat ++ leBytes 1 (b2n x.ecAuto + 2 * b2n x.ecActive) ++ leBytes 8 x.credit.toNat ++
    leBytes 8 x.ecLimit.toNat ++ leBytes 8 x.lowTh.toNat ++ leBytes 4 x.lastEnd.toNat ++
    leBytes 4 x.topupSeq.toNat ++ leBytes 4 x.dayCharged.toNat ++ leBytes 5 x.noticeT.toNat ++ List.replicate 11 0
  b ++ leBytes 4 (crc32 b)

/-- A credit as the account holds it; a sum outside the format is not fixed by the manual. -/
def narrowCredit (i : Int) : BitVec 64 :=
  if -(2 ^ 63) ≤ i ∧ i < 2 ^ 63 then BitVec.ofInt 64 i else Config.creditBeyond i

/-- The state R294 gives, with EC_ACTIVE as it then stands. -/
def Account.nextState (x : Account) : Nat × Bool :=
  let c := x.credit.toInt
  if x.lowTh.toInt < c then (0, false)
  else if 0 < c then (1, x.ecActive)
  else if -(x.ecLimit.toNat : Int) < c ∧ (x.ecActive || x.ecAuto) then (2, true)
  else if x.state = 4 then (4, x.ecActive)
  else (3, x.ecActive)

/-- Body of an account notice (11 Table 8). -/
def accountBody (a : Nat) (x : Account) : List Byte :=
  leBytes 2 a ++ leBytes 2 0 ++ leBytes 4 x.handle.toNat ++ leBytes 8 x.credit.toNat

/-- Set an account's state, with its notices; a reconnect notice sets NOTICE_T (R294, Table 10). -/
def Leg.settleAccount (g : Leg) (a : Nat) : Leg :=
  let x := g.account a
  let (st, ec) := x.nextState
  let back := x.state = 4 ∧ st ≠ 4
  let y := { x with state := st, ecActive := ec, noticeT := if back then BitVec.ofNat 40 g.secs else x.noticeT }
  let g := g.setAccount a y
  let g := if x.state < st ∧ st ≤ 3 then g.tell (0x0801 + st) (accountBody a y) else g
  if back then g.tell 0x0806 (accountBody a y) else g

/-- Whether a local day and minute are friendly for an account (R296, Table 11). -/
def Leg.isFriendly (g : Leg) (x : Account) (day : Int) (minute : Nat) : Bool :=
  if x.friendly = 0xFF then false
  else
    let f := Tab.get (fun _ => List.replicate 32 (0 : Byte)) g.friendly (x.friendly.toNat % 16)
    let start (d : Int) : Nat := leAt f (4 * weekdayOf d) 2
    let stop (d : Int) : Nat := leAt f (4 * weekdayOf d + 2) 2
    let today := if start day < stop day then decide (start day ≤ minute) && decide (minute < stop day)
      else decide (stop day < start day) && decide (start day ≤ minute)
    let past := decide (stop (day - 1) < start (day - 1)) && decide (minute < stop (day - 1))
    let special := bitOf (leAt f 28 1) 0 && (match g.active with | some k => k.friendlyDay day | none => false)
    today || past || special

/-- One visit of the sweep (R296). -/
def Leg.visit (g : Leg) (a : Nat) : Leg :=
  let x := g.account a
  let (day, minute) := localTime g.active g.secs
  let days := day.toNat - x.dayCharged.toNat
  let plan := Tab.get (fun _ => List.replicate 48 (0 : Byte)) g.plans x.plan.toNat
  let x := if days = 0 then x else { x with
    credit := narrowCredit (x.credit.toInt - (days * leAt plan 32 4 : Nat))
    dayCharged := BitVec.ofNat 32 day.toNat }
  let g := (g.setAccount a x).settleAccount a
  let x := g.account a
  if x.state = 3 ∧ !g.isFriendly x day minute then
    let x := { x with state := 4, noticeT := BitVec.ofNat 40 g.secs }
    (g.setAccount a x).tell 0x0805 (accountBody a x)
  else g

/-- PREPAYMENT_SWEEP: every valid account in ascending order. -/
def Leg.sweep (g : Leg) (us : Nat) : Leg :=
  let g := ((g.accounts.filter fun e => e.2.valid && e.2.good).map (·.1)).foldl Leg.visit g
  { g with sweepMax := max g.sweepMax us }

/-! ### Faults, configuration and start -/

/-- MET_FAULT_START and MET_FAULT_END: the monitor's fault begins or ends (R271). A structure that is not restored
keeps MET_FAULT set (R305). -/
def Leg.setFault (g : Leg) (on : Bool) : Leg := g.fault fun g => { g with metFault := on }

/-- MET_CONFIG_APPLY: a pending LEG_MET_CFG takes effect at a whole UTC hour (R286); a change of
the demand periods starts them anew. -/
def Leg.configApply (g : Leg) : Leg :=
  match g.metPending with
  | some v =>
    if g.secs % 3600 = 0 then
      let g' := { g with metCfg := v, metPending := none }
      if fld v.toNat 8 2 = fld g.metCfg.toNat 8 2 then g' else g'.demandClear
    else g
  | none => g

/-- LEGAL_ENGINE_START: the storage is read and checked, and the start-up entry written; a structure of legal
registers that fails its CRC sets MET_FAULT until it is restored (R305). -/
def Leg.start (g : Leg) (regsGood : Bool) (bad : List (BitVec 14)) : Leg :=
  let g := g.logM 0x04 [] (leBytes 4 g.swid.toNat)
  let g := g.fault fun g => { g with badRegs := !regsGood }
  bad.foldl (fun g a => (g.setAccount a.toNat { g.account a.toNat with good := false }).logM 0x06 []
    (leBytes 2 a.toNat)) g

/-! ### Meanings of the engine's own events -/

/-- What the engine does, its notices passed on by the Seal level (R266). -/
def State.legalGive (s : State) (g : Leg) : Chip × Leg :=
  let c := g.notices.foldl (fun c n => c.notice n.1 n.2) s.chip
  (c.when (g.err != s.leg.err) fun c => c.irq 152, { g with notices := [] })

/-- Run the engine, the trip observed first. -/
def State.legalRun (s : State) (f : Leg → Leg) : Chip × Leg := s.legalGive (f (s.leg.observe s.lc.tripped))

/-- Answer with the engine run. -/
def State.legal (s : State) (f : Leg → Leg) : Host.Outcome State Fault Refusal :=
  s.onLegal fun s => s.legalRun f

/-- What the engine sees of the device. -/
def State.legEnv (s : State) : LegEnv := ⟨s.chip.crp.power, s.lc.tripped, s.chip.fuses.headEnd, s.lc.state == .retired⟩

/-- LEGAL_SECOND_EDGE (R279). -/
def execLegalSecondEdge (m : LegMeas) (s : State) : Host.Outcome State Fault Refusal :=
  s.onLegal fun s => s.legalGive (s.leg.secondEdge s.legEnv m)

/-- LEGAL_REGISTER_COMMIT (R272). -/
def execLegalRegisterCommit (s : State) : Host.Outcome State Fault Refusal := s.legal Leg.commit

/-- PREPAYMENT_SWEEP (R296). -/
def execPrepaymentSweep (us : BitVec 32) (s : State) : Host.Outcome State Fault Refusal :=
  s.legal fun g => g.sweep us.toNat

/-- POWER_FAIL_CLOSE (R281). -/
def execPowerFailClose (m : LegMeas) (us : BitVec 20) (s : State) : Host.Outcome State Fault Refusal :=
  s.legal fun g => g.powerFail s.legEnv m us.toNat

/-- MET_FAULT_START (R271). -/
def execMetFaultStart (s : State) : Host.Outcome State Fault Refusal := s.legal fun g => g.setFault true

/-- MET_FAULT_END (R271). -/
def execMetFaultEnd (s : State) : Host.Outcome State Fault Refusal := s.legal fun g => g.setFault false

/-- MET_CONFIG_APPLY (R286). -/
def execMetConfigApply (s : State) : Host.Outcome State Fault Refusal := s.legal Leg.configApply

end Sys2Proof.Machine
end

