-- ==== Sys2Proof/Machine/LegalReq.lean ====
section
/-!
DEFINITION. Legal requests: bodies, tags, results and replies, the clock, calendar, billing,
configuration, archive and ledger requests (09_legal_partition.md R275, R286–R304).
-/
namespace Sys2Proof.Machine

/-! ### Bodies, replies and tags (R301) -/

/-- Classes of requests (Table 14). -/
inductive ReqKind where
  | read
  | param
  | clock
  | vending
  | ledger
  deriving DecidableEq, Repr

/-- Whether a request ends with a TAG (R301). -/
def ReqKind.tagged (k : ReqKind) : Bool :=
  match k with
  | .param | .clock | .vending => true
  | .read | .ledger => false

/-- What an operation gets beside its arguments: RQID and the digest for the log. -/
structure ReqInfo where
  rqid : Word
  digest : List Byte

/-- How an operation ends: RESULT, the engine, the reply's data. -/
structure ReqOut where
  result : Nat
  leg : Leg
  data : List Byte

/-- A request of Table 14: its code, class and operation. -/
structure LegalOp where
  code : Nat
  kind : ReqKind
  run : Leg → Bool → ReqInfo → List Byte → ReqOut

/-- A request that ends with a result and changes nothing. -/
def Leg.ends (g : Leg) (result : Nat) : ReqOut := ⟨result, g, []⟩

/-- A request that is done. -/
def Leg.done (g : Leg) : ReqOut := ⟨0, g, []⟩

/-- A request body: header, arguments and TAG. -/
def legalBody (code : Nat) (rqid : Word) (args tag : List Byte) : List Byte :=
  leBytes 1 code ++ [0] ++ leBytes 2 (8 + args.length + tag.length) ++ leBytes 4 rqid.toNat ++ args ++ tag

/-- A reply body. -/
def legalReply (code result : Nat) (rqid : Word) (data : List Byte) : List Byte :=
  leBytes 1 code ++ leBytes 1 result ++ leBytes 2 (8 + data.length) ++ leBytes 4 rqid.toNat ++ data

/-- Whether the TAG of a body verifies under the key of a slot, which must hold a LEVEL 2 AES key
that may verify (R301). -/
def Chip.legalTagOk (c : Chip) (slot : Nat) (body : List Byte) : Bool :=
  let a := c.attr slot
  let n := body.length - 8
  attrValid a && attrLevel a == 2 && attrIn a && (attrAlg a == 1 || attrAlg a == 2) && c.ciu.masks != [] &&
    (cmac (c.keyBytes slot (if attrAlg a = 2 then 32 else 16)) (body.take n)).take 8 == body.drop n

/-- The slot whose key signs a class of request (LEG_KEYS). -/
def Leg.tagSlot (g : Leg) (k : ReqKind) : Nat :=
  match k with
  | .vending => fld g.keys.toNat 30 16
  | _ => fld g.keys.toNat 14 0

/-! ### Reads -/

/-- The register sets of Table 3 as bytes; a demand accumulator shows the energy of its open subinterval in mWh. -/
def LegRegs.bytes (r : LegRegs) : List Byte :=
  r.energy.flatMap (fun e => leBytes 8 e.units.toNat) ++
    r.maxDem.flatMap (fun d => leBytes 4 d.1.toNat ++ leBytes 5 d.2.toNat) ++
    r.demand.flatMap fun h => leBytes 8 (h.headD 0 / 3600000000)

/-- READ_REGS. -/
def reqReadRegs (g : Leg) (_ : Bool) (_ : ReqInfo) (_ : List Byte) : ReqOut :=
  ⟨0, g, leBytes 5 g.secs ++ g.regs.bytes⟩

/-- READ_SNAP: the snapshot while it is held (R291). -/
def reqReadSnap (g : Leg) (_ : Bool) (_ : ReqInfo) (args : List Byte) : ReqOut :=
  match g.snaps.find? fun x => x.2.num == leAt args 0 4 with
  | none => g.ends 3
  | some (_, x) =>
    ⟨0, g, leBytes 4 x.num ++ leBytes 5 x.closed ++ leBytes 1 x.reason ++ leBytes 4 x.calId.toNat ++
      leBytes 1 (b2n x.clkInvalid) ++ x.regs.bytes⟩

/-- LOG_READ: entries from a SEQ on, which RDMARK follows (R300). -/
def reqLogRead (g : Leg) (_ : Bool) (_ : ReqInfo) (args : List Byte) : ReqOut :=
  let n := leAt args 4 1
  if n = 0 ∨ 32 < n then g.ends 3
  else
    let es := (g.log.filter fun e => decide (leAt args 0 4 ≤ e.seq)).take n
    ⟨0, { g with logMark := es.foldl (fun m e => max m e.seq) g.logMark }, es.flatMap LegEntry.bytes⟩

/-- READ_ACCOUNT (R292). -/
def reqReadAccount (g : Leg) (_ : Bool) (_ : ReqInfo) (args : List Byte) : ReqOut :=
  let a := leAt args 0 2
  let x := g.account a
  if 16384 ≤ a then g.ends 3 else if x.valid && x.good then ⟨0, g, x.bytes⟩ else g.ends 6

/-- READ_CLOCK (R276). -/
def reqReadClock (g : Leg) (_ : Bool) (_ : ReqInfo) (_ : List Byte) : ReqOut :=
  ⟨0, g, leBytes 5 g.secs ++ leBytes 5 g.bmark ++ leBytes 1 (b2n g.clkInvalid)⟩

/-! ### The clock (R275, R303) -/

/-- |Δ| of the small adjustments made or waiting since the open interval began. -/
def Leg.smallSum (g : Leg) : Nat :=
  g.adjSum + ((g.adjusts.filter fun a => !a.large).map fun a => a.delta.natAbs).foldl (· + ·) 0

/-- Whether an adjustment is large (R275). -/
def Leg.isLarge (g : Leg) (d : Int) : Bool :=
  let t := g.secs + 1
  decide (g.adjLimit < d.natAbs) || decide (g.adjLimit < d.natAbs + g.smallSum) ||
    (decide (d < 0) && !(billsIn g.active (movedBy t d) t).isEmpty)

/-- Take an adjustment; it is due at the next edge. A large one is refused while the log is full
(R299, R303) and in RETIRED. -/
def Leg.adjust (g : Leg) (retired : Bool) (i : ReqInfo) (d : Int) : ReqOut :=
  let t := (g.secs + 1 : Int) + d
  if t < 0 ∨ 2 ^ 40 ≤ t then g.ends 3
  else
    let large := g.isLarge d
    if large && retired then g.ends 4
    else if large && g.logFull then g.ends 2
    else
      let a : Adjust := ⟨d, large, i.rqid, i.digest⟩
      { g with adjusts := g.adjusts ++ [a] }.done

/-- SET_CLOCK: Δ is the new time less the next edge's old time; it replaces what waits. -/
def reqSetClock (g : Leg) (retired : Bool) (i : ReqInfo) (args : List Byte) : ReqOut :=
  let r := { g with adjusts := [] }.adjust retired i ((leAt args 0 5 : Int) - (g.secs + 1))
  if r.result = 0 then r else g.ends r.result

/-- ADJ_CLOCK. -/
def reqAdjClock (g : Leg) (retired : Bool) (i : ReqInfo) (args : List Byte) : ReqOut :=
  g.adjust retired i (sgn 32 (leAt args 0 4))

/-! ### Parameters -/

/-- Log a class P event of a request and go on. -/
def Leg.logged (g : Leg) (typ : Nat) (i : ReqInfo) (old new : List Byte) : Leg :=
  g.append typ 1 i.rqid old new i.digest

/-- CAL_LOAD (R287, R288). -/
def reqCalLoad (g : Leg) (_ : Bool) (i : ReqInfo) (args : List Byte) : ReqOut :=
  if calendarValid args then
    let k := Calendar.ofBytes args
    ({ g with passive := some k, activateAt := none }.logged 0x14 i [] (leBytes 4 k.calId.toNat)).done
  else g.ends 3

/-- CAL_ACTIVATE: the activation time of the passive calendar (R290). -/
def reqCalActivate (g : Leg) (_ : Bool) (_ : ReqInfo) (args : List Byte) : ReqOut :=
  if g.passive.isSome then { g with activateAt := some (leAt args 0 5) }.done else g.ends 4

/-- OVERRIDE or its cancellation, due at the next edge (R290). Arguments: CANCEL, tariff, end. -/
def reqOverride (g : Leg) (_ : Bool) (i : ReqInfo) (args : List Byte) : ReqOut :=
  if leAt args 0 1 != 0 then
    if g.override.isSome || (g.overrideReq.map (·.1.isSome)) == some true then
      ({ g with overrideReq := some (none, i.rqid, i.digest) }.logged 0x16 i [] []).done
    else g.ends 4
  else if 7 < leAt args 1 1 then g.ends 3
  else
    let o := (leAt args 1 1, leAt args 2 5)
    ({ g with overrideReq := some (some o, i.rqid, i.digest) }.logged 0x16 i [] (leBytes 1 o.1 ++ leBytes 5 o.2)).done

/-- BILL_CLOSE, taken in row 3 of the next edge (R291). -/
def reqBillClose (g : Leg) (_ : Bool) (i : ReqInfo) (_ : List Byte) : ReqOut :=
  ({ g with billReqs := g.billReqs + 1 }.logged 0x17 i [] []).done

/-- Bits of LEG_MET_CFG that exist. -/
def metMask (v : Nat) : Word := BitVec.ofNat 32 (fld v 31 16 * 65536 + fld v 10 0)

/-- MET_CONFIG, pending to the next whole hour (R286). -/
def reqMetConfig (g : Leg) (_ : Bool) (i : ReqInfo) (args : List Byte) : ReqOut :=
  let v := leAt args 0 4
  if metCfgValid v then
    ({ g with metPending := some (metMask v) }.logged 0x12 i (leBytes 4 g.metCfg.toNat) (leBytes 4 v)).done
  else g.ends 3

/-- CALIBRATE, while MET_CALEN_N is low (R302). -/
def reqCalibrate (g : Leg) (_ : Bool) (i : ReqInfo) (args : List Byte) : ReqOut :=
  if g.calenLow then ({ g with calib := args }.logged 0x11 i [] []).done else g.ends 4

/-- PRICE_PLAN: plan number and record (R292). -/
def reqPricePlan (g : Leg) (_ : Bool) (i : ReqInfo) (args : List Byte) : ReqOut :=
  let p := leAt args 0 1
  if 64 ≤ p then g.ends 3
  else
    let plans := Tab.put (fun _ => List.replicate 48 0) g.plans p (slice args 1 48)
    ({ g with plans := plans }.logged 0x18 i [] (leBytes 1 p)).done

/-- FRIENDLY_CAL: calendar number and record (R292). -/
def reqFriendlyCal (g : Leg) (_ : Bool) (i : ReqInfo) (args : List Byte) : ReqOut :=
  let f := leAt args 0 1
  if 16 ≤ f then g.ends 3
  else
    let cals := Tab.put (fun _ => List.replicate 32 0) g.friendly f (slice args 1 32)
    ({ g with friendly := cals }.logged 0x19 i [] (leBytes 1 f)).done

/-- LOG_ARCHIVE: entries up to a SEQ leave, none above RDMARK; the events lost are told of once
there is room for that entry and the archive's own (R299, R300). -/
def reqLogArchive (g : Leg) (_ : Bool) (i : ReqInfo) (args : List Byte) : ReqOut :=
  let upTo := min (leAt args 0 4) g.logMark
  let h := { g with log := g.log.filter fun e => decide (upTo < e.seq) }
  if h.logFull then g.ends 2
  else
    let h := if h.logLostSince = 0 ∨ logDepth ≤ h.log.length + 1 then h
      else { h with logLostSince := 0 }.logM 0x07 [] (leBytes 4 h.logLostSince)
    (h.logged 0x1A i [] (leBytes 4 upTo)).done

/-! ### Ledger (R293–R297) -/

/-- An operation on an account that is there; 0x06 otherwise (R292). -/
def Leg.onAccount (g : Leg) (args : List Byte) (f : Nat → Account → ReqOut) : ReqOut :=
  let a := leAt args 0 2
  let x := g.account a
  if 16384 ≤ a then g.ends 3 else if x.valid && x.good then f a x else g.ends 6

/-- The settings of ACC_CREATE and ACC_SET, from offset `o` of the arguments. -/
def Account.settings (x : Account) (args : List Byte) (o : Nat) : Account :=
  { x with
    plan := BitVec.ofNat 6 (leAt args o 1), friendly := BitVec.ofNat 8 (leAt args (o + 1) 1)
    ecAuto := bitOf (leAt args (o + 2) 1) 0, ecActive := bitOf (leAt args (o + 2) 1) 1
    ecLimit := BitVec.ofNat 64 (leAt args (o + 3) 8), lowTh := BitVec.ofNat 64 (leAt args (o + 11) 8) }

/-- ACC_CREATE: a zeroed account with the given settings. -/
def reqAccCreate (g : Leg) (_ : Bool) (_ : ReqInfo) (args : List Byte) : ReqOut :=
  let a := leAt args 0 2
  if 16384 ≤ a then g.ends 3
  else if !(g.account a).good then g.ends 6
  else (g.setAccount a ({ Account.zero with
    valid := true, handle := BitVec.ofNat 20 (leAt args 2 4) }.settings args 6)).done

/-- ACC_DELETE, refused while CREDIT < 0. -/
def reqAccDelete (g : Leg) (_ : Bool) (_ : ReqInfo) (args : List Byte) : ReqOut :=
  g.onAccount args fun a x =>
    if x.credit.toInt < 0 then g.ends 4 else (g.setAccount a { x with valid := false }).done

/-- TOPUP: slot, amount, sequence (R295). -/
def reqTopup (g : Leg) (_ : Bool) (_ : ReqInfo) (args : List Byte) : ReqOut :=
  g.onAccount args fun a x =>
    let n := leAt args 10 4
    if n ≤ x.topupSeq.toNat then g.ends 5
    else ((g.setAccount a { x with
      credit := narrowCredit (x.credit.toInt + leAt args 2 8), topupSeq := BitVec.ofNat 32 n }).settleAccount a).done

/-- EC_ON, only in LOW or EXHAUSTED (R295). It changes no CREDIT, so the state follows at the next visit of the sweep
(R294). -/
def reqEcOn (g : Leg) (_ : Bool) (_ : ReqInfo) (args : List Byte) : ReqOut :=
  g.onAccount args fun a x =>
    if x.state = 1 ∨ x.state = 3 then (g.setAccount a { x with ecActive := true }).done
    else g.ends 4

/-- CHARGE: slot, E, length, e (R293). -/
def reqCharge (g : Leg) (_ : Bool) (_ : ReqInfo) (args : List Byte) : ReqOut :=
  g.onAccount args fun a x =>
    let e := leAt args 2 4
    if e ≤ x.lastEnd.toNat then g.ends 5
    else
      let t := tariffOf g.active (((e : Int) - leAt args 6 2) * 60)
      let plan := Tab.get (fun _ => List.replicate 48 (0 : Byte)) g.plans x.plan.toNat
      let cost := (leAt args 8 4 * leAt plan (4 * t) 4 + 5000) / 10000
      ((g.setAccount a { x with
        credit := narrowCredit (x.credit.toInt - cost), lastEnd := BitVec.ofNat 32 e }).settleAccount a).done

/-- ACC_SET. -/
def reqAccSet (g : Leg) (_ : Bool) (_ : ReqInfo) (args : List Byte) : ReqOut :=
  g.onAccount args fun a x => (g.setAccount a (x.settings args 2)).done

/-! ### The command register path (R301, R304) -/

/-- The requests of Table 14. -/
def legalOps : List LegalOp :=
  [⟨0x01, .read, reqReadRegs⟩, ⟨0x02, .read, reqReadSnap⟩, ⟨0x03, .read, reqLogRead⟩,
   ⟨0x04, .read, reqReadAccount⟩, ⟨0x05, .read, reqReadClock⟩, ⟨0x10, .clock, reqSetClock⟩,
   ⟨0x11, .clock, reqAdjClock⟩, ⟨0x12, .param, reqCalLoad⟩, ⟨0x13, .param, reqCalActivate⟩,
   ⟨0x14, .param, reqOverride⟩, ⟨0x15, .param, reqBillClose⟩, ⟨0x16, .param, reqMetConfig⟩,
   ⟨0x17, .param, reqCalibrate⟩, ⟨0x18, .param, reqPricePlan⟩, ⟨0x19, .param, reqFriendlyCal⟩,
   ⟨0x1A, .param, reqLogArchive⟩, ⟨0x20, .ledger, reqAccCreate⟩, ⟨0x21, .ledger, reqAccDelete⟩,
   ⟨0x22, .vending, reqTopup⟩, ⟨0x23, .vending, reqEcOn⟩, ⟨0x24, .ledger, reqCharge⟩,
   ⟨0x25, .ledger, reqAccSet⟩]

/-- Whether the engine takes a command: not while LEG_CTRL.HALT_CMD is set, nor while kindling holds the Guard core (12
R366), nor after OPEN has cut the Guard core's path (12 R384, R385). -/
def State.legalServed (s : State) (g : Leg) : Bool :=
  !bitOf g.ctrl.toNat 2 && !s.chip.grd.pathCut && !s.chip.grd.coreHeld && !s.chip.kindling s.lc

/-- What stops a request before its own checks: its TAG, RETIRED and a full log for class P (but
for LOG_ARCHIVE), the front end for CALIBRATE; 0 when nothing does. -/
def State.legalGate (s : State) (g : Leg) (op : LegalOp) (body : List Byte) : Nat :=
  if op.kind.tagged && !s.chip.legalTagOk (g.tagSlot op.kind) body then 1
  else if op.kind = .param ∧ s.lc.state = LcState.retired then 4
  else if op.kind = .param ∧ g.logFull ∧ op.code ≠ 0x1A then 2
  else if op.code = 0x17 ∧ s.chip.fuses.headEnd then 7
  else 0

/-- Serve a request body with its operation: the reply, and the command registers (R301). -/
def State.serveLegal (s : State) (op : LegalOp) (body : List Byte) (g : Leg) : Leg :=
  if !s.legalServed g then { g with cmd := BitVec.ofNat 32 (2 ^ 31 + op.code) }
  else
    let n := leAt body 2 2
    let rqid := BitVec.ofNat 32 (leAt body 4 4)
    let args := (body.take (if op.kind.tagged then n - 8 else n)).drop 8
    let r := match s.legalGate g op body with
      | 0 => op.run g (s.lc.state == LcState.retired) ⟨rqid, (sha256 body).take 8⟩ args
      | e => g.ends e
    { r.leg with
      cmd := BitVec.ofNat 32 op.code, cmdStatus := BitVec.ofNat 32 r.result
      reply := legalReply op.code r.result rqid r.data }

/-- A request row: its body is built from the arguments and served. -/
def State.legalRow (s : State) (op : LegalOp) (rqid : Word) (args : List Byte) (tag : BitVec 64) :
    Host.Outcome State Fault Refusal :=
  s.legal fun g => s.serveLegal op
    (legalBody op.code rqid args (if op.kind.tagged then leBytes 8 tag.toNat else [])) g

/-! ### Meanings -/

/-- READ_REGS, request 0x01 (R301). -/
def execReadRegs (rqid : Word) (s : State) :
    Host.Outcome State Fault Refusal :=
  s.legalRow ⟨0x01, .read, reqReadRegs⟩ rqid [] 0

/-- READ_SNAP, request 0x02 (R291). -/
def execReadSnap (rqid : Word) (num : BitVec 32) (s : State) :
    Host.Outcome State Fault Refusal :=
  s.legalRow ⟨0x02, .read, reqReadSnap⟩ rqid (leBytes 4 num.toNat) 0

/-- LOG_READ, request 0x03 (R300). -/
def execLogRead (rqid : Word) (first : BitVec 32) (count : Byte) (s : State) :
    Host.Outcome State Fault Refusal :=
  s.legalRow ⟨0x03, .read, reqLogRead⟩ rqid (leBytes 4 first.toNat ++ [count]) 0

/-- READ_ACCOUNT, request 0x04 (R292). -/
def execReadAccount (rqid : Word) (slot : BitVec 16) (s : State) :
    Host.Outcome State Fault Refusal :=
  s.legalRow ⟨0x04, .read, reqReadAccount⟩ rqid (leBytes 2 slot.toNat) 0

/-- READ_CLOCK, request 0x05 (R276). -/
def execReadClock (rqid : Word) (s : State) :
    Host.Outcome State Fault Refusal :=
  s.legalRow ⟨0x05, .read, reqReadClock⟩ rqid [] 0

/-- SET_CLOCK, request 0x10 (R275). -/
def execSetClock (rqid : Word) (time : BitVec 40) (tag : BitVec 64) (s : State) :
    Host.Outcome State Fault Refusal :=
  s.legalRow ⟨0x10, .clock, reqSetClock⟩ rqid (leBytes 5 time.toNat) tag

/-- ADJ_CLOCK, request 0x11 (R275). -/
def execAdjClock (rqid : Word) (delta : BitVec 32) (tag : BitVec 64) (s : State) :
    Host.Outcome State Fault Refusal :=
  s.legalRow ⟨0x11, .clock, reqAdjClock⟩ rqid (leBytes 4 delta.toNat) tag

/-- CAL_LOAD, request 0x12 (R288). -/
def execCalLoad (rqid : Word) (body : List Byte) (tag : BitVec 64) (s : State) :
    Host.Outcome State Fault Refusal :=
  s.legalRow ⟨0x12, .param, reqCalLoad⟩ rqid body tag

/-- CAL_ACTIVATE, request 0x13 (R290). -/
def execCalActivate (rqid : Word) (time : BitVec 40) (tag : BitVec 64) (s : State) :
    Host.Outcome State Fault Refusal :=
  s.legalRow ⟨0x13, .param, reqCalActivate⟩ rqid (leBytes 5 time.toNat) tag

/-- OVERRIDE, request 0x14 (R290). -/
def execOverride (rqid : Word) (cancel : Bool) (tariff : Byte) (endTime : BitVec 40) (tag : BitVec 64) (s : State) :
    Host.Outcome State Fault Refusal :=
  s.legalRow ⟨0x14, .param, reqOverride⟩ rqid (leBytes 1 (b2n cancel) ++ [tariff] ++ leBytes 5 endTime.toNat) tag

/-- BILL_CLOSE, request 0x15 (R291). -/
def execBillClose (rqid : Word) (tag : BitVec 64) (s : State) :
    Host.Outcome State Fault Refusal :=
  s.legalRow ⟨0x15, .param, reqBillClose⟩ rqid [] tag

/-- MET_CONFIG, request 0x16 (R286). -/
def execMetConfig (rqid : Word) (v : Word) (tag : BitVec 64) (s : State) :
    Host.Outcome State Fault Refusal :=
  s.legalRow ⟨0x16, .param, reqMetConfig⟩ rqid (leBytes 4 v.toNat) tag

/-- CALIBRATE (R302): the level of MET_CALEN_N is taken when the engine begins the command. -/
def execCalibrate (rqid : Word) (data : List Byte) (calenLow : Bool) (tag : BitVec 64) (s : State) :
    Host.Outcome State Fault Refusal :=
  let op : LegalOp := ⟨0x17, .param, reqCalibrate⟩
  s.legal fun g => s.serveLegal op (legalBody op.code rqid data (leBytes 8 tag.toNat))
    { g with calenLow := calenLow }

/-- PRICE_PLAN, request 0x18 (R292). -/
def execPricePlan (rqid : Word) (num : Byte) (body : List Byte) (tag : BitVec 64) (s : State) :
    Host.Outcome State Fault Refusal :=
  s.legalRow ⟨0x18, .param, reqPricePlan⟩ rqid ([num] ++ body) tag

/-- FRIENDLY_CAL, request 0x19 (R292). -/
def execFriendlyCal (rqid : Word) (num : Byte) (body : List Byte) (tag : BitVec 64) (s : State) :
    Host.Outcome State Fault Refusal :=
  s.legalRow ⟨0x19, .param, reqFriendlyCal⟩ rqid ([num] ++ body) tag

/-- LOG_ARCHIVE, request 0x1A (R300). -/
def execLogArchive (rqid : Word) (seq : BitVec 32) (tag : BitVec 64) (s : State) :
    Host.Outcome State Fault Refusal :=
  s.legalRow ⟨0x1A, .param, reqLogArchive⟩ rqid (leBytes 4 seq.toNat) tag

/-- ACC_CREATE, request 0x20 (R297). -/
def execAccCreate (rqid : Word) (slot : BitVec 16) (handle : BitVec 20) (plan : Byte) (friendly : Byte) (flags : Byte) (ecLimit : BitVec 64) (lowTh : BitVec 64) (s : State) :
    Host.Outcome State Fault Refusal :=
  s.legalRow ⟨0x20, .ledger, reqAccCreate⟩ rqid (leBytes 2 slot.toNat ++ leBytes 4 handle.toNat ++ [plan, friendly, flags] ++
    leBytes 8 ecLimit.toNat ++ leBytes 8 lowTh.toNat) 0

/-- ACC_DELETE, request 0x21 (R297). -/
def execAccDelete (rqid : Word) (slot : BitVec 16) (s : State) :
    Host.Outcome State Fault Refusal :=
  s.legalRow ⟨0x21, .ledger, reqAccDelete⟩ rqid (leBytes 2 slot.toNat) 0

/-- TOPUP, request 0x22 (R295). -/
def execTopup (rqid : Word) (slot : BitVec 16) (amount : BitVec 64) (seq : BitVec 32) (tag : BitVec 64) (s : State) :
    Host.Outcome State Fault Refusal :=
  s.legalRow ⟨0x22, .vending, reqTopup⟩ rqid (leBytes 2 slot.toNat ++ leBytes 8 amount.toNat ++ leBytes 4 seq.toNat) tag

/-- EC_ON, request 0x23 (R295). -/
def execEcOn (rqid : Word) (slot : BitVec 16) (tag : BitVec 64) (s : State) :
    Host.Outcome State Fault Refusal :=
  s.legalRow ⟨0x23, .vending, reqEcOn⟩ rqid (leBytes 2 slot.toNat) tag

/-- CHARGE, request 0x24 (R293). -/
def execCharge (rqid : Word) (slot : BitVec 16) (endMin : BitVec 32) (length : BitVec 16) (energy : BitVec 32) (s : State) :
    Host.Outcome State Fault Refusal :=
  s.legalRow ⟨0x24, .ledger, reqCharge⟩ rqid (leBytes 2 slot.toNat ++ leBytes 4 endMin.toNat ++
    leBytes 2 length.toNat ++ leBytes 4 energy.toNat) 0

/-- ACC_SET, request 0x25 (R297). -/
def execAccSet (rqid : Word) (slot : BitVec 16) (plan : Byte) (friendly : Byte) (flags : Byte) (ecLimit : BitVec 64) (lowTh : BitVec 64) (s : State) :
    Host.Outcome State Fault Refusal :=
  s.legalRow ⟨0x25, .ledger, reqAccSet⟩ rqid (leBytes 2 slot.toNat ++ [plan, friendly, flags] ++
    leBytes 8 ecLimit.toNat ++ leBytes 8 lowTh.toNat) 0

/-- LEG_MET_CFG_WRITE: pending, or ignored with CFG_INVALID. -/
def Leg.metCfgWrite (v : Word) (g : Leg) : Leg :=
  if metCfgValid v.toNat then
    { g with metPending := some (metMask v.toNat) }.append 0x12 2 0 (leBytes 4 g.metCfg.toNat)
      (leBytes 4 v.toNat) []
  else { g with err := g.err ||| 2 }

/-- LEG_CLK_CFG_WRITE. -/
def Leg.clkCfgWrite (v : Word) (g : Leg) : Leg :=
  { g with clkCfg := v &&& 0xFF }.append 0x13 2 0 (leBytes 4 g.clkCfg.toNat) (leBytes 4 v.toNat) []

/-- A Seal-level write of a class P register: below Seal it is refused, while the log is full
LEG_ERR.LOG_REFUSED is set (R286, R299, R306). -/
def State.legPut (s : State) (who : Who) (reg : Nat) (f : Leg → Leg) : Chip × Leg :=
  if who.level = .seal then
    s.legalRun fun g => if g.logFull then { g with err := g.err ||| 1 } else f g
  else (s.chip.noteRefusal who.num who.level.code true (0xF0000000 + reg), s.leg)

/-- Answer with a class P register written. -/
def State.legWrite (s : State) (who : Who) (reg : Nat) (f : Leg → Leg) : Host.Outcome State Fault Refusal :=
  s.onLegal fun s => s.legPut who reg f

/-- LEG_MET_CFG_WRITE (R286): pending, or ignored with CFG_INVALID. -/
def execLegMetCfgWrite (v : Word) (who : Who) (s : State) : Host.Outcome State Fault Refusal :=
  s.legWrite who Reg.LEG_MET_CFG (Leg.metCfgWrite v)

/-- LEG_CLK_CFG_WRITE (R275). -/
def execLegClkCfgWrite (v : Word) (who : Who) (s : State) : Host.Outcome State Fault Refusal :=
  s.legWrite who Reg.LEG_CLK_CFG (Leg.clkCfgWrite v)

end Sys2Proof.Machine
end

