-- ==== Sys2Proof/Machine/Ring.lean ====
section
/-!
DEFINITION. The Ring Interface: PCIe resets, doorbells, descriptors, completions, notices,
interrupts, IOMMU invalidation; and the Application Cluster: interrupt controller, DDR4 controller,
core release (11_host_rings_and_cluster.md).
-/
namespace Sys2Proof.Machine

/-- Change the Ring Interface. -/
def Chip.onRing (c : Chip) (f : Ring → Ring) : Chip := { c with ring := f c.ring }

/-- Indices of an event ring. -/
def Chip.evt (c : Chip) (e : Nat) : EvtRing := Tab.get (fun _ => EvtRing.initial) c.ring.evts e

/-- Give an event ring its indices. -/
def Chip.setEvt (c : Chip) (e : Nat) (x : EvtRing) : Chip :=
  c.onRing fun r => { r with evts := Tab.put (fun _ => EvtRing.initial) r.evts e x }

/-- Whether a pair's LEVEL is Host (R338). -/
def Chip.pairHost (c : Chip) (p : Nat) : Bool := !c.bit (Reg.RING_RP_BIND p) 4

/-- The IOMMU domain of a pair. -/
def Chip.pairDomain (c : Chip) (p : Nat) : Nat := c.fl (Reg.RING_RP_BIND p) 19 16

/-- The service of a pair (Table 2). -/
def Chip.service (c : Chip) (p : Nat) : Nat := c.fl (Reg.RING_RP_BIND p) 2 0

/-- Whether RING works: enabled, clocked and not gated. -/
def Chip.ringUp (c : Chip) : Bool := c.bit Reg.RING_CTRL 0 && !c.gated 0 && c.domainUp 3

/-- A base of two registers, bits [31:10] and [47:32]. -/
def Chip.ringBase (c : Chip) (lo hi : Nat) : Nat := c.fl lo 31 10 * 1024 + c.fl hi 15 0 * 2 ^ 32

/-! ### Interrupts (R349, R357) -/

/-- Signal a vector: the cluster source with MODE 1; else its message, or its pending bit while it
is masked, and nothing with MSI-X disabled. A message that cannot leave the endpoint is lost, as any write to host
memory is (01 R19). -/
def Chip.signal (c : Chip) (v : Nat) : Chip :=
  if c.bit Reg.RING_CTRL 1 then c.irq v
  else if !c.ring.setup.msix then c
  else if c.bit (Reg.MSIX_WORD v 3) 0 then c.setBit (Reg.MSIX_PEND (v / 32)) (v % 32) true
  else if !c.hostUp then c
  else c.onRing fun r => { r with sent := v :: r.sent }

/-- MSIX_VECTOR_UNMASK: the mask clears; a pending vector sends (R349). -/
def Chip.vectorUnmask (c : Chip) (v : Nat) : Chip :=
  let c := c.setBit (Reg.MSIX_WORD v 3) 0 false
  if c.bit (Reg.MSIX_PEND (v / 32)) (v % 32) then
    (c.setBit (Reg.MSIX_PEND (v / 32)) (v % 32) false).signal v
  else c

/-- One more entry of a completion ring is unsignalled; at CNT of them the vector is signalled. -/
def Chip.countCq (c : Chip) (p : Nat) : Chip :=
  let x := c.rpair p
  let cfg := Reg.RING_RP_CQ_CFG p
  if max 1 (c.fl cfg 23 16) ≤ x.unsig + 1 then (c.setRpair p { x with unsig := 0 }).signal (c.fl cfg 30 24)
  else c.setRpair p { x with unsig := x.unsig + 1 }

/-- The same for an event ring. -/
def Chip.countEvt (c : Chip) (e : Nat) : Chip :=
  let x := c.evt e
  let cfg := Reg.RING_EVT_CFG e
  if max 1 (c.fl cfg 15 8) ≤ x.unsig + 1 then (c.setEvt e { x with unsig := 0 }).signal (c.fl cfg 22 16)
  else c.setEvt e { x with unsig := x.unsig + 1 }

/-- INTERRUPT_TIMEOUT: TMO µs after the oldest unsignalled entry. -/
def Chip.interruptTimeout (c : Chip) (r : RingSel) : Chip :=
  match r with
  | .sq _ => c
  | .cq p =>
    let x := c.rpair p.val
    if 0 < x.unsig ∧ c.fl (Reg.RING_RP_CQ_TMO p.val) 15 0 ≠ 0 then
      (c.setRpair p.val { x with unsig := 0 }).signal (c.fl (Reg.RING_RP_CQ_CFG p.val) 30 24)
    else c
  | .evt e =>
    let x := c.evt e.val
    if 0 < x.unsig ∧ c.fl (Reg.RING_EVT_TMO e.val) 15 0 ≠ 0 then
      (c.setEvt e.val { x with unsig := 0 }).signal (c.fl (Reg.RING_EVT_CFG e.val) 22 16)
    else c

/-! ### PCIe link and resets (R336, R337) -/

/-- Host-level pairs and event rings lose their ENABLE. -/
def Chip.dropHostRings (c : Chip) : Chip :=
  let c := (List.range 64).foldl (fun c p => c.when (c.pairHost p) fun c =>
    (c.setBit (Reg.RING_RP_SQ_CFG p) 31 false).setBit (Reg.RING_RP_CQ_CFG p) 31 false) c
  (List.range 8).foldl (fun c e => c.when (!c.bit (Reg.RING_EVT_CFG e) 30) fun c =>
    c.setBit (Reg.RING_EVT_CFG e) 31 false) c

/-- Every MSI-X vector is masked, the pending-bit array cleared, every cached translation dropped. -/
def Chip.maskVectors (c : Chip) : Chip :=
  let c := (List.range 128).foldl (fun c v => c.setBit (Reg.MSIX_WORD v 3) 0 true) c
  let c := (List.range 4).foldl (fun c i => c.wr (Reg.MSIX_PEND i) 0) c
  c.onRing fun r => { r with cache := [] }

/-- PCIE_RESET: the effects of R337; the link is lost with all but a function level reset and D3hot. Transfers to host
memory end under R19 until the host has enabled the function again (log entry 103). -/
def Chip.pcieReset (c : Chip) (cause : PcieReset) : Chip :=
  let c := c.dropHostRings.maskVectors
  let off (c : Chip) : Chip := c.onRing fun r => { r with setup := { r.setup with command := r.setup.command &&& ~~~6 } }
  match cause with
  | .functionLevel => off c
  | .d3hot => c.onRing fun r => { r with d3hot := true }
  | .hotReset | .linkDown | .perst =>
    ((off c).setBit Reg.RING_STATUS 2 false).setFl Reg.RING_STATUS 9 4 0

/-- Lanes of a width. -/
def lanesOf (w : LinkWidth) : Nat :=
  match w with
  | .x1 => 1
  | .x2 => 2
  | .x4 => 4

/-- PCIE_LINK_UP: not in standalone use (R350); the first training after a reset latches the subsystem IDs (R336),
and the host programs configuration space. Speed 0–3 stands for 2.5, 5.0, 8.0 and 16.0 GT/s, shown as 1–4. -/
def Chip.linkUp (c : Chip) (speed : Nat) (width : LinkWidth) (setup : PciSetup) : Chip :=
  if c.bit Reg.RING_CTRL 1 then c
  else
    let c := ((c.setBit Reg.RING_STATUS 2 true).setFl Reg.RING_STATUS 6 4 (speed + 1)).setFl Reg.RING_STATUS 9 7 (lanesOf width)
    c.onRing fun r => { r with
      setup := setup, d3hot := false, linkTrained := true
      subsys := if r.linkTrained then r.subsys else c.rdW Reg.RING_PCI_SUBSYS }

/-! ### Rings: enabling and doorbells (R348, R361) -/

/-- The register that holds a ring's ENABLE. -/
def ringCfg (r : RingSel) : Nat :=
  match r with
  | .sq p => Reg.RING_RP_SQ_CFG p.val
  | .cq p => Reg.RING_RP_CQ_CFG p.val
  | .evt e => Reg.RING_EVT_CFG e.val

/-- RING_ENABLE: ENABLE is set and the indices restart at 0, PHASE at 1; a pair of service 0
cannot be enabled (Table 2). -/
def Chip.ringEnable (c : Chip) (r : RingSel) : Chip :=
  match r with
  | .sq p =>
    if c.service p.val = 0 then c.cfgErr 0
    else (c.setBit (Reg.RING_RP_SQ_CFG p.val) 31 true).setRpair p.val { c.rpair p.val with sqPi := 0, sqCi := 0 }
  | .cq p =>
    if c.service p.val = 0 then c.cfgErr 0
    else (c.setBit (Reg.RING_RP_CQ_CFG p.val) 31 true).setRpair p.val
      { c.rpair p.val with cqPi := 0, cqCi := 0, phase := true, unsig := 0 }
  | .evt e =>
    (c.setBit (Reg.RING_EVT_CFG e.val) 31 true).setEvt e.val
      { c.evt e.val with pi := 0, ci := 0, phase := true, unsig := 0 }

/-- Address of a register of a doorbell page (01 Table 4). -/
def doorbellAddr (page off : Nat) : Nat := 0xF1000000 + page * 0x1000 + off

/-- An index written to a ring of a size that is enabled or not: DB_ERR, or `f`. -/
def Chip.doorbellIndex (c : Chip) (enabled : Bool) (size v : Nat) (f : Chip → Chip) : Chip :=
  if !enabled || decide (size ≤ v % 1024) then c.raise Reg.RING_STATUS 1 else f c

/-- A word written to a doorbell page (Table 9). -/
def Chip.doorbellPut (c : Chip) (page off v : Nat) : Chip :=
  if page < 64 then
    let sq := Reg.RING_RP_SQ_CFG page
    let cq := Reg.RING_RP_CQ_CFG page
    match off with
    | 0 => c.doorbellIndex (c.bit sq 31) (ringSize (c.fl sq 3 0)) v fun c =>
        c.setRpair page { c.rpair page with sqPi := v % 1024 }
    | 4 => c.doorbellIndex (c.bit cq 31) (ringSize (c.fl cq 3 0)) v fun c =>
        c.setRpair page { c.rpair page with cqCi := v % 1024 }
    | _ => c
  else
    let e := page - 64
    let cfg := Reg.RING_EVT_CFG e
    match off with
    | 4 => c.doorbellIndex (c.bit cfg 31) (ringSize (c.fl cfg 3 0)) v fun c =>
        c.setEvt e { c.evt e with ci := v % 1024 }
    | _ => c

/-- DOORBELL_WRITE: judged by the plan, lost in a block that is gated, then by Table 9. -/
def Chip.doorbellWrite (c : Chip) (page off v : Nat) (who : Who) : Chip :=
  let addr := doorbellAddr page off
  if !c.planAllows who.num (who.level == .host) true addr 4 && who.level != .seal then
    c.noteRefusal who.num who.level.code true addr
  else if !c.powered 12 then c
  else if c.gated 0 then c.noteGatedAt 5 0 who.num addr true
  else c.doorbellPut page off v

/-! ### Descriptors (R340–R343) -/

/-- RING completes a descriptor itself (R343). -/
def Chip.refuseDesc (c : Chip) (p : Nat) (tag : Nat) (status : Nat) : Chip :=
  (c.bump Reg.RING_DESC_BAD).complete ⟨p, BitVec.ofNat 32 tag, 0x7F, BitVec.ofNat 8 status, List.replicate 56 0, true, 0⟩

/-- Whether bytes `off … off+n-1` of a descriptor are 0. -/
def zeroAt (d : List Byte) (off n : Nat) : Bool := (slice d off n).all (· == 0)

/-- ARCHIVE among the Clamp's namespaces (08 Table 3). -/
def nsArchive : Nat := 0

/-- Whether a descriptor's fields keep to Tables 3 and 4. -/
def descValid (service : Nat) (d : List Byte) : Bool :=
  decide (leAt d 5 1 < 8) && zeroAt d 6 2 &&
  match service with
  | 1 | 7 => zeroAt d 15 1 && zeroAt d 26 6 && decide (leAt d 24 2 ≤ 960)
  | 2 => zeroAt d 4 1 && zeroAt d 40 24 && !bitOf (leAt d 10 1) 0 && leAt d 8 1 == 1 && leAt d 9 1 == nsArchive
  | 3 => zeroAt d 4 1 && zeroAt d 40 24 && !bitOf (leAt d 10 1) 0
  | 4 => zeroAt d 4 1 && !bitOf (leAt d 9 1) 2
  | 5 => zeroAt d 4 1 && zeroAt d 18 2 && zeroAt d 30 34 && decide (8 ≤ leAt d 16 2) && decide (leAt d 16 2 ≤ 4096)
  | _ => false

/-- Entries of the Clamp's queue 2, which bound RING's image of it. -/
def Chip.clmDepth (c : Chip) : Nat := ringSize (c.fl (Reg.CLM_QCFG 2) 3 0)

/-- Whether a pair's target can take a descriptor now (R341). -/
def Chip.targetReady (c : Chip) (p : Nat) : Bool :=
  match c.service p with
  | 1 | 7 => decide (0 < c.poolAvail .ring) && (c.portGated 5 || c.allocRoom 4)
  | 2 | 3 => decide (c.ring.clm.length < c.clmDepth)
  | 4 => decide (c.ring.cry.length < c.queueSize 7)
  | _ => true

/-- Whether a descriptor of a pair may be fetched. -/
def Chip.fetchable (c : Chip) (p : Nat) : Bool :=
  c.bit (Reg.RING_RP_SQ_CFG p) 31 && (c.rpair p).sqCi != (c.rpair p).sqPi && c.targetReady p

/-- A read at a pair's LEVEL and through its domain (R338). -/
def Chip.pairRead (c : Chip) (p addr len : Nat) : Access × List Byte × Chip :=
  c.ringRead 4 (c.pairDomain p) (c.pairHost p) 8 addr len

/-- A write at a pair's LEVEL and through its domain. -/
def Chip.pairWrite (c : Chip) (p addr : Nat) (bs : List Byte) : Access × Chip :=
  c.ringWrite 4 (c.pairDomain p) (c.pairHost p) 8 addr bs

/-- An MTR or SYS descriptor: a slot, the payload, a DESC allocation operand (R341). The slot is written at Platform
level under the plan (01 R26); one that cannot be written refuses the descriptor. Posted to a gated Flow Scheduler the
operand is lost (14 R417). -/
def Chip.toScheduler (c : Chip) (p index : Nat) (d : List Byte) : Chip :=
  match c.poolFind .ring 1 with
  | none => c
  | some slot =>
    match c.pairRead p (leAt d 16 8) (leAt d 24 2) with
    | (.ok, payload, c) =>
      match c.dmaWrite 4 false (slotAddr slot) (d ++ payload) with
      | (.ok, c) =>
      let flags := leAt d 5 1
      let a : AllocOp :=
        { cls := BitVec.ofNat 6 (c.fl (Reg.RING_RP_BIND p) 13 8), src := 4, hvalid := bitOf flags 0,
          fmtv := bitOf flags 2, cordv := bitOf flags 1, kind := 2, smn := BitVec.ofNat 32 (leAt d 8 4),
          cord := BitVec.ofNat 12 (leAt d 12 2), buf := BitVec.ofNat 11 slot,
          fmt := BitVec.ofNat 8 (leAt d 14 1), arg := BitVec.ofNat 16 (p + index * 64) }
      let c := c.poolTake .ring slot 1
      if c.portGated 5 then c.postLost 4 else c.allocPost a
      | (_, c) => c.refuseDesc p (leAt d 0 4) 5
    | (_, _, c) => c.refuseDesc p (leAt d 0 4) 5

/-- A valid descriptor goes to its service (Table 2). -/
def Chip.serveDesc (c : Chip) (p index : Nat) (d : List Byte) : Chip :=
  let tag := BitVec.ofNat 32 (leAt d 0 4)
  match c.service p with
  | 1 | 7 => c.toScheduler p index d
  | 2 | 3 => c.onRing fun r => { r with clm := r.clm ++ [⟨p, tag, slice d 8 32⟩] }
  | 4 => c.onRing fun r => { r with cry := r.cry ++ [⟨p, tag, slice d 8 56⟩] }
  | 5 => c.onRing fun r => { r with
      lgl := r.lgl ++ [⟨p, tag, BitVec.ofNat 64 (leAt d 8 8), leAt d 16 2, BitVec.ofNat 64 (leAt d 20 8), leAt d 28 2⟩] }
  | _ => c

/-- DESCRIPTOR_FETCH: one descriptor, of the next pair in round robin that may be served. -/
def Chip.descriptorFetch (c : Chip) : Chip :=
  if !c.ringUp || c.bit Reg.RING_CTRL 2 || !c.working then c
  else match ((List.range 64).map fun i => (c.ring.fetchTurn + 1 + i) % 64).find? c.fetchable with
  | none => c
  | some p =>
    let x := c.rpair p
    let base := c.ringBase (Reg.RING_RP_SQ_BASE_LO p) (Reg.RING_RP_SQ_BASE_HI p)
    match c.pairRead p (base + 64 * x.sqCi) 64 with
    | (how, d, c) =>
      let c := ((c.onRing fun r => { r with fetchTurn := p }).setRpair p
        { x with sqCi := (x.sqCi + 1) % ringSize (c.fl (Reg.RING_RP_SQ_CFG p) 3 0) }).bump (Reg.RING_RP_FETCH p)
      if how ≠ .ok then c.refuseDesc p 0 5
      else if descValid (c.service p) d then c.serveDesc p x.sqCi d
      else c.refuseDesc p (leAt d 0 4) 4

/-! ### Completions (R344) -/

/-- Whether one more entry would fill a completion ring. -/
def Chip.cqRingFull (c : Chip) (p : Nat) : Bool :=
  let x := c.rpair p
  (x.cqPi + 1) % ringSize (c.fl (Reg.RING_RP_CQ_CFG p) 3 0) == x.cqCi

/-- Write one 64-byte entry to a completion ring and move its producer index; an entry that its
target refuses is discarded. -/
def Chip.cqWrite (c : Chip) (p : Nat) (b : List Byte) : Chip :=
  let x := c.rpair p
  let base := c.ringBase (Reg.RING_RP_CQ_BASE_LO p) (Reg.RING_RP_CQ_BASE_HI p)
  match c.pairWrite p (base + 64 * x.cqPi) b with
  | (.ok, c) =>
    let i := (x.cqPi + 1) % ringSize (c.fl (Reg.RING_RP_CQ_CFG p) 3 0)
    ((c.setRpair p { x with cqPi := i, phase := if i = 0 then !x.phase else x.phase }).bump (Reg.RING_RP_CPL p)).countCq p
  | (_, c) => c.bump Reg.RING_CPL_DISCARD

/-- The 64 bytes of a completion (Table 5). -/
def Chip.cplBytes (c : Chip) (k : Cpl) : List Byte :=
  let x := c.rpair k.pair
  leBytes 4 k.tag.toNat ++ [k.kind, k.status] ++
    leBytes 2 ((if k.desc then x.sqCi else 0x7FF) + 2 ^ 15 * b2n x.phase) ++ padTo 56 k.body

/-- Whether a completion may leave now: its ring disabled or with room, or the outputs gated; in
PRIMARY with SYNC_CPL it waits until ACK covers its order record (15 R448). -/
def Chip.cplMayGo (c : Chip) (k : Cpl) : Bool :=
  (c.outputsGated || !c.bit (Reg.RING_RP_CQ_CFG k.pair) 31 || !c.cqRingFull k.pair) &&
  !(c.pairState == 1 && c.bit Reg.BKB_PAIR_CFG 28 && c.pair.streaming && decide (c.pair.acked < k.order))

/-- The oldest completion that may leave; those of one ring leave in order. -/
def Chip.nextCpl (c : Chip) : Option Cpl :=
  c.ring.cpls.find? fun k => c.cplMayGo k && c.ring.cpls.find? (fun j => j.pair == k.pair) == some k

/-- COMPLETION_WRITE: the oldest completion that may go; those of a disabled ring (R337) and of a
chip whose outputs are gated (15 R447) are discarded. -/
def Chip.completionWrite (c : Chip) : Chip :=
  if !c.ringUp then c
  else match c.nextCpl with
  | none => c
  | some k =>
    let c := c.onRing fun r => { r with cpls := r.cpls.erase k }
    if c.bit (Reg.RING_RP_CQ_CFG k.pair) 31 && !c.outputsGated then c.cqWrite k.pair (c.cplBytes k) else c.bump Reg.RING_CPL_DISCARD

/-! ### Notices (R347) -/

/-- Whether an event ring is full. -/
def Chip.evtFull (c : Chip) (e : Nat) : Bool :=
  let x := c.evt e
  (x.pi + 1) % ringSize (c.fl (Reg.RING_EVT_CFG e) 3 0) == x.ci

/-- Write a notice to an event ring. -/
def Chip.evtWrite (c : Chip) (e : Nat) (n : Notice) : Chip :=
  let x := c.evt e
  let cfg := Reg.RING_EVT_CFG e
  let base := c.ringBase (Reg.RING_EVT_BASE_LO e) (Reg.RING_EVT_BASE_HI e)
  let b := leBytes 2 n.typ ++ [0] ++ leBytes 1 (128 * b2n x.phase) ++ leBytes 4 x.nseq.toNat ++
    leBytes 8 n.time.toNat ++ padTo 48 n.body
  match c.ringWrite 4 (c.fl cfg 26 23) (!c.bit cfg 30) 8 (base + 64 * x.pi) b with
  | (.ok, c) =>
    let i := (x.pi + 1) % ringSize (c.fl cfg 3 0)
    (c.setEvt e { x with pi := i, phase := if i = 0 then !x.phase else x.phase, nseq := x.nseq + 1 }).countEvt e
  | (_, c) => c.bump Reg.RING_CPL_DISCARD

/-- The event ring a source block is routed to, if its route is enabled. -/
def Chip.routeOf (c : Chip) (block : Nat) : Option Nat :=
  let r := if block < 8 then fld (c.rd Reg.RING_EVT_ROUTE_LO) (4 * block + 3) (4 * block)
    else fld (c.rd Reg.RING_EVT_ROUTE_HI) (4 * (block - 8) + 3) (4 * (block - 8))
  if bitOf r 3 then some (r % 8) else none

/-- A notice the chip cannot keep: counted, and for its ring told of later. -/
def Chip.noticeLost (c : Chip) (e : Option Nat) : Chip :=
  let c := c.bump Reg.RING_EVT_LOST
  match e with
  | some e => c.setEvt e { c.evt e with lost := (c.evt e).lost + 1 }
  | none => c

/-- Route the notice posted first (R347). -/
def Chip.noticeRoute (c : Chip) (n : Notice) : Chip :=
  match c.routeOf (n.typ / 256) with
  | none => c.noticeLost none
  | some e =>
    if !c.bit (Reg.RING_EVT_CFG e) 31 then c.bump Reg.RING_CPL_DISCARD
    else if c.evtFull e || c.ring.queued.any fun q => q.1 == e then
      if c.ring.queued.length < 256 then c.onRing fun r => { r with queued := r.queued ++ [(e, n)] }
      else c.noticeLost (some e)
    else c.evtWrite e n

/-- NOTICE_WRITE: a queued notice whose ring has room, then the tale of lost ones, then the next
posted. With the outputs gated notices are discarded (15 R447). -/
def Chip.noticeWrite (c : Chip) : Chip :=
  if !c.ringUp then c
  else if c.outputsGated then
    match c.ring.posted with
    | [] => c
    | _ :: rest => (c.onRing fun r => { r with posted := rest }).bump Reg.RING_CPL_DISCARD
  else match c.ring.queued.find? fun q => !c.bit (Reg.RING_EVT_CFG q.1) 31 || !c.evtFull q.1 with
  | some q =>
    let c := c.onRing fun r => { r with queued := r.queued.erase q }
    if c.bit (Reg.RING_EVT_CFG q.1) 31 then c.evtWrite q.1 q.2 else c.bump Reg.RING_CPL_DISCARD
  | none =>
    match (List.range 8).find? fun e =>
        decide (0 < (c.evt e).lost) && c.bit (Reg.RING_EVT_CFG e) 31 && !c.evtFull e with
    | some e =>
      let n := (c.evt e).lost
      (c.setEvt e { c.evt e with lost := 0 }).evtWrite e ⟨0x0001, c.time, padTo 48 (leBytes 4 n)⟩
    | none =>
      match c.ring.posted with
      | [] => c
      | n :: rest => (c.onRing fun r => { r with posted := rest }).noticeRoute n

/-! ### IOMMU (R352) -/

/-- IOMMU_INVAL: a write of RING_IOMMU_INVAL. -/
def Chip.iommuInval (c : Chip) (v : Nat) : Chip :=
  (c.wr Reg.RING_IOMMU_INVAL (fld v 4 0 + 2 ^ 31 * fld v 31 31)).onRing fun r => { r with inval := bitOf v 31 || r.inval }

/-- IOMMU_INVAL_DONE: the affected translations are dropped and GO clears. -/
def Chip.iommuInvalDone (c : Chip) : Chip :=
  if !c.ring.inval then c
  else
    let all := c.bit Reg.RING_IOMMU_INVAL 4
    let d := c.fl Reg.RING_IOMMU_INVAL 3 0
    (c.setBit Reg.RING_IOMMU_INVAL 31 false).onRing fun r =>
      { r with inval := false, cache := r.cache.filter fun e => !(all || e.dom == d) }

/-! ### The cluster (R353–R357) -/

/-- Whether a block's status summary is asserted: a write-1-to-clear bit of one of its registers
is set (DEDUCED from Table 11, log entry 84). -/
def Chip.summary (c : Chip) (block : Nat) : Bool :=
  c.regs.any fun e => decide (e.1 / 0x100000 = block) &&
    (match regRow? e.1 with
     | some r => (e.2 &&& BitVec.ofNat 32 r.w1c) != 0
     | none => false)

/-- Whether a claimed source is still asserted: a comparator while its bit of BKB_CMP_IRQ is set (10 R328), a status
summary while a bit of its block is; the others are pulses. -/
def Chip.asserted (c : Chip) (src : Nat) : Bool :=
  (decide (128 ≤ src) && decide (src < 144) && c.bit Reg.BKB_CMP_IRQ (src - 128)) ||
    (decide (144 ≤ src) && decide (src < 156) && c.summary (src - 144))

/-- The source that a claim of a context takes: highest priority above its threshold, ties to the
lower number. -/
def Chip.claimable (c : Chip) (x : Nat) : Option Nat :=
  let thr := c.fl (Reg.PIC_THRESH x) 2 0
  let prio (s : Nat) : Nat := c.fl (Reg.PIC_PRIO s) 2 0
  let ok (s : Nat) : Bool := c.bit (Reg.PIC_PEND (s / 32)) (s % 32) &&
    c.bit (Reg.PIC_ENABLE x (s / 32)) (s % 32) && decide (0 < prio s) && decide (thr < prio s)
  ((List.range 157).filter ok).foldl (fun b s =>
    match b with
    | none => some s
    | some t => if prio t < prio s then some s else some t) none

/-- INTERRUPT_CLAIM: context 2 × hart + mode (1 supervisor). -/
def Chip.interruptClaim (c : Chip) (x : Nat) : Chip :=
  match c.claimable x with
  | none => c.answer (.data (leBytes 4 0))
  | some s =>
    ({ c.setBit (Reg.PIC_PEND (s / 32)) (s % 32) false with
      apc := { c.apc with claimed := c.apc.claimed ++ [(x, s)] } }).answer (.data (leBytes 4 s))

/-- CLAIM_COMPLETE: a source still asserted pends again. -/
def Chip.claimComplete (c : Chip) (x s : Nat) : Chip :=
  if c.apc.claimed.contains (x, s) then
    ({ c with apc := { c.apc with claimed := c.apc.claimed.erase (x, s) } }).when (c.asserted s) fun c => c.irq s
  else c

/-- Where released cores start: APC_BOOT_VEC. -/
def Chip.bootVec (c : Chip) : BitVec 64 := BitVec.ofNat 64 (c.rd64 Reg.APC_BOOT_VEC_LO Reg.APC_BOOT_VEC_HI % 2 ^ 48)

/-- APC_CORE_RUN: a Seal-level write releases cores, each in machine mode at APC_BOOT_VEC (R356). -/
def Chip.coreRun (c : Chip) (v : Nat) (who : Who) : Chip :=
  if who.level = .seal then
    let c := c.wr Reg.APC_CORE_RUN (v % 16)
    { c with apc := { c.apc with
        started := (List.range 4).filter fun n => c.apc.started.contains n || bitOf v n
        harts := ((List.range 4).filter fun n => bitOf v n && !c.apc.started.contains n).foldl (fun l n =>
          Tab.put (fun _ => Hart.start 0) l n (Hart.start c.bootVec)) c.apc.harts } }
  else c.noteRws who Reg.APC_CORE_RUN 0xF v

/-! ### DDR4 (R358–R360) -/

/-- DDR_ENABLE: a write of APC_DDR_CFG with ENABLE. Above 16 GiB, or with the geometry changed
while enabled, CFG_ERR. -/
def Chip.ddrEnable (c : Chip) (v : Nat) : Chip :=
  let cfg := Reg.APC_DDR_CFG
  if c.bit cfg 31 then
    let c := c.setBit cfg 30 (bitOf v 30)
    if fld v 29 27 = c.fl cfg 29 27 then c else c.cfgErr 6
  else if 16 * 2 ^ 30 < ddrSize v then
    ((c.setFl cfg 30 27 (fld v 30 27)).setBit cfg 31 false).cfgErr 6
  else ((((c.setFl cfg 30 27 (fld v 30 27)).setBit cfg 31 true).setBit Reg.APC_DDR_STATUS 3 true).setBit
    Reg.APC_DDR_STATUS 4 false).setBit Reg.APC_DDR_STATUS 1 false

/-- Every byte of DRAM reads 0 again. -/
def Chip.zeroDram (c : Chip) : Chip :=
  { c with mem := Tab.drop (fun a => decide (0x1000000000 ≤ a) && decide (a < 0x2000000000)) c.mem,
           apc := { c.apc with poison := [] } }

/-- DDR_READY: training and preparation end; contents kept in self-refresh stay, others are
zeroed. -/
def Chip.ddrReady (c : Chip) (trained : Bool) : Chip :=
  let st := Reg.APC_DDR_STATUS
  if !c.bit Reg.APC_DDR_CFG 31 || !c.bit st 3 then c
  else if !trained then (c.setBit st 3 false).setBit st 1 true
  else
    let kept := c.apc.ddrSelfRefresh
    let c := if kept then c else c.zeroDram
    ((((c.setBit st 3 false).setBit st 0 true).setBit st 4 kept).setFl st 12 8
      (ddrSize (c.rd Reg.APC_DDR_CFG) / 2 ^ 30)).onApc fun a => { a with ddrSelfRefresh := false }

/-- DDR_DISABLE: READY clears and the controller enters self-refresh, contents kept. -/
def Chip.ddrDisable (c : Chip) : Chip :=
  let was := c.bit Reg.APC_DDR_STATUS 0
  (((c.setBit Reg.APC_DDR_CFG 31 false).setBit Reg.APC_DDR_STATUS 0 false).setBit Reg.APC_DDR_STATUS 3 false).onApc
    fun a => { a with ddrSelfRefresh := a.ddrSelfRefresh || was }

/-- PATROL_SCRUB of one word; source 156 on an uncorrectable error. The scrub has no initiator
number; its records carry 15. -/
def Chip.patrolScrub (c : Chip) (word : Nat) (e : Ecc) : Chip :=
  let addr := 0x1000000000 + 8 * word
  if c.regionOf addr = .dram && c.bit Reg.APC_DDR_STATUS 0 then
    (c.dramEcc addr 15 e).when (c.eccAt addr e == .uncorrectable) fun c => c.irq 156
  else c

/-! ### Legal descriptors (R342) -/

/-- The level of MET_CALEN_N when the engine begins a CALIBRATE of LGL_REQUEST, which no command gives: free (09 R302;
log entry 100). -/
def Chip.calenPin (c : Chip) : Bool × Chip :=
  let (b, c) := c.free 1
  (bitOf (leVal b) 0, c)

/-- Serve the oldest legal descriptor: the body is read and served, the reply written if it fits,
the descriptor completed. -/
def State.serveLgl (s : State) (d : LglDesc) : Chip × Leg :=
  match s.chip.pairRead d.pair d.addr.toNat d.len with
  | (.ok, body, c) =>
    let (pin, c) := if leAt body 0 1 = 0x17 then c.calenPin else (s.leg.calenLow, c)
    let g := { s.leg with calenLow := pin }.observe s.lc.tripped
    let n := leAt body 2 2
    let refusal := { g with reply := legalReply (leAt body 0 1) 3 (BitVec.ofNat 32 (leAt body 4 4)) [] }
    let g := match legalOps.find? fun op => op.code == leAt body 0 1 with
      | some op => if 8 ≤ n && n ≤ d.len then { s with chip := c }.serveLegal op (body.take n) g else refusal
      | none => refusal
    let c := g.notices.foldl (fun c n => c.notice n.1 n.2) c
    let g := { g with notices := [] }
    let finish (c : Chip) (result written : Nat) : Chip :=
      c.complete ⟨d.pair, d.tag, 0x40, BitVec.ofNat 8 result, padTo 56 (leBytes 2 written), true, 0⟩
    if d.cap < g.reply.length then (finish c 3 0, g)
    else match c.pairWrite d.pair d.reply.toNat g.reply with
      | (.ok, c) => (finish c (leAt g.reply 1 1) g.reply.length, g)
      | (_, c) => (c.refuseDesc d.pair d.tag.toNat 5, g)
  | (_, _, c) => (c.refuseDesc d.pair d.tag.toNat 5, s.leg)

/-- LGL_REQUEST: nothing while the engine takes no command (09 R301, 12 R385). -/
def State.lglRequest (s : State) : Chip × Leg :=
  match s.chip.ring.lgl with
  | [] => (s.chip, s.leg)
  | d :: rest =>
    if s.legalServed s.leg then
      { s with chip := s.chip.onRing fun r => { r with lgl := rest } }.serveLgl d
    else (s.chip, s.leg)

/-! ### Meanings -/

/-- PCIE_RESET (R337). -/
def execPcieReset (cause : PcieReset) (s : State) : Host.Outcome State Fault Refusal :=
  s.onChip fun c => c.pcieReset cause

/-- PCIE_LINK_UP (R336). -/
def execPcieLinkUp (speed : Fin 4) (width : LinkWidth) (setup : PciSetup) (s : State) : Host.Outcome State Fault Refusal :=
  s.onChip fun c => c.linkUp speed.val width setup

/-- DOORBELL_WRITE (R348). -/
def execDoorbellWrite (page : Fin 72) (offset : BitVec 12) (v : Word) (who : Who) (s : State) :
    Host.Outcome State Fault Refusal :=
  s.onChip fun c => c.doorbellWrite page.val offset.toNat v.toNat who

/-- DESCRIPTOR_FETCH (R341). -/
def execDescriptorFetch (s : State) : Host.Outcome State Fault Refusal := s.onChip Chip.descriptorFetch

/-- LGL_REQUEST (R342). -/
def execLglRequest (s : State) : Host.Outcome State Fault Refusal := s.onLegal State.lglRequest

/-- COMPLETION_WRITE (R344). -/
def execCompletionWrite (s : State) : Host.Outcome State Fault Refusal := s.onChip Chip.completionWrite

/-- INTERRUPT_TIMEOUT (R349). -/
def execInterruptTimeout (ring : RingSel) (s : State) : Host.Outcome State Fault Refusal :=
  s.onChip fun c => c.interruptTimeout ring

/-- MSIX_VECTOR_UNMASK (R349). -/
def execMsixVectorUnmask (vector : BitVec 7) (s : State) : Host.Outcome State Fault Refusal :=
  s.onChip fun c => c.onReg (Reg.MSIX_WORD vector.toNat 3) anyIni fun c => c.vectorUnmask vector.toNat

/-- NOTICE_WRITE (R347). -/
def execNoticeWrite (s : State) : Host.Outcome State Fault Refusal := s.onChip Chip.noticeWrite

/-- IOMMU_INVAL (R352). -/
def execIommuInval (v : Word) (s : State) : Host.Outcome State Fault Refusal :=
  s.onChip fun c => c.onReg Reg.RING_IOMMU_INVAL anyIni fun c => c.iommuInval v.toNat

/-- IOMMU_INVAL_DONE (R352). -/
def execIommuInvalDone (s : State) : Host.Outcome State Fault Refusal := s.onChip Chip.iommuInvalDone

/-- RING_ENABLE (R361). -/
def execRingEnable (ring : RingSel) (s : State) : Host.Outcome State Fault Refusal :=
  s.onChip fun c => c.onReg (ringCfg ring) anyIni fun c => c.ringEnable ring

/-- APC_CORE_RUN (R356). -/
def execApcCoreRun (v : Word) (who : Who) (s : State) : Host.Outcome State Fault Refusal :=
  s.onChip fun c => c.onReg Reg.APC_CORE_RUN who.num fun c => c.coreRun v.toNat who

/-- INTERRUPT_CLAIM (R357); a hart that is held makes none (R356). -/
def execInterruptClaim (hart : Fin 4) (smode : Bool) (s : State) : Host.Outcome State Fault Refusal :=
  s.onChip fun c =>
    let x := 2 * hart.val + b2n smode
    if !c.apc.started.contains hart.val then c
    else if c.reaches (Reg.PIC_CLAIM x) then c.interruptClaim x
    else (c.unreached (Reg.PIC_CLAIM x) (b2n smode) false).answer (.data [0, 0, 0, 0])

/-- CLAIM_COMPLETE (R357); a hart that is held makes none (R356). -/
def execClaimComplete (hart : Fin 4) (smode : Bool) (v : Word) (s : State) :
    Host.Outcome State Fault Refusal :=
  s.onChip fun c => c.when (c.apc.started.contains hart.val) fun c =>
    c.onReg (Reg.PIC_CLAIM (2 * hart.val + b2n smode)) (b2n smode) fun c =>
      c.claimComplete (2 * hart.val + b2n smode) v.toNat

/-- DDR_ENABLE (R358). -/
def execDdrEnable (v : Word) (s : State) : Host.Outcome State Fault Refusal :=
  s.onChip fun c => c.onReg Reg.APC_DDR_CFG anyIni fun c => c.ddrEnable v.toNat

/-- DDR_READY (R358). -/
def execDdrReady (trained : Bool) (s : State) : Host.Outcome State Fault Refusal :=
  s.onChip fun c => c.ddrReady trained

/-- DDR_DISABLE (R358). -/
def execDdrDisable (s : State) : Host.Outcome State Fault Refusal :=
  s.onChip fun c => c.onReg Reg.APC_DDR_CFG anyIni Chip.ddrDisable

/-- PATROL_SCRUB (R360). -/
def execPatrolScrub (word : BitVec 31) (ecc : Ecc) (s : State) : Host.Outcome State Fault Refusal :=
  s.onChip fun c => c.patrolScrub word.toNat ecc

end Sys2Proof.Machine
end

