-- ==== Sys2Proof/Machine/AirTx.lean ====
section
/-!
DEFINITION. The Air Units: their tables, airtimes, transmit queues, and what stops a transmission
(04_air_units.md R114–R119, R125, R126, Tables 4, 6, 7 and 9).
-/
namespace Sys2Proof.Machine

/-- An Air Unit. -/
def Chip.airUnit (c : Chip) (u : Nat) : AirUnit := Tab.get (fun _ => AirUnit.initial) c.air u

/-- Change an Air Unit. -/
def Chip.onAir (c : Chip) (u : Nat) (f : AirUnit → AirUnit) : Chip :=
  { c with air := Tab.put (fun _ => AirUnit.initial) c.air u (f (c.airUnit u)) }

/-- The control registers a unit uses in its slots, the cell table among them, by their offset in its window:
a write of one in a slot takes effect from the next slot boundary (R118, R136). The registers that R115 lets be
written only while the unit is disabled are in use in no slot; ENABLE, HALT_TX, SWAP, the indices, the pool and
the neighbour table act at once (DESIGN CHOICE, log entry 94). -/
def airHolds (u key : Nat) : Bool :=
  let o := key - Reg.AIR_ID u
  let within (lo hi : Nat) : Bool := decide (lo ≤ o) && decide (o < hi)
  decide (Reg.AIR_ID u ≤ key) && (within 0x14 0x18 || within 0x40 0x4C || within 0x50 0x54 || within 0x58 0x64 ||
    within 0x6C 0x74 || within 0x80 0x98 || within 0xA0 0xA8 || within 0xB0 0xBC || within 0xC0 0xE0 ||
    (within 0x100 0x140 && decide (o % 16 < 8)) || within 0x140 0x144 || within 0x404 0x800 ||
    within 0x1000 0x1400 || within 0x1600 0x1700 || within 0x2000 0x2020 || within 0x4000 0x8000)

/-- The control registers written in the slot, each with the value still in force. -/
def Chip.airHeld (c : Chip) (u : Nat) : List (Nat × Word) := (c.airUnit u).held.filter fun e => airHolds u e.1

/-- The chip as a unit uses it in its slot: the control registers with the values in force. -/
def Chip.inForce (c : Chip) (u : Nat) : Chip := (c.airHeld u).foldl (fun c e => c.wr e.1 e.2.toNat) c

/-- What a unit does in its slot: under the values in force, what software has written since kept, unless the unit
itself writes the register (15 R452, R453). -/
def Chip.inSlot (c : Chip) (u : Nat) (f : Chip → Chip) : Chip :=
  (c.airHeld u).foldl (fun d e => d.when (d.rdW e.1 == e.2) fun d => d.wr e.1 (c.rd e.1)) (f (c.inForce u))

/-- A register write to a unit: in a slot, what a control register held stays in force. -/
def Chip.heldWrite (c : Chip) (u key : Nat) (f : Chip → Chip) : Chip :=
  let d := f c
  d.when ((c.airUnit u).slot.isSome && airHolds u key && d.rdW key != c.rdW key &&
      !((c.airUnit u).held.any fun e => e.1 == key)) fun d =>
    d.onAir u fun a => { a with held := a.held ++ [(key, c.rdW key)] }

/-- Whether the registers and the MAC of the units run. -/
def Chip.airUp (c : Chip) : Bool := !c.gated 3

/-- ROLE; 3 acts as 0. -/
def Chip.airRole (c : Chip) (u : Nat) : Nat :=
  if c.fl (Reg.AIR_MAC_CFG u) 1 0 = 3 then 0 else c.fl (Reg.AIR_MAC_CFG u) 1 0

/-- Whether a unit runs its schedule. -/
def Chip.airOn (c : Chip) (u : Nat) : Bool :=
  c.airUp && c.domainUp 12 && c.bit (Reg.AIR_MAC_CTRL u) 0 && c.airRole u != 0

/-- Whether a unit takes its timing from a radio time source (R115). -/
def Chip.airRadio (c : Chip) (u : Nat) : Bool := c.bit (Reg.AIR_MAC_CFG u) 2

/-- Whether a unit resynchronises (R133). -/
def Chip.airResync (c : Chip) (u : Nat) : Bool := c.bit (Reg.AIR_STATUS u) 3

/-- Whether a unit has no slot boundary: TIMEBASE 1, before its first synchronisation (R115). -/
def Chip.airUnsynced (c : Chip) (u : Nat) : Bool := c.airRadio u && (c.airUnit u).anchor.isNone

/-- Whether a unit may transmit: active, not halted, synchronised (R115, R133, R134). -/
def Chip.airMaySend (c : Chip) (u : Nat) : Bool :=
  c.airOn u && c.working && c.airRole u == 1 && !c.bit (Reg.AIR_MAC_CTRL u) 1 && !c.airResync u &&
    !c.airUnsynced u

/-- Slot length, µs; smaller values act as 2,500 (R115). -/
def Chip.airLen (c : Chip) (u : Nat) : Nat := max 2500 (c.fl (Reg.AIR_TS_LEN u) 15 0)

/-- TXOFS, µs. -/
def Chip.airTxofs (c : Chip) (u : Nat) : Nat := c.fl (Reg.AIR_TS_TXOFS u) 15 0

/-! ### The neighbour table (Table 9) -/

/-- A field of a neighbour entry: word, bits [hi:lo]. -/
def Chip.nb (c : Chip) (u i w hi lo : Nat) : Nat := c.fl (Reg.NB_WORD u i w) hi lo

/-- Set a field of a neighbour entry. -/
def Chip.setNb (c : Chip) (u i w hi lo v : Nat) : Chip := c.setFl (Reg.NB_WORD u i w) hi lo v

/-- VALID of a neighbour entry. -/
def Chip.nbValid (c : Chip) (u i : Nat) : Bool := c.bit (Reg.NB_WORD u i 2) 16

/-- STATE of a neighbour entry. -/
def Chip.nbState (c : Chip) (u i : Nat) : Nat := c.nb u i 2 18 17

/-- TSRC of a neighbour entry. -/
def Chip.nbTsrc (c : Chip) (u i : Nat) : Bool := c.bit (Reg.NB_WORD u i 2) 19

/-- PEER of a neighbour entry. -/
def Chip.nbPeer (c : Chip) (u i : Nat) : Bool := c.bit (Reg.NB_WORD u i 2) 20

/-- HANDLE of a neighbour entry. -/
def Chip.nbHandle (c : Chip) (u i : Nat) : Nat := c.nb u i 6 19 0

/-- MISS of a neighbour entry. -/
def Chip.nbMiss (c : Chip) (u i : Nat) : Nat := c.nb u i 6 21 20

/-- EUI of a neighbour entry. -/
def Chip.nbEui (c : Chip) (u i : Nat) : Nat := c.rd64 (Reg.NB_WORD u i 0) (Reg.NB_WORD u i 1)

/-- Valid neighbours of a unit, in index order: VALID differs from its reset value, so the word
that holds it is listed. -/
def Chip.nbListed (c : Chip) (u : Nat) : List Nat :=
  let base := Reg.NB_WORD u 0 0
  ((c.regs.filter fun e => decide (base ≤ e.1) && decide (e.1 < base + 0x20000) &&
    (e.1 - base) % 32 == 8).map fun e => (e.1 - base) / 32).filter (c.nbValid u)

/-! ### Airtime (R114, R116; the layouts of the PHYs are PRESUMED from IEEE 802.15.4-2020, log entry 70) -/

/-- Symbol rate of the filtered 2-FSK PHY, ksym/s, by its code; no PHY beyond code 4. -/
def fskRate (code : Nat) : Option Nat := [50, 100, 150, 200, 300][code]?

/-- Data bits in one OFDM symbol by option 0–3 and MCS; none where the standard defines none. -/
def ofdmBits (option mcs : Nat) : Option Nat :=
  if 6 < mcs then none
  else
    let b := ([12, 24, 48, 96, 144, 192, 288].getD mcs 0) / 2 ^ option
    if option < 2 ∨ (option = 2 ∧ 1 ≤ mcs) ∨ (option = 3 ∧ 2 ≤ mcs) then some b else none

/-- Sample rate a PHY selection needs, in samples/s; none where it is not supported (Table 4). -/
def phyNeeds (w : Nat) : Option Nat :=
  if bitOf w 0 then
    (ofdmBits (fld w 10 9) (fld w 14 11)).map fun _ => if fld w 10 9 = 0 then 1334000 else 1000000
  else (fskRate (fld w 3 1)).map fun r => 4000 * r

/-- Whether f_IQCLK / 8 carries a PHY selection (R108). -/
def Chip.phyFits (c : Chip) (u w : Nat) : Bool :=
  match phyNeeds w with
  | some need => decide (need * 8 ≤ c.fl (Reg.AIR_IQ_FREQ u) 15 0 * 1000)
  | none => false

/-- FCS octets of a PHY selection. -/
def fcsLen (w : Nat) : Nat := if bitOf w 8 then 2 else 4

/-- Octets, or their equal, of a PHR and PSDU in 2-FSK: coded 1/2 with tail and pad under FEC. -/
def fskOctets (w psdu : Nat) : Nat :=
  if bitOf w 5 then 2 * (psdu + if psdu % 2 = 1 then 3 else 4) else 2 + psdu

/-- Time from the first preamble bit to the last bit of the SFD, ns. -/
def leadTime (w : Nat) : Nat :=
  if bitOf w 0 then 720000
  else ((max 4 (fld w 21 16) + 2) * 8 * 1000000) / (fskRate (fld w 3 1)).getD 50

/-- Airtime of a PSDU, ns. -/
def airNs (w psdu : Nat) : Nat :=
  if bitOf w 0 then
    let opt := fld w 10 9
    let bits := (ofdmBits opt (fld w 14 11)).getD 6
    720000 + 120000 * ((if opt = 0 then 3 else 6) + (8 * psdu + 6 + bits - 1) / bits)
  else ((max 4 (fld w 21 16) + 2 + fskOctets w psdu) * 8 * 1000000) / (fskRate (fld w 3 1)).getD 50

/-- Airtime in whole µs, rounded up. -/
def airUs (w psdu : Nat) : Nat := (airNs w psdu + 999) / 1000

/-! ### Dwell (R126) -/

/-- MODE of the dwell limit; 3 acts as 0. -/
def Chip.dwellMode (c : Chip) (u : Nat) : Nat :=
  if c.fl (Reg.AIR_DWELL_CFG u) 1 0 = 3 then 0 else c.fl (Reg.AIR_DWELL_CFG u) 1 0

/-- Whether a channel lies in enabled sub-band `k`. -/
def Chip.inSubband (c : Chip) (u k chan : Nat) : Bool :=
  let w := c.rd (Reg.AIR_SUBBAND u k)
  bitOf w 31 && decide (fld w 6 0 ≤ chan) && decide (chan ≤ fld w 14 8)

/-- Accumulators that cover a channel: its own in occupancy mode, its sub-bands' (256 + k) in
duty mode. -/
def Chip.dwellKeys (c : Chip) (u chan : Nat) : List Nat :=
  match c.dwellMode u with
  | 1 => [chan]
  | 2 => ((List.range 4).filter fun k => c.inSubband u k chan).map (256 + ·)
  | _ => []

/-- Airtime in the current bucket and the 16 before it, µs. -/
def Chip.dwellSum (c : Chip) (u key : Nat) : Nat :=
  ((Tab.get (fun _ => []) (c.airUnit u).dwell key).take 17).foldl (· + ·) 0

/-- Whether a transmission is allowed; in duty mode a channel of no sub-band has no accumulator
that allows one. -/
def Chip.dwellOk (c : Chip) (u chan us : Nat) : Bool :=
  c.dwellMode u == 0 ||
    (c.dwellKeys u chan != [] && (c.dwellKeys u chan).all fun k =>
      decide (c.dwellSum u k + us ≤ c.rd (Reg.AIR_DWELL_LIMIT u)))

/-- Add airtime to the current bucket. -/
def Chip.dwellAdd (c : Chip) (u chan us : Nat) : Chip :=
  (c.dwellKeys u chan).foldl (fun c k => c.onAir u fun a =>
    let buckets := match Tab.get (fun _ => []) a.dwell k with
      | [] => [us]
      | b :: bs => (b + us) :: bs
    { a with dwell := Tab.put (fun _ => []) a.dwell k buckets }) c

/-- W / 16, ns. -/
def Chip.dwellStep (c : Chip) (u : Nat) : Nat :=
  if c.dwellMode u = 1 then max 10 (c.fl (Reg.AIR_DWELL_CFG u) 15 4) * 1000000 else 225000000000

/-- DWELL_BUCKET_BOUNDARY: a new bucket begins. -/
def Chip.dwellBoundary (c : Chip) (u t : Nat) : Chip :=
  if c.dwellMode u = 0 ∨ t % c.dwellStep u ≠ 0 then c
  else
    c.onAir u fun a =>
      let moved := a.dwell.map fun e => (e.1, (0 :: e.2).take 17)
      { a with dwell := moved.filter fun e => e.2.any (· != 0) }

/-! ### Transmit requests (R119, Table 7) -/

/-- Fields of a request. -/
def AirReq.notBefore (r : AirReq) : Nat := leAt r.entry 0 8
/-- BUF. -/
def AirReq.buf (r : AirReq) : Nat := leAt r.entry 8 6
/-- LEN. -/
def AirReq.len (r : AirReq) : Nat := leAt r.entry 16 2 % 2048
/-- NBR. -/
def AirReq.nbr (r : AirReq) : Nat := leAt r.entry 18 2 % 4096
/-- SECURE. -/
def AirReq.secure (r : AirReq) : Bool := bitOf (leAt r.entry 20 1) 0
/-- ACKREQ. -/
def AirReq.ackReq (r : AirReq) : Bool := bitOf (leAt r.entry 20 1) 1
/-- ALT. -/
def AirReq.alt (r : AirReq) : Bool := bitOf (leAt r.entry 20 1) 2
/-- HDRLEN. -/
def AirReq.hdrLen (r : AirReq) : Nat := leAt r.entry 21 1
/-- RETRIES. -/
def AirReq.retries (r : AirReq) : Nat := leAt r.entry 22 1 % 8

/-- Address of an entry of queue `q`. -/
def Chip.airEntry (c : Chip) (u q idx : Nat) : Nat :=
  c.fl (Reg.AIR_TXQ_BASE_LO u q) 31 5 * 32 + c.fl (Reg.AIR_TXQ_BASE_HI u q) 15 0 * 2 ^ 32 + 32 * idx

/-- Indices between the consumer and the producer index that have not completed. -/
def Chip.airOutstanding (c : Chip) (u q : Nat) : List Nat :=
  let ci := c.fl (Reg.AIR_TXQ_CI u q) 5 0
  let n := (c.fl (Reg.AIR_TXQ_PI u q) 5 0 + 64 - ci) % 64
  ((List.range n).map fun k => (ci + k) % 64).filter fun i => !(c.airUnit u).done.contains (q, i)

/-- Read one request that the unit does not hold yet. -/
def Chip.airFetch (c : Chip) (u : Nat) (qi : Nat × Nat) : Chip :=
  if (c.airUnit u).reqs.any fun r => r.q == qi.1 && r.idx == qi.2 then c
  else
    let (_, e, c) := c.dmaRead 9 false (c.airEntry u qi.1 qi.2) 32
    c.onAir u fun a => { a with reqs := a.reqs ++ [⟨qi.1, qi.2, e, 0, none, 0, none⟩] }

/-- Requests that are now the oldest for their neighbour start the time of R119's expiry. A request is older
than those the unit has read after it, of whichever queue (DEDUCED, log entry 94). -/
def oldestSince (now : BitVec 64) : List Nat → List AirReq → List AirReq
  | _, [] => []
  | seen, r :: rest =>
    if seen.contains r.nbr then r :: oldestSince now seen rest
    else { r with since := some (r.since.getD now) } :: oldestSince now (r.nbr :: seen) rest

/-- Take the requests that software has posted. -/
def Chip.airTrack (c : Chip) (u : Nat) : Chip :=
  let c := ((List.range 4).flatMap fun q => (c.airOutstanding u q).map fun i => (q, i)).foldl
    (fun c qi => c.airFetch u qi) c
  c.onAir u fun a => { a with reqs := oldestSince c.time [] a.reqs }

/-- Pass completed requests at the consumer index. -/
def Chip.airPass (c : Chip) (u q : Nat) : Nat → Chip
  | 0 => c
  | n + 1 =>
    let ci := c.fl (Reg.AIR_TXQ_CI u q) 5 0
    if (c.airUnit u).done.contains (q, ci) then
      ((c.setFl (Reg.AIR_TXQ_CI u q) 5 0 ((ci + 1) % 64)).onAir u fun a =>
        { a with done := a.done.filter (· != (q, ci)) }).airPass u q n
    else c

/-- A request completes: STATUS, TRIES and SENT_AT, and the consumer index. -/
def Chip.airComplete (c : Chip) (u q idx status : Nat) : Chip :=
  match (c.airUnit u).reqs.find? fun r => r.q == q && r.idx == idx with
  | none => c
  | some r =>
    let c := (c.dmaWrite 9 false (c.airEntry u q idx + 24)
      (leBytes 1 status ++ leBytes 1 r.tries ++ leBytes 2 0 ++ leBytes 4 r.sentAt.toNat)).2
    let c := c.onAir u fun a => { a with
      reqs := a.reqs.filter fun x => !(x.q == q && x.idx == idx)
      done := (q, idx) :: a.done
      wait := if a.wait.any fun w => w.q == q && w.idx == idx then none else a.wait }
    (c.airPass u q 64).onAir u fun a => { a with reqs := oldestSince c.time [] a.reqs }

/-- What HALT_TX or disabling does to a transmission: the request whose frame is on the air or
awaits its acknowledgement completes with status 0x05; an acknowledgement due is dropped. -/
def Chip.airAbort (c : Chip) (u : Nat) : Chip :=
  let c := c.onAir u fun a => { a with ack := none }
  match (c.airUnit u).wait with
  | some w => c.inSlot u fun c => c.airComplete u w.q w.idx 5
  | none => c

/-- AIR_HALT_TX (R119). -/
def Chip.airHalt (c : Chip) (u : Nat) : Chip := (c.setBit (Reg.AIR_MAC_CTRL u) 1 true).airAbort u

/-- AIR_TX_EXPIRE (R119). -/
def Chip.airExpire (c : Chip) (u q idx : Nat) : Chip :=
  match (c.airUnit u).reqs.find? fun r => r.q == q && r.idx == idx with
  | some r =>
    match r.since with
    | some t =>
      if t.toNat + c.rd (Reg.AIR_TXQ_EXPIRE u) * 1000000 ≤ c.time.toNat then c.airComplete u q idx 6 else c
    | none => c
  | none => c

/-! ### Trim references (14 R414, R415, Table 7) -/

/-- Whether the Air Unit that BCN_UNIT names serves the beacon reference. -/
def Chip.beaconRef (c : Chip) : Bool :=
  let u := c.fl Reg.CRP_TRIM_CFG 5 5
  c.airRadio u && (c.airUnit u).source.isSome

/-- Whether a reference of Table 7 is enabled and available. -/
def Chip.refUsable (c : Chip) (r : Nat) : Bool :=
  c.bit Reg.CRP_TRIM_CFG (r + 1) &&
    match r with
    | 0 => c.crp.xaValid && c.crp.power != .trim
    | 1 => c.crp.xbValid
    | 2 => c.bkb.ppsGood
    | _ => c.beaconRef

/-- The first reference enabled and available. -/
def Chip.refPick (c : Chip) : Option Nat := (List.range 4).find? c.refUsable

/-- A window is discarded: the run goes on with the next reference, or ends with the code where it
stands when none is available (14 R415). -/
def Chip.trimNext (c : Chip) : Chip :=
  match c.refPick with
  | some r => c.onCrp fun x => { x with trimRef := r }
  | none => c.onCrp fun x => { x with trim := none }

/-- The power state has changed: the window of a run in progress is discarded (14 R415). -/
def Chip.trimAgain (c : Chip) : Chip := c.when c.crp.trim.isSome Chip.trimNext

/-- A reference of Table 7 is lost: a window measured against it is discarded (14 R415). -/
def Chip.trimLost (c : Chip) (r : Nat) : Chip := c.when (c.crp.trim.isSome && c.crp.trimRef == r) Chip.trimNext

end Sys2Proof.Machine
end

