-- ==== Sys2Proof/Machine/AirMac.lean ====
section
/-!
DEFINITION. Frames of the Air Units: the MAC header of frame version 0b10, information elements,
and CCM* (04_air_units.md R114, R120, R122, R124).  The octet layouts are those of
IEEE 802.15.4-2020 (PRESUMED, log entry 70): the manual names the standard and not its formats.
-/
namespace Sys2Proof.Machine

/-- A MAC header. -/
structure MacHdr where
  typ : Nat                      -- 0 beacon, 1 data, 2 acknowledgement, 3 command
  secured : Bool
  ackReq : Bool
  ie : Bool
  version : Nat
  dsn : Option Nat
  dstPan : List Byte
  dst : List Byte                -- 0, 2 or 8 octets
  src : List Byte
  level : Nat
  kim : Nat
  fc : Option Nat
  fcAt : Nat                     -- offset of the frame counter
  keyIdx : Nat
  len : Nat                      -- octets, header IEs included
  deriving DecidableEq, Repr

/-- Octets of an address by its mode. -/
def addrLen (mode : Nat) : Nat := if mode = 2 then 2 else if mode = 3 then 8 else 0

/-- Which PAN identifiers a header holds, destination and source, by address modes and PAN ID
compression. -/
def panPresent (d s : Nat) (comp : Bool) : Bool × Bool :=
  if d = 0 ∧ s = 0 then (comp, false)
  else if s = 0 then (!comp, false)
  else if d = 0 then (false, !comp)
  else if d = 3 ∧ s = 3 then (!comp, false)
  else (true, !comp)

/-- End of the header IEs that begin at `off`. -/
def headerIeEnd (p : List Byte) : Nat → Nat → Nat
  | 0, off => off
  | n + 1, off =>
    let w := leAt p off 2
    if p.length < off + 2 ∨ bitOf w 15 then off
    else
      let after := off + 2 + fld w 6 0
      if fld w 14 7 = 0x7E ∨ fld w 14 7 = 0x7F then after else headerIeEnd p n after

/-- Read a MAC header. -/
def macHdr (p : List Byte) : MacHdr :=
  let fcf := leAt p 0 2
  let dm := fld fcf 11 10
  let sm := fld fcf 15 14
  let seqOff := if bitOf fcf 8 then 2 else 3
  let (dp, sp) := panPresent dm sm (bitOf fcf 6)
  let dstAt := seqOff + if dp then 2 else 0
  let srcAt := dstAt + addrLen dm + if sp then 2 else 0
  let secAt := srcAt + addrLen sm
  let sec := bitOf fcf 3
  let sc := leAt p secAt 1
  let kim := if sec then fld sc 4 3 else 0
  let fcN := if sec ∧ !bitOf sc 5 then 4 else 0
  let keyAt := secAt + 1 + fcN
  let ieAt := if sec then keyAt + [0, 1, 5, 9].getD kim 0 else secAt
  { typ := fld fcf 2 0, secured := sec, ackReq := bitOf fcf 5, ie := bitOf fcf 9, version := fld fcf 13 12
    dsn := if bitOf fcf 8 then none else some (leAt p 2 1)
    dstPan := if dp then slice p seqOff 2 else []
    dst := slice p dstAt (addrLen dm), src := slice p srcAt (addrLen sm)
    level := if sec then fld sc 2 0 else 0, kim := kim
    fc := if sec ∧ !bitOf sc 5 then some (leAt p (secAt + 1) 4) else none
    fcAt := secAt + 1, keyIdx := if kim = 1 then leAt p keyAt 1 else 0
    len := if bitOf fcf 9 then headerIeEnd p 64 ieAt else ieAt }

/-- Octets of the MIC of a security level. -/
def micLen (level : Nat) : Nat := [0, 4, 8, 16, 0, 4, 8, 16].getD level 0

/-- Whether security level, key identifier mode and key index are supported (R122): the key map holds a slot for
the indices 1–255. A suppressed frame counter leaves none to judge and is not supported (log entry 94). -/
def MacHdr.supported (h : MacHdr) : Bool :=
  h.level != 0 && h.level != 4 && (h.kim == 0 || (h.kim == 1 && h.keyIdx != 0)) && h.fc.isSome

/-- The FCS of a frame under a PHY selection: 2 octets of the ITU-T CRC, or 4 of CRC-32, a frame shorter than
that padded with zeros (IEEE 802.15.4-2020, PRESUMED, log entry 70). -/
def macFcs (phy : Nat) (p : List Byte) : List Byte :=
  if fcsLen phy = 2 then leBytes 2 (p.foldl (crcByte 0x8408) 0)
  else leBytes 4 (crc32 (p ++ List.replicate (4 - p.length) 0))

/-- A frame with its FCS (R119). -/
def withFcs (phy : Nat) (p : List Byte) : List Byte := p ++ macFcs phy p

/-- The ASN in the TSCH Synchronization IE of a nested list of IEs. -/
def nestedAsn (p : List Byte) (stop : Nat) : Nat → Nat → Option Nat
  | 0, _ => none
  | n + 1, off =>
    let w := leAt p off 2
    if stop < off + 2 then none
    else if bitOf w 15 then nestedAsn p stop n (off + 2 + fld w 10 0)
    else if fld w 14 8 = 0x1A then some (leAt p (off + 2) 5)
    else nestedAsn p stop n (off + 2 + fld w 7 0)

/-- The ASN an Enhanced Beacon carries in the payload IEs that begin its MAC payload. -/
def beaconAsn (p : List Byte) : Nat → Nat → Option Nat
  | 0, _ => none
  | n + 1, off =>
    let w := leAt p off 2
    if p.length < off + 2 ∨ !bitOf w 15 then none
    else if fld w 14 11 = 1 then nestedAsn p (off + 2 + fld w 10 0) 64 (off + 2)
    else beaconAsn p n (off + 2 + fld w 10 0)

/-! ### CCM* (R122) -/

/-- The slot a header's key identifier names. -/
def Chip.airKeySlot (c : Chip) (u nbr : Nat) (h : MacHdr) : Nat :=
  if h.kim = 1 then c.fl (Reg.AIR_KEYMAP u h.keyIdx) 14 0 else c.nb u nbr 4 14 0

/-- The key of a slot, if its attributes permit CCM* in the direction and its mask exists. -/
def Chip.airKey (c : Chip) (slot : Nat) (out : Bool) : Option (List Byte) :=
  let a := c.attr slot
  if attrValid a && attrAlg a == 1 && bitOf a 11 && decide (attrLevel a ≤ 1) &&
      (if out then attrOut a else attrIn a) && c.ciu.masks != [] && !c.gated 4 then
    some (c.keyBytes slot 16)
  else none

/-- The unit's CCM* key register holds the key used last (R122, 05 R143). -/
def Chip.airKeyHeld (c : Chip) (u slot : Nat) : Chip :=
  { c with ciu := { c.ciu with airKeys := Tab.put (fun _ => 0) c.ciu.airKeys u (c.key slot) } }

/-- The nonce: identity of the sender, frame counter, security level. -/
def airNonce (eui fc level : Nat) : List Byte := beBytes 8 eui ++ beBytes 4 fc ++ beBytes 1 level

/-- Verify and decrypt: the octets from `at'`, MIC removed. -/
def airOpen (key : List Byte) (eui : Nat) (h : MacHdr) (p : List Byte) : Option (List Byte) :=
  let m := micLen h.level
  let hdr := p.take h.len
  let body := p.drop h.len
  let data := body.take (body.length - m)
  let nonce := airNonce eui (h.fc.getD 0) h.level
  let plain := if 4 < h.level then ccmData key nonce data else data
  let mac := if 4 < h.level then ccmMac key nonce hdr plain m else ccmMac key nonce (hdr ++ data) [] m
  if p.length < h.len + m then none
  else if (ccmTag key nonce mac).take m = body.drop (body.length - m) then some plain else none

/-- Secure a frame from octet `from'`: the frame counter is filled in and the MIC appended. -/
def airSeal (key : List Byte) (eui fc from' : Nat) (h : MacHdr) (p : List Byte) : List Byte :=
  let p := splice p h.fcAt (leBytes 4 fc)
  let m := micLen h.level
  let hdr := p.take from'
  let data := p.drop from'
  let nonce := airNonce eui fc h.level
  if 4 < h.level then
    hdr ++ ccmData key nonce data ++ (ccmTag key nonce (ccmMac key nonce hdr data m)).take m
  else p ++ (ccmTag key nonce (ccmMac key nonce p [] m)).take m

/-- The Enhanced Acknowledgement of a frame, with −TOFS in its time-correction IE (R124). -/
def enhAck (h : MacHdr) (dsn tofs : Nat) : List Byte :=
  let dm := if h.src.length = 8 then 3 else if h.src.length = 2 then 2 else 0
  leBytes 2 (2 + 2 ^ 9 + dm * 2 ^ 10 + 2 * 2 ^ 12 + (if dm = 0 ∨ h.dstPan ≠ [] then 0 else 2 ^ 6)) ++
    leBytes 1 dsn ++ (if dm = 0 then [] else h.dstPan) ++ h.src ++ leBytes 2 (2 + 0x1E * 2 ^ 7) ++
    leBytes 2 (uns 16 (-(sgn 16 tofs)))

end Sys2Proof.Machine
end

