-- ==== Sys2Proof/Machine/LineCode.lean ====
section
/-!
DEFINITION. The TL physical layer: bands, modes and symbol counts, scrambling, the outer and the inner code,
interleaving, the header, and the symbols that a chain puts on the wire (02_line_modem_array.md R40–R52).
-/
namespace Sys2Proof.Machine

/-! ### Bands, modes and symbol counts (R40–R52) -/

/-- Carriers of a band (Table 3). -/
def bandCarriers (band : Nat) : Nat :=
  match band with
  | 0 => 36
  | 3 => 214
  | _ => 16

/-- The lowest carrier of a band (Table 3). -/
def bandLow (band : Nat) : Nat :=
  match band with
  | 0 => 23
  | 1 => 63
  | 2 => 80
  | _ => 99

/-- The carriers k of a band, ascending (Table 3). -/
def carriersOf (band : Nat) : List Nat := upFrom (bandLow band) (bandCarriers band)

/-- The carriers of a SYNC-A symbol: those of the band with k divisible by 4 (R42, Table 3). -/
def syncCarriers (band : Nat) : List Nat := (carriersOf band).filter fun k => k % 4 == 0

/-- Carriers of group `g` of a band. -/
def groupSize (band g : Nat) : Nat :=
  match band with
  | 0 => if g < 12 then 3 else 0
  | 3 => if g < 15 then 14 else 4
  | _ => 1

/-- The group a carrier lies in: runs of equal size in ascending order (Table 3). -/
def groupOfCarrier (band k : Nat) : Nat := (k - bandLow band) / groupSize band 0

/-- The mask that selects every group of a band. -/
def fullMask (band : Nat) : Nat := if band = 0 then 0x0FFF else 0xFFFF

/-- Carriers a tone mask selects. -/
def maskCarriers (band gmask : Nat) : Nat :=
  (List.range 16).foldl (fun a g => a + if bitOf gmask g then groupSize band g else 0) 0

/-- The carriers a tone mask selects, ascending. -/
def usedCarriers (band gmask : Nat) : List Nat :=
  (carriersOf band).filter fun k => bitOf gmask (groupOfCarrier band k)

/-- Data slots of a payload symbol (R43, R44, R48). -/
def dataSlots (band mod gmask : Nat) : Nat :=
  let u := maskCarriers band gmask
  if mod = 3 then 4 * (u - (u + 5) / 6) else u * (mod + 1)

/-- Repetition of a REP code. -/
def repOf (rep : Nat) : Nat := match rep with | 1 => 4 | 2 => 6 | _ => 1

/-- Blocks of the outer code for a payload (R46). -/
def rsBlocks (len : Nat) : Nat := (len + 238) / 239

/-- Coded bits of a payload (R52). -/
def codedBits (len : Nat) : Nat := 2 * (8 * (len + 16 * rsBlocks len) + 6)

/-- Payload symbols (R52). -/
def payloadSymbols (band mod rep gmask len : Nat) : Nat :=
  let m := dataSlots band mod gmask
  if m = 0 then 1024 else (codedBits len * repOf rep + m - 1) / m

/-- Header symbols (Table 6); a robust header goes with repetition (R50). -/
def headerSymbols (band rep : Nat) : Nat :=
  let n := bandCarriers band
  ((if rep = 0 then 172 else 1032) + n - 1) / n

/-- Whether mode, mask and length may be sent or received (R44, R46, R51, R52). -/
def frameValid (band mod rep gmask len : Nat) : Bool :=
  decide (rep < 3) && (rep == 0 || mod == 0) && !(mod == 3 && band == 3) &&
  decide (1 ≤ len) && decide (len ≤ 956) &&
  maskCarriers band gmask != 0 && gmask &&& fullMask band == gmask &&
  decide (payloadSymbols band mod rep gmask len ≤ 1023)

/-- Airtime of a frame, ns: preamble, header and payload (R41, R42). -/
def airtime (band mod rep gmask len : Nat) : Nat :=
  1280000 + 720000 * (headerSymbols band rep + payloadSymbols band mod rep gmask len)

/-- Index of a mode in the tables of required SNR and of TM_MODE: ×6, ×4, DBPSK, DQPSK, D8PSK,
16QAM. -/
def modeIndex (mod rep : Nat) : Nat := match rep with | 2 => 0 | 1 => 1 | _ => mod + 2

/-- MOD and REP of a TM_MODE code; 6 and 7 act as 0 (03 Table 7). -/
def modeOf (tm : Nat) : Nat × Nat :=
  match tm with
  | 1 => (0, 1)
  | 2 => (0, 0)
  | 3 => (1, 0)
  | 4 => (2, 0)
  | 5 => (3, 0)
  | _ => (0, 2)

/-- Required SNR, 0.25 dB (Table 9). -/
def requiredSnr (mode : Nat) : Int := ([-6, 2, 24, 36, 58, 68] : List Int).getD mode 0

/-! ### Scrambling (R45) -/

/-- Bits of bytes, least significant first. -/
def bitsOfBytes (bs : List Byte) : List Bool := bs.flatMap fun b => (List.range 8).map (bitOf b.toNat)

/-- The value of bits, the first least significant. -/
def bitsVal (bs : List Bool) : Nat := bs.foldr (fun b v => b2n b + 2 * v) 0

/-- Bytes of bits, least significant first. -/
def bytesOfBits (bs : List Bool) (n : Nat) : List Byte :=
  (List.range n).map fun i => BitVec.ofNat 8 (bitsVal ((bs.drop (8 * i)).take 8))

/-- The generator x^9 + x^5 + 1 one bit on: its ninth and fifth stages feed the first. -/
def scramblerNext (r : Nat) : Nat := (2 * r + (r / 2 ^ 8 + r / 2 ^ 4) % 2) % 2 ^ 9

/-- Eight output bits of the generator, the first least significant, and its state after them. The output is
the ninth stage (DESIGN CHOICE, log entry 91). -/
def scramblerByte (r : Nat) : Nat × Nat :=
  (List.range 8).foldl (fun a i => (a.1 + a.2 / 2 ^ 8 * 2 ^ i, scramblerNext a.2)) (0, r)

/-- Payload bytes with the generator's output over them from a state; its own inverse. -/
def scrambleFrom : Nat → List Byte → List Byte
  | _, [] => []
  | r, b :: bs => (b ^^^ BitVec.ofNat 8 (scramblerByte r).1) :: scrambleFrom (scramblerByte r).2 bs

/-- The generator is loaded with nine ones at the first payload bit. -/
def scramble (bs : List Byte) : List Byte := scrambleFrom 0x1FF bs

/-! ### The outer code: shortened Reed–Solomon (255,239) (R46)

Elements of GF(256) under x^8 + x^4 + x^3 + x^2 + 1 are numbers below 256. Polynomials are lists, the coefficient
of the highest power first; the first byte of a block has the highest power (log entry 91). -/

/-- The product with x. -/
def gfDouble (a : Nat) : Nat := if a < 128 then 2 * a else (2 * a) ^^^ 0x11D

/-- The product of two elements. -/
def gfMul (a b : Nat) : Nat :=
  (List.range 8).foldl (fun acc i => gfDouble acc ^^^ (if bitOf b (7 - i) then a else 0)) 0

/-- Powers of an element. -/
def gfPow (a : Nat) : Nat → Nat
  | 0 => 1
  | n + 1 => gfMul a (gfPow a n)

/-- α^n. -/
def gfAlpha : Nat → Nat
  | 0 => 1
  | n + 1 => gfDouble (gfAlpha n)

/-- The inverse of an element other than 0: a^254 by squaring. -/
def gfInv (a : Nat) : Nat :=
  (List.range 7).foldl (fun (x : Nat × Nat) _ => let s := gfMul x.2 x.2; (gfMul x.1 s, s)) (1, a) |>.1

/-- The value of a polynomial at a point. -/
def gfEval (p : List Nat) (x : Nat) : Nat := p.foldl (fun acc c => gfMul acc x ^^^ c) 0

/-- The generator polynomial with roots α^0 … α^15, without its leading 1. -/
def rsGen : List Nat :=
  ((List.range 16).foldl (fun p i =>
    List.zipWith (· ^^^ ·) (p ++ [0]) (0 :: p.map (gfMul (gfAlpha i)))) [1]).drop 1

/-- The sixteen parity bytes of a block. -/
def rsParity (block : List Byte) : List Byte :=
  (block.foldl (fun rem b =>
    let f := b.toNat ^^^ rem.headD 0
    List.zipWith (fun r g => r ^^^ gfMul f g) (rem.drop 1 ++ [0]) rsGen) (List.replicate 16 0)).map (BitVec.ofNat 8)

/-- Sizes of the blocks that a payload is divided into (R46). -/
def blockSizes (len : Nat) : List Nat :=
  let n := rsBlocks len
  (List.range n).map fun i => if i < len % n then (len + n - 1) / n else len / n

/-- Pieces of a list with given sizes. -/
def piecesOf {α : Type} : List Nat → List α → List (List α)
  | [], _ => []
  | n :: ns, l => l.take n :: piecesOf ns (l.drop n)

/-- The scrambled payload with the parity of each block after it (R46). -/
def rsEncode (payload : List Byte) : List Byte :=
  (piecesOf (blockSizes payload.length) (scramble payload)).flatMap fun b => b ++ rsParity b

/-- Sixteen syndromes of a received block. -/
def syndromes (w : List Nat) : List Nat := (List.range 16).map fun i => gfEval w (gfAlpha i)

/-- Scaled sum of polynomials whose constant coefficient comes first: `c + d·x^m·b`. -/
def locAdd (c b : List Nat) (d m : Nat) : List Nat :=
  let s := List.replicate m 0 ++ b.map (gfMul d)
  (List.range (max c.length s.length)).map fun i => c.getD i 0 ^^^ s.getD i 0

/-- The shortest recurrence of the syndromes (Berlekamp and Massey): the error locator, constant coefficient
first, and its length. -/
def locator (syn : List Nat) : List Nat × Nat :=
  let r := (List.range 16).foldl (fun (a : List Nat × List Nat × Nat × Nat × Nat) n =>
    let (c, b, l, m, bd) := a
    let d := (List.range (l + 1)).foldl (fun x i => x ^^^ gfMul (c.getD i 0) (syn.getD (n - i) 0)) 0
    if d = 0 then (c, b, l, m + 1, bd)
    else
      let c' := locAdd c b (gfMul d (gfInv bd)) m
      if 2 * l ≤ n then (c', c, n + 1 - l, 1, d) else (c', b, l, m + 1, bd)) ([1], [1], 0, 1, 1)
  (r.1, r.2.2.1)

/-- A block received with at most eight bytes in error, put right, and how many were; none where no codeword
is that near. -/
def rsCorrect (w : List Nat) : Option (List Nat × Nat) :=
  let syn := syndromes w
  if syn.all (· == 0) then some (w, 0)
  else
    let (loc, l) := locator syn
    let omega := (List.range 16).map fun i =>
      (List.range (i + 1)).foldl (fun x j => x ^^^ gfMul (loc.getD j 0) (syn.getD (i - j) 0)) 0
    let slope := (List.range 9).map fun i => if i % 2 = 0 then loc.getD (i + 1) 0 else 0
    let places := (List.range w.length).filter fun j => gfEval loc.reverse (gfInv (gfAlpha j)) == 0
    if 8 < l || places.length != l then none
    else
      let fixed := (List.range w.length).map fun i =>
        let j := w.length - 1 - i
        let x := gfAlpha j
        let xi := gfInv x
        if places.contains j then
          w.getD i 0 ^^^ gfMul x (gfMul (gfEval omega.reverse xi) (gfInv (gfEval slope.reverse xi)))
        else w.getD i 0
      if (syndromes fixed).all (· == 0) then some (fixed, l) else none

/-- The outer decode of a frame: its payload, descrambled and without parity (R64), and the bytes corrected;
none where a block fails. -/
def rsDecode (len : Nat) (coded : List Byte) : Option (List Byte × Nat) :=
  let blocks := (piecesOf ((blockSizes len).map (· + 16)) coded).map fun b => rsCorrect (b.map BitVec.toNat)
  if blocks.all Option.isSome then
    let ok := blocks.filterMap id
    some (scramble ((ok.flatMap fun b => b.1.take (b.1.length - 16)).map (BitVec.ofNat 8)), (ok.map (·.2)).foldl (· + ·) 0)
  else none

/-- The data bytes of the blocks as received, descrambled: what a failed frame is stored with (log entry 91). -/
def rsRaw (len : Nat) (coded : List Byte) : List Byte :=
  scramble ((List.zipWith (fun n b => b.take n) (blockSizes len) (piecesOf ((blockSizes len).map (· + 16)) coded)).flatten)

/-! ### The inner code: constraint length 7, rate 1/2 (R47) -/

/-- Parity of a number below 128. -/
def parity7 (v : Nat) : Bool :=
  let a := v ^^^ v / 16
  let b := a ^^^ a / 4
  (b ^^^ b / 2) % 2 == 1

/-- The two coded bits for seven bits of which the current one is the most significant. -/
def convPair (v : Nat) : Bool × Bool := (parity7 (v &&& 0b1011011), parity7 (v &&& 0b1111001))

/-- The coded bits of a sequence from an encoder state of six bits, the latest most significant. -/
def convFrom : Nat → List Bool → List Bool
  | _, [] => []
  | s, b :: bs =>
    let v := 64 * b2n b + s
    (convPair v).1 :: (convPair v).2 :: convFrom (v / 2) bs

/-- The coded bits with the six tail bits. -/
def convEncode (bits : List Bool) : List Bool := convFrom 0 (bits ++ List.replicate 6 false)

/-- A way to an encoder state: how well it fits, and its bits, the latest first; none where there is no way yet. -/
abbrev Way := Option (Int × List Bool)

/-- The better of two ways. -/
def Way.best : Way → Way → Way
  | some a, some b => if b.1 ≤ a.1 then some a else some b
  | some a, none => some a
  | none, r => r

/-- A way one bit on, its fit changed by `d`. -/
def Way.go (w : Way) (bit : Bool) (d : Int) : Way := w.map fun p => (p.1 + d, bit :: p.2)

/-- What coded bits add to the fit, for values `x` and `y` that are positive for 0. -/
def pairFit (x y : Int) (o : Bool × Bool) : Int := (if o.1 then -x else x) + (if o.2 then -y else y)

/-- The ways with the next bit `bit`, for the pairs of states 2t and 2t + 1 from `t` on. -/
def waysOn (x y : Int) (bit : Bool) : Nat → List Way → List Way
  | t, a :: b :: rest =>
    let v := 64 * b2n bit + 2 * t
    Way.best (a.go bit (pairFit x y (convPair v))) (b.go bit (pairFit x y (convPair (v + 1)))) ::
      waysOn x y bit (t + 1) rest
  | _, _ => []

/-- One step of the sequence decoder: for each of the 64 encoder states, the better of the two ways into it. -/
def viterbiStep (x y : Int) (old : List Way) : List Way := waysOn x y false 0 old ++ waysOn x y true 0 old

/-- Run the sequence decoder over the values of the coded bits. -/
def viterbi : List Int → List Way → List Way
  | x :: y :: rest, old => viterbi rest (viterbiStep x y old)
  | _, old => old

/-- The most likely sequence from the zero state back to it, without its tail (DESIGN CHOICE, log entry 91:
the manual names no inner decoder). -/
def convDecode (soft : List Int) : List Bool :=
  match (viterbi soft (some (0, []) :: List.replicate 63 none)).head? with
  | some (some p) => (p.2.drop 6).reverse
  | _ => []

/-! ### Fill and interleaving (R48, R49) -/

/-- The first of 7, 11, 13, 17 and 19 that shares no factor with M. -/
def slotStep (m : Nat) : Nat := ([7, 11, 13, 17, 19].find? fun f => Nat.gcd f m == 1).getD 7

/-- The slot in its symbol of fill bit `i`. -/
def slotOf (s m i : Nat) : Nat := (slotStep m * (i / s) + 13 * (i % s)) % m

/-- The fill bit in slot `p` of symbol `sym`, of `s` symbols of `m` slots. -/
def fillAt (s m sym p : Nat) : Nat :=
  (((List.range m).find? fun q => slotOf s m (q * s + sym) == p).getD 0) * s + sym

/-- The bits of each symbol's slots: the cyclic fill of the coded bits, interleaved. -/
def interleave (s m : Nat) (coded : List Bool) : List (List Bool) :=
  (List.range s).map fun sym => (List.range m).map fun p => coded.getD (fillAt s m sym p % coded.length) false

/-- The values of `l` coded bits from those of the slots, symbol after symbol: all copies of a bit combined by
their sum (R48; DESIGN CHOICE, log entry 91). -/
def combine (s m l : Nat) (soft : List Int) : List Int :=
  (List.range l).map fun j =>
    ((List.range ((s * m - j + l - 1) / l)).map fun n =>
      let i := j + n * l
      soft.getD ((i % s) * m + slotOf s m i) 0).foldl (· + ·) 0

/-! ### The header (R50, Table 5) -/

/-- `n` low bits of `v` in the opposite order. -/
def revBits : Nat → Nat → Nat
  | 0, _ => 0
  | n + 1, v => v % 2 * 2 ^ n + revBits n (v / 2)

/-- HCS of a header's low 64 bits: CRC-16, bit 0 first, its most significant bit in bit 64 (Table 5). -/
def headerCheck (h : Nat) : Nat :=
  revBits 16 (crc16 ((leBytes 8 h).map fun b => BitVec.ofNat 8 (revBits 8 b.toNat)))

/-- Whether HCS checks. -/
def hcsGood (h : Nat) : Bool := headerCheck h == fld h 79 64

/-- The fields of a header. -/
def tlHeader (h : Nat) : TlHeader :=
  { mod := fld h 3 2, rep := fld h 5 4, gmask := fld h 21 6, len := fld h 31 22, zco := fld h 43 32,
    crel := fld h 46 44, snid := fld h 55 48 }

/-- The 80 bits of a header with its check. -/
def TlHeader.bits (h : TlHeader) : Nat :=
  let v := 1 + h.mod % 4 * 2 ^ 2 + h.rep % 4 * 2 ^ 4 + h.gmask % 2 ^ 16 * 2 ^ 6 + h.len % 2 ^ 10 * 2 ^ 22 +
    h.zco % 2 ^ 12 * 2 ^ 32 + h.crel % 8 * 2 ^ 44 + h.snid % 2 ^ 8 * 2 ^ 48
  v + headerCheck v * 2 ^ 64

/-- Whether a header is a failure (R51). -/
def headerFails (band : Nat) (robust : Bool) (h : Nat) : Bool :=
  let x := tlHeader h
  !hcsGood h || fld h 1 0 != 1 || (robust != (x.rep != 0)) || !frameValid band x.mod x.rep x.gmask x.len

/-- The header that the values of its slots spell (R47–R50). -/
def rxHeader (band : Nat) (robust : Bool) (soft : List Int) : Nat :=
  bitsVal (convDecode (combine (headerSymbols band (b2n robust)) (bandCarriers band) 172 soft))

/-- The coded bytes that the values of the payload's slots spell (R47–R49). -/
def rxCoded (band : Nat) (h : TlHeader) (soft : List Int) : List Byte :=
  bytesOfBits (convDecode (combine (payloadSymbols band h.mod h.rep h.gmask h.len) (dataSlots band h.mod h.gmask)
    (codedBits h.len) soft)) (h.len + 16 * rsBlocks h.len)

/-! ### What a chain puts on the wire (R40–R44) -/

/-- φ(k), in steps of π/8 (R42). -/
def phi (k : Nat) : Nat := k * k % 16

/-- SYNC-A: 256 samples, the carriers with k divisible by 4 at φ(k) (R42). -/
def syncSymbol (band : Nat) : LineSym :=
  ⟨256, 0, (syncCarriers band).map fun k => ⟨k, .unit, phi k⟩⟩

/-- REF: 1,024 samples, every carrier at φ(k), or at φ(k) + π for a robust header (R42). -/
def refSymbol (band : Nat) (robust : Bool) : LineSym :=
  ⟨1024, 0, (carriersOf band).map fun k => ⟨k, .unit, (phi k + if robust then 8 else 0) % 16⟩⟩

/-- Position of a label in a Gray sequence. -/
def grayPos (l : List Nat) (label : Nat) : Nat := (l.findIdx? (· == label)).getD 0

/-- The phase change of a label in a differential mode, in steps of π/8 (Table 4). -/
def phaseChange (mod label : Nat) : Nat :=
  match mod with
  | 0 => 8 * label
  | 1 => 4 * grayPos [0b00, 0b01, 0b11, 0b10] label
  | _ => 2 * grayPos [0b000, 0b001, 0b011, 0b010, 0b110, 0b111, 0b101, 0b100] label

/-- One coordinate of 16QAM for two bits of a label: −3, −1, +1, +3 (Table 4). -/
def qamLevel (two : Nat) : Int := 2 * (grayPos [0b00, 0b01, 0b11, 0b10] two : Nat) - 3

/-- The label of the data carrier numbered `n` with `b` bits a carrier: bit 0 is the first slot's (R43, R49). -/
def labelAt (slots : List Bool) (b n : Nat) : Nat := bitsVal ((slots.drop (b * n)).take b)

/-- A data symbol: 1,024 samples after a prefix of the last 128 (R41). -/
def dataSymbol (tones : List Tone) : LineSym := ⟨1024, 128, tones⟩

/-- The differential symbols that carry slots, each carrier's phase from the one before (Table 4). -/
def diffSymbols (mod : Nat) : List (Nat × Nat) → List (List Bool) → List LineSym
  | _, [] => []
  | last, slots :: rest =>
    let now := (List.range last.length).map fun n =>
      let p := last.getD n (0, 0)
      (p.1, (p.2 + phaseChange mod (labelAt slots (mod + 1) n)) % 16)
    dataSymbol (now.map fun p => ⟨p.1, .unit, p.2⟩) :: diffSymbols mod now rest

/-- The carriers' phases after a run of symbols that began at `last`. -/
def diffEnd (mod : Nat) (last : List (Nat × Nat)) (slots : List (List Bool)) : List (Nat × Nat) :=
  slots.foldl (fun last sl => (List.range last.length).map fun n =>
    let p := last.getD n (0, 0)
    (p.1, (p.2 + phaseChange mod (labelAt sl (mod + 1) n)) % 16)) last

/-- A 16QAM symbol: every sixth used carrier is a pilot at φ(k), the others carry four bits each (R43, R44). -/
def qamSymbol (used : List Nat) (slots : List Bool) : LineSym :=
  dataSymbol ((List.range used.length).map fun u =>
    let k := used.getD u 0
    if u % 6 = 0 then ⟨k, .unit, phi k⟩
    else
      let l := labelAt slots 4 (u - (u + 5) / 6)
      ⟨k, .qam (qamLevel (l % 4)) (qamLevel (l / 4)), phi k⟩)

/-- The symbols of a frame, in order: preamble, header on every carrier, payload on those of the mask. -/
def frameWave (band : Nat) (h : TlHeader) (payload : List Byte) : List LineSym :=
  let robust := h.rep != 0
  let start := (carriersOf band).map fun k => (k, (phi k + if robust then 8 else 0) % 16)
  let head := interleave (headerSymbols band h.rep) (bandCarriers band)
    (convEncode ((List.range 80).map (bitOf h.bits)))
  let body := interleave (payloadSymbols band h.mod h.rep h.gmask payload.length) (dataSlots band h.mod h.gmask)
    (convEncode (bitsOfBytes (rsEncode payload)))
  let used := usedCarriers band h.gmask
  List.replicate 4 (syncSymbol band) ++ [refSymbol band robust] ++ diffSymbols 0 start head ++
    if h.mod = 3 then body.map (qamSymbol used)
    else diffSymbols h.mod ((diffEnd 0 start head).filter fun p => used.contains p.1) body

end Sys2Proof.Machine
end

