-- ==== Sys2Proof/Machine/Pairing.lean ====
section
/-!
DEFINITION. The states of a redundant pair and what moves a chip between them: taking over,
muting, demoting, and the triggers (15_selftest_and_pairing.md R447, R451–R456).
-/
namespace Sys2Proof.Machine

/-- Change the pair logic. -/
def Chip.onPair (c : Chip) (f : Pair → Pair) : Chip := { c with pair := f c.pair }

/-- EPOCH. -/
def Chip.epoch (c : Chip) : Nat := c.fl Reg.BKB_PAIR_STATUS 31 16

/-- Enter a pair state; FAILOVER follows, and a change writes a record (R456). -/
def Chip.pairEnter (c : Chip) (st : Nat) : Chip :=
  let old := c.pairState
  if old = st then c
  else
    let c := (c.setFl Reg.BKB_PAIR_STATUS 2 0 st).setBit Reg.BKB_PAIR_STATUS 9 (decide (3 ≤ st) && decide (st ≤ 5))
    c.record 0x102 (leBytes 1 old ++ leBytes 1 st ++ leBytes 1 (c.fl Reg.BKB_PAIR_STATUS 7 4) ++ leBytes 2 c.epoch)

/-- Send a pair frame (Table 4). -/
def Chip.pairSend (c : Chip) (typ lseq : Nat) (payload : List Byte) : Chip :=
  (c.onPair fun p => { p with
    sent := ⟨typ, c.pairState, lseq, p.rxSeq, c.epoch, c.fl Reg.BKB_NODE 11 0, payload⟩ :: p.sent }).bump
    Reg.BKB_PAIR_TXFRM

/-- Whether the link counts as up (R444). -/
def Chip.pairUp (c : Chip) : Bool := c.pair.aligned && c.pair.alive

/-- LINK_UP follows alignment and signs of life. -/
def Chip.pairLink (c : Chip) : Chip := c.setBit Reg.BKB_PAIR_STATUS 11 c.pairUp

/-- Mute (R453): the values replaced are kept for R454. -/
def Chip.mute (c : Chip) : Chip :=
  let saved : MuteSaved :=
    { lineHalt := c.bit Reg.LMA_CTRL 1, lineRole := c.fl Reg.LMA_NET_CTRL 1 0,
      airHalt := [c.bit (Reg.AIR_MAC_CTRL 0) 1, c.bit (Reg.AIR_MAC_CTRL 1) 1],
      airRole := [c.fl (Reg.AIR_MAC_CFG 0) 1 0, c.fl (Reg.AIR_MAC_CFG 1) 1 0] }
  let c := (c.setBit Reg.LMA_CTRL 1 true).setFl Reg.LMA_NET_CTRL 1 0 0
  let c := (List.range 2).foldl (fun c u =>
    (c.airHalt u).setFl (Reg.AIR_MAC_CFG u) 1 0
      (if c.bit (Reg.AIR_MAC_CFG u) 2 then 0 else 2)) c
  c.onPair fun p => { p with saved := some saved }

/-- The values held before muting return (R454). -/
def Chip.unmute (c : Chip) : Chip :=
  match c.pair.saved with
  | none => c
  | some v =>
    let c := (c.setBit Reg.LMA_CTRL 1 v.lineHalt).setFl Reg.LMA_NET_CTRL 1 0 v.lineRole
    let c := (List.range 2).foldl (fun c u =>
      (c.setBit (Reg.AIR_MAC_CTRL u) 1 (v.airHalt.getD u false)).setFl (Reg.AIR_MAC_CFG u) 1 0
        (v.airRole.getD u 0)) c
    c.onPair fun p => { p with saved := none }

/-- Mute and enter DEMOTED (R453); a chip already muted stays so. -/
def Chip.demote (c : Chip) : Chip := (if c.pairState = 5 then c else c.mute).pairEnter 7

/-- A MUTED chip that hears its partner enters DEMOTED (R454). -/
def Chip.partnerHeard (c : Chip) : Chip := c.when (c.pairState == 5) Chip.demote

/-- Take over (R452); the end state is reached in the same step. -/
def Chip.takeOver (c : Chip) : Chip :=
  let c := (c.bump Reg.BKB_PAIR_TAKEOVERS).pairEnter 3
  let c := c.when c.pairUp fun c => c.pairSend 3 0 []
  let c := (c.setFl Reg.BKB_PAIR_STATUS 31 16 (c.epoch + 1)).setFl Reg.LMA_NET_CTRL 1 0 1
  let c := (List.range 2).foldl (fun c u =>
    c.when (c.fl (Reg.AIR_MAC_CFG u) 1 0 == 2) fun c => c.setFl (Reg.AIR_MAC_CFG u) 1 0 1) c
  c.pairEnter (if c.pairUp then 1 else 6)

/-- A trigger of Table 6 for a standby: `cfg` is its enable in BKB_PAIR_CFG, `seen` its bit of
TRIG_SEEN. An out-of-step standby ignores it unless TAKE_OOS (R449). -/
def Chip.pairTrigger (c : Chip) (cfg seen : Nat) : Chip :=
  if c.pairState = 2 && c.bit Reg.BKB_PAIR_CFG cfg &&
      (!c.bit Reg.BKB_PAIR_STATUS 10 || c.bit Reg.BKB_PAIR_CFG 27) then
    (c.setBit Reg.BKB_PAIR_STATUS seen true).takeOver
  else c

/-- Trigger HB. -/
def Chip.trigHb (c : Chip) : Chip := c.pairTrigger 23 4

/-- Trigger MISS3. -/
def Chip.trigMiss3 (c : Chip) : Chip := c.pairTrigger 24 5

end Sys2Proof.Machine
end

