-- ==== Sys2Proof/Machine/Line.lean ====
section
/-!
DEFINITION. The Line Modem Array: zero crossings, lanes, transmit chains, the packing queue and
phase detection (02_line_modem_array.md R35–R72), and the beacon schedule of a cell
(03_line_network.md R78, R80), which the chains must keep clear of.
-/
namespace Sys2Proof.Machine

/-- Change the LMA. -/
def Chip.onLma (c : Chip) (f : Lma → Lma) : Chip := { c with lma := f c.lma }

/-- Whether the LMA runs: present, clocked, out of reset (00 R3, 01 R24). -/
def Chip.lmaUp (c : Chip) : Bool := !c.gated 2

/-- A lane. -/
def Chip.lane (c : Chip) (n : Nat) : Lane := Tab.get (fun _ => Lane.initial) c.lma.lanes n

/-- Give a lane a value; LMA_LANE_STATn shows its phase. -/
def Chip.setLane (c : Chip) (n : Nat) (x : Lane) : Chip :=
  (c.onLma fun l => { l with lanes := Tab.put (fun _ => Lane.initial) l.lanes n x }).setFl
    (Reg.LMA_LANE_STAT n) 31 30
    (match x.phase with | .idle => 0 | .header => 1 | .payload => 2 | .held => 3)

/-- INPUT of a lane or cell configuration word. -/
def cfgInput (v : Nat) : Nat := fld v 27 26

/-- BAND of a lane or cell configuration word. -/
def cfgBand (v : Nat) : Nat := fld v 25 24

/-- Whether a lane receives a frame's symbols. -/
def Lane.receiving (x : Lane) : Bool := x.phase == .header || x.phase == .payload

/-- Whether a frame is in progress on an input. -/
def Chip.inputBusy (c : Chip) (input : Nat) : Bool :=
  (List.range 24).any fun m => (c.lane m).receiving && cfgInput (c.lane m).cfg.toNat == input

/-- The gain of an input in 6 dB steps: as the automatic control has it, or fixed (Table 16). Before any frame it is
that of the noise floor, a free one (R37; log entry 1). -/
def Chip.inputGain (c : Chip) (input : Nat) : Nat :=
  if c.bit (Reg.LMA_IN_CFG input) 1 then (Tab.get (fun _ => none) c.lma.gains input).getD (Config.idleGain input % 8)
  else c.fl (Reg.LMA_IN_CFG input) 6 4

/-- Give the automatic gain control of an input a gain. -/
def Chip.setGain (c : Chip) (input gain : Nat) : Chip :=
  c.onLma fun l => { l with gains := Tab.put (fun _ => none) l.gains input (some gain) }

/-- Between frames the automatic gain follows the noise floor, which the manual does not give: once the last frame
in progress on an input has ended, its gain is a free one (R37; log entry 1). -/
def Chip.gainFollow (c : Chip) (input : Nat) : Chip :=
  if c.bit (Reg.LMA_IN_CFG input) 1 && !c.inputBusy input then
    let x := c.free 1
    x.2.setGain input (leVal x.1 % 8)
  else c

/-- A lane that received a frame's symbols does so no longer, and stands as `x`. -/
def Chip.laneLeaves (c : Chip) (n : Nat) (x : Lane) : Chip :=
  let was := c.lane n
  let c := c.setLane n x
  if was.receiving then c.gainFollow (cfgInput was.cfg.toNat) else c

/-- A lane becomes idle. -/
def Chip.laneIdle (c : Chip) (n : Nat) : Chip := c.laneLeaves n { c.lane n with phase := .idle, frame := none }

/-- A chain. -/
def Chip.chain (c : Chip) (n : Nat) : LineChain := Tab.get (fun _ => LineChain.initial) c.lma.chains n

/-- Give a chain a value. -/
def Chip.setChain (c : Chip) (n : Nat) (x : LineChain) : Chip :=
  c.onLma fun l => { l with chains := Tab.put (fun _ => LineChain.initial) l.chains n x }

/-- A zero-crossing reference. -/
def Chip.zcRef (c : Chip) (n : Nat) : ZcRef := Tab.get (fun _ => ZcRef.initial) c.lma.zc n

/-- Give a reference a value. -/
def Chip.setZc (c : Chip) (n : Nat) (x : ZcRef) : Chip :=
  c.onLma fun l => { l with zc := Tab.put (fun _ => ZcRef.initial) l.zc n x }

/-! ### Zero crossings (R39) -/

/-- The reference number a two-bit field names; 3 is treated as 0. -/
def refOf (v : Nat) : Nat := if v % 4 = 3 then 0 else v % 4

/-- The mean of a list, 0 when it is empty. -/
def meanOf (l : List Nat) : Nat := if l.length = 0 then 0 else l.foldl (· + ·) 0 / l.length

/-- LMA_ZC_PERIOD shows the mean period of a reference: over the last 16 periods, or over as many as are known
until there are 16, in 10 ns rounded down (DESIGN CHOICE, log entry 92). -/
def Chip.zcShow (c : Chip) (n : Nat) : Chip := c.wr Reg.LMA_ZC_PERIOD ((meanOf (c.zcRef n).periods / 10) % 2 ^ 24)

/-- The reference that LMA_PH_CFG selects. -/
def Chip.phRef (c : Chip) : Nat := refOf (c.fl Reg.LMA_PH_CFG 1 0)

/-- A write has changed LMA_PH_CFG from selecting `was`: LMA_ZC_PERIOD is that of the reference selected now, 0 until
one of its periods is known (log entry 92). -/
def Chip.refChange (c : Chip) (was : Nat) : Chip := if c.phRef = was then c else c.zcShow c.phRef

/-- The reference of a chain's ZCO (LMA_TX_CFGn.ZC). -/
def Chip.chainRef (c : Chip) (m : Nat) : Nat := refOf (c.fl (Reg.LMA_TX_CFG m) 28 27)

/-- ZC_CROSSING: the stamp less LMA_ZC_COMPn; after a loss the second crossing restores the
reference; LMA_ZC_PERIOD follows the selected reference. -/
def Chip.zcCrossing (c : Chip) (n : Nat) (t : BitVec 64) : Chip :=
  let z := c.zcRef n
  let at' := t - BitVec.ofNat 64 (c.fl (Reg.LMA_ZC_COMP n) 15 0)
  let periods := match z.last with
    | some p => (((at' - p).toNat) :: z.periods).take 16
    | none => z.periods
  let back := z.lost && decide (1 ≤ z.regained)
  let z' : ZcRef :=
    { last := some at', lost := z.lost && !back,
      regained := if z.lost && !back then z.regained + 1 else 0, periods := periods }
  let c := (c.setZc n z').when back fun c => c.setBit Reg.LMA_STATUS n false
  c.when (c.phRef == n && periods != []) fun c => c.zcShow n

/-- ZC_LOST. -/
def Chip.zcLost (c : Chip) (n : Nat) : Chip :=
  (c.setZc n ⟨none, true, 0, []⟩).raise Reg.LMA_STATUS n

/-- Offset from the last accepted crossing of a reference to a time, in whole 10 µs units, rounded down; 4,095 when
the reference is lost (R63, R68). Longer offsets than the field holds show 4,094 (DESIGN CHOICE, log entry 92). -/
def Chip.zcOffset (c : Chip) (n : Nat) (t : BitVec 64) : Nat :=
  let z := c.zcRef n
  match z.last with
  | some p => if z.lost then 4095 else min 4094 ((t.toNat - p.toNat) / 10000)
  | none => 4095

/-! ### Lanes (R53–R59) -/

/-- Whether a chain's blanking covers an input and band (R61). -/
def Chip.blanked (c : Chip) (input band : Nat) : Bool :=
  (List.range 3).any fun n =>
    c.fl (Reg.LMA_TX_CFG n) 30 29 == input && (c.chain n).blank.any (·.contains band)

/-- Whether a lane is tuned to an input and band. -/
def Lane.on (x : Lane) (input band : Nat) : Bool :=
  cfgInput x.cfg.toNat == input && cfgBand x.cfg.toNat == band

/-- The lowest-numbered enabled idle lane of an input and band. A lane whose written configuration is not yet in force
is passed over until LANE_CFG_APPLY, so a detection between the two can be a miss (DESIGN CHOICE, log entry 92). -/
def Chip.freeLane (c : Chip) (input band : Nat) : Option Nat :=
  (List.range 24).find? fun n =>
    let x := c.lane n
    x.phase == .idle && !x.pending && x.cfg.msb && x.on input band

/-- The largest SYNC-A power among the frames being received on an input and band: with several in progress the
strongest is the one that a capture must exceed (DESIGN CHOICE, log entry 92). -/
def Chip.powerOn (c : Chip) (input band : Nat) : Option Int :=
  (List.range 24).foldl (fun m n =>
    let x := c.lane n
    if x.receiving && x.on input band then
      match m with
      | none => some x.power.toInt
      | some v => some (max v x.power.toInt)
    else m) none

/-- PREAMBLE_DETECTED: the gain, capture, the choice of the lane (R37, R53, R54, R61). The gain is that of any preamble
detected, one that no lane is free for among them. A preamble that capture refuses is counted nowhere (DESIGN CHOICE,
log entry 92). -/
def Chip.preamble (c : Chip) (input band : Nat) (power : BitVec 16) (gain : Nat) (ts : BitVec 64) :
    Chip :=
  if !c.lmaUp || !c.bit Reg.LMA_CTRL 0 || !c.bit (Reg.LMA_IN_CFG input) 0 || c.blanked input band then c
  else
    let captured := match c.powerOn input band with
      | none => true
      | some p => decide (p + 4 * (c.fl Reg.LMA_DET_CFG 15 8 : Nat) ≤ power.toInt)
    let c := c.when (c.bit (Reg.LMA_IN_CFG input) 1 && !c.inputBusy input) fun c => c.setGain input gain
    if !captured then c
    else match c.freeLane input band with
    | none => c.bump (Reg.LMA_DET_MISS (input * 4 + band))
    | some n =>
      let tr := c.zcOffset c.phRef ts
      c.setLane n { c.lane n with phase := .header, power := power, ts := ts, tr := tr }

/-- MARGIN of an SNR in a mode, saturating (R67). -/
def marginOf (snr : BitVec 8) (mode : Nat) : BitVec 8 :=
  BitVec.ofInt 8 (clampI (-128) 127 (snr.toInt - requiredSnr mode))

/-- HEADER_DECODED: the slots' values are combined, decoded and judged (R47–R51, R55, R67). -/
def Chip.headerDecoded (c : Chip) (n : Nat) (robust : Bool) (soft : List Int) (snr : BitVec 8) : Chip :=
  let x := c.lane n
  if !c.lmaUp || x.phase != .header then c
  else
    let cfg := x.cfg.toNat
    let h := rxHeader (cfgBand cfg) robust soft
    if headerFails (cfgBand cfg) robust h then (c.bump (Reg.LMA_LANE_HCSF n)).laneIdle n
    else
      let t := tlHeader h
      let margin := marginOf snr (modeIndex t.mod t.rep)
      let c := c.wr (Reg.LMA_LANE_SNR n) (snr.toNat + 256 * margin.toNat)
      if (t.snid ^^^ fld cfg 23 16) &&& fld cfg 15 8 != 0 then (c.bump (Reg.LMA_LANE_ABAN n)).laneIdle n
      else
        (c.setLane n { x with phase := .payload, hdr := t, snr := snr, margin := margin }).setFl
          (Reg.LMA_LANE_STAT n) 15 0 (headerSymbols (cfgBand cfg) t.rep)

/-- LANE_CFG_WRITE: in force at once on an idle lane (R56). -/
def Chip.laneCfgWrite (c : Chip) (n : Nat) (v : Nat) : Chip :=
  let r := Reg.LMA_LANE_CFG n
  let c := c.wr r (fld v 31 31 * 2 ^ 31 + fld v 27 8 * 2 ^ 8 + fld v 2 1 * 2)
  let x := c.lane n
  if x.phase = .idle then c.setLane n { x with cfg := c.rdW r, pending := false }
  else c.setLane n { x with pending := true }

/-- LANE_CFG_APPLY. -/
def Chip.laneCfgApply (c : Chip) (n : Nat) : Chip :=
  let x := c.lane n
  if x.phase = .idle then c.setLane n { x with cfg := c.rdW (Reg.LMA_LANE_CFG n), pending := false }
  else c

/-! ### Packing queue (R57, R64–R66, R490) -/

/-- The words a frame takes in direct mode. -/
def LineFrame.words (f : LineFrame) : List Word :=
  (pieces 4 (f.record ++ f.payload ++ List.replicate ((4 - f.payload.length % 4) % 4) 0)).map fun b =>
    BitVec.ofNat 32 (leVal b)

/-- Words waiting in direct mode (LMA_PQ_LEVEL). -/
def Lma.level (l : Lma) : Nat := l.pq.foldl (fun a f => a + f.length) 0

/-- Fields of a routing-table entry's last word: HANDLE. -/
def Chip.rtHandle (c : Chip) (d : Nat) : Nat := c.fl (Reg.RT_WORD d 3) 19 0

/-- Whether a routing-table entry is valid. -/
def Chip.rtValid (c : Chip) (d : Nat) : Bool := decide (d < 32768) && c.bit (Reg.RT_WORD d 0) 15

/-- The frame-arrived operand of a line frame (06 R173). -/
def Chip.lineOperand (c : Chip) (dest slot : Nat) : AllocOp :=
  let src := c.rd (Reg.FLO_SRC_CFG 0)
  let known := c.rtValid dest
  { cls := BitVec.ofNat 6 src, src := 0, hvalid := known, fmtv := bitOf src 16, cordv := false, kind := 1,
    smn := if known then BitVec.ofNat 32 (c.rtHandle dest + c.fl Reg.BKB_NODE 11 0 * 2 ^ 20) else 0,
    cord := 0, buf := BitVec.ofNat 11 slot, fmt := BitVec.ofNat 8 (fld src 15 8), arg := 0 }

/-- A frame is handed to the packing queue, if it finds a place. In buffer mode the queue takes no frame while the
allocation queue of the LMA is full (06 Table 5). A line that the plan refuses is
dropped like any write of the LMA, and the operand is posted all the same (01 R27; DESIGN CHOICE, log entry 92). -/
def Chip.packFrame (c : Chip) (f : LineFrame) : Option Chip :=
  if c.lma.direct then
    if c.lma.level + f.words.length ≤ 1024 then some (c.onLma fun l => { l with pq := l.pq ++ [f.words] })
    else none
  else match c.poolFind .lma 1 with
  | none => none
  | some s =>
    if !c.portGated 5 && !c.allocRoom 0 then none
    else
      let c := ((c.poolTake .lma s 1).dmaWrite 8 false (slotAddr s) (f.record ++ f.payload)).2
      some (if f.rawFail then c
        else c.onLma fun l => { l with storing := l.storing ++ [c.lineOperand f.dest s] })

/-- A lane hands its frame on, or holds it (R57). -/
def Chip.handOn (c : Chip) (n : Nat) (f : LineFrame) : Chip :=
  match c.packFrame f with
  | some c => c.laneIdle n
  | none => c.laneLeaves n { c.lane n with phase := .held, frame := some f }

/-- HELD_FRAME_PACKED. -/
def Chip.heldPacked (c : Chip) (n : Nat) : Chip :=
  match (c.lane n).phase, (c.lane n).frame with
  | .held, some f => if c.lmaUp then c.handOn n f else c
  | _, _ => c

/-- FRAME_HOLD_DISCARD. -/
def Chip.holdDiscard (c : Chip) (n : Nat) : Chip :=
  if (c.lane n).phase = .held then (c.bump Reg.LMA_PQ_DROP).laneIdle n else c

/-- Whether the LMA's clock runs: one that is gated or stopped keeps its state (14 R412, R416). -/
def Chip.lmaClocked (c : Chip) : Bool := !c.fused 2 && !c.crp.closed.contains 2 && c.domainUp 11

/-- FRAME_STORED: the operand is posted, once the source's queue has room. One that was whole before the LMA went into
reset still is (14 R418). -/
def Chip.frameStored (c : Chip) : Chip :=
  match c.lma.storing with
  | [] => c
  | a :: rest =>
    if !c.lmaClocked then c
    else if c.portGated 5 then (c.onLma fun l => { l with storing := rest }).postLost 8
    else if c.allocRoom 0 then (c.onLma fun l => { l with storing := rest }).allocPost a
    else c

/-- A write to a PB_FREE register (R65, 04 R121). -/
def Chip.pbFree (c : Chip) (p : Pool) (slot : Nat) : Chip :=
  if c.isRun p slot then c.poolGive p slot else c.freeErr p

/-- The next word of the direct-mode queue is read. -/
def Chip.pqNext (c : Chip) : Chip :=
  match c.lma.pq with
  | (w :: ws) :: rest =>
    (c.onLma fun l => { l with pq := if ws = [] then rest else ws :: rest, stalled := false }).answer
      (.data (leBytes 4 w.toNat))
  | _ => c

/-- PQ_DATA_READ (R66). -/
def Chip.pqRead (c : Chip) : Chip :=
  if !c.lma.direct then c.answer (.data (leBytes 4 0))
  else if c.lma.pq = [] then (c.onLma fun l => { l with stalled := true }).answer .stalled
  else c.pqNext

/-- PQ_DATA_STALL_END. -/
def Chip.pqStallEnd (c : Chip) : Chip := if c.lma.stalled && c.lma.pq != [] then c.pqNext else c

/-- PQ_FLUSH: a frame of which a part has been read counts as one dropped (DESIGN CHOICE, log entry 92). -/
def Chip.pqFlush (c : Chip) : Chip :=
  if c.lma.direct then (c.bumpBy Reg.LMA_PQ_DROP c.lma.pq.length).onLma fun l => { l with pq := [] } else c

/-- PQ_MODE_APPLY: the frames that stand in the queue stay there (DESIGN CHOICE, log entry 92). -/
def Chip.pqModeApply (c : Chip) : Chip := c.onLma fun l => { l with direct := c.bit Reg.LMA_PQ_CTRL 0 }

/-! ### Phase detection (R68–R71) -/

/-- A phase record. -/
def Chip.phaseRec (c : Chip) (d : Nat) : PhaseRec := Tab.get (fun _ => PhaseRec.initial) c.lma.phase d

/-- Give a destination its phase record. -/
def Chip.setPhaseRec (c : Chip) (d : Nat) (x : PhaseRec) : Chip :=
  c.onLma fun l => { l with phase := Tab.put (fun _ => PhaseRec.initial) l.phase d x }

/-- Confidence: agreeing frames among the last 64 classified (R70). -/
def PhaseRec.confidence (x : PhaseRec) : Nat := (x.window.filter (· == x.committed)).length

/-- The relation of a frame (R68): 0–5, 6 ambiguous, 7 not measured. `p` is the period in 10 ns. -/
def relationOf (p tol tr zco crel : Nat) : Nat :=
  if zco = 4095 ∨ p ≤ 1000 * zco ∨ 6 ≤ crel ∨ tr = 4095 then 7
  else
    let d := ((1000 * ((tr : Int) - zco)) % (p : Int)).toNat
    let r := (12 * d + p) / (2 * p)
    let off := if r * p ≤ 6 * d then 6 * d - r * p else r * p - 6 * d
    if tol * p < 60 * off then 6 else (r % 6 + crel) % 6

/-- The relation of a lane's frame. -/
def Chip.frameRelation (c : Chip) (x : Lane) : Nat :=
  if !c.bit Reg.LMA_PH_CFG 31 || !bitOf x.cfg.toNat 2 then 7
  else relationOf (c.fl Reg.LMA_ZC_PERIOD 23 0) (clamp 1 29 (c.fl Reg.LMA_PH_CFG 15 8)) x.tr x.hdr.zco x.hdr.crel

/-- A record after a classified frame, and whether it commits (R70). The run stops at 63, the width of the field
that shows it (Table 16), and a run already past COMMIT, as after a PH_LOAD or a lower COMMIT, commits at the next
frame: "reaches" is read as "has come to" (DESIGN CHOICE, log entry 92). -/
def PhaseRec.classify (x : PhaseRec) (commit rel : Nat) : PhaseRec × Bool :=
  let run := if rel = x.candidate then min 63 (x.run + 1) else 1
  let evt := decide (commit ≤ run) && rel != x.committed
  ({ committed := if evt then rel else x.committed, candidate := rel, run := run,
     window := (rel :: x.window).take 64 }, evt)

/-- A phase notice is offered to BAL: while BAL's side is down it is discarded and counts as lost (14 R418). -/
def Chip.offerPhase (c : Chip) (x : PhaseNotice) : Chip :=
  if c.sideDown 9 then c.dcqLost 11 1 else c.onLma fun l => { l with notices := l.notices ++ [x] }

/-- A frame's relation updates its destination's record; a commit sends a notice to BAL. Returns
COMMIT_EVT. -/
def Chip.phaseUpdate (c : Chip) (dest rel : Nat) : Bool × Chip :=
  if rel = 6 then (false, c.bump Reg.LMA_PH_AMBIG)
  else if rel = 7 ∨ dest = 0xFFFF then (false, c)
  else
    let (x, evt) := (c.phaseRec dest).classify (max 1 (c.fl Reg.LMA_PH_CFG 21 16)) rel
    let c := c.setPhaseRec dest x
    (evt, c.when evt fun c => c.offerPhase ⟨BitVec.ofNat 20 (c.rtHandle dest), rel, x.confidence, c.rtValid dest, dest⟩)

/-- PH_LOAD: a relation is restored without confidence, or the record cleared to unknown. To lose its confidence the
record loses its window of classified frames; its candidate and run stay. Relation 6, to which Table 16 gives no
meaning, is ignored (DESIGN CHOICE, log entry 92). -/
def Chip.phLoad (c : Chip) (v : Nat) : Chip :=
  let d := v % 2 ^ 15
  match fld v 18 16 with
  | 7 => c.setPhaseRec d PhaseRec.initial
  | 6 => c
  | r => c.setPhaseRec d { c.phaseRec d with committed := r, window := [] }

/-! ### The beacon schedule of a cell (03 R73, R75, R78, R80) -/

/-- Whether a cell is enabled. -/
def Chip.cellOn (c : Chip) (k : Nat) : Bool := c.bit (Reg.LMA_CELL_CFG k) 31

/-- Band of a cell. -/
def Chip.cellBand (c : Chip) (k : Nat) : Nat := cfgBand (c.rd (Reg.LMA_CELL_CFG k))

/-- Input of a cell. -/
def Chip.cellInput (c : Chip) (k : Nat) : Nat := cfgInput (c.rd (Reg.LMA_CELL_CFG k))

/-- SNID of a cell. -/
def Chip.cellSnid (c : Chip) (k : Nat) : Nat := c.fl (Reg.LMA_CELL_CFG k) 23 16

/-- REP of a cell's beacons: ×6, or ×4 with BREP (03 R80). -/
def Chip.beaconRep (c : Chip) (k : Nat) : Nat := if c.bit (Reg.LMA_CELL_CFG k) 11 then 1 else 2

/-- Airtime of a cell's beacon, ns. -/
def Chip.beaconAirtime (c : Chip) (k : Nat) : Nat :=
  airtime (c.cellBand k) 0 (c.beaconRep k) (fullMask (c.cellBand k)) 24

/-- The least e permitted: the shortest interval of at least four beacon airtimes (03 R80). -/
def Chip.minExp (c : Chip) (k : Nat) : Nat :=
  ((List.range 6).find? fun e => decide (4 * c.beaconAirtime k ≤ 180000000 * 2 ^ e)).getD 5

/-- BI_EXP as set; 6 and 7 act as 5. -/
def Chip.setExp (c : Chip) (k : Nat) : Nat := min 5 (c.fl (Reg.LMA_CELL_CFG k) 14 12)

/-- e in use. -/
def Chip.cellExp (c : Chip) (k : Nat) : Nat := max (c.setExp k) (c.minExp k)

/-- Beacon interval, ns. -/
def Chip.interval (c : Chip) (k : Nat) : Nat := 180000000 * 2 ^ c.cellExp k

/-- Offset of the schedule, ns: OFFSET reduced modulo the interval in ticks. -/
def Chip.beaconOfs (c : Chip) (k : Nat) : Nat :=
  720000 * (c.fl (Reg.LMA_CELL_BOFS k) 12 0 % (250 * 2 ^ c.cellExp k))

/-- Whether a cell's beacon is scheduled at a network time (R78). -/
def Chip.beaconDue (c : Chip) (k t : Nat) : Bool :=
  ((t : Int) - c.beaconOfs k) % (c.interval k : Int) == 0

/-- BSN of a scheduled beacon (R78). -/
def Chip.bsnAt (c : Chip) (k t : Nat) : Nat :=
  ((((t : Int) - c.beaconOfs k) / (c.interval k : Int)) % 65536).toNat

/-- The first scheduled launch of a cell at or after a time. -/
def Chip.nextBeacon (c : Chip) (k t : Nat) : Nat :=
  t + ((-((t : Int) - c.beaconOfs k)) % (c.interval k : Int)).toNat

/-- Whether a frame that starts at `t` on an input would not end 1 tick before the next beacon of
a cell sharing its chain (03 R79). -/
def Chip.beaconHolds (c : Chip) (input t air : Nat) : Bool :=
  c.fl Reg.LMA_NET_CTRL 1 0 == 1 &&
  (List.range 12).any fun k =>
    c.cellOn k && c.cellInput k == input && decide (c.nextBeacon k t < t + air + 720000)

/-! ### Transmit chains (R60–R63) -/

/-- The enabled chain bound to an input (R60). -/
def Chip.chainOf (c : Chip) (input : Nat) : Option Nat :=
  (List.range 3).find? fun n => c.bit (Reg.LMA_TX_CFG n) 31 && c.fl (Reg.LMA_TX_CFG n) 30 29 == input

/-- Whether the line transmitters work: the LMA enabled and running, not halted, no HOLD or RIDE. -/
def Chip.lineTxOn (c : Chip) : Bool :=
  c.lmaUp && c.working && c.bit Reg.LMA_CTRL 0 && !c.bit Reg.LMA_CTRL 1

/-- NO_CHAIN of each cell: it is enabled and no chain is bound to its input (03 R74). -/
def Chip.noChain (c : Chip) : Chip :=
  (List.range 12).foldl (fun c k =>
    c.setBit (Reg.LMA_CELL_STAT k) 17 (c.cellOn k && (c.chainOf (c.cellInput k)).isNone)) c

/-- TX_CFG_WRITE (R60). -/
def Chip.txCfgWrite (c : Chip) (n v : Nat) : Chip :=
  let w := fld v 31 26 * 2 ^ 26 + fld v 20 12 * 2 ^ 12
  let clash := bitOf v 31 && (List.range 3).any fun m =>
    m != n && c.bit (Reg.LMA_TX_CFG m) 31 && c.fl (Reg.LMA_TX_CFG m) 30 29 == fld v 30 29
  if clash then ((c.wr (Reg.LMA_TX_CFG n) (putBit w 31 false)).cfgErr 2).noChain
  else (c.wr (Reg.LMA_TX_CFG n) w).noChain

/-- Address of the request at a chain's consumer index. -/
def Chip.txqAddr (c : Chip) (n : Nat) : Nat :=
  c.fl (Reg.LMA_TXQ_BASE_LO n) 31 5 * 32 + c.fl (Reg.LMA_TXQ_BASE_HI n) 15 0 * 2 ^ 32 +
    32 * c.fl (Reg.LMA_TXQ_CI n) 5 0

/-- A request finishes: STATUS, SENT_AT, and the consumer index (Table 7). -/
def Chip.txComplete (c : Chip) (n status sentAt : Nat) : Chip :=
  let c := (c.dmaWrite 8 false (c.txqAddr n + 24) (leBytes 1 status ++ leBytes 3 0 ++ leBytes 4 sentAt)).2
  (c.wr (Reg.LMA_TXQ_CI n) ((c.fl (Reg.LMA_TXQ_CI n) 5 0 + 1) % 64)).setChain n { c.chain n with tx := none }

/-- Whether a request is refused as invalid. -/
def requestInvalid (r : List Byte) : Bool :=
  let m := leAt r 18 1
  !frameValid (fld m 5 4) (fld m 1 0) (fld m 3 2) (leAt r 20 2) (leAt r 16 2 % 1024)

/-- TX_REQUEST_FETCH: the request at the consumer index is judged (R62, 03 R79). Where several refusals hold, a disabled
or halted chain is reported first, then an invalid request, then a late one; SENT_AT of a request that was not
sent is 0; an entry or a payload that cannot be read is taken as zero bytes (DESIGN CHOICE, log entry 92). -/
def Chip.txFetch (c : Chip) (n : Nat) : Chip :=
  if !c.lmaUp || !c.working || (c.chain n).tx.isSome ||
      c.fl (Reg.LMA_TXQ_PI n) 5 0 == c.fl (Reg.LMA_TXQ_CI n) 5 0 then c
  else
    let (_, r, c) := c.dmaRead 8 false (c.txqAddr n) 32
    let m := leAt r 18 1
    let len := leAt r 16 2 % 1024
    let launch := leAt r 0 8
    let start := if launch = 0 then c.time.toNat else launch
    let air := airtime (fld m 5 4) (fld m 1 0) (fld m 3 2) (leAt r 20 2) len
    if !c.bit Reg.LMA_CTRL 0 || c.bit Reg.LMA_CTRL 1 || !c.bit (Reg.LMA_TX_CFG n) 31 then c.txComplete n 4 0
    else if requestInvalid r then c.txComplete n 3 0
    else if launch ≠ 0 ∧ launch + 50000 < c.time.toNat then c.txComplete n 2 0
    else if c.beaconHolds (c.fl (Reg.LMA_TX_CFG n) 30 29) start air then
      if launch ≠ 0 then c.txComplete n 2 0 else c
    else
      let (_, data, c) := c.dmaRead 8 false (leAt r 8 6) len
      let tx : LineTx :=
        { kind := .request, band := fld m 5 4, mode := m % 16, gmask := leAt r 20 2,
          crel := leAt r 19 1 % 8, snid := leAt r 22 1, zco := 4095, payload := data,
          launchAt := BitVec.ofNat 64 launch, sentAt := none, header := 0, wave := [], atten := 0, clip := 0 }
      c.setChain n { c.chain n with tx := some tx }

/-- The header of a frame as sent (R50). -/
def LineTx.head (x : LineTx) (zco : Nat) : TlHeader :=
  { mod := x.mode % 4, rep := x.mode / 4, gmask := x.gmask, len := x.payload.length, zco := zco, crel := x.crel, snid := x.snid }

/-- What a chain sends from time `t`: ZCO filled, the header and the symbols formed (R40–R50, R63). -/
def LineTx.launched (x : LineTx) (cfg zco : Nat) (t : BitVec 64) : LineTx :=
  { x with
    zco := zco, sentAt := some t, header := BitVec.ofNat 80 (x.head zco).bits,
    wave := frameWave x.band (x.head zco) x.payload, atten := fld cfg 20 16, clip := 12 + min 12 (fld cfg 15 12) }

/-- The lanes that receive on an input and a set of bands abandon their frames (R61). -/
def Chip.abandonOn (c : Chip) (input : Nat) (bands : List Nat) : Chip :=
  (List.range 24).foldl (fun c m =>
    let x := c.lane m
    c.when (x.receiving && cfgInput x.cfg.toNat == input && bands.contains (cfgBand x.cfg.toNat))
      fun c => (c.bump (Reg.LMA_LANE_ABAN m)).laneIdle m) c

/-- A chain begins to send: ZCO is filled and the detectors are blanked, beside those that an earlier frame still blanks
(R61, R63). -/
def Chip.txStart (c : Chip) (n : Nat) (tx : LineTx) (t : BitVec 64) : Chip :=
  let cfg := c.rd (Reg.LMA_TX_CFG n)
  let zco := c.zcOffset (c.chainRef n) (t + 640000)
  let bands := if bitOf cfg 26 then [tx.band] else [0, 1, 2, 3]
  (c.setChain n { c.chain n with tx := some (tx.launched cfg zco t), blank := (c.chain n).blank ++ [bands] }).abandonOn
    (fld cfg 30 29) bands

/-- A crossing accepted before the first sample of REF, 640 µs after the launch, is the one from which ZCO counts (R63).
The attenuation and the limit in force at the launch stay. -/
def LineTx.recrossed (x : LineTx) (c : Chip) (n : Nat) (crossing : BitVec 64) : LineTx :=
  match x.sentAt with
  | some t =>
    if t.toNat ≤ crossing.toNat ∧ crossing.toNat ≤ t.toNat + 640000 then
      { x.launched (c.rd (Reg.LMA_TX_CFG n)) (c.zcOffset (c.chainRef n) (t + 640000)) t with atten := x.atten, clip := x.clip }
    else x
  | none => x

/-- The frames on the wire take up a crossing accepted for a reference. -/
def Chip.recross (c : Chip) (ref : Nat) (crossing : BitVec 64) : Chip :=
  (List.range 3).foldl (fun c n =>
    c.when (c.chainRef n == ref) fun c =>
      c.setChain n { c.chain n with tx := (c.chain n).tx.map fun x => x.recrossed c n crossing }) c

/-- TX_LAUNCH: a request with a LAUNCH_AT waits for it and goes out within 100 ns of it, or, where it was reached up to
50 µs late or a step of the time has come between, at once; later than that, or where a beacon is in the way, it
completes LATE. One without waits for the beacon. A chain that has been disabled or halted meanwhile refuses it
(R62, R63, 03 R79, 10 R323; log entry 92). -/
def Chip.txLaunch (c : Chip) (n : Nat) (t : BitVec 64) : Chip :=
  match (c.chain n).tx with
  | none => c
  | some tx =>
    let held := c.beaconHolds (c.fl (Reg.LMA_TX_CFG n) 30 29) t.toNat
      (airtime tx.band (tx.mode % 4) (tx.mode / 4) tx.gmask tx.payload.length)
    if tx.sentAt.isSome || !c.lmaUp || !c.working then c
    else if !c.lineTxOn || !c.bit (Reg.LMA_TX_CFG n) 31 then c.txComplete n 4 0
    else if tx.launchAt = 0 then if held then c else c.txStart n tx t
    else if t.toNat + 100 < tx.launchAt.toNat then c
    else if held || decide (tx.launchAt.toNat + 50000 < t.toNat) then c.txComplete n 2 0
    else c.txStart n tx t

/-- BLANKING_END: the blanking of the chain's earliest frame that has ended is over; that of a frame on the wire stays. -/
def Chip.blankingEnd (c : Chip) (n : Nat) : Chip :=
  let kept := b2n ((c.chain n).tx.any fun t => t.sentAt.isSome)
  if (c.chain n).blank.length ≤ kept then c else c.setChain n { c.chain n with blank := (c.chain n).blank.drop 1 }

/-- HALT_TX: a write of LMA_CTRL. -/
def Chip.lmaCtrlWrite (c : Chip) (v : Nat) : Chip := c.wr Reg.LMA_CTRL (v % 4)

/-- TX_HALTED: a frame on the wire is cut short, one still waiting is refused (R62, R63). -/
def Chip.txHalted (c : Chip) (n : Nat) : Chip :=
  if !c.bit Reg.LMA_CTRL 1 then c
  else match (c.chain n).tx with
  | none => c
  | some tx =>
    match tx.kind, tx.sentAt with
    | .request, some t => c.txComplete n 5 (t.toNat % 2 ^ 32)
    | .request, none => c.txComplete n 4 0
    | _, _ => c.setChain n { c.chain n with tx := none }

/-- The frames on the wire take up the crossing just accepted. -/
def Chip.zcTaken (c : Chip) (n : Nat) : Chip :=
  match (c.zcRef n).last with
  | some t => c.recross n t
  | none => c

/-! ### Meanings -/

/-- ZC_CROSSING (R39). -/
def execZcCrossing (ref : Fin 3) (t : BitVec 64) (s : State) : Host.Outcome State Fault Refusal :=
  s.onChip fun c => c.when c.lmaUp fun c => (c.zcCrossing ref.val t).zcTaken ref.val

/-- ZC_LOST (R39). -/
def execZcLost (ref : Fin 3) (s : State) : Host.Outcome State Fault Refusal :=
  s.onChip fun c => c.when c.lmaUp fun c => c.zcLost ref.val

/-- PREAMBLE_DETECTED (R53). -/
def execPreambleDetected (input band : Fin 4) (power : BitVec 16) (gain : Fin 8) (ts : BitVec 64)
    (s : State) : Host.Outcome State Fault Refusal :=
  s.onChip fun c => c.preamble input.val band.val power gain.val ts

/-- HEADER_DECODED (R51). -/
def execHeaderDecoded (lane : Fin 24) (robust : Bool) (soft : List Int) (snr : BitVec 8) (s : State) :
    Host.Outcome State Fault Refusal :=
  s.onChip fun c => c.headerDecoded lane.val robust soft snr

/-- HELD_FRAME_PACKED (R57). -/
def execHeldFramePacked (lane : Fin 24) (s : State) : Host.Outcome State Fault Refusal :=
  s.onChip fun c => c.heldPacked lane.val

/-- FRAME_HOLD_DISCARD (R57). -/
def execFrameHoldDiscard (lane : Fin 24) (s : State) : Host.Outcome State Fault Refusal :=
  s.onChip fun c => c.when c.lmaUp fun c => c.holdDiscard lane.val

/-- FRAME_STORED (R65). -/
def execFrameStored (s : State) : Host.Outcome State Fault Refusal := s.onChip Chip.frameStored

/-- PACKET_BUFFER_FREE (R65). -/
def execPacketBufferFree (pool : Pool) (v : Word) (s : State) : Host.Outcome State Fault Refusal :=
  s.onChip fun c => c.onReg pool.freeReg anyIni fun c => c.pbFree pool (v.toNat % 2048)

/-- PQ_DATA_READ (R66). -/
def execPqDataRead (s : State) : Host.Outcome State Fault Refusal :=
  s.onChip fun c =>
    if c.reaches Reg.LMA_PQ_DATA then c.pqRead
    else (c.unreached Reg.LMA_PQ_DATA anyIni false).answer (.data (leBytes 4 0))

/-- PQ_DATA_STALL_END (R66). -/
def execPqDataStallEnd (s : State) : Host.Outcome State Fault Refusal := s.onChip fun c => c.when c.lmaUp Chip.pqStallEnd

/-- PQ_FLUSH (R66). -/
def execPqFlush (s : State) : Host.Outcome State Fault Refusal :=
  s.onChip fun c => c.onReg Reg.LMA_PQ_CTRL anyIni Chip.pqFlush

/-- PQ_MODE_APPLY (R66). -/
def execPqModeApply (s : State) : Host.Outcome State Fault Refusal := s.onChip fun c => c.when c.lmaUp Chip.pqModeApply

/-- LANE_CFG_WRITE (R56). -/
def execLaneCfgWrite (lane : Fin 24) (v : Word) (s : State) : Host.Outcome State Fault Refusal :=
  s.onChip fun c => c.onReg (Reg.LMA_LANE_CFG lane.val) anyIni fun c => c.laneCfgWrite lane.val v.toNat

/-- LANE_CFG_APPLY (R56). -/
def execLaneCfgApply (lane : Fin 24) (s : State) : Host.Outcome State Fault Refusal :=
  s.onChip fun c => c.when c.lmaUp fun c => c.laneCfgApply lane.val

/-- TX_CFG_WRITE (R60). -/
def execTxCfgWrite (chain : Fin 3) (v : Word) (s : State) : Host.Outcome State Fault Refusal :=
  s.onChip fun c => c.onReg (Reg.LMA_TX_CFG chain.val) anyIni fun c => c.txCfgWrite chain.val v.toNat

/-- TX_REQUEST_FETCH (R62). -/
def execTxRequestFetch (chain : Fin 3) (s : State) : Host.Outcome State Fault Refusal :=
  s.onChip fun c => c.txFetch chain.val

/-- TX_LAUNCH (R63). -/
def execTxLaunch (chain : Fin 3) (t : BitVec 64) (s : State) : Host.Outcome State Fault Refusal :=
  s.onChip fun c => c.txLaunch chain.val t

/-- BLANKING_END (R61). -/
def execBlankingEnd (chain : Fin 3) (s : State) : Host.Outcome State Fault Refusal :=
  s.onChip fun c => c.when c.lmaUp fun c => c.blankingEnd chain.val

/-- HALT_TX (R63). -/
def execHaltTx (v : Word) (s : State) : Host.Outcome State Fault Refusal :=
  s.onChip fun c => c.onReg Reg.LMA_CTRL anyIni fun c => c.lmaCtrlWrite v.toNat

/-- TX_HALTED (R63). -/
def execTxHalted (chain : Fin 3) (s : State) : Host.Outcome State Fault Refusal :=
  s.onChip fun c => c.when c.lmaUp fun c => c.txHalted chain.val

/-- PH_LOAD (R71). -/
def execPhLoad (v : Word) (s : State) : Host.Outcome State Fault Refusal :=
  s.onChip fun c => c.onReg Reg.LMA_PH_LOAD anyIni fun c => c.phLoad v.toNat

end Sys2Proof.Machine
end

