-- ==== Sys2Proof/Machine/LineNet.lean ====
section
/-!
DEFINITION. The line network: cells and beacons, acknowledgement, link cost, the routing table,
and what a decoded frame does (03_line_network.md R73–R104, 02_line_modem_array.md R57, R59).
-/
namespace Sys2Proof.Machine

/-- What the LMA keeps of a cell. -/
def Chip.lineCell (c : Chip) (k : Nat) : LineCell := Tab.get (fun _ => LineCell.initial) c.lma.cells k

/-- Give a cell a value. -/
def Chip.setLineCell (c : Chip) (k : Nat) (x : LineCell) : Chip :=
  c.onLma fun l => { l with cells := Tab.put (fun _ => LineCell.initial) l.cells k x }

/-- The configuration in force for what a cell hears and answers (Table 8). -/
def Chip.cellCfg (c : Chip) (k : Nat) : Nat := (c.lineCell k).cfg.toNat

/-- A cell's written configuration comes into force. -/
def Chip.cellApply (c : Chip) (k : Nat) : Chip :=
  c.setLineCell k { c.lineCell k with cfg := c.rdW (Reg.LMA_CELL_CFG k) }

/-- The enabled cell on an input and band with an SNID. -/
def Chip.cellOf (c : Chip) (input band snid : Nat) : Option Nat :=
  (List.range 12).find? fun k =>
    c.cellOn k && bitOf (c.cellCfg k) 31 && cfgInput (c.cellCfg k) == input && cfgBand (c.cellCfg k) == band &&
      fld (c.cellCfg k) 23 16 == snid

/-- CELL_CFG_WRITE (R73). A change of a cell that sends or expects beacons is in force from its next
launch (Table 8), any other at once (DEDUCED, log entry 89). -/
def Chip.cellCfgWrite (c : Chip) (k v : Nat) : Chip :=
  let w := fld v 31 31 * 2 ^ 31 + fld v 27 16 * 2 ^ 16 + fld v 14 10 * 2 ^ 10
  let clash := bitOf v 31 && (List.range 12).any fun j =>
    j != k && c.cellOn j && c.cellInput j == cfgInput v && c.cellBand j == cfgBand v
  let role := c.fl Reg.LMA_NET_CTRL 1 0
  let c := (if clash then (c.wr (Reg.LMA_CELL_CFG k) (putBit w 31 false)).cfgErr 2 else c.wr (Reg.LMA_CELL_CFG k) w).noChain
  if c.cellOn k && bitOf (c.cellCfg k) 31 && (role == 1 || role == 2) then c else c.cellApply k

/-! ### Routing table (R92–R101, Table 7) -/

/-- A field of a routing-table entry: word, bits [hi:lo]. -/
def Chip.rt (c : Chip) (d w hi lo : Nat) : Nat := c.fl (Reg.RT_WORD d w) hi lo

/-- Set a field of a routing-table entry. -/
def Chip.setRt (c : Chip) (d w hi lo v : Nat) : Chip := c.setFl (Reg.RT_WORD d w) hi lo v

/-- DIRECT of an entry. -/
def Chip.rtDirect (c : Chip) (d : Nat) : Bool := c.bit (Reg.RT_WORD d 0) 31

/-- The cost of a link with filtered margin `q`, in its eight bits, and loss level (R93). -/
def linkCost (q loss : Nat) : Nat :=
  if loss = 7 then 255 else ((80 - sgn 8 q / 2) + 16 * loss).toNat

/-- The link cost of an entry. -/
def Chip.rtLink (c : Chip) (d : Nat) : Nat := linkCost (c.rt d 1 7 0) (c.rt d 2 21 19)

/-- ROUTE_COST of an entry. -/
def Chip.rtCost (c : Chip) (d : Nat) : Nat := c.rt d 1 19 8

/-- A sweep starts (R100). -/
def Chip.sweepStart (c : Chip) : Chip := c.setBit Reg.LMA_NET_STATUS 0 true

/-- HOPS, NEXT and ROUTE_COST that an entry should have from its parent's present ones (R99).
More than 15 hops, or a sum beyond the field, is unreachable. -/
def Chip.rtCompute (c : Chip) (d : Nat) : Nat × Nat × Nat :=
  let p := c.rt d 0 14 0
  let link := c.rtLink d
  if c.rtDirect d then (1, d, if !c.rtValid d || link = 255 then 0xFFF else link)
  else
    let hops := c.rt p 1 23 20 + 1
    let cost := c.rtCost p + link
    (min 15 hops, c.rt p 0 30 16,
      if !c.rtValid d || !c.rtValid p || link = 255 || c.rtCost p = 0xFFF || 15 < hops || 0xFFF < cost
      then 0xFFF else cost)

/-- Recompute one entry. -/
def Chip.rtUpdate (c : Chip) (d : Nat) : Chip :=
  let (hops, next, cost) := c.rtCompute d
  let c := c.when (c.rtValid d) fun c => (c.setRt d 1 23 20 hops).setRt d 0 30 16 next
  c.setRt d 1 19 8 cost

/-- Entries of which one of the first two words differs from its reset value, in index order: the only ones that
can be valid or have a ROUTE_COST other than 0xFFF, so that a sweep leaves all others as they are. -/
def Chip.rtListed (c : Chip) : List Nat :=
  ((c.regs.filter fun e => decide (0x280000 ≤ e.1) && decide (e.1 < 0x300000) && decide (e.1 % 16 < 8)).map fun e =>
    (e.1 - 0x280000) / 16).eraseDups

/-- Whether HOPS of an entry exceeds `n`, by R99 from entry to parent; of a parent that is not valid the field
stands as it is. -/
def Chip.rtDeeper (c : Chip) : Nat → Nat → Bool
  | 0, _ => true
  | n + 1, d =>
    let p := c.rt d 0 14 0
    if c.rtDirect d then false else if c.rtValid p then c.rtDeeper n p else decide (n < c.rt p 1 23 20)

/-- Whether the step from one table to another makes HOPS of some valid entry, a descendant of the one written
perhaps, exceed 15 (R99): a loop does so too. -/
def Chip.rtTooDeep (c c' : Chip) : Bool :=
  c'.rtListed.any fun e => c'.rtValid e && c'.rtDeeper 15 e && !(c.rtValid e && c.rtDeeper 15 e)

/-- Passes over the table in index order until nothing changes (R100). -/
def Chip.rtPasses (c : Chip) (ds : List Nat) : Nat → Chip
  | 0 => c
  | n + 1 =>
    let c' := ds.foldl Chip.rtUpdate c
    if c'.regs = c.regs then c else c'.rtPasses ds n

/-- Whether walking up to 15 parents from `p` meets `d`. -/
def Chip.rtMeets (c : Chip) (d : Nat) : Nat → Nat → Bool
  | 0, _ => false
  | n + 1, p => p == d || (!c.rtDirect p && c.rtMeets d n (c.rt p 0 14 0))

/-- The result of an offer with its link (R101), judged in the order of the rule. -/
def Chip.offerResult (c : Chip) (v lk : Nat) : Nat :=
  let d := v % 2 ^ 15
  let p := fld v 30 16
  let direct := bitOf v 31
  let link := linkCost (fld lk 7 0) (fld lk 10 8)
  let cost := if direct then link else link + c.rtCost p
  if !c.rtValid d then 6
  else if c.bit (Reg.RT_WORD d 1) 29 then 2
  else if !direct && (!c.rtValid p || c.rtCost p == 0xFFF) then 5
  else if !direct && decide (15 ≤ c.rt p 1 23 20) then 4
  else if !direct && c.rtMeets d 16 p then 3
  else if c.rtCost d = 0xFFF ∨ cost + c.fl Reg.LMA_NET_CTRL 15 8 ≤ c.rtCost d then 0
  else 1

/-- An accepted offer is written: PARENT, DIRECT, MARGIN_F and LOSS. -/
def Chip.offerWrite (c : Chip) (v lk : Nat) : Chip :=
  let d := v % 2 ^ 15
  (((c.setRt d 0 14 0 (fld v 30 16)).setRt d 0 31 31 (fld v 31 31)).setRt d 1 7 0 (fld lk 7 0)).setRt d 2 21 19 (fld lk 10 8)

/-- An offer is judged; an accepted one is written, and starts a sweep where it changes the entry (R100). -/
def Chip.offerJudge (c : Chip) (v lk : Nat) : Chip :=
  let r := c.offerResult v lk
  let c := c.wr Reg.LMA_RT_RESULT r
  c.when (r == 0) fun c =>
    let d := v % 2 ^ 15
    let t := c.offerWrite v lk
    t.when ((List.range 3).any fun w => t.rdW (Reg.RT_WORD d w) != c.rdW (Reg.RT_WORD d w)) Chip.sweepStart

/-- RT_OFFER: judged now with the link that stands in LMA_RT_OFFER_LINK, or when the sweep ends. -/
def Chip.rtOffer (c : Chip) (v : Word) : Chip :=
  if c.bit Reg.LMA_NET_STATUS 0 then
    (c.setBit Reg.LMA_RT_RESULT 31 true).onLma fun l => { l with offers := l.offers ++ [(v, c.rdW Reg.LMA_RT_OFFER_LINK)] }
  else c.offerJudge v.toNat (c.rd Reg.LMA_RT_OFFER_LINK)

/-- Offers that wait are judged, each on what those before it have left, until one of them starts a sweep; RESULT then
shows that one waits again. -/
def Chip.offersJudge (c : Chip) : List (Word × Word) → Chip
  | [] => c.onLma fun l => { l with offers := [] }
  | (v, lk) :: rest =>
    let t := c.offerJudge v.toNat lk.toNat
    if t.bit Reg.LMA_NET_STATUS 0 then
      (t.when (!rest.isEmpty) fun t => t.setBit Reg.LMA_RT_RESULT 31 true).onLma fun l => { l with offers := rest }
    else t.offersJudge rest

/-- ROUTE_SWEEP: the passes end when nothing changes. A value moves on by at least one entry in each pass, so that as
many passes as there are entries, and 16 for the costs of a loop, settle any table. -/
def Chip.routeSweep (c : Chip) : Chip :=
  if !c.lmaUp || !c.bit Reg.LMA_NET_STATUS 0 then c
  else
    let c := (c.rtPasses c.rtListed (c.rtListed.length + 16)).setBit Reg.LMA_NET_STATUS 0 false
    c.offersJudge c.lma.offers

/-- Word 0 of an entry with its fields written: PARENT, VALID, DIRECT. -/
def Chip.rtRoute (c : Chip) (d v : Nat) : Chip :=
  let r := Reg.RT_WORD d 0
  c.wr r (putFld (putFld (c.rd r) 15 0 v) 31 31 (fld v 31 31))

/-- Whether a write of word 0 is ignored: it would make PARENT, where it counts, equal to d, or some HOPS exceed
15 (R99, Table 7). -/
def Chip.rtRefused (c : Chip) (d v : Nat) : Bool :=
  (!bitOf v 31 && v % 2 ^ 15 == d) || c.rtTooDeep (c.rtRoute d v)

/-- RT_ENTRY_WRITE: one word of an entry (Table 7, R99). -/
def Chip.rtWrite (c : Chip) (d w v : Nat) : Chip :=
  let r := Reg.RT_WORD d w
  match w with
  | 0 =>
    if c.rtRefused d v then c.raise Reg.LMA_NET_STATUS 2
    else (c.rtRoute d v).when ((c.rtRoute d v).rd r != c.rd r) Chip.sweepStart
  | 1 =>
    let new := putFld (putFld (c.rd r) 7 0 v) 30 24 (fld v 30 24)
    (c.wr r new).when (fld new 7 0 != c.fl r 7 0) Chip.sweepStart
  | 2 => (c.wr r (v % 2 ^ 27)).when (fld v 21 19 != c.fl r 21 19) Chip.sweepStart
  | _ => c.wr r (v % 2 ^ 29)

/-- A loss on an entry's link (R94): a sweep starts where LOSS changes, which it no longer does at 7 (R100). -/
def Chip.linkLoss (c : Chip) (d : Nat) : Chip :=
  let old := c.rt d 2 21 19
  let loss := min 7 (old + 1)
  let c := (c.setRt d 2 21 19 loss).setRt d 2 26 24 0
  (c.when (loss == 4) fun c => c.setRt d 1 28 28 0).when (loss != old) Chip.sweepStart

/-- RT_LOSS: charged to a valid direct link. -/
def Chip.rtLoss (c : Chip) (d : Nat) : Chip := c.when (c.rtValid d && c.rtDirect d) fun c => c.linkLoss d

/-- A frame decoded from a direct station (R92). -/
def Chip.linkGood (c : Chip) (d : Nat) (margin : BitVec 8) : Chip :=
  let old := sgn 8 (c.rt d 1 7 0)
  let new := uns 8 (old + (margin.toInt - old) / 8)
  let succ := c.rt d 2 26 24 + 1
  let loss := c.rt d 2 21 19
  let c' := c.setRt d 1 7 0 new
  let c' := if succ = 8 then (c'.setRt d 2 26 24 0).setRt d 2 21 19 (loss - 1) else c'.setRt d 2 26 24 succ
  c'.when (new != c.rt d 1 7 0 || c'.rt d 2 21 19 != loss) Chip.sweepStart

/-- NOISE_CLEAR (R95): only an entry whose word 2 is written can hold a count. -/
def Chip.noiseClear (c : Chip) : Chip :=
  ((c.regs.filter fun e => decide (0x280000 ≤ e.1) && decide (e.1 < 0x300000) && e.1 % 16 == 8).map fun e =>
    (e.1 - 0x280000) / 16).foldl (fun c d => c.setRt d 2 23 22 0) c

/-- A decode failure on a cell: attributed to the open expectation, or counted as noise (R95). -/
def Chip.lineFailure (c : Chip) (k : Nat) (impulsive : Bool) : Chip :=
  match (c.lineCell k).expect with
  | none => c.bump (Reg.LMA_CELL_NOISE k)
  | some d =>
    let c := c.bump Reg.LMA_NET_ATTRIB
    if !impulsive then c.linkLoss d
    else if 2 ≤ c.rt d 2 23 22 then (c.setRt d 2 23 22 0).linkLoss d
    else c.setRt d 2 23 22 (c.rt d 2 23 22 + 1)

/-! ### Beacons (R74, R78–R83, R102) -/

/-- The beacon payload (Table 2). -/
def Chip.beaconPayload (c : Chip) (k t : Nat) : List Byte :=
  let e := c.cellExp k
  let total := 250 * 2 ^ e
  let period := (c.beaconAirtime k + 719999) / 720000
  let cap := min (c.fl (Reg.LMA_CELL_CAP k) 12 0) (total - period - 2)
  leBytes 1 (16 * c.fl (Reg.LMA_CELL_CFG k) 10 10) ++ leBytes 1 (k + 16 * e) ++ leBytes 2 (c.bsnAt k t) ++
    leBytes 8 t ++ leBytes 2 cap ++ leBytes 2 (c.fl Reg.BKB_NODE 11 0) ++ leBytes 2 0x8000 ++ leBytes 2 0 ++
    leBytes 4 0

/-- MIN_BI shows whether the minimum interval stands in for a shorter one (R80). -/
def Chip.minBi (c : Chip) (k : Nat) : Chip := c.setBit (Reg.LMA_CELL_STAT k) 16 (decide (c.setExp k < c.minExp k))

/-- Whether a cell's beacon falls due at a time: the LMA runs and is enabled, coordinates the cell, and the schedule has
a launch there that the network time has not passed, as a step forward may have (R78, 10 R323). -/
def Chip.beaconFalls (c : Chip) (k t : Nat) : Bool :=
  c.lmaUp && c.working && c.bit Reg.LMA_CTRL 0 && c.cellOn k && c.fl Reg.LMA_NET_CTRL 1 0 == 1 && c.beaconDue k t &&
    decide (c.time.toNat ≤ t)

/-- BEACON_LAUNCH: sent on the cell's chain, or skipped and counted (R74, R78, R79). One that HALT_TX stops is counted
and shown only where no chain exists, and with LMA_CTRL.ENABLE = 0 none falls due (DESIGN CHOICE, log entry 93). -/
def Chip.beaconLaunch (c : Chip) (k : Nat) (t : BitVec 64) : Chip :=
  if !c.beaconFalls k t.toNat || (c.bit Reg.LMA_CTRL 1 && (c.chainOf (c.cellInput k)).isSome) then c
  else
    let c := (c.cellApply k).setFl (Reg.LMA_CELL_STAT k) 15 0 (c.bsnAt k t.toNat)
    let c := c.minBi k
    match c.chainOf (c.cellInput k) with
    | none => (c.setBit (Reg.LMA_CELL_STAT k) 17 true).bump (Reg.LMA_CELL_SKIP k)
    | some n =>
      let c := c.setBit (Reg.LMA_CELL_STAT k) 17 false
      if (c.chain n).tx.any fun x => x.sentAt.isSome then c.bump (Reg.LMA_CELL_SKIP k)
      else
        let band := c.cellBand k
        let tx : LineTx :=
          { kind := .beacon k, band := band, mode := 4 * c.beaconRep k, gmask := fullMask band, crel := 0,
            snid := c.cellSnid k, zco := 4095, payload := c.beaconPayload k t.toNat, launchAt := t, sentAt := none,
            header := 0, wave := [], atten := 0, clip := 0 }
        c.txStart n tx t

/-- Insert a launch, a time and a cell, in order of time; of two at one time the lower index comes first (DESIGN
CHOICE, log entry 93). -/
def insLaunch (x : Nat × Nat) : List (Nat × Nat) → List (Nat × Nat)
  | [] => [x]
  | y :: ys => if x.1 < y.1 || (x.1 == y.1 && decide (x.2 < y.2)) then x :: y :: ys else y :: insLaunch x ys

/-- The scheduled launches of an input's cells in the three seconds up to a time, in order. Beacons fill less than
four fifths of a chain's time (R80), so within them the chain has stood idle. -/
def Chip.launchesTo (c : Chip) (input t : Nat) : List (Nat × Nat) :=
  ((List.range 12).filter fun k => c.cellOn k && c.cellInput k == input).foldl (fun l k =>
    ((List.range 18).map fun n => c.nextBeacon k (t - 3000000000) + n * c.interval k).foldl (fun l x =>
      if x ≤ t then insLaunch (x, k) l else l) l) []

/-- Whether a scheduled beacon of a cell is sent: no beacon of another cell of its input is still being sent, which
was itself sent (R79, R102). -/
def Chip.beaconSent (c : Chip) (k t : Nat) : Bool :=
  ((c.launchesTo (c.cellInput k) t).foldl (fun (a : Nat × Bool) x =>
    if a.1 ≤ x.1 then (x.1 + c.beaconAirtime x.2, a.2 || (x.1 == t && x.2 == k)) else a) (0, false)).2

/-- STANDBY_BEACON_WATCH: an expected beacon was heard, or raises MISS (R102, R103). Each beacon unheard while MISS is
at 3 sets MISS3 and signals the pairing logic again (DESIGN CHOICE, log entry 93). -/
def Chip.beaconWatch (c : Chip) (k : Nat) (t : BitVec 64) : Chip :=
  if !c.lmaUp || c.fl Reg.LMA_NET_CTRL 1 0 != 2 || !c.cellOn k || !c.beaconDue k t.toNat ||
      !c.beaconSent k t.toNat then c
  else
    let c := c.cellApply k
    let bsn := c.bsnAt k t.toNat
    let heard := (c.lineCell k).heard.any fun h =>
      h.1 == bsn && decide (t.toNat + 590000 ≤ h.2.toNat) && decide (h.2.toNat ≤ t.toNat + 690000)
    let c := ((c.setFl (Reg.LMA_CELL_STAT k) 15 0 bsn).minBi k).setLineCell k { c.lineCell k with heard := none }
    if heard then c.wr (Reg.LMA_CELL_MISS k) 0
    else
      let miss := min 3 (c.fl (Reg.LMA_CELL_MISS k) 1 0 + 1)
      let c := c.wr (Reg.LMA_CELL_MISS k) miss
      c.when (miss == 3) fun c => (c.raise Reg.LMA_NET_STATUS 1).trigMiss3

/-- A decoded beacon with a cell's SNID from another node: partner or foreign (R83). -/
def Chip.beaconHeard (c : Chip) (k : Nat) (p : List Byte) (ts : BitVec 64) : Chip :=
  let origin := leAt p 14 2 % 4096
  if origin = c.fl Reg.BKB_NODE 11 0 then c
  else if origin = c.fl Reg.BKB_PAIR_CFG 11 0 &&
      (c.bit Reg.BKB_PAIR_CFG 31 || c.fl Reg.LMA_NET_CTRL 1 0 == 2) then
    let c := (c.setBit (Reg.LMA_CELL_STAT k) 19 true).partnerHeard
    c.when (!bitOf (leAt p 0 1) 5) fun c =>
      c.setLineCell k { c.lineCell k with heard := some (leAt p 2 2, ts) }
  else (c.bump (Reg.LMA_CELL_FOREIGN k)).setBit (Reg.LMA_CELL_STAT k) 18 true

/-! ### MAC frames (R84–R92) -/

/-- A decoded frame of a cell with a MAC header: duplicates, link cost, acknowledgement. -/
def Chip.macHeard (c : Chip) (k : Nat) (p : List Byte) (margin : BitVec 8) : Chip :=
  let src := leAt p 2 2
  let seq := leAt p 10 1
  let c := if !c.rtValid src then c
    else
      let c := if c.rt src 3 28 28 = 1 ∧ c.rt src 3 27 20 = seq then c.bump Reg.LMA_NET_DUP
        else (c.setRt src 3 27 20 seq).setRt src 3 28 28 1
      c.when (c.rtDirect src) fun c => c.linkGood src margin
  c.when (bitOf (leAt p 0 1) 4 && leAt p 4 2 == 0x8000 && c.bit Reg.LMA_NET_CTRL 2 &&
      c.fl Reg.LMA_NET_CTRL 1 0 == 1) fun c =>
    c.onLma fun l => { l with acks := l.acks ++ [⟨k, src, BitVec.ofNat 8 seq, margin⟩] }

/-- Whether an acknowledgement goes out at all: AUTOACK is on and the device coordinates (R89, R102), and the
destination, where it is one of the routing table, can be reached (R100). -/
def Chip.ackWanted (c : Chip) (dest : Nat) : Bool :=
  c.bit Reg.LMA_NET_CTRL 2 && c.fl Reg.LMA_NET_CTRL 1 0 == 1 && (decide (32768 ≤ dest) || c.rtCost dest != 0xFFF)

/-- MOD and REP, and the mask, of a frame to a destination: its tone map, else DBPSK ×6 with full mask (R89). -/
def Chip.ackMode (c : Chip) (band dest : Nat) : (Nat × Nat) × Nat :=
  if c.rtValid dest && c.rt dest 1 28 28 == 1 then (modeOf (c.rt dest 2 18 16), c.rt dest 2 15 0)
  else ((0, 2), fullMask band)

/-- The payload of an acknowledgement (Table 4). No register holds a sequence number of the LMA's own, so that the SEQ
of its MAC header repeats the one acknowledged (DESIGN CHOICE, log entry 93). -/
def AckDue.payload (a : AckDue) : List Byte :=
  leBytes 1 0x22 ++ leBytes 1 0 ++ leBytes 2 0x8000 ++ leBytes 2 a.dest ++ leBytes 2 0x8000 ++
    leBytes 2 a.dest ++ [a.seq] ++ leBytes 1 0 ++ [a.seq, a.margin]

/-- The acknowledgement as the cell's chain sends it. -/
def Chip.ackFrame (c : Chip) (a : AckDue) (t : BitVec 64) : LineTx :=
  let band := cfgBand (c.cellCfg a.cell)
  let m := c.ackMode band a.dest
  { kind := .ack, band := band, mode := m.1.1 + 4 * m.1.2, gmask := m.2, crel := 0,
    snid := fld (c.cellCfg a.cell) 23 16, zco := 4095, payload := a.payload, launchAt := t, sentAt := none,
    header := 0, wave := [], atten := 0, clip := 0 }

/-- Whether a chain can start a frame at a time: the transmitters work, it is not sending, and no beacon is in the
way (R89, R79). -/
def Chip.chainFree (c : Chip) (n input t : Nat) (x : LineTx) : Bool :=
  c.lineTxOn && !((c.chain n).tx.any fun y => y.sentAt.isSome) &&
    !c.beaconHolds input t (airtime x.band (x.mode % 4) (x.mode / 4) x.gmask x.payload.length)

/-- AUTOACK: the acknowledgement due is sent on the cell's chain, or counted as skipped (R89). One that is no longer
wanted is dropped and counted nowhere (DESIGN CHOICE, log entry 93). A request that waits on the chain for its
launch time is fetched again later. -/
def Chip.autoack (c : Chip) (t : BitVec 64) : Chip :=
  match c.lma.acks with
  | [] => c
  | a :: rest =>
    let c := c.onLma fun l => { l with acks := rest }
    let input := cfgInput (c.cellCfg a.cell)
    if !c.ackWanted a.dest then c
    else match c.chainOf input with
      | none => c.bump Reg.LMA_NET_ACKSKIP
      | some n =>
        if c.chainFree n input t.toNat (c.ackFrame a t) then c.txStart n (c.ackFrame a t) t
        else c.bump Reg.LMA_NET_ACKSKIP

/-- A frame that the coordinator has sent opens an expectation for a direct station (R95). -/
def Chip.expectOpen (c : Chip) (input : Nat) (tx : LineTx) : Chip :=
  let ftype := leAt tx.payload 0 1
  let dst := leAt tx.payload 4 2
  let asks := bitOf ftype 4 || ftype % 16 == 3 || ftype % 16 == 6
  match c.cellOf input tx.band tx.snid with
  | some k =>
    c.when (asks && ftype % 16 != 0 && c.rtValid dst && c.rtDirect dst) fun c =>
      c.setLineCell k { c.lineCell k with expect := some dst }
  | none => c

/-- TX_FRAME_END (02 R62). -/
def Chip.txFrameEnd (c : Chip) (n : Nat) : Chip :=
  match (c.chain n).tx with
  | none => c
  | some tx =>
    match tx.sentAt with
    | none => c
    | some t =>
      let c := c.setChain n { c.chain n with last := some tx }
      match tx.kind with
      | .request => (c.txComplete n 1 (t.toNat % 2 ^ 32)).expectOpen (c.fl (Reg.LMA_TX_CFG n) 30 29) tx
      | _ => c.setChain n { c.chain n with tx := none }

/-! ### A decoded frame (02 R57, R59, R64; 03 R86) -/

/-- The received frame record (02 Table 8). -/
def frameRecord (x : Lane) (n : Nat) (input band : Nat) (impulsive raw : Bool) (phrel : Nat)
    (rscor : Byte) (gsnr : List Byte) (dest : Nat) : List Byte :=
  let h := x.hdr
  leBytes 8 x.ts.toNat ++ leBytes 2 h.len ++ leBytes 1 (h.mod + 4 * h.rep + 16 * band + 64 * input) ++
    leBytes 1 (n + 32 * b2n impulsive + 64 * b2n raw) ++ leBytes 2 h.gmask ++ leBytes 1 h.snid ++
    leBytes 1 h.crel ++ leBytes 2 h.zco ++ leBytes 2 x.tr ++ leBytes 1 phrel ++ [x.snr, x.margin, rscor] ++
    padTo 16 gsnr ++ leBytes 2 dest ++ leBytes 22 0

/-- What the values of a lane's payload slots decode to (02 R45–R49). -/
def Lane.decoded (x : Lane) (soft : List Int) : Option (List Byte × Nat) :=
  rsDecode x.hdr.len (rxCoded (cfgBand x.cfg.toNat) x.hdr soft)

/-- The payload of a lane's frame: as decoded, or, of one that failed, the data bytes as they came in. -/
def Lane.payload (x : Lane) (soft : List Int) : List Byte :=
  match x.decoded soft with
  | some d => d.1
  | none => rsRaw x.hdr.len (rxCoded (cfgBand x.cfg.toNat) x.hdr soft)

/-- On a standby, the configuration of a cell is in force from the launch of the beacon that a time stamp belongs to, so
that this beacon is matched by it (Table 8, R102). -/
def Chip.standbyApply (c : Chip) (ts : Nat) : Chip :=
  if c.fl Reg.LMA_NET_CTRL 1 0 == 2 then
    (List.range 12).foldl (fun c k =>
      c.when (c.cellOn k && decide (690000 ≤ ts) && decide (c.nextBeacon k (ts - 690000) ≤ ts - 590000)) fun c => c.cellApply k) c
  else c

/-- FRAME_DECODED: the payload is decoded; the network logic's part, the record, and the hand-over (02 R57). `rise` is
how far the largest noise estimate of a payload symbol lies above that of the header, dB (02 R59). -/
def Chip.frameDecoded (c : Chip) (n : Nat) (soft : List Int) (rise : BitVec 16) (gsnr : List Byte) : Chip :=
  let x := c.lane n
  if !c.lmaUp || x.phase != .payload then c
  else
    let input := cfgInput x.cfg.toNat
    let band := cfgBand x.cfg.toNat
    let impulsive := decide ((c.fl Reg.LMA_DET_CFG 23 16 : Int) ≤ rise.toInt)
    let c := c.standbyApply x.ts.toNat
    let cell := c.cellOf input band x.hdr.snid
    let p := x.payload soft
    let ok := (x.decoded soft).isSome
    let rscor := BitVec.ofNat 8 (min 255 ((x.decoded soft).elim 0 (·.2)))
    let c := c.setFl (Reg.LMA_LANE_STAT n) 15 0 (headerSymbols band x.hdr.rep +
      payloadSymbols band x.hdr.mod x.hdr.rep x.hdr.gmask x.hdr.len)
    let mac := leAt p 0 1 % 16 != 0
    let src := leAt p 2 2
    let dest := if ok && mac && cell.isSome && c.rtValid src then src else 0xFFFF
    let rel := c.frameRelation x
    let (evt, c) := c.phaseUpdate (if ok then dest else 0xFFFF) rel
    let after := if dest = 0xFFFF then 7 else (c.phaseRec dest).committed
    let phrel := rel + 8 * after + 64 * b2n evt
    let f (raw : Bool) : LineFrame :=
      ⟨frameRecord x n input band impulsive raw phrel rscor gsnr dest, p, dest, raw⟩
    if !ok then
      let c := c.bump (Reg.LMA_LANE_RSF n)
      let c := match cell with
        | some k => c.lineFailure k impulsive
        | none => c
      if bitOf x.cfg.toNat 1 then c.handOn n (f true) else c.laneIdle n
    else
      let c := c.bump (Reg.LMA_LANE_OK n)
      let c := match cell with
        | some k => if mac then c.macHeard k p x.margin else c.beaconHeard k p x.ts
        | none => c
      c.handOn n (f false)

/-! ### Meanings -/

/-- FRAME_DECODED (02 R57). -/
def execFrameDecoded (lane : Fin 24) (soft : List Int) (noiseRise : BitVec 16) (gsnr : List Byte) (s : State) :
    Host.Outcome State Fault Refusal :=
  s.onChip fun c => c.frameDecoded lane.val soft noiseRise gsnr

/-- TX_FRAME_END (02 R62). -/
def execTxFrameEnd (chain : Fin 3) (s : State) : Host.Outcome State Fault Refusal :=
  s.onChip fun c => c.when c.lmaUp fun c => c.txFrameEnd chain.val

/-- CELL_CFG_WRITE (R73). -/
def execCellCfgWrite (cell : Fin 12) (v : Word) (s : State) : Host.Outcome State Fault Refusal :=
  s.onChip fun c => c.onReg (Reg.LMA_CELL_CFG cell.val) anyIni fun c => c.cellCfgWrite cell.val v.toNat

/-- BEACON_LAUNCH (R78). -/
def execBeaconLaunch (cell : Fin 12) (t : BitVec 64) (s : State) : Host.Outcome State Fault Refusal :=
  s.onChip fun c => c.beaconLaunch cell.val t

/-- AUTOACK (R89). -/
def execAutoack (t : BitVec 64) (s : State) : Host.Outcome State Fault Refusal :=
  s.onChip fun c => c.when c.lmaUp fun c => c.autoack t

/-- RT_LOSS (R94). -/
def execRtLoss (v : Word) (s : State) : Host.Outcome State Fault Refusal :=
  s.onChip fun c => c.onReg Reg.LMA_RT_LOSS anyIni fun c => c.rtLoss (v.toNat % 2 ^ 15)

/-- EXPECTATION_CLOSE (R95). -/
def execExpectationClose (cell : Fin 12) (s : State) : Host.Outcome State Fault Refusal :=
  s.onChip fun c => c.when c.lmaUp fun c => c.setLineCell cell.val { c.lineCell cell.val with expect := none }

/-- NOISE_CLEAR (R95). -/
def execNoiseClear (s : State) : Host.Outcome State Fault Refusal := s.onChip fun c => c.when c.lmaUp Chip.noiseClear

/-- RT_ENTRY_WRITE (R99). -/
def execRtEntryWrite (dest : BitVec 15) (word : Fin 4) (v : Word) (s : State) :
    Host.Outcome State Fault Refusal :=
  s.onChip fun c => c.onReg (Reg.RT_WORD dest.toNat word.val) anyIni fun c => c.rtWrite dest.toNat word.val v.toNat

/-- ROUTE_SWEEP (R100). -/
def execRouteSweep (s : State) : Host.Outcome State Fault Refusal := s.onChip Chip.routeSweep

/-- RT_OFFER (R101). -/
def execRtOffer (v : Word) (s : State) : Host.Outcome State Fault Refusal := s.onChip fun c => c.onReg Reg.LMA_RT_OFFER anyIni fun c => c.rtOffer v

/-- STANDBY_BEACON_WATCH (R102). -/
def execStandbyBeaconWatch (cell : Fin 12) (t : BitVec 64) (s : State) :
    Host.Outcome State Fault Refusal :=
  s.onChip fun c => c.beaconWatch cell.val t

end Sys2Proof.Machine
end

