-- ==== Sys2Proof/Machine/Air.lean ====
section
/-!
DEFINITION. The Air Units: scripts, slots, launches, reception, acknowledgements, guard time,
search and resynchronisation (04_air_units.md R105–R136).
-/
namespace Sys2Proof.Machine

/-! ### The IQ interface and the PHY (R107, R108) -/

/-- IQ_ALIGNMENT: the receiver runs and its clock is there. -/
def Chip.iqAlign (c : Chip) (u : Nat) : Chip :=
  if c.airUp && c.bit (Reg.AIR_IQ_CFG u) 0 && c.iqPresent u then c.onAir u fun a => { a with aligned := true } else c

/-- IQ_ALIGNMENT_LOSS: counted, and any frame in progress is abandoned. -/
def Chip.iqLost (c : Chip) (u : Nat) : Chip :=
  if (c.airUnit u).aligned then
    (c.bump (Reg.AIR_IQ_SYNCERR u)).onAir u fun a => { a with aligned := false }
  else c

/-- IQ_FREQ_MEASURE. Without the clock there is nothing to stay aligned to: alignment is lost (R107). -/
def Chip.iqFreq (c : Chip) (u khz : Nat) : Chip :=
  if !c.airUp then c else (c.wr (Reg.AIR_IQ_FREQ u) khz).when (khz == 0) fun c => c.iqLost u

/-- PHY_CFG_WRITE. -/
def Chip.phyWrite (c : Chip) (u : Nat) (alt : Bool) (v : Nat) : Chip :=
  let r := if alt then Reg.AIR_PHY_ALT u else Reg.AIR_PHY_CFG u
  if !c.phyFits u v then c.airCfgErr u
  else c.heldWrite u r fun c => c.wr r (b2n (alt && bitOf v 31) * 2 ^ 31 + fld v 21 16 * 2 ^ 16 + fld v 14 0)

/-! ### Scripts (R110–R113, Table 3) -/

/-- What a script does: the bytes of each transfer, the last READ result, whether it ends in
error. `hold` is whether CS_N stayed low into the word. -/
def Chip.scriptWords (c : Chip) (u chan : Nat) :
    Nat → Nat → Bool → List Byte → List (BitVec 24) → List (List Byte) → Option Nat →
      List (List Byte) × Option Nat × Bool
  | 0, _, _, _, _, out, rd => (out, rd, true)
  | n + 1, pc, hold, miso, irq, out, rd =>
    if 256 ≤ pc then (out, rd, true)
    else
      let w := c.rd (Reg.AIR_SCRIPT u pc)
      let k := max 1 (fld w 25 24)
      let keep := bitOf w 28
      let freq := (c.fl (Reg.AIR_SCR_CHBASE u) 23 0 + chan * c.fl (Reg.AIR_SCR_CHSTEP u) 23 0) % 2 ^ 24
      let push (v : Nat) : List (List Byte) :=
        if hold then out.dropLast ++ [out.getLastD [] ++ beBytes k v] else out ++ [beBytes k v]
      match fld w 31 29 with
      | 0 => c.scriptWords u chan n (pc + 1) keep miso irq (push (fld w 23 0)) rd
      | 1 => c.scriptWords u chan n (pc + 1) keep miso irq (push freq) rd
      | 2 => c.scriptWords u chan n (pc + 1) keep (miso.drop k) irq (push (fld w 23 0)) (some (beVal (slice miso 0 k)))
      | 3 => c.scriptWords u chan n (pc + 1) keep miso irq out rd
      | 4 =>
        match irq with
        | [] => (out, rd, true)
        | t :: rest =>
          if t.toNat ≤ fld w 23 0 then c.scriptWords u chan n (pc + 1) keep miso rest out rd else (out, rd, true)
      | 5 => (out, rd, false)
      | _ => (out, rd, true)

/-- Scripts are queued behind those that run or wait. -/
def Chip.scriptsFor (c : Chip) (u : Nat) (vs : List Nat) (of : ScriptOf) : Chip :=
  c.onAir u fun a => { a with scripts := a.scripts ++ vs.map fun v => (v, of) }

/-- A slot ends under its scripts: the one that runs goes on to its end, those that have not begun begin no more
(DEDUCED, log entry 71). -/
def slotOver (us : Nat) : List (Nat × ScriptOf) → List (Nat × ScriptOf)
  | [] => []
  | (v, of) :: rest =>
    (v, if of = .slot then .past us else of) :: rest.filter fun e => e.2 != .slot

/-- The slot that runs ends. One whose scripts have not ended by then is counted late, unless its launch has
counted it already (R112). -/
def Chip.slotEnd (c : Chip) (u : Nat) : Chip :=
  match (c.airUnit u).slot with
  | none => c
  | some s =>
    let late := s.work != .idle && !s.ready && (c.airUnit u).scripts.any fun e => e.2 == .slot
    (c.when late fun c => c.bump (Reg.AIR_SCR_LATE u)).onAir u fun a =>
      { a with slot := none, scripts := slotOver s.us a.scripts }

/-- SCRIPT_RUN: a write of AIR_SCR_RUNu. -/
def Chip.scriptRun (c : Chip) (u v : Nat) : Chip :=
  if c.bit (Reg.AIR_MAC_CTRL u) 0 || (c.airUnit u).scripts != [] || decide (5 < v % 8) then c.airCfgErr u
  else (c.wr (Reg.AIR_SCR_RUN u) (2 ^ 31 + v % 8)).scriptsFor u [v % 8] .own

/-- The longest CHAN-plus-RX or CHAN-plus-TX run (R112). -/
def Chip.scriptMax (c : Chip) (u us : Nat) : Chip := c.keepMax (Reg.AIR_SCR_MAXT u) (min us 0xFFFF)

/-- A script of the slot has ended: the slot is ready, late or still waits for the second. What the scripts
waited for others before them counts towards their lateness, not towards the run. -/
def Chip.slotScript (c : Chip) (u vec us : Nat) (s : AirSlot) : Chip :=
  let run := s.us + us
  if vec = 3 then c.onAir u fun a => { a with slot := some { s with us := run } }
  else
    let c := c.scriptMax u run
    let s := { s with us := max run ((c.time.toNat - s.start.toNat) / 1000) }
    let opens := match s.window with
      | some g => c.airTxofs u - g
      | none => s.us
    match s.work with
    | .idle => c.onAir u fun a => { a with slot := some s }
    | .listen _ _ | .extended _ =>
      (c.when (decide (opens < s.us)) fun c => c.bump (Reg.AIR_SCR_LATE u)).onAir u fun a =>
        { a with slot := some { s with ready := true } }
    | _ =>
      if c.airTxofs u < s.us then
        (c.bump (Reg.AIR_SCR_LATE u)).onAir u fun a => { a with slot := some { s with work := .idle } }
      else c.onAir u fun a => { a with slot := some { s with ready := true } }

/-- The slot in which a script failed: nothing is sent or received in it; a beacon expected in it stays expected. -/
def AirSlot.abandoned (s : AirSlot) : AirSlot :=
  { s with
    work := match s.work with
      | .listen i j => .listen i j
      | _ => .idle
    ready := false }

/-- SCRIPT_END: the script that runs has taken `us` µs; `miso` are the bytes its READs returned,
`irq` how long each WAITIRQ waited. The channel of SENDCH is that of the slot being prepared; in a script that
runs with none it is 0 (DESIGN CHOICE: R111 names no other channel, log entry 104). -/
def Chip.scriptEnd (c : Chip) (u us : Nat) (miso : List Byte) (irq : List (BitVec 24)) : Chip :=
  match (c.airUnit u).scripts with
  | [] => c
  | (vec, of) :: rest =>
    let chan := match (c.airUnit u).slot with
      | some s => s.chan
      | none => 0
    let (out, rd, err) :=
      c.scriptWords u chan 257 (c.fl (Reg.AIR_SCR_VEC u vec) 7 0) false miso irq [] none
    let rest := if err then rest.filter fun e => e.2 != .slot else rest
    let c := (c.onAir u fun a => { a with spi := out, scripts := rest }).setBit (Reg.AIR_SCR_RUN u) 31 false
    let c := match rd with
      | some v => c.wr (Reg.AIR_SCR_RD u) v
      | none => c
    let c := c.when err fun c => c.raise (Reg.AIR_STATUS u) 1
    match of with
    | .past before => c.when (!err && vec != 3) fun c => c.scriptMax u (before + us)
    | _ =>
      match (c.airUnit u).slot with
      | some s =>
        if err then c.onAir u fun a => { a with slot := some s.abandoned }
        else if of = .slot then c.slotScript u vec us s else c
      | none => c

/-! ### Enabling (R108, R112, R121) -/

/-- Whether the ranges of two pools overlap. -/
def Chip.poolsOverlap (c : Chip) (p q : Pool) : Bool :=
  (c.pool p).ranged && (c.pool q).ranged && decide (c.rd p.lo ≤ c.rd q.hi) && decide (c.rd q.lo ≤ c.rd p.hi) &&
    decide (c.rd p.lo ≤ c.rd p.hi) && decide (c.rd q.lo ≤ c.rd q.hi)

/-- The pool of a unit. -/
def airPool (u : Nat) : Pool := if u = 0 then .air0 else .air1

/-- AIR_ENABLE: a write of ENABLE 1. -/
def Chip.airEnable (c : Chip) (u : Nat) : Chip :=
  if c.bit (Reg.AIR_MAC_CTRL u) 0 then c
  else if !c.phyFits u (c.rd (Reg.AIR_PHY_CFG u)) || !c.phyFits u (c.rd (Reg.AIR_PHY_ALT u)) ||
      c.poolsOverlap (airPool u) .lma || c.poolsOverlap .air0 .air1 then c.airCfgErr u
  else (c.setBit (Reg.AIR_MAC_CTRL u) 0 true).scriptsFor u [0] .own

/-- AIR_DISABLE: a write of ENABLE 0. -/
def Chip.airDisable (c : Chip) (u : Nat) : Chip :=
  if !c.bit (Reg.AIR_MAC_CTRL u) 0 then c
  else
    let c := (((c.setBit (Reg.AIR_MAC_CTRL u) 0 false).airAbort u).slotEnd u).scriptsFor u [1] .own
    let c := (c.setBit (Reg.AIR_STATUS u) 3 false).onAir u fun a =>
      { a with idling := false, anchor := none, source := none, held := [] }
    c.when (c.fl Reg.CRP_TRIM_CFG 5 5 == u) fun c => c.trimLost 3

/-! ### Guard time and search (R128–R130) -/

/-- Network time in ms, bits [31:0]. -/
def msOf (t : Nat) : Nat := t / 1000000 % 2 ^ 32

/-- Guard time of a neighbour, uncapped for one in state scheduled (R128). One that is lost has G_MAX, as a new
one has (DESIGN CHOICE: R128 and R130 give it none, log entry 104). -/
def Chip.guardOf (c : Chip) (u i t : Nat) : Nat :=
  let gmax := c.fl (Reg.AIR_GUARD u) 15 0
  if i = 0xFFF ∨ c.nbState u i ≠ 1 then gmax
  else
    let dt := (msOf t + 2 ^ 32 - c.rd (Reg.NB_WORD u i 5)) % 2 ^ 32
    c.fl (Reg.AIR_GUARD u) 27 16 + (c.fl (Reg.AIR_GUARD_PPM u) 7 0 + c.nb u i 4 23 16) * dt / 1000

/-- Half width of the receive window (R116). -/
def Chip.windowOf (c : Chip) (u i t : Nat) : Nat :=
  min (c.guardOf u i t) (min (c.airTxofs u) (c.airLen u - c.airTxofs u))

/-- A notice about a neighbour (11 Table 8). -/
def Chip.airNotice (c : Chip) (typ u i : Nat) : Chip :=
  c.notice typ (leBytes 2 u ++ leBytes 2 i ++ leBytes 4 (c.nbHandle u i))

/-- A neighbour enters search (R129). -/
def Chip.enterSearch (c : Chip) (u i t : Nat) : Chip :=
  (((c.setNb u i 2 18 17 2).wr (Reg.NB_WORD u i 7) (msOf t)).bump (Reg.AIR_GUARD_CAP u)).airNotice 0x0301 u i

/-- SEARCH_LIMIT (R130). -/
def Chip.searchLimit (c : Chip) (u i : Nat) : Chip :=
  let dt := (msOf c.time.toNat + 2 ^ 32 - c.rd (Reg.NB_WORD u i 7)) % 2 ^ 32
  if c.airOn u && c.nbValid u i && c.nbState u i == 2 && decide (c.fl (Reg.AIR_SRCH u) 15 0 * 1000 ≤ dt) then
    (c.setNb u i 2 18 17 3).airNotice 0x0302 u i
  else c

/-! ### Hopping (R117) -/

/-- A channel of a hopping list held in registers from `base`. -/
def Chip.hopChan (c : Chip) (base k : Nat) : Nat := fld (c.rd (base + k / 4 * 4)) (8 * (k % 4) + 6) (8 * (k % 4))

/-- Channel of a cell in a slot. -/
def Chip.cellChan (c : Chip) (u asn chofs : Nat) : Nat :=
  c.hopChan (Reg.AIR_HOP_ACTIVE u 0) ((asn + chofs) % max 1 (c.airUnit u).hopLen)

/-- Whether the shadow list of a length is refused: in duty mode one that names a channel in no enabled sub-band,
and one whose length is none of Table 5. -/
def Chip.hopRefused (c : Chip) (u len : Nat) : Bool :=
  len == 0 || decide (128 < len) || (c.dwellMode u == 2 && (List.range len).any fun k =>
    (List.range 4).all fun b => !c.inSubband u b (c.hopChan (Reg.AIR_HOP_SHADOW u 0) k))

/-- HOP_CTRL_SWAP: a write of AIR_HOP_CTRLu. A list that cannot be used is refused at once. -/
def Chip.hopCtrl (c : Chip) (u v : Nat) : Chip :=
  let len := v % 256
  let pending := bitOf v 31 || c.bit (Reg.AIR_HOP_CTRL u) 31
  if pending && c.hopRefused u len then (c.wr (Reg.AIR_HOP_CTRL u) len).airCfgErr u
  else c.wr (Reg.AIR_HOP_CTRL u) (len + 2 ^ 31 * b2n pending)

/-- A pending list takes effect in a slot whose ASN is a multiple of its length, unless what has been written
since it was requested makes it one that is refused. -/
def Chip.hopSwap (c : Chip) (u asn : Nat) : Chip :=
  let len := c.fl (Reg.AIR_HOP_CTRL u) 7 0
  if !(c.bit (Reg.AIR_HOP_CTRL u) 31 && asn % len == 0) then c
  else if c.hopRefused u len then (c.setBit (Reg.AIR_HOP_CTRL u) 31 false).airCfgErr u
  else
    let c := (List.range 32).foldl (fun c k => c.wr (Reg.AIR_HOP_ACTIVE u k) (c.rd (Reg.AIR_HOP_SHADOW u k))) c
    (c.setBit (Reg.AIR_HOP_CTRL u) 31 false).onAir u fun a => { a with hopLen := len }

/-! ### Slots (R115–R118) -/

/-- A field of a cell. -/
def Chip.cell (c : Chip) (u i hi lo : Nat) : Nat := c.fl (Reg.AIR_CELL_WORD u (2 * i)) hi lo

/-- Neighbour of a cell. -/
def Chip.cellNbr (c : Chip) (u i : Nat) : Nat := c.fl (Reg.AIR_CELL_WORD u (2 * i + 1)) 11 0

/-- Size of a slotframe. -/
def Chip.sfSize (c : Chip) (u h : Nat) : Nat := c.fl (Reg.AIR_SF_CFG u h) 15 0

/-- Valid cells of enabled slotframes, in index order. -/
def Chip.cellsListed (c : Chip) (u : Nat) : List Nat :=
  let base := Reg.AIR_CELL_WORD u 0
  ((c.regs.filter fun e => decide (base ≤ e.1) && decide (e.1 < base + 0x4000) &&
    (e.1 - base) % 8 == 0).map fun e => (e.1 - base) / 8).filter fun i =>
      c.cell u i 31 31 == 1 && c.sfSize u (c.cell u i 26 24) != 0

/-- Cells that decide a slot: those of the lowest slotframe that has one in it. -/
def Chip.slotCells (c : Chip) (u asn : Nat) : List Nat :=
  let here := (c.cellsListed u).filter fun i => c.cell u i 15 0 == asn % c.sfSize u (c.cell u i 26 24)
  match (List.range 8).find? fun h => here.any fun i => c.cell u i 26 24 == h with
  | some h => here.filter fun i => c.cell u i 26 24 == h
  | none => []

/-- The slot that begins at `t`, if one does (R115). -/
def Chip.asnAt (c : Chip) (u t : Nat) : Option Nat :=
  let len : Int := 1000 * c.airLen u
  let (asn, at0) : Nat × Int :=
    if c.airRadio u then
      match (c.airUnit u).anchor with
      | some (a, b) => (a, b.toNat)
      | none => (0, 0)
    else (0, c.rd64 (Reg.AIR_EPOCH_LO u) (Reg.AIR_EPOCH_HI u))
  let d : Int := t - at0
  if d % len = 0 then some (((asn : Int) + d / len) % (2 ^ 40 : Int)).toNat else none

/-- Octets that CCM* and the FCS add to a request's frame. -/
def Chip.reqPsdu (c : Chip) (u : Nat) (r : AirReq) (h : MacHdr) : Nat :=
  r.len + (if r.secure then micLen h.level else 0) +
    fcsLen (c.rd (if r.alt then Reg.AIR_PHY_ALT u else Reg.AIR_PHY_CFG u))

/-- Airtime of a request, µs. -/
def Chip.reqUs (c : Chip) (u : Nat) (r : AirReq) : Nat :=
  airUs (c.rd (if r.alt then Reg.AIR_PHY_ALT u else Reg.AIR_PHY_CFG u)) (c.reqPsdu u r (macHdr (c.rdMem r.buf r.len)))

/-- Requests for a cell's neighbour that may be sent but for the dwell rule, best first (R118). -/
def Chip.sendable (c : Chip) (u i now : Nat) : List AirReq :=
  let n := c.cellNbr u i
  let open' := n == 0xFFF || (c.nbValid u n && decide (c.nbState u n ≤ 1))
  if !open' then []
  else (List.range 4).flatMap fun q =>
    (c.airUnit u).reqs.filter fun r => r.q == q && r.nbr == n && decide (r.notBefore ≤ now)

/-- Whether a shared cell has to let this occurrence pass (TSCH CSMA-CA). -/
def Chip.backsOff (c : Chip) (u i : Nat) : Bool :=
  c.cell u i 29 29 == 1 && (Tab.get (fun _ => (1, 0)) (c.airUnit u).backoff (c.cellNbr u i)).2 != 0

/-- Whether a cell carries an Enhanced Beacon when no broadcast request is sendable (R120). -/
def Chip.beaconCell (c : Chip) (u i : Nat) : Bool :=
  c.cell u i 30 30 == 1 && c.cellNbr u i == 0xFFF && c.bit (Reg.AIR_MAC_CFG u) 5

/-- Work of a slot among its cells (R118). An Enhanced Beacon due in a TX cell counts as a sendable request of
that cell (DEDUCED from R120, log entry 94). -/
def Chip.slotWork (c : Chip) (u asn now : Nat) (cells : List Nat) : AirWork :=
  let tx := cells.filter fun i => c.airMaySend u && c.cell u i 27 27 == 1 && !c.backsOff u i
  let sends := tx.findSome? fun i =>
    match (c.sendable u i now).find? fun r => c.dwellOk u (c.cellChan u asn (c.cell u i 22 16)) (c.reqUs u r) with
    | some r => some (AirWork.send r.q r.idx i (c.cellNbr u i))
    | none => if c.beaconCell u i then some (.beacon i) else none
  match sends with
  | some w => w
  | none =>
    match cells.find? fun i => c.cell u i 28 28 == 1 with
    | some i => .listen i (c.cellNbr u i)
    | none => .idle

/-- The guard times judged at the start of a slot: those of the neighbours its cells name (R128). A neighbour
whose cap is passed enters search (R129). -/
def Chip.guardJudge (c : Chip) (u now : Nat) (cells : List Nat) : Chip :=
  (cells.map (c.cellNbr u)).eraseDups.foldl (fun c i =>
    c.when (i != 0xFFF && c.nbValid u i && c.nbState u i == 1 &&
        decide (c.fl (Reg.AIR_GUARD u) 15 0 < c.guardOf u i now)) fun c => c.enterSearch u i now) c

/-- A neighbour in search and its RX cell of the lowest index (R129). With several in search, idle slots listen
for the one of the lowest index that has such a cell (DESIGN CHOICE: R129 is silent, log entry 104). -/
def Chip.searchCell (c : Chip) (u : Nat) : Option (Nat × Nat) :=
  ((c.nbListed u).filter fun i => c.nbState u i == 2).findSome? fun i =>
    ((c.cellsListed u).find? fun k => c.cell u k 28 28 == 1 && c.cellNbr u k == i).map fun k => (i, k)

/-- Shared cells let pass are counted down. -/
def Chip.backoffPass (c : Chip) (u : Nat) (cells : List Nat) : Chip :=
  (((cells.filter fun i => c.cell u i 27 27 == 1 && c.backsOff u i).map (c.cellNbr u)).eraseDups).foldl (fun c n =>
    c.onAir u fun a =>
      let b := Tab.get (fun _ => (1, 0)) a.backoff n
      { a with backoff := Tab.put (fun _ => (1, 0)) a.backoff n (b.1, b.2 - 1) }) c

/-- Requests for a cell's neighbour that the dwell rule refuses before one is taken (R119, R126). -/
def Chip.dwellRefused (c : Chip) (u asn now i : Nat) : List AirReq :=
  (c.sendable u i now).takeWhile fun r => !c.dwellOk u (c.cellChan u asn (c.cell u i 22 16)) (c.reqUs u r)

/-- TX cells judged in a slot: up to the one whose request or beacon is taken. -/
def Chip.cellsJudged (c : Chip) (u asn now : Nat) (cells : List Nat) : List Nat :=
  let tx := cells.filter fun i => c.airMaySend u && c.cell u i 27 27 == 1 && !c.backsOff u i
  let passed (i : Nat) := decide ((c.dwellRefused u asn now i).length = (c.sendable u i now).length) && !c.beaconCell u i
  tx.takeWhile passed ++ (tx.find? fun i => !passed i).toList

/-- Data transmissions the dwell rule keeps out of this slot are counted: every request that is refused in a cell
before another is taken there (R126; DEDUCED, log entry 94). -/
def Chip.deferCount (c : Chip) (u asn now : Nat) (cells : List Nat) : Chip :=
  c.bumpBy (Reg.AIR_DWELL_DEFER u)
    ((c.cellsJudged u asn now cells).map fun i => (c.dwellRefused u asn now i).length).sum

/-- The slot's work begins: its scripts, or IDLE once in a run of slots without any (R112). -/
def Chip.slotBegin (c : Chip) (u asn t : Nat) (w : AirWork) (deaf : Bool) : Chip :=
  let chofs (i : Nat) := c.cell u i 22 16
  let (chan, window) := match w with
    | .send _ _ i _ => (c.cellChan u asn (chofs i), some 0)
    | .beacon i => (c.cellChan u asn (chofs i), some 0)
    | .listen i n => (c.cellChan u asn (chofs i),
        if n != 0xFFF && c.nbState u n == 2 then none else some (c.windowOf u n t))
    | .extended _ => (match c.searchCell u with
        | some (_, k) => c.cellChan u asn (chofs k)
        | none => 0, none)
    | .idle => (0, some 0)
  let s : AirSlot :=
    { asn := asn, start := BitVec.ofNat 64 t, work := w, chan := chan, window := window, us := 0, ready := false,
      launched := false, heard := false, deaf := deaf }
  let idle := (c.airUnit u).idling
  let c := c.onAir u fun a => { a with slot := some s, idling := w == .idle }
  match w with
  | .idle => c.scriptsFor u (if idle then [] else [2]) .own
  | .send _ _ _ _ | .beacon _ => c.scriptsFor u [3, 5] .slot
  | .listen _ _ | .extended _ => c.scriptsFor u [3, 4] .slot

/-- Whether a slot boundary can come: the MAC runs, and its timing has a source (R115, R133). -/
def Chip.airRuns (c : Chip) (u : Nat) : Bool :=
  c.airUp && c.domainUp 12 && c.bit (Reg.AIR_MAC_CTRL u) 0 && !c.airUnsynced u && !c.airResync u

/-- AIR_SLOT_START. The slot before ends, and what was written in it takes effect now, a new ROLE among it
(R118, R136). A slot timed by the network does not occur where a step of network time has gone past its start
(10 R323). A slot that begins without IQCLK runs its scripts, which need none of it, and neither transmits nor
receives (R108). -/
def Chip.airSlotStart (c : Chip) (u : Nat) (t : BitVec 64) : Chip :=
  if !c.airRuns u || (!c.airRadio u && decide (t.toNat < c.time.toNat)) then c
  else match c.asnAt u t.toNat with
  | none => c
  | some asn =>
    let c := (c.slotEnd u).onAir u fun a => { a with held := [] }
    if !c.airOn u then c.onAir u fun a => { a with idling := false } else
    let c := (c.wr64 (Reg.AIR_ASN_LO u) (Reg.AIR_ASN_HI u) asn).hopSwap u asn
    let c := c.airTrack u
    let cells := c.slotCells u asn
    let c := c.deferCount u asn t.toNat cells
    let c := c.guardJudge u t.toNat cells
    let w := match c.slotWork u asn t.toNat cells, c.searchCell u with
      | .idle, some (i, _) => AirWork.extended i
      | w, _ => w
    let c := c.backoffPass u cells
    (c.when (!c.iqPresent u) fun c => c.bump (Reg.AIR_IQ_ABSENT u)).slotBegin u asn t.toNat w (!c.iqPresent u)

/-! ### Transmission (R116, R119, R120, R125) -/

/-- PSDU octets of the acknowledgement a request's frame will get. -/
def Chip.ackPsdu (c : Chip) (u : Nat) (h : MacHdr) : Nat :=
  7 + (if h.src = [] then 0 else 2 + h.src.length) + fcsLen (c.rd (Reg.AIR_PHY_CFG u))

/-- Whether a frame, with its acknowledgement, ends 200 µs before the slot end (R116). -/
def Chip.fitsSlot (c : Chip) (u : Nat) (r : AirReq) (h : MacHdr) : Bool :=
  let phy := c.rd (if r.alt then Reg.AIR_PHY_ALT u else Reg.AIR_PHY_CFG u)
  let ack := if r.ackReq then c.fl (Reg.AIR_TS_ACK u) 15 0 * 1000 + airNs (c.rd (Reg.AIR_PHY_CFG u)) (c.ackPsdu u h)
    else 0
  decide (c.airTxofs u * 1000 + airNs phy (c.reqPsdu u r h) + ack + 200000 ≤ c.airLen u * 1000)

/-- Whether a request is invalid (R116, R119, R122). -/
def Chip.reqInvalid (c : Chip) (u : Nat) (r : AirReq) (h : MacHdr) (read : Access) : Bool :=
  read != .ok || r.len == 0 || decide (r.len < r.hdrLen) || h.version != 2 || r.ackReq != h.ackReq ||
    (r.secure && !(h.secured && h.supported)) || decide (2047 < c.reqPsdu u r h) || !c.fitsSlot u r h

/-- A frame goes on the air, its FCS appended. -/
def Chip.airSend (c : Chip) (u phy chan us : Nat) (frame : List Byte) : Chip :=
  (c.dwellAdd u chan us).onAir u fun a => { a with
    sent := withFcs phy frame
    slot := a.slot.map fun s => { s with launched := true } }

/-- Launch the frame of a request. -/
def Chip.launchReq (c : Chip) (u : Nat) (s : AirSlot) (r : AirReq) (shared : Bool) : Chip :=
  let (j, frame, c) := c.dmaRead 9 false r.buf r.len
  let h := macHdr frame
  let fc := match r.fc with
    | some f => f.toNat
    | none => c.rd (Reg.AIR_TXFC u)
  let slot := c.airKeySlot u r.nbr h
  if c.reqInvalid u r h j then c.airComplete u r.q r.idx 3
  else if r.secure && r.fc.isNone && fc == 0xFFFFFFFF then c.airComplete u r.q r.idx 4
  else if r.secure && (c.airKey slot true).isNone then (c.bump (Reg.AIR_SECF u)).airComplete u r.q r.idx 3
  else if !c.dwellOk u s.chan (c.reqUs u r) then c.bump (Reg.AIR_DWELL_DEFER u)
  else
    let out := match c.airKey slot true with
      | some key =>
        if r.secure then airSeal key (c.rd64 (Reg.AIR_EUI_LO u) (Reg.AIR_EUI_HI u)) fc r.hdrLen h frame else frame
      | none => frame
    let c := c.when r.secure fun c => c.airKeyHeld u slot
    let c := c.when (r.secure && r.fc.isNone) fun c => c.wr (Reg.AIR_TXFC u) (fc + 1)
    let phy := c.rd (if r.alt then Reg.AIR_PHY_ALT u else Reg.AIR_PHY_CFG u)
    let at' := s.start.toNat + c.airTxofs u * 1000
    let sent := BitVec.ofNat 32 at'
    let ends := BitVec.ofNat 64 (at' + airNs phy (c.reqPsdu u r h))
    let r' : AirReq := { r with tries := r.tries + 1, sentAt := sent, fc := if r.secure then some (BitVec.ofNat 32 fc) else none }
    let c := (c.airSend u phy s.chan (c.reqUs u r) out).onAir u fun a => { a with
      reqs := a.reqs.map fun x => if x.q == r.q && x.idx == r.idx then r' else x }
    if r.ackReq then c.onAir u fun a => { a with wait := some ⟨r.q, r.idx, r.nbr, shared, h.dsn, ends⟩ }
    else c.airComplete u r.q r.idx 1

/-- The Enhanced Beacon template with the slot's ASN. -/
def Chip.ebFrame (c : Chip) (u asn : Nat) : List Byte :=
  let bytes := (List.range 64).flatMap fun i => leBytes 4 (c.rd (Reg.AIR_EB_TEMPLATE u i))
  splice (bytes.take (c.fl (Reg.AIR_EB_CFG u) 7 0)) (c.fl (Reg.AIR_EB_CFG u) 15 8) (leBytes 5 asn)

/-- Launch an Enhanced Beacon (R120, R126). -/
def Chip.launchBeacon (c : Chip) (u : Nat) (s : AirSlot) : Chip :=
  let frame := c.ebFrame u s.asn
  let h := macHdr frame
  let secure := c.bit (Reg.AIR_EB_CFG u) 16
  let slot := c.airKeySlot u 0xFFF h
  let phy := c.rd (Reg.AIR_PHY_CFG u)
  let us := airUs phy (frame.length + (if secure then micLen h.level else 0) + fcsLen phy)
  let fc := c.rd (Reg.AIR_TXFC u)
  if c.fl (Reg.AIR_EB_CFG u) 7 0 = 0 then c
  else if secure && (!h.secured || !h.supported || (c.airKey slot true).isNone) then c.bump (Reg.AIR_SECF u)
  else if secure && fc == 0xFFFFFFFF then c
  else if !c.dwellOk u s.chan us then c.bump (Reg.AIR_DWELL_EBSKIP u)
  else if secure then
    ((c.airKeyHeld u slot).wr (Reg.AIR_TXFC u) (fc + 1)).airSend u phy s.chan us
      (airSeal ((c.airKey slot true).getD []) (c.rd64 (Reg.AIR_EUI_LO u) (Reg.AIR_EUI_HI u)) fc h.len h frame)
  else c.airSend u phy s.chan us frame

/-- AIR_TX_LAUNCH: slot start plus TXOFS has come. -/
def Chip.airLaunch (c : Chip) (u : Nat) : Chip :=
  match (c.airUnit u).slot with
  | none => c
  | some s =>
    if s.launched || s.deaf || !c.airMaySend u || !c.iqPresent u then c
    else
      let late := (c.bump (Reg.AIR_SCR_LATE u)).onAir u fun a => { a with slot := some { s with work := .idle } }
      match s.work with
      | .send q idx i _ =>
        if !s.ready then late
        else match (c.airUnit u).reqs.find? fun r => r.q == q && r.idx == idx with
        | some r => c.launchReq u s r (c.cell u i 29 29 == 1)
        | none => c
      | .beacon _ => if s.ready then c.launchBeacon u s else late
      | _ => c

/-- A failed attempt in a shared cell widens the backoff: exponent up to 7, a free number of
cells to let pass. -/
def Chip.backoffUp (c : Chip) (u n : Nat) : Chip :=
  let (b, c) := c.free 1
  let be := min 7 ((Tab.get (fun _ => (1, 0)) (c.airUnit u).backoff n).1 + 1)
  c.onAir u fun a => { a with backoff := Tab.put (fun _ => (1, 0)) a.backoff n (be, leVal b % 2 ^ be) }

/-- AIR_ACK_TIMEOUT. -/
def Chip.ackTimeout (c : Chip) (u : Nat) : Chip :=
  match (c.airUnit u).wait with
  | none => c
  | some w =>
    let c := c.when w.shared fun c => c.backoffUp u w.nbr
    match (c.airUnit u).reqs.find? fun r => r.q == w.q && r.idx == w.idx with
    | some r =>
      if r.tries ≤ r.retries then c.onAir u fun a => { a with wait := none } else c.airComplete u w.q w.idx 2
    | none => c.onAir u fun a => { a with wait := none }

/-- Whether an acknowledgement that begins at `t` falls in the sender's window, ACKWAIT about ACKDLY after the
end of its frame (R116). -/
def Chip.ackInWindow (c : Chip) (u t : Nat) (w : AirAwait) : Bool :=
  let due := w.ends.toNat + c.fl (Reg.AIR_TS_ACK u) 15 0 * 1000
  let half := c.fl (Reg.AIR_TS_ACK u) 31 16 * 1000
  decide (due ≤ t + half) && decide (t ≤ due + half)

/-- AIR_ACK_RECEIVED (R116, R124): an acknowledgement outside the window, or of another frame, is not heard.
The backoff is reset after a success in a shared cell, and after one in another cell when it leaves the
neighbour no further request (PRESUMED from IEEE 802.15.4-2020, TSCH CSMA-CA, log entry 70). -/
def Chip.ackReceived (c : Chip) (u dsn corr t : Nat) : Chip :=
  match (c.airUnit u).wait with
  | none => c
  | some w =>
    if !(w.dsn.all fun d => d == dsn) || !c.ackInWindow u t w then c
    else
      let more := (c.airUnit u).reqs.any fun r => r.nbr == w.nbr && !(r.q == w.q && r.idx == w.idx)
      let c := c.when (w.shared || !more) fun c => c.onAir u fun a =>
        { a with backoff := Tab.put (fun _ => (1, 0)) a.backoff w.nbr (1, 0) }
      let c := if !(w.nbr != 0xFFF && c.nbTsrc u w.nbr) then c
        else if c.airRadio u then
          c.onAir u fun a => { a with anchor := a.anchor.map fun e =>
            (e.1, BitVec.ofInt 64 ((e.2.toNat : Int) + 1000 * sgn 16 corr)) }
        else c.wr (Reg.AIR_TCORR u) corr
      c.airComplete u w.q w.idx 1

/-- AIR_ACK_SEND (R124, R126, R133, R134). -/
def Chip.ackSend (c : Chip) (u : Nat) : Chip :=
  match (c.airUnit u).ack with
  | none => c
  | some k =>
    let c := c.onAir u fun a => { a with ack := none }
    let phy := c.rd (Reg.AIR_PHY_CFG u)
    let us := airUs phy (k.frame.length + fcsLen phy)
    if !c.airMaySend u || !c.iqPresent u then c
    else if !c.dwellOk u k.chan us then c.bump (Reg.AIR_DWELL_ACKSKIP u)
    else (c.dwellAdd u k.chan us).onAir u fun a => { a with sent := withFcs phy k.frame }

/-! ### Reception (R121–R124, Tables 8 and 10) -/

/-- A frame as it reached the antenna. -/
structure AirRx where
  ts : Nat
  alt : Bool
  rssi : Nat
  snr : Byte
  chan : Nat
  asn : Nat
  tofs : Nat

/-- The record of Table 8. -/
def airRecord (u phy : Nat) (x : AirRx) (h : MacHdr) (flags nbr len handle : Nat) : List Byte :=
  leBytes 8 x.ts ++ leBytes 2 len ++ leBytes 1 (u + 2 * b2n (bitOf phy 0) + 4 * b2n x.alt) ++ leBytes 1 flags ++
    leBytes 2 nbr ++ leBytes 1 x.chan ++ leBytes 1 x.rssi ++ leBytes 5 x.asn ++ [x.snr] ++ leBytes 2 x.tofs ++
    leBytes 4 (h.fc.getD 0) ++ leBytes 1 (h.dsn.getD 0) ++ leBytes 1 h.len ++ leBytes 1 ((64 + len + 1023) / 1024) ++
    leBytes 1 0 ++ leBytes 4 handle ++ leBytes 28 0

/-- Store an accepted frame and post its operand, if it finds slots (R121, 06 R173, R180). -/
def Chip.airStore (c : Chip) (u : Nat) (x : AirRx) (h : MacHdr) (nbr : Option Nat) (data : List Byte) : Option Chip :=
  let p := airPool u
  let n := (64 + data.length + 1023) / 1024
  let peer := nbr.any (c.nbPeer u)
  let flags := b2n h.secured + 2 * b2n (h.typ == 0) + 4 * b2n peer + 8 * b2n nbr.isNone
  let handle := match nbr with
    | some i => c.nbHandle u i
    | none => 0
  let phy := c.rd (if x.alt then Reg.AIR_PHY_ALT u else Reg.AIR_PHY_CFG u)
  let src := c.rd (Reg.FLO_SRC_CFG (1 + u))
  if !c.portGated 5 && !c.allocRoom (1 + u) then none
  else match c.poolFind p n with
  | none => none
  | some s =>
    let rec' := airRecord u phy x h flags (nbr.getD 0xFFFF) data.length handle
    let c := ((c.poolTake p s n).dmaWrite 9 false (slotAddr s) (rec' ++ data)).2
    let op : AllocOp :=
      { cls := BitVec.ofNat 6 (if peer then c.fl (Reg.AIR_MAC_CFG u) 13 8 else c.fl (Reg.AIR_MAC_CFG u) 21 16)
        src := BitVec.ofNat 4 (1 + u), hvalid := nbr.isSome, fmtv := bitOf src 16, cordv := false, kind := 1
        smn := if nbr.isSome then BitVec.ofNat 32 (handle + c.fl Reg.BKB_NODE 11 0 * 2 ^ 20) else 0
        cord := 0, buf := BitVec.ofNat 11 s, fmt := BitVec.ofNat 8 (fld src 15 8), arg := 0 }
    some (if c.portGated 5 then c.postLost 9 else c.allocPost op)

/-- What an accepted frame does to its neighbour's entry (R123, R129, R130): both VALID bits are set, a counter or
number the frame does not carry keeps the last one (DEDUCED, log entry 94). RSSI_F is a free value: the manual
gives no filter. -/
def Chip.nbHeard (c : Chip) (u i : Nat) (x : AirRx) (h : MacHdr) : Chip :=
  let (b, c) := c.free 1
  let c := match h.fc with
    | some f => c.setNb u i 3 31 0 f
    | none => c
  let c := match h.dsn with
    | some d => c.setNb u i 2 31 24 d
    | none => c
  let c := (c.setNb u i 2 21 21 1).setNb u i 2 22 22 1
  ((c.setNb u i 5 31 0 (msOf x.ts)).setNb u i 4 31 24 (leVal b)).setNb u i 2 18 17 1

/-- An Enhanced Beacon accepted from a neighbour: an expected one was heard (R131); it may end
resynchronisation, or be the first synchronisation (R115, R133). -/
def Chip.ebAccepted (c : Chip) (u i : Nat) (x : AirRx) (h : MacHdr) (body : List Byte) : Chip :=
  let expected := match (c.airUnit u).slot with
    | some s => (match s.work with
        | .listen k n => n == i && c.cell u k 30 30 == 1
        | _ => false)
    | none => false
  let c := c.when (expected && c.nbTsrc u i) fun c =>
    (c.setNb u i 6 21 20 0).onAir u fun a => { a with slot := a.slot.map fun s => { s with heard := true } }
  if c.nbTsrc u i && h.ie && (c.airResync u || c.airUnsynced u) then
    match beaconAsn body 16 0 with
    | some asn =>
      (((c.setNb u i 6 21 20 0).setBit (Reg.AIR_STATUS u) 3 false).slotEnd u).onAir u fun a => { a with
        anchor := some (asn, BitVec.ofNat 64 (x.ts - c.airTxofs u * 1000)), source := some i, resyncTold := false
        held := [] }
    | none => c
  else c

/-- An acknowledgement of a frame that asked for one becomes due (R124). -/
def Chip.ackDue (c : Chip) (u : Nat) (x : AirRx) (h : MacHdr) : Chip :=
  if h.ackReq then c.onAir u fun a => { a with ack := some ⟨enhAck h (h.dsn.getD 0) x.tofs, x.chan⟩ } else c

/-- The neighbour a frame comes from: a valid entry with its identity or short address. -/
def Chip.nbOf (c : Chip) (u : Nat) (src : List Byte) : Option Nat :=
  (c.nbListed u).find? fun i =>
    if src.length = 8 then c.nbEui u i == leVal src
    else src.length == 2 && leVal src != 0xFFFF && c.nb u i 2 15 0 == leVal src

/-- Judge a frame whose FCS is good and whose destination is this unit (Table 10, orders 3–8). -/
def Chip.airJudge (c : Chip) (u : Nat) (x : AirRx) (h : MacHdr) (p : List Byte) : Chip :=
  let plain := p.drop h.len
  let keeps := h.typ != 0 || c.bit (Reg.AIR_MAC_CFG u) 4
  match c.nbOf u h.src with
  | none =>
    if h.secured || !c.bit (Reg.AIR_MAC_CFG u) 3 then c.bump (Reg.AIR_UNKNOWN u)
    else if !keeps then c
    else (c.airStore u x h none p).getD (c.bump (Reg.AIR_PB_DROP u))
  | some i =>
    let last := c.rd (Reg.NB_WORD u i 3)
    let sameDsn := h.dsn.all fun d => d == c.nb u i 2 31 24
    let replay := h.secured && c.nb u i 2 22 22 == 1 && (h.fc.any fun f =>
      decide (f < last) || (f == last && !sameDsn) || f == 0xFFFFFFFF)
    let slot := c.airKeySlot u i h
    let opened := if h.secured && h.supported then
        (c.airKey slot false).bind fun key => airOpen key (c.nbEui u i) h p
      else none
    if replay then c.bump (Reg.AIR_REPLAY u)
    else if h.secured && opened.isNone then c.bump (Reg.AIR_SECF u)
    else
      let c := c.when h.secured fun c => c.airKeyHeld u slot
      let dup := if h.secured then h.fc == some last && sameDsn
        else c.nb u i 2 21 21 == 1 && h.dsn == some (c.nb u i 2 31 24)
      if dup then (c.bump (Reg.AIR_DUP u)).ackDue u x h
      else
        let body := opened.getD plain
        let stored := if keeps then c.airStore u x h (some i) (p.take h.len ++ body) else some c
        match stored with
        | none => c.bump (Reg.AIR_PB_DROP u)
        | some c =>
          let c := (c.nbHeard u i x h).ackDue u x h
          let c := c.when (h.typ == 0) fun c => c.ebAccepted u i x h body
          c.when (c.nbPeer u i) Chip.partnerHeard

/-- Whether a frame whose first preamble bit arrived at `a` is listened for, with the channel, the
ASN and the arrival less the expected arrival in µs. -/
def Chip.airListens (c : Chip) (u a : Nat) : Option (Nat × Nat × Nat) :=
  if c.airResync u || c.airUnsynced u then
    some (c.hopChan (Reg.AIR_HOP_ACTIVE u 0) (c.airUnit u).hopAt, c.rd64 (Reg.AIR_ASN_LO u) (Reg.AIR_ASN_HI u), 0)
  else match (c.airUnit u).slot with
  | none => none
  | some s =>
    let due := s.start.toNat + c.airTxofs u * 1000
    let opens := max (s.start.toNat + s.us * 1000) (match s.window with
      | some g => due - g * 1000
      | none => s.start.toNat)
    let closes := match s.window with
      | some g => due + g * 1000
      | none => s.start.toNat + c.airLen u * 1000
    let listening := match s.work with
      | .listen _ _ | .extended _ => s.ready && !s.deaf
      | _ => false
    if listening && decide (opens ≤ a) && decide (a ≤ closes) then
      some (s.chan, s.asn, uns 16 (roundDiv ((a : Int) - due) 1000))
    else none

/-- AIR_FRAME_RECEIVED. -/
def Chip.airReceived (c : Chip) (u : Nat) (alt modeSwitch : Bool) (t : Nat) (psdu : List Byte)
    (rssi : Nat) (snr : Byte) : Chip :=
  let phy := c.rd (if alt then Reg.AIR_PHY_ALT u else Reg.AIR_PHY_CFG u)
  let ts := t - c.fl (Reg.AIR_IQ_COMP u) 15 0
  let p := psdu.take (psdu.length - fcsLen phy)
  let h := macHdr p
  let mine := h.dst == [] || (h.dst.length == 2 && leVal h.dst == 0xFFFF) ||
    (h.dst.length == 8 && leVal h.dst == c.rd64 (Reg.AIR_EUI_LO u) (Reg.AIR_EUI_HI u))
  if !c.airOn u || !c.iqPresent u || !(c.airUnit u).aligned || !c.bit (Reg.AIR_IQ_CFG u) 0 ||
      (alt && !c.bit (Reg.AIR_PHY_ALT u) 31) then c
  else match c.airListens u (ts - leadTime phy) with
  | none => c
  | some (chan, asn, tofs) =>
    if modeSwitch then c.bump (Reg.AIR_MODESW u)
    else if psdu != withFcs phy p then c.bump (Reg.AIR_FCSF u)
    else if p == [] || decide (2047 < psdu.length) || h.version != 2 || !([0, 1, 3].contains h.typ) ||
        decide (p.length < h.len) || !mine then c
    else
      let r := uns 8 (sgn 8 rssi + sgn 8 (c.fl (Reg.AIR_IQ_RSSIOFS u) 7 0))
      c.airJudge u ⟨ts, alt, r, snr, chan, asn, tofs⟩ h p

/-! ### Missed beacons and resynchronisation (R131–R134) -/

/-- MISS has reached 3 (R132–R134). Of several other sources the one of the lowest index is taken (DESIGN CHOICE:
R133 is silent, log entry 104). -/
def Chip.airMiss3 (c : Chip) (u i : Nat) : Chip :=
  if c.airRadio u then
    if (c.airUnit u).source != some i then c
    else match (c.nbListed u).find? fun k => k != i && c.nbTsrc u k && decide (c.nbMiss u k < 3) with
    | some k => (c.onAir u fun a => { a with source := some k }).raise (Reg.AIR_STATUS u) 2
    | none =>
      ((c.setBit (Reg.AIR_STATUS u) 3 true).slotEnd u).onAir u fun a =>
        { a with resyncAt := c.time, resyncTold := false, hopAt := 0, ack := none, held := [] }
  else
    let c := (c.raise (Reg.AIR_STATUS u) 2).airNotice 0x0303 u i
    let c := c.when (c.nbState u i != 2) fun c => c.enterSearch u i c.time.toNat
    c.when (c.airRole u == 2 && c.nbPeer u i) Chip.trigMiss3

/-- AIR_RX_WINDOW_CLOSE. -/
def Chip.rxClose (c : Chip) (u : Nat) : Chip :=
  match (c.airUnit u).slot with
  | none => c
  | some s =>
    match s.work with
    | .listen k i =>
      if s.heard || !c.airOn u || i == 0xFFF || c.cell u k 30 30 == 0 || !c.nbTsrc u i || !c.nbValid u i then c
      else
        let miss := c.nbMiss u i
        let c := (c.setNb u i 6 21 20 (min 3 (miss + 1))).onAir u fun a =>
          { a with slot := a.slot.map fun s => { s with heard := true } }
        if miss = 2 then c.airMiss3 u i else c
    | _ => c

/-- RSYNC_DWELL_EXPIRY: the next entry of the hopping list. -/
def Chip.rsyncDwell (c : Chip) (u : Nat) : Chip :=
  if c.airOn u && (c.airResync u || c.airUnsynced u) then
    c.onAir u fun a => { a with hopAt := (a.hopAt + 1) % max 1 a.hopLen }
  else c

/-- RESYNC_LIMIT. -/
def Chip.resyncLimit (c : Chip) (u : Nat) : Chip :=
  let a := c.airUnit u
  if c.airResync u && !a.resyncTold &&
      decide (a.resyncAt.toNat + c.fl (Reg.AIR_SRCH u) 15 0 * 1000000000 ≤ c.time.toNat) then
    ((c.raise (Reg.AIR_STATUS u) 4).notice 0x0304 (leBytes 1 u)).onAir u fun a => { a with resyncTold := true }
  else c

/-! ### Register writes with conditions (R115, R125, R130, R134, R136) -/

/-- A write of AIR_MAC_CFGu: TIMEBASE only while ENABLE is 0; one that would leave standby with TIMEBASE 1 is
refused whole. -/
def Chip.airCfgWrite (c : Chip) (u v : Nat) : Chip :=
  let r := Reg.AIR_MAC_CFG u
  let on := c.bit (Reg.AIR_MAC_CTRL u) 0
  let tb := if on then c.bit r 2 else bitOf v 2
  if v % 4 == 2 && tb then c.airCfgErr u
  else
    (c.heldWrite u r fun c => c.wr r (fld v 21 16 * 2 ^ 16 + fld v 13 8 * 2 ^ 8 + fld v 5 3 * 8 + 4 * b2n tb + v % 4)).when
      (on && bitOf v 2 != c.bit r 2) fun c => c.airCfgErr u

/-- A write of a word of a neighbour entry, its RO fields kept; VALID from 0 to 1 clears STATE
and MISS. -/
def Chip.nbWrite (c : Chip) (u i w v : Nat) : Chip :=
  let r := Reg.NB_WORD u i w
  match w with
  | 2 =>
    let fresh := bitOf v 16 && !c.nbValid u i
    let v' := putFld (putFld v 18 17 (if fresh then 0 else c.fl r 18 17)) 23 23 0
    (c.wr r v').when fresh fun c => c.setNb u i 6 21 20 0
  | 4 => c.wr r (putFld (putFld v 31 24 (c.fl r 31 24)) 15 15 0)
  | 5 | 7 => c
  | 6 => c.wr r (putFld (c.rd r) 19 0 v)
  | _ => c.wr r v

/-! ### Meanings -/

/-- IQ_ALIGNMENT (R107). -/
def execIqAlignment (unit : Fin 2) (s : State) : Host.Outcome State Fault Refusal :=
  s.onChip fun c => c.iqAlign unit.val

/-- IQ_ALIGNMENT_LOSS (R107). -/
def execIqAlignmentLoss (unit : Fin 2) (s : State) : Host.Outcome State Fault Refusal :=
  s.onChip fun c => c.iqLost unit.val

/-- IQ_FREQ_MEASURE (R108). -/
def execIqFreqMeasure (unit : Fin 2) (khz : BitVec 16) (s : State) : Host.Outcome State Fault Refusal :=
  s.onChip fun c => c.iqFreq unit.val khz.toNat

/-- PHY_CFG_WRITE (R108). -/
def execPhyCfgWrite (unit : Fin 2) (alt : Bool) (v : Word) (s : State) : Host.Outcome State Fault Refusal :=
  s.onChip fun c => c.onReg (if alt then Reg.AIR_PHY_ALT unit.val else Reg.AIR_PHY_CFG unit.val) anyIni fun c => c.phyWrite unit.val alt v.toNat

/-- AIR_ENABLE (R112). -/
def execAirEnable (unit : Fin 2) (s : State) : Host.Outcome State Fault Refusal :=
  s.onChip fun c => c.onReg (Reg.AIR_MAC_CTRL unit.val) anyIni fun c => c.airEnable unit.val

/-- AIR_DISABLE (R112). -/
def execAirDisable (unit : Fin 2) (s : State) : Host.Outcome State Fault Refusal :=
  s.onChip fun c => c.onReg (Reg.AIR_MAC_CTRL unit.val) anyIni fun c => c.airDisable unit.val

/-- SCRIPT_RUN (R113). -/
def execScriptRun (unit : Fin 2) (v : Word) (s : State) : Host.Outcome State Fault Refusal :=
  s.onChip fun c => c.onReg (Reg.AIR_SCR_RUN unit.val) anyIni fun c => c.scriptRun unit.val v.toNat

/-- SCRIPT_END (R111). -/
def execScriptEnd (unit : Fin 2) (us : BitVec 32) (miso : List Byte) (irq : List (BitVec 24)) (s : State) :
    Host.Outcome State Fault Refusal :=
  s.onChip fun c => c.inSlot unit.val fun c => c.scriptEnd unit.val us.toNat miso irq

/-- AIR_SLOT_START (R118). -/
def execAirSlotStart (unit : Fin 2) (t : BitVec 64) (s : State) : Host.Outcome State Fault Refusal :=
  s.onChip fun c => c.airSlotStart unit.val t

/-- HOP_CTRL_SWAP (R117). -/
def execHopCtrlSwap (unit : Fin 2) (v : Word) (s : State) : Host.Outcome State Fault Refusal :=
  s.onChip fun c => c.onReg (Reg.AIR_HOP_CTRL unit.val) anyIni fun c => c.hopCtrl unit.val v.toNat

/-- AIR_TX_LAUNCH (R116). -/
def execAirTxLaunch (unit : Fin 2) (s : State) : Host.Outcome State Fault Refusal :=
  s.onChip fun c => c.inSlot unit.val fun c => c.airLaunch unit.val

/-- AIR_FRAME_RECEIVED (R123). -/
def execAirFrameReceived (unit : Fin 2) (alt modeSwitch : Bool) (t : BitVec 64) (psdu : List Byte)
    (rssi snr : Byte) (s : State) : Host.Outcome State Fault Refusal :=
  s.onChip fun c => c.inSlot unit.val fun c => c.airReceived unit.val alt modeSwitch t.toNat psdu rssi.toNat snr

/-- AIR_ACK_SEND (R124). -/
def execAirAckSend (unit : Fin 2) (s : State) : Host.Outcome State Fault Refusal :=
  s.onChip fun c => c.inSlot unit.val fun c => c.ackSend unit.val

/-- AIR_ACK_RECEIVED (R124). -/
def execAirAckReceived (unit : Fin 2) (dsn : Byte) (corr : BitVec 16) (t : BitVec 64) (s : State) :
    Host.Outcome State Fault Refusal :=
  s.onChip fun c => c.inSlot unit.val fun c => c.ackReceived unit.val dsn.toNat corr.toNat t.toNat

/-- AIR_ACK_TIMEOUT (R119). -/
def execAirAckTimeout (unit : Fin 2) (s : State) : Host.Outcome State Fault Refusal :=
  s.onChip fun c => c.inSlot unit.val fun c => c.ackTimeout unit.val

/-- AIR_TX_EXPIRE (R119). -/
def execAirTxExpire (unit : Fin 2) (q : Fin 4) (idx : Fin 64) (s : State) : Host.Outcome State Fault Refusal :=
  s.onChip fun c => c.inSlot unit.val fun c => c.airExpire unit.val q.val idx.val

/-- AIR_RX_WINDOW_CLOSE (R131). -/
def execAirRxWindowClose (unit : Fin 2) (s : State) : Host.Outcome State Fault Refusal :=
  s.onChip fun c => c.inSlot unit.val fun c => c.rxClose unit.val

/-- RSYNC_DWELL_EXPIRY (R133). -/
def execRsyncDwellExpiry (unit : Fin 2) (s : State) : Host.Outcome State Fault Refusal :=
  s.onChip fun c => c.inSlot unit.val fun c => c.rsyncDwell unit.val

/-- RESYNC_LIMIT (R133). -/
def execResyncLimit (unit : Fin 2) (s : State) : Host.Outcome State Fault Refusal :=
  s.onChip fun c => c.inSlot unit.val fun c => c.resyncLimit unit.val

/-- SEARCH_LIMIT (R130). -/
def execSearchLimit (unit : Fin 2) (nbr : BitVec 12) (s : State) : Host.Outcome State Fault Refusal :=
  s.onChip fun c => c.inSlot unit.val fun c => c.searchLimit unit.val nbr.toNat

/-- DWELL_BUCKET_BOUNDARY (R126). -/
def execDwellBucketBoundary (unit : Fin 2) (t : BitVec 64) (s : State) : Host.Outcome State Fault Refusal :=
  s.onChip fun c => c.inSlot unit.val fun c => c.dwellBoundary unit.val t.toNat

/-- AIR_HALT_TX (R119). -/
def execAirHaltTx (unit : Fin 2) (s : State) : Host.Outcome State Fault Refusal :=
  s.onChip fun c => c.onReg (Reg.AIR_MAC_CTRL unit.val) anyIni fun c => c.airHalt unit.val

end Sys2Proof.Machine
end

