-- ==== Sys2Proof/Machine/BalGroups.lean ====
section
/-!
DEFINITION. Balance groups, membership, phase families and reports
(07_validation_and_balance.md R194, R214–R217, R222, R229–R231).
-/
namespace Sys2Proof.Machine

/-- Change BAL. -/
def Chip.onBal (c : Chip) (f : Bal → Bal) : Chip := { c with bal := f c.bal }

/-- Whether BAL runs. -/
def Chip.balUp (c : Chip) : Bool := !c.gated 9 && c.domainUp 4

/-! ### Intervals and days (R194) -/

/-- Interval length, seconds. -/
def Chip.ivl (c : Chip) : Nat := [300, 900, 1800, 3600].getD (c.fl Reg.BAL_CFG 1 0) 900

/-- LAG; 0 acts as 1. -/
def Chip.lag (c : Chip) : Nat := max 1 (c.fl Reg.BAL_CFG 7 4)

/-- DAY_OFS in minutes; higher values act as 1,439. -/
def Chip.dayOfs (c : Chip) : Nat := min 1439 (c.fl Reg.BAL_CFG 19 8)

/-- UTC seconds. -/
def Chip.utc (c : Chip) : Int := (c.time.toNat / 1000000000 : Nat) - c.tim.utcOfs.toInt

/-- The day of a UTC second. -/
def Chip.dayAt (c : Chip) (u : Int) : Int := (u - 60 * c.dayOfs) / 86400

/-- The day of an interval. -/
def Chip.dayOfIvl (c : Chip) (k : Int) : Int := c.dayAt (k * c.ivl)

/-- Second of the day at which an interval starts. -/
def Chip.secOfDay (c : Chip) (k : Int) : Nat := ((k * c.ivl - 60 * c.dayOfs) % 86400).toNat

/-- Hour of the day of an interval. -/
def Chip.hourOf (c : Chip) (k : Int) : Nat := c.secOfDay k / 3600

/-- Intervals whose close time has not come: the oldest of them now. -/
def Chip.openAt (c : Chip) : Int := c.utc / c.ivl - c.lag

/-- The oldest interval not yet closed. -/
def Chip.kOpen (c : Chip) : Int := c.bal.nextOpen.getD c.openAt

/-- A 32-bit index or day. -/
def w32 (k : Int) : Nat := uns 32 k

/-! ### Memory of BAL: initiator 7, Platform level (R197) -/

/-- A region base of Table 16: 0 FMT, 1 CRV, 2 MEMB, 3 DSUM, 4 GDAY, 5 RPT. -/
def Chip.balBase (c : Chip) (i : Nat) : Nat :=
  c.fl (Reg.BAL_BASE_LO i) 31 12 * 4096 + c.fl (Reg.BAL_BASE_HI i) 15 0 * 2 ^ 32

/-- Read bytes; a transfer that fails reads zeros. -/
def Chip.balRead (c : Chip) (a n : Nat) : List Byte × Chip :=
  let (_, b, c) := c.dmaRead 7 false a n
  (b, c)

/-- Write bytes; a transfer that fails is lost. -/
def Chip.balWrite (c : Chip) (a : Nat) (b : List Byte) : Chip := (c.dmaWrite 7 false a b).2

/-- The reads of a look-up whose values are used elsewhere: each is judged, and what is refused is counted and
recorded (01 R26, R27). -/
def Chip.balSeen (c : Chip) (l : List (Nat × Nat)) : Chip := l.foldl (fun c x => (c.balRead x.1 x.2).2) c

/-! ### Group entries (Table 18) -/

/-- A field of a group entry. -/
def Chip.grp (c : Chip) (g w hi lo : Nat) : Nat := c.fl (Reg.GROUP_WORD g w) hi lo

/-- Set a field of a group entry. -/
def Chip.setGrp (c : Chip) (g w hi lo v : Nat) : Chip := c.setFl (Reg.GROUP_WORD g w) hi lo v

/-- Whether a group is enabled; only a group whose first word is written can be. -/
def Chip.grpOn (c : Chip) (g : Nat) : Bool := c.bit (Reg.GROUP_WORD g 0) 0

/-- FEEDER; 3 acts as 0. -/
def Chip.feeder (c : Chip) (g : Nat) : Nat := if c.grp g 0 2 1 = 3 then 0 else c.grp g 0 2 1

/-- Groups whose first word is written, ascending. -/
def Chip.grpListed (c : Chip) : List Nat :=
  let base := Reg.GROUP_WORD 0 0
  (c.regs.filter fun e => decide (base ≤ e.1) && decide (e.1 < base + 0x40000) && (e.1 - base) % 64 == 0).map
    fun e => (e.1 - base) / 64

/-- Enabled groups, ascending. -/
def Chip.grpsOn (c : Chip) : List Nat := c.grpListed.filter c.grpOn

/-- MEMBERS. -/
def Chip.members (c : Chip) (g : Nat) : Nat := c.grp g 2 26 16

/-- PMAP of a relation. -/
def Chip.pmap (c : Chip) (g rel : Nat) : Nat := c.grp g 1 (3 * rel + 2) (3 * rel)

/-- Whether a handle is some enabled group's check meter. -/
def Chip.isCheck (c : Chip) (h : Nat) : Bool :=
  c.grpsOn.any fun g => c.feeder g == 2 && c.grp g 0 31 12 == h

/-- Whether a group names a handle as its CHECK, enabled or not (R215). A CHECK of 0 names handle 0 only where FEEDER
asks for a check meter (DEDUCED, log entry 97). -/
def Chip.isNamed (c : Chip) (h : Nat) : Bool :=
  c.grpListed.any fun g => c.grp g 0 31 12 == h && (c.feeder g == 2 || h != 0)

/-- The day entries of a group become void. -/
def Chip.dayVoid (c : Chip) (g : Nat) : Chip :=
  let a := c.balBase 4 + g * 2048
  (c.noteAccess 7 false true a 2048).when (c.judge 7 false true a 2048).done fun c =>
    { c with mem := Tab.drop (fun x => decide (a ≤ x) && decide (x < a + 2048)) c.mem }

/-- A group returns to learning: LEARN and its day entries are cleared. -/
def Chip.relearn (c : Chip) (g : Nat) : Chip :=
  ((c.setGrp g 2 15 0 0).setGrp g 0 11 10 (if c.grpOn g then 1 else 0)).dayVoid g

/-- A write of a word of a group entry (Table 18). -/
def Chip.groupWrite (c : Chip) (g w v : Nat) : Chip :=
  let r := Reg.GROUP_WORD g w
  match w with
  | 0 =>
    let old := c.rd r
    let new := putFld v 11 10 (fld old 11 10)
    let back := (bitOf new 0 && !bitOf old 0) || fld new 6 1 != fld old 6 1 || fld new 31 12 != fld old 31 12
    let c := c.wr r new
    let c := c.when (!bitOf new 0) fun c => c.setGrp g 0 11 10 0
    c.when back fun c => c.relearn g
  | 1 => c.wr r (v % 2 ^ 18)
  | 3 | 4 => c.wr r v
  | _ => c

/-! ### Membership (R214, R215, Table 10) -/

/-- Address of a membership entry. -/
def Chip.membAddr (c : Chip) (h : Nat) : Nat := c.balBase 2 + h * 0x80

/-- A membership entry. -/
def Chip.memb (c : Chip) (h : Nat) : List Byte × Chip := c.balRead (c.membAddr h) 0x80

/-- Write part of a membership entry. -/
def Chip.setMemb (c : Chip) (h off n v : Nat) : Chip := c.balWrite (c.membAddr h + off) (leBytes n v)

/-- The members of a group in the order of its list; `n` bounds their number. -/
def Chip.memberChain (c : Chip) : Nat → Nat → List Nat
  | 0, _ => []
  | n + 1, h =>
    let link := leAt (c.memb h).1 0 4
    h :: if bitOf link 20 then [] else c.memberChain n (link % 2 ^ 20)

/-- The members of a group. -/
def Chip.memberList (c : Chip) (g : Nat) : List Nat :=
  if c.members g = 0 then [] else c.memberChain (c.members g) (c.grp g 5 19 0)

/-- The group whose list holds a handle. -/
def Chip.groupOf (c : Chip) (h : Nat) : Option Nat :=
  let w := leAt (c.memb h).1 4 2
  if !bitOf w 15 && (c.memberList (w % 4096)).contains h then some (w % 4096) else none

/-- The entries that a walk of a group's list reads. -/
def Chip.listReads (c : Chip) (g : Nat) : List (Nat × Nat) := (c.memberList g).map fun h => (c.membAddr h, 0x80)

/-- The entries that finding the group of a handle reads: its own, and the list of the group it names. -/
def Chip.groupReads (c : Chip) (h : Nat) : List (Nat × Nat) :=
  let w := leAt (c.memb h).1 4 2
  (c.membAddr h, 0x80) :: if bitOf w 15 then [] else c.listReads (w % 4096)

/-- Take a member out of a group's list. -/
def Chip.unlink (c : Chip) (g h : Nat) : Chip :=
  let l := c.memberList g
  let link := leAt (c.memb h).1 0 4
  let c := c.setGrp g 2 26 16 (c.members g - 1)
  match l.takeWhile (· != h) with
  | [] => (c.setGrp g 5 19 0 (link % 2 ^ 20)).setGrp g 5 20 20 (fld link 20 20)
  | p :: ps => c.setMemb ((p :: ps).getLast?.getD p) 0 4 link

/-- Put a handle at the head of a group's list. -/
def Chip.linkIn (c : Chip) (g h : Nat) : Chip :=
  let head := c.grp g 5 19 0 + 2 ^ 20 * b2n (c.members g == 0)
  let c := (c.setMemb h 0 4 head).setMemb h 4 2 g
  ((c.setGrp g 5 19 0 h).setGrp g 5 20 20 0).setGrp g 2 26 16 (c.members g + 1)

/-- A change takes effect from the oldest interval not yet closed. -/
def Chip.effect (c : Chip) (h : Nat) : Chip :=
  let c := (c.setMemb h 8 4 (w32 c.kOpen)).setMemb h 12 4 (w32 (c.dayAt c.utc + 1))
  c.setMemb h 16 4 0

/-- Move a member to the list of a group. -/
def Chip.moveGroup (c : Chip) (g h mode : Nat) : Chip :=
  let c := match c.groupOf h with
    | some old => c.unlink old h
    | none => c
  ((c.linkIn g h).setMemb h 6 1 mode).effect h

/-- JOIN; a meter joined in PHASE mode starts unassigned (R215, R216). -/
def Chip.join (c : Chip) (h : Nat) : Chip :=
  let arg := c.rd Reg.BAL_MEMB_ARG
  let g := arg % 4096
  let phase := bitOf arg 12
  let mode := b2n phase + 2 * b2n (bitOf arg 13) + 8 * b2n phase
  if c.isNamed h then c.wr Reg.BAL_MEMB_RESULT 3
  else if !c.grpOn g then c.wr Reg.BAL_MEMB_RESULT 2
  else
    let c := c.balSeen (c.groupReads h)
    if 1024 ≤ c.members g ∧ c.groupOf h ≠ some g then c.wr Reg.BAL_MEMB_RESULT 1
    else ((c.moveGroup g h mode).setMemb h 7 1 7).wr Reg.BAL_MEMB_RESULT 0

/-- LEAVE; of a handle that is in no list, no change. -/
def Chip.leave (c : Chip) (h : Nat) : Chip :=
  let c := c.balSeen (c.groupReads h)
  (match c.groupOf h with
    | some g => ((c.unlink g h).setMemb h 4 2 0x8000).effect h
    | none => c).wr Reg.BAL_MEMB_RESULT 0

/-- EXCLUDE and INCLUDE. -/
def Chip.exclude (c : Chip) (h : Nat) (on : Bool) : Chip :=
  let c := c.balSeen (c.groupReads h)
  (match c.groupOf h with
    | some _ => (c.setMemb h 6 1 (putBit (leAt (c.memb h).1 6 1) 2 on)).effect h
    | none => c).wr Reg.BAL_MEMB_RESULT 0

/-- A write of BAL_MEMB_CMD with GO. -/
def Chip.membCmd (c : Chip) (v : Nat) (f : Chip → Nat → Chip) : Chip :=
  if c.balUp && bitOf v 31 then f c (v % 2 ^ 20) else c

/-! ### Reports (R229, Table 13) -/

/-- Entries of the report buffer. -/
def Chip.rptSize (c : Chip) : Nat := 2 ^ (min 10 (c.fl Reg.BAL_RPT_CFG 3 0) + 6)

/-- Whether the report buffer is full. -/
def Chip.rptFull (c : Chip) : Bool := (c.rd Reg.BAL_RPT_PI + 1) % c.rptSize == c.rd Reg.BAL_RPT_CI

/-- Write a record to the buffer, with its RSEQ. -/
def Chip.rptWrite (c : Chip) (r : List Byte) : Chip :=
  let pi := c.rd Reg.BAL_RPT_PI
  let c := c.balWrite (c.balBase 5 + 64 * pi) (splice (padTo 64 r) 4 (leBytes 4 c.bal.rseq.toNat))
  (c.wr Reg.BAL_RPT_PI ((pi + 1) % c.rptSize)).onBal fun b => { b with rseq := b.rseq + 1 }

/-- Waiting reports are written while there is space. -/
def Chip.rptDrain (c : Chip) : Nat → Chip
  | 0 => c
  | n + 1 =>
    match c.bal.reports with
    | [] => c
    | r :: rest => if c.rptFull then c else ((c.onBal fun b => { b with reports := rest }).rptWrite r).rptDrain n

/-- Post a report: type, group, bytes from 8. -/
def Chip.report (c : Chip) (typ g : Nat) (body : List Byte) : Chip :=
  let r := leBytes 2 typ ++ leBytes 2 g ++ leBytes 4 0 ++ padTo 56 body
  let drop := (c.bump Reg.BAL_RPT_DROP).raise Reg.BAL_STATUS 3
  if c.bal.reports = [] ∧ !c.rptFull then c.rptWrite r
  else if typ = 1 ∨ 64 ≤ c.bal.reports.length then drop
  else c.onBal fun b => { b with reports := b.reports ++ [r] }

/-! ### Phase families (R216) -/

/-- The base group of a member's group: the nearest at or below it that has FAMILY and maps to it. -/
def Chip.familyBase (c : Chip) (g : Nat) : Option Nat :=
  ((List.range 6).map fun d => (d, g - d)).findSome? fun x =>
    if x.1 ≤ g && c.grp x.2 0 9 9 == 1 && (x.1 == 0 || (List.range 6).any fun r => c.pmap x.2 r == x.1) then
      some x.2 else none

/-- A member moves within its family, with a report of type 0x4. -/
def Chip.phaseMove (c : Chip) (b h rel conf old new : Nat) (mode : Nat) : Chip :=
  let was := if bitOf mode 3 then 0xFFFF else old
  let c := (c.moveGroup new h (putBit mode 3 false)).bump Reg.BAL_PH_MOVE
  c.report 4 b (leBytes 4 h ++ leBytes 2 was ++ leBytes 2 new ++ leBytes 1 rel ++ leBytes 1 conf ++ leBytes 2 0 ++
    leBytes 4 (w32 c.kOpen))

/-- A member becomes unassigned in the base group. -/
def Chip.phaseUnassign (c : Chip) (b h rel conf old mode : Nat) : Chip :=
  if bitOf mode 3 && old == b then c
  else
    let c := (c.moveGroup b h (putBit mode 3 true)).bump Reg.BAL_PH_MOVE
    c.report 4 b (leBytes 4 h ++ leBytes 2 old ++ leBytes 2 0xFFFF ++ leBytes 1 rel ++ leBytes 1 conf ++ leBytes 2 0 ++
      leBytes 4 (w32 c.kOpen))

/-- A phase notice is taken: the relation is recorded, and a phase-family member may move. -/
def Chip.phaseTaken (c : Chip) (n : PhaseNotice) : Chip :=
  let h := n.handle.toNat
  let c := c.balSeen (if n.hvalid then c.groupReads h else [])
  match if n.hvalid then c.groupOf h else none with
  | none => c
  | some g =>
    let c := c.setMemb h 7 1 n.rel
    let mode := leAt (c.memb h).1 6 1
    match if bitOf mode 0 then c.familyBase g else none with
    | none => c
    | some b =>
      let off := if n.rel < 6 then c.pmap b n.rel else 7
      let t := b + off
      if 6 ≤ off then c.phaseUnassign b h n.rel n.conf g mode
      else if t = g ∧ !bitOf mode 3 then c
      else if 4096 ≤ t || !c.grpOn t then
        (c.phaseUnassign b h n.rel n.conf g mode).report 6 b (leBytes 4 h ++ leBytes 2 t ++ leBytes 1 2)
      else if 1024 ≤ c.members t ∧ t ≠ g then
        (c.phaseUnassign b h n.rel n.conf g mode).report 6 b (leBytes 4 h ++ leBytes 2 t ++ leBytes 1 1)
      else c.phaseMove b h n.rel n.conf g t mode

/-- PHASE_NOTICE: the oldest notice from the LMA. -/
def Chip.phaseNotice (c : Chip) : Chip :=
  if !c.balUp then c
  else match c.lma.notices with
  | [] => c
  | n :: rest => (({ c with lma := { c.lma with notices := rest } }).bump Reg.BAL_PH_NOTICE).phaseTaken n

/-! ### Report delivery (11 R346) -/

/-- Enabled completion rings of pairs bound to the BLN service. -/
def Chip.blnPairs (c : Chip) : List Nat :=
  (List.range 64).filter fun p => c.service p == 6 && c.bit (Reg.RING_RP_CQ_CFG p) 31

/-- BLN_REPORT_DELIVER: to every enabled BLN ring, once none is full; a chip whose outputs are gated
discards it (15 R447). -/
def Chip.blnDeliver (c : Chip) : Chip :=
  let ps := c.blnPairs
  let ci := c.rd Reg.BAL_RPT_CI
  if ps = [] || c.gated 0 || !c.balUp || ci == c.rd Reg.BAL_RPT_PI || (!c.outputsGated && ps.any c.cqRingFull) then c
  else
    let (b, c) := c.balRead (c.balBase 5 + 64 * ci) 64
    let c := if c.outputsGated then c.bumpBy Reg.RING_CPL_DISCARD ps.length
      else ps.foldl (fun c p => c.cqWrite p (splice b 1 (leBytes 1 (128 * b2n (c.rpair p).phase)))) c
    (c.wr Reg.BAL_RPT_CI ((ci + 1) % c.rptSize)).rptDrain 64

/-! ### Meanings -/

/-- JOIN (R215). -/
def execJoin (v : Word) (s : State) : Host.Outcome State Fault Refusal :=
  s.onChip fun c => c.onReg Reg.BAL_MEMB_CMD anyIni fun c => c.membCmd v.toNat fun c h => c.join h

/-- LEAVE (R215). -/
def execLeave (v : Word) (s : State) : Host.Outcome State Fault Refusal :=
  s.onChip fun c => c.onReg Reg.BAL_MEMB_CMD anyIni fun c => c.membCmd v.toNat fun c h => c.leave h

/-- EXCLUDE (R215). -/
def execExclude (v : Word) (s : State) : Host.Outcome State Fault Refusal :=
  s.onChip fun c => c.onReg Reg.BAL_MEMB_CMD anyIni fun c => c.membCmd v.toNat fun c h => c.exclude h true

/-- INCLUDE (R215). -/
def execInclude (v : Word) (s : State) : Host.Outcome State Fault Refusal :=
  s.onChip fun c => c.onReg Reg.BAL_MEMB_CMD anyIni fun c => c.membCmd v.toNat fun c h => c.exclude h false

/-- GROUP_RELEARN (R222). -/
def execGroupRelearn (v : Word) (s : State) : Host.Outcome State Fault Refusal :=
  s.onChip fun c => c.onReg Reg.BAL_GRP_CMD anyIni fun c => if c.balUp && bitOf v.toNat 16 then c.relearn (v.toNat % 4096) else c

/-- PHASE_NOTICE (R216). -/
def execPhaseNotice (s : State) : Host.Outcome State Fault Refusal := s.onChip Chip.phaseNotice

/-- BLN_REPORT_DELIVER (11 R346). -/
def execBlnReportDeliver (s : State) : Host.Outcome State Fault Refusal := s.onChip Chip.blnDeliver

end Sys2Proof.Machine
end

