-- ==== Sys2Proof/Machine/Balance.lean ====
section
/-!
DEFINITION. Requests to BAL: format tables, validation, estimation and archive records
(07_validation_and_balance.md R194–R213, R217).
-/
namespace Sys2Proof.Machine

/-! ### Format tables (R200–R202, Tables 3 and 4) -/

/-- A field descriptor. -/
structure FmtField where
  role : Nat
  ch : Nat
  typ : Nat
  scaler : Int
  off : Nat
  width : Nat
  inBlock : Bool
  signed : Bool
  bal : Bool
  noarch : Bool
  crvHi : Nat
  crvLo : Nat
  zrunMax : Nat
  absMax : Nat
  maskTamper : Nat
  maskPfail : Nat

/-- A format entry. -/
structure Fmt where
  index : Nat
  nfield : Nat
  tzofs : Int
  repeats : Bool
  minLen : Nat
  cntOfs : Nat
  first : Nat
  stride : Nat
  rptMax : Nat
  fields : List FmtField

/-- Read a field descriptor. -/
def FmtField.ofBytes (d : List Byte) : FmtField :=
  let fl := leAt d 7 1
  { role := leAt d 0 1, ch := leAt d 1 1 % 16, typ := leAt d 2 1, scaler := sgn 8 (leAt d 3 1), off := leAt d 4 2
    width := leAt d 6 1, inBlock := bitOf fl 0, signed := bitOf fl 1, bal := bitOf fl 2, noarch := bitOf fl 3
    crvHi := leAt d 8 1, crvLo := leAt d 9 1, zrunMax := leAt d 10 2, absMax := leAt d 12 4
    maskTamper := leAt d 8 4, maskPfail := leAt d 12 4 }

/-- Read a format entry. -/
def Fmt.ofBytes (e : List Byte) : Fmt :=
  let n := leAt e 1 1
  { index := leAt e 0 1, nfield := n, tzofs := sgn 16 (leAt e 2 2), repeats := bitOf (leAt e 4 1) 0
    minLen := leAt e 6 2, cntOfs := leAt e 8 2, first := leAt e 10 2, stride := leAt e 12 2, rptMax := leAt e 14 1
    fields := (List.range (min 16 n)).map fun i => FmtField.ofBytes (slice e (16 + 16 * i) 16) }

/-- Octets of a TYPE. -/
def typeLen (t : Nat) : Nat := [1, 2, 4, 8, 2, 4, 8, 12, 4].getD t 0

/-- Whether a field repeats with the blocks. -/
def Fmt.blocked (f : Fmt) (d : FmtField) : Bool := d.inBlock && f.repeats

/-- Curve points of a curve record; 0 where there is none. -/
def crvPoints (b : List Byte) : Nat := if 2 ≤ leAt b 2 1 ∧ leAt b 2 1 ≤ 32 then leAt b 2 1 else 0

/-- The rules of a format entry (R202); `curve` says whether a curve is present. -/
def Fmt.good (f : Fmt) (curve : Nat → Bool) : Bool :=
  let used := f.fields.filter fun d => d.role != 0
  let crvOk (i : Nat) : Bool := i == 0xFF || curve i
  let fits (d : FmtField) : Bool :=
    decide (d.off + typeLen d.typ + (if f.blocked d then f.first + (f.rptMax - 1) * f.stride else 0) ≤ f.minLen)
  decide (1 ≤ f.nfield) && decide (f.nfield ≤ 16) &&
    (!f.repeats || (decide (1 ≤ f.rptMax) && decide (f.rptMax ≤ 96))) &&
    decide ((f.fields.filter fun d => d.bal).length ≤ 1) &&
    (f.fields.all fun d => decide (d.role ≤ 5) && decide (d.typ ≤ 8) && decide (-6 ≤ d.scaler) && decide (d.scaler ≤ 6) &&
      (!d.bal || d.role == 2 || d.role == 3)) &&
    (used.all fun d => fits d && (d.role == 5 || (crvOk d.crvHi && crvOk d.crvLo)) &&
      (!([2, 3, 4].contains d.role) || used.any fun t => t.role == 1 && f.blocked t == f.blocked d)) &&
    decide (((used.filter fun d => d.role != 1 && !d.noarch).map fun d => if f.blocked d then f.rptMax else 1).foldl
      (· + ·) 0 ≤ 128)

/-! ### Images (R202, R203, R205, 13 R391) -/

/-- Whether the common wrapper's header is good for a kind, and BODYLEN at most `most`. -/
def wrapperGood (h : List Byte) (kind most : Nat) : Bool :=
  leAt h 0 4 == 0x54425A54 && leAt h 4 1 == kind && leAt h 5 1 == 1 && crc32 (h.take 60) == leAt h 60 4 &&
    decide (1 ≤ leAt h 8 4) && decide (leAt h 8 4 ≤ most)

/-- Whether a curve record keeps the rules of R203. -/
def crvGood (b : List Byte) : Bool :=
  let n := crvPoints b
  decide (leAt b 0 1 ≤ 1) && n != 0 && ascending ((List.range n).map fun i => leAt b (8 + 2 * i) 2)

/-- The curve table's record `i`. -/
def Chip.crv (c : Chip) (i : Nat) : List Byte := (c.balRead (c.balBase 1 + i * 256) 256).1

/-- The read of a curve. -/
def Chip.crvRead (c : Chip) (i : Nat) : Nat × Nat := (c.balBase 1 + i * 256, 256)

/-- The curves that a field names. -/
def Chip.crvReads (c : Chip) (d : FmtField) : List (Nat × Nat) :=
  ([d.crvHi, d.crvLo].filter (· != 0xFF)).map c.crvRead

/-- The rules of a format image: whole entries in rising INDEX order. -/
def Chip.fmtImageGood (c : Chip) (es : List (List Byte)) : Bool :=
  (es.all fun e => e.length == 512 && (Fmt.ofBytes e).good fun i => crvPoints (c.crv i) != 0) &&
    ascending (es.map fun e => leAt e 0 1)

/-- BAL_IMG_CMD with GO: a load of kind 1 or 2 is requested. -/
def Chip.imageCmd (c : Chip) (v kind : Nat) : Chip :=
  if c.balUp && bitOf v 31 && v % 4 == kind && c.bal.image.isNone then
    (c.setBit Reg.BAL_IMG_STATUS 0 true).onBal fun b => { b with image := some kind }
  else c

/-- The load ends: RESULT. -/
def Chip.imageEnd (c : Chip) (r : Nat) : Chip := (c.wr Reg.BAL_IMG_STATUS (2 * r)).onBal fun b => { b with image := none }

/-- BAL_IMAGE_APPLY. -/
def Chip.imageApply (c : Chip) : Chip :=
  match c.bal.image with
  | none => c
  | some kind =>
    if !c.balUp || c.bal.reqs != [] then c
    else
      let a := c.rd Reg.BAL_IMG_ADDR_LO + c.fl Reg.BAL_IMG_ADDR_HI 15 0 * 2 ^ 32
      let size := if kind = 1 then 512 else 256
      let (h, c) := c.balRead a 64
      if !wrapperGood h kind (256 * size) then c.imageEnd 2
      else
        let (body, c) := c.balRead (a + 64) (leAt h 8 4)
        let es := pieces size body
        if kind = 1 then
          let c := c.balSeen (es.flatMap fun e =>
            ((Fmt.ofBytes e).fields.filter fun d => d.role != 0 && d.role != 5).flatMap c.crvReads)
          if c.fmtImageGood es then
            let c := (List.range 256).foldl (fun c i =>
              c.balWrite (c.balBase 0 + i * 512) ((es.find? fun e => leAt e 0 1 == i).getD (List.replicate 512 0))) c
            c.imageEnd 1
          else c.imageEnd 3
        else if es.all fun e => e.length == 256 && crvGood e then
          (c.balWrite (c.balBase 1) (padTo 65536 body)).imageEnd 1
        else c.imageEnd 3

/-- FMT_LOOKUP: the oldest request for a format (R200, 06 R176). -/
def Chip.fmtLookup (c : Chip) : Chip :=
  if !c.balUp then c
  else match c.flo.reqs.find? fun r => match r with | .fmt _ _ => true | _ => false with
  | some (.fmt pod i) =>
    let a := c.balBase 0 + i.toNat * 512
    let (e, c) := c.balRead a 16
    (c.onFlo fun f => { f with reqs := f.reqs.erase (.fmt pod i) }).floPost pod.toNat 6 (b2n (leAt e 1 1 == 0)) a
  | _ => c

/-! ### Requests (R197–R199) -/

/-- Fields of a request. -/
def BalReq.pod (r : BalReq) : Nat := leAt r.entry 0 2 % 1024
/-- OPND. -/
def BalReq.opnd (r : BalReq) : Bool := bitOf (leAt r.entry 2 1) 0
/-- HANDLE. -/
def BalReq.handle (r : BalReq) : Nat := leAt r.entry 4 4 % 2 ^ 20
/-- IC. -/
def BalReq.ic (r : BalReq) : Nat := leAt r.entry 24 4
/-- HCX. -/
def BalReq.hcx (r : BalReq) : Nat := leAt r.entry 22 2 % 2 ^ 14

/-- Entries of the request queue. -/
def Chip.balqSize (c : Chip) : Nat := ringSize (c.fl Reg.BAL_QCFG 3 0)

/-- Address of a request. -/
def Chip.balqAddr (c : Chip) (i : Nat) : Nat :=
  c.fl Reg.BAL_QBASE_LO 31 5 * 32 + c.fl Reg.BAL_QBASE_HI 15 0 * 2 ^ 32 + 32 * i

/-- BAL_REQUEST_ACCEPT. -/
def Chip.balAccept (c : Chip) : Chip :=
  let i := c.bal.fetched
  if !c.balUp || !c.bit Reg.BAL_CTRL 0 || c.bit Reg.BAL_CTRL 1 || !c.bit Reg.BAL_QCFG 31 || c.bal.image.isSome ||
      decide (64 ≤ c.bal.reqs.length) || i == c.fl Reg.BAL_QPI 9 0 % c.balqSize then c
  else
    let (j, e, c) := c.dmaRead 7 false (c.balqAddr i) 32
    let r : BalReq := ⟨i, e, j != .ok⟩
    (c.onBal fun b => { b with reqs := b.reqs ++ [r], fetched := (i + 1) % c.balqSize }).when
      (r.opnd && j == .ok) fun c => c.hold r.pod

/-- Pass completed requests at the consumer index. -/
def Chip.balPass (c : Chip) : Nat → Chip
  | 0 => c
  | n + 1 =>
    let ci := c.rd Reg.BAL_QCI
    if c.bal.done.contains ci then
      ((c.wr Reg.BAL_QCI ((ci + 1) % c.balqSize)).onBal fun b => { b with done := b.done.filter (· != ci) }).balPass n
    else c

/-! ### VWORK (R210–R212, Table 9) -/

/-- The validation state of a meter. -/
structure VWork where
  lastIdx : Nat
  cumIdx : Nat
  cumRaw : Nat
  ewma : Int
  zrun : Nat
  lastValid : Bool
  cumValid : Bool
  ewmaValid : Bool
  pmask : Nat
  prof : List Nat
  nacc : Nat
  deriving DecidableEq, Repr

/-- Read VWORK. -/
def VWork.ofBytes (b : List Byte) : VWork :=
  let fl := leAt b 0x16 1
  { lastIdx := leAt b 0 4, cumIdx := leAt b 4 4, cumRaw := leAt b 8 8, ewma := sgn 32 (leAt b 0x10 4)
    zrun := leAt b 0x14 2, lastValid := bitOf fl 0, cumValid := bitOf fl 1, ewmaValid := bitOf fl 2
    pmask := leAt b 0x18 4 % 2 ^ 24, prof := (List.range 24).map fun i => leAt b (0x1C + 2 * i) 2
    nacc := leAt b 0x4C 4 }

/-- Write VWORK: its first 80 bytes. -/
def VWork.bytes (v : VWork) : List Byte :=
  leBytes 4 v.lastIdx ++ leBytes 4 v.cumIdx ++ leBytes 8 v.cumRaw ++ leBytes 4 (uns 32 v.ewma) ++ leBytes 2 v.zrun ++
    leBytes 1 (b2n v.lastValid + 2 * b2n v.cumValid + 4 * b2n v.ewmaValid) ++ leBytes 1 0 ++ leBytes 4 v.pmask ++
    (v.prof.flatMap fun p => leBytes 2 p) ++ leBytes 4 v.nacc

/-- Update by an accepted balance value (R211). -/
def VWork.update (w : VWork) (v : Int) (k h : Nat) : VWork :=
  let ewma := if w.ewmaValid then w.ewma + (v - w.ewma) / 16 else v
  let p : Nat := min 65535 ((v + 5) / 10).toNat
  let old : Nat := w.prof.getD h 0
  let prof := if v < 0 then w.prof
    else w.prof.set h (if bitOf w.pmask h then ((old : Int) + ((p : Int) - old) / 8).toNat else p)
  let newer := decide (w.lastIdx < k) || !w.lastValid
  { w with
    ewma := clampI (-(2 ^ 31)) (2 ^ 31 - 1) ewma, ewmaValid := true, prof := prof
    pmask := if v < 0 then w.pmask else putBit w.pmask h true
    zrun := if v = 0 then min 65535 (w.zrun + 1) else 0
    lastIdx := if newer then k else w.lastIdx, lastValid := true, nacc := satInc w.nacc }

/-- The profile estimate for an hour, with its method (R212). -/
def VWork.estimate (w : VWork) (h : Nat) : Int × Nat :=
  if bitOf w.pmask h then ((w.prof.getD h 0 * 10 : Nat), 2) else if w.ewmaValid then (w.ewma, 3) else (0, 3)

/-! ### Times and values (R195, R196, R201) -/

/-- UTC second of a DLMS date-time, or none where it is unusable (R195). -/
def dlmsTime (b : List Byte) (tzofs : Int) : Option Int :=
  let f (i : Nat) : Nat := leAt b i 1
  let y := beVal (slice b 0 2)
  let dev := beVal (slice b 9 2)
  let ofs := if dev = 0x8000 then tzofs else sgn 16 dev
  if y = 0xFFFF ∨ ([2, 3, 4, 5, 6, 7, 8, 11].any fun i => f i == 0xFF) then none
  else if f 2 = 0 ∨ 12 < f 2 ∨ f 3 = 0 ∨ monthDays y (f 2) < f 3 ∨ f 4 = 0 ∨ 7 < f 4 ∨ 23 < f 5 ∨ 59 < f 6 ∨ 59 < f 7 ∨
      99 < f 8 then none
  else some (dayOf y (f 2) (f 3) * 86400 + f 5 * 3600 + f 6 * 60 + f 7 + 60 * ofs)

/-- The time of a TIME field. -/
def fieldTime (p : List Byte) (at' : Nat) (d : FmtField) (tzofs : Int) : Option Int :=
  match d.typ with
  | 7 => dlmsTime (slice p at' 12) tzofs
  | 8 => some (beVal (slice p at' 4))
  | _ => none

/-- A value's place: its time, its interval modulo 2^32 (R194), and flags so far (R196). -/
structure Place where
  t : Int
  k : Option Int
  ef : Nat

/-- Place an end time (R196): SKEW is flag 2, UNALIGNED flag 3. -/
def Chip.placeAt (c : Chip) (t : Option Int) : Place :=
  match t with
  | none => ⟨0, none, 1 + 8⟩
  | some t =>
    let n := (t + c.ivl / 2) / c.ivl
    let d := (t - n * c.ivl).natAbs
    if d ≤ c.fl Reg.BAL_TIME_CFG 7 0 then ⟨t, some (w32 (n - 1)), 0⟩
    else if d ≤ c.fl Reg.BAL_TIME_CFG 15 8 then ⟨t, some (w32 (n - 1)), 4⟩
    else ⟨t, none, 1 + 8⟩

/-- Raw value of a field. -/
def rawOf (p : List Byte) (at' : Nat) (d : FmtField) : Int :=
  let n := typeLen d.typ
  let v := beVal (slice p at' n)
  if 4 ≤ d.typ ∧ d.typ ≤ 6 then sgn (8 * n) v else v

/-- A raw value scaled (R201). -/
def scaled (raw : Int) (s : Int) : Int := if 0 ≤ s then raw * 10 ^ s.toNat else roundDiv raw (10 ^ (-s).toNat)

/-! ### Curves (R204) -/

/-- A curve's limit at `x`. -/
def crvAt (b : List Byte) (x : Nat) : Int :=
  let n := crvPoints b
  let xs (i : Nat) : Nat := leAt b (8 + 2 * i) 2
  let ys (i : Nat) : Int := sgn 32 (leAt b (72 + 4 * i) 4)
  if x ≤ xs 0 then ys 0
  else if xs (n - 1) ≤ x then ys (n - 1)
  else
    let i := ((List.range n).filter fun j => decide (xs j ≤ x)).length - 1
    ys i + ((ys (i + 1) - ys i) * ((x : Int) - xs i)).tdiv ((xs (i + 1) : Int) - xs i)

/-- Whether a value passes the curve of an index, above it where `hi`. -/
def Chip.crvPasses (c : Chip) (i : Nat) (hi : Bool) (v : Int) (k : Int) (w : VWork) : Bool :=
  let b := c.crv i
  if i = 0xFF ∨ crvPoints b = 0 then true
  else
    let src : Int := if leAt b 0 1 = 0 then (c.secOfDay k / 60 : Nat) else w.ewma
    let x := (src / (2 ^ (leAt b 1 1) : Nat)).toNat
    if hi then decide (v ≤ crvAt b x) else decide (crvAt b x ≤ v)

/-! ### A request's run -/

/-- What a run builds: the chip, VWORK, records and counts. -/
structure BalRun where
  chip : Chip
  w : VWork
  recs : List (List Byte)
  nfail : Nat
  nest : Nat
  late : Bool
  resend : Bool
  tamper : Bool

/-- The archive record (Table 7). -/
def archiveRecord (handle ch role : Nat) (k : Option Int) (value : Nat) (ef ic fmt qual : Nat) : List Byte :=
  let b := leBytes 4 (handle + ch * 2 ^ 20 + role * 2 ^ 24) ++
    leBytes 4 (match k with | some k => w32 k | none => 0xFFFFFFFF) ++ leBytes 6 value ++ leBytes 2 ef ++
    leBytes 4 ic ++ leBytes 1 fmt ++ leBytes 1 qual
  b ++ leBytes 2 (crc16 b)

/-- A value as 48 bits, saturating. -/
def sat48 (v : Int) : Nat := uns 48 (clampI (-(2 ^ 47)) (2 ^ 47 - 1) v)

/-- A value is counted and archived. -/
def BalRun.emit (r : BalRun) (q : BalReq) (fmt ch role : Nat) (k : Option Int) (value ef qual : Nat) (arch : Bool) :
    BalRun :=
  { r with
    recs := if arch then r.recs ++ [archiveRecord q.handle ch role k value ef q.ic fmt qual] else r.recs
    nfail := r.nfail + b2n (bitOf ef 0), nest := r.nest + b2n (bitOf ef 1), late := r.late || bitOf ef 14
    resend := r.resend || bitOf ef 5, tamper := r.tamper || bitOf ef 13
    chip := (r.chip.bumpBy Reg.BAL_LATE (b2n (bitOf ef 14))).bumpBy Reg.BAL_RESEND (b2n (bitOf ef 5)) }

/-- LATE and NOBAL for an interval already closed (R208). -/
def Chip.lateMarks (c : Chip) (k : Option Int) (ef qual : Nat) : Nat × Nat :=
  match k with
  | some k => if k < c.kOpen then (putBit ef 14 true, putBit qual 5 true) else (ef, qual)
  | none => (ef, qual)

/-- Whether interval `k` of a handle has an empty slot that is open (R217, Table 10): JOIN_IDX has come, it is not
closed, and PRESENT is clear; of a check meter that is no member, that no value has come. -/
def Chip.slotOpen (c : Chip) (h : Nat) (k : Int) : Bool :=
  let e := (c.memb h).1
  let s := (k % 16).toNat
  decide (c.kOpen ≤ k) &&
    if (c.groupOf h).isSome then decide (leAt e 8 4 ≤ w32 k) && !bitOf (leAt e 16 2) s
    else c.isCheck h && !c.bal.checks.any fun x => x.handle == h && x.k == k && !x.i2h

/-- A value of a check meter reaches the groups that name it (R218). -/
def Chip.checkTake (c : Chip) (h : Nat) (k v : Int) (i2h : Bool) : Chip :=
  c.onBal fun b => { b with
    checks := (b.checks.filter fun x => !(x.handle == h && x.k == k && x.i2h == i2h)) ++ [⟨h, k, i2h, v⟩] }

/-- A balance value reaches its member's slot, and its groups as a check meter's; `est` is whether it is an
estimate, which serves no group as a feeder and replaces no measured value (R217, R218). -/
def Chip.feed (c : Chip) (h : Nat) (k v : Int) (est : Bool) : Chip :=
  let s := (k % 16).toNat
  let c := c.when (c.isCheck h && !est) fun c => c.checkTake h k v false
  let e := (c.memb h).1
  let measured := bitOf (leAt e 16 2) s && !bitOf (leAt e 18 2) s
  if (c.groupOf h).isNone || decide (w32 k < leAt e 8 4) || (est && measured) then c
  else
    let c := c.setMemb h (0x20 + 4 * s) 4 (uns 32 (clampI (-(2 ^ 31)) (2 ^ 31 - 1) v))
    (c.setMemb h 16 2 (putBit (leAt e 16 2) s true)).setMemb h 18 2 (putBit (leAt e 18 2) s est)

/-- Continuity of a cumulative value (R207): the gap, flags, and the scaled step. -/
def VWork.continuity (w : VWork) (d : FmtField) (raw : Int) (k : Int) : Int × Nat × Int :=
  let g := sgn 32 (uns 32 (k - w.cumIdx))
  let old : Int := if 4 ≤ d.typ ∧ d.typ ≤ 6 then sgn 64 w.cumRaw else w.cumRaw
  let step := if d.width = 0 then raw - old else (raw - old) % (2 ^ d.width : Nat)
  let delta := scaled step d.scaler
  let roll := if d.width ≠ 0 ∧ raw < old then 2 ^ 8 else 0
  if g ≤ 0 then (g, 2 ^ 5, 0)
  else if d.width = 0 ∧ raw < old then (g, 1 + 2 ^ 7, 0)
  else if d.absMax * g < delta then (g, roll + 1 + (if raw < old then 2 ^ 7 else 2 ^ 9), 0)
  else (g, roll, delta)

/-- Weights of a split, or all 1 (R213). -/
def splitWeights (w : VWork) (hours : List Nat) : List Nat :=
  let ws := hours.map fun h => w.prof.getD h 0
  if (hours.all fun h => bitOf w.pmask h) ∧ 0 < ws.foldl (· + ·) 0 then ws else hours.map fun _ => 1

/-- Running sums. -/
def runningSums : Nat → List Nat → List Nat
  | _, [] => []
  | a, w :: ws => (a + w) :: runningSums (a + w) ws

/-- The records of an accepted cumulative value (R213); `nob` is NOBAL by request or resend. -/
def BalRun.split (r : BalRun) (q : BalReq) (fmt : Nat) (d : FmtField) (k g delta : Int) (ef qual : Nat) (nob : Bool) :
    BalRun :=
  let nq := 32 * b2n nob
  if g = 1 then
    let (ef, ql) := r.chip.lateMarks (some k) (putFld (ef % 2 ^ 14) 4 0 0) (4 + nq + putFld qual 3 0 0 % 32)
    let r := if bitOf ql 5 then r else { r with chip := r.chip.feed q.handle k delta false }
    let ql := if !bitOf ql 5 && r.chip.isCheck q.handle then putBit ql 6 true else ql
    let r := { r with w := r.w.update delta (w32 k) (r.chip.hourOf k) }
    r.emit q fmt d.ch 2 (some k) (sat48 delta) ef ql true
  else if r.chip.fl Reg.BAL_EST_CFG 6 0 < g then
    let (ef, ql) := r.chip.lateMarks (some k) 0 (8 + 32)
    r.emit q fmt d.ch 2 (some k) (sat48 delta) ef ql true
  else
    let ks : List Int := (List.range g.toNat).map fun (j : Nat) => k - g + 1 + Int.ofNat j
    let ws := splitWeights r.w (ks.map r.chip.hourOf)
    let tot : Nat := ws.foldl (· + ·) 0
    let cs := (runningSums 0 ws).map fun a => delta * ((a : Nat) : Int) / (tot : Int)
    ((ks.zip (List.zipWith (· - ·) cs (0 :: cs)))).foldl (fun r x =>
      let (ef, ql) := r.chip.lateMarks (some x.1) 2 (1 + nq)
      let r := if bitOf ql 5 then r else { r with chip := r.chip.feed q.handle x.1 x.2 true }
      r.emit q fmt d.ch 2 (some x.1) (sat48 x.2) ef ql true) r

/-- One value through the checks of Table 6, into VWORK, the balance and the archive. -/
def BalRun.value (r : BalRun) (q : BalReq) (f : Fmt) (p : List Byte) (at' : Nat) (d : FmtField) (pl : Place)
    (timed tam pf : Bool) : BalRun :=
  let c := r.chip
  let raw := rawOf p at' d
  let v := scaled raw d.scaler
  let k := pl.k
  let kz := k.getD 0
  let isBal := d.bal && (d.role == 2 || d.role == 3)
  let c := c.balSeen (if isBal && k.isSome then c.groupReads q.handle else [])
  let nobal := bitOf (leAt q.entry 2 1) 2
  let future := timed && k.isSome && (decide (c.utc + c.fl Reg.BAL_TIME_CFG 31 16 < pl.t) || decide (c.kOpen + 16 ≤ kz))
  let ef := pl.ef + if future then 1 + 16 else 0
  let placed := k.isSome && !bitOf ef 0
  let again := isBal && placed && r.w.lastValid && decide (w32 kz ≤ r.w.lastIdx) && !c.slotOpen q.handle kz
  let ef := if again then putBit ef 5 true else ef
  let range := !bitOf ef 0 && (d.role == 2 || d.role == 4) && (decide (d.absMax < v.natAbs) || (decide (v < 0) && !d.signed))
  let ef := if range then ef + 1 + 64 else ef
  let cont := isBal && d.role == 3 && placed && !bitOf ef 0 && r.w.cumValid
  let (g, cf, delta) := if cont then r.w.continuity d raw kz else (0, 0, 0)
  let ef := ef ||| cf
  let bv : Option Int := if bitOf ef 0 || k.isNone then none
    else if d.role = 2 then some v else if cont && g == 1 then some delta else none
  let c := c.balSeen (if bv.isSome then c.crvReads d else [])
  let r := { r with chip := c }
  let high := bv.any fun x => !c.crvPasses d.crvHi true x kz r.w
  let low := bv.any fun x => !c.crvPasses d.crvLo false x kz r.w
  let ef := if high then ef + 1 + 2 ^ 10 else if low then ef + 1 + 2 ^ 11 else ef
  let fails := bitOf ef 0
  let zrun := !fails && isBal && d.zrunMax != 0 && bv == some 0 && decide (d.zrunMax ≤ r.w.zrun + 1)
  let ef := if zrun then ef + 2 ^ 12 else ef
  let ef := if !fails && tam then ef + 2 ^ 13 else ef
  let qual := (if !fails && pf then 16 else 0) +
    if bitOf ef 5 || (nobal && (isBal || d.role == 4)) then 32 else 0
  let (ef, qual) := c.lateMarks k ef qual
  let check := c.isCheck q.handle
  let serves := !fails && k.isSome && !bitOf qual 5
  let qual := if serves && check && isBal && d.role == 2 then putBit qual 6 true else qual
  let value := if d.role = 5 then beVal (slice p at' (typeLen d.typ)) else sat48 v
  let r := if serves && isBal && d.role == 2 then { r with chip := c.feed q.handle kz v false }
    else if serves && d.role == 4 && check then { r with chip := c.checkTake q.handle kz v true }
    else r
  let r := if !fails && isBal && d.role == 2 && k.isSome then
      { r with w := r.w.update v (w32 kz) (c.hourOf kz) } else r
  let r := r.emit q f.index d.ch d.role k value ef qual (!d.noarch)
  if isBal && d.role == 3 && placed && !fails && (!cont || decide (0 < g)) then
    let r := if cont then r.split q f.index d kz g delta ef qual (nobal || bitOf ef 5) else r
    { r with w := { r.w with cumRaw := uns 64 raw, cumIdx := w32 kz, cumValid := true } }
  else r

/-- The values of one scope: those outside blocks, or of one block. -/
def BalRun.scope (r : BalRun) (q : BalReq) (f : Fmt) (p : List Byte) (base : Nat) (fields : List FmtField) : BalRun :=
  let time := fields.find? fun d => d.role == 1
  let pl : Place := match time with
    | some d => r.chip.placeAt (fieldTime p (base + d.off) d f.tzofs)
    | none => ⟨0, none, 0⟩
  let words := (fields.filter fun d => d.role == 5).map fun d => (beVal (slice p (base + d.off) (typeLen d.typ)), d)
  let tam := words.any fun x => x.1 &&& x.2.maskTamper != 0
  let pf := words.any fun x => x.1 &&& x.2.maskPfail != 0
  (fields.filter fun d => 2 ≤ d.role && d.role ≤ 5).foldl
    (fun r d => r.value q f p (base + d.off) d pl time.isSome tam pf) r

/-- The scopes of a plaintext, or none on a parse error (Table 6, order 1). -/
def scopesOf (f : Fmt) (p : List Byte) : Option (List (Nat × List FmtField)) :=
  let n := if f.repeats then leAt p f.cntOfs 1 else 0
  let inb := f.fields.filter f.blocked
  let all := (0, f.fields.filter fun d => !f.blocked d) :: (List.range n).map fun j => (f.first + j * f.stride, inb)
  if p.length < f.minLen ∨ (f.repeats ∧ (p.length ≤ f.cntOfs ∨ f.rptMax < n)) then none
  else if all.any fun x => x.2.any fun d => d.role != 0 && decide (p.length < x.1 + d.off + typeLen d.typ) then none
  else some all

/-- Why a request cannot run, or what it runs on: format and plaintext (Table 1). The hot context is reached over the
fabric like the rest (01 R17, R26). -/
def Chip.balJudge (c : Chip) (q : BalReq) : (Nat ⊕ (Fmt × List Byte)) × Chip :=
  let e := q.entry
  let fmta := leAt e 16 6
  let reserved := leAt e 2 1 / 8 != 0 || leAt e 1 1 / 4 != 0 || leAt e 4 4 / 2 ^ 20 != 0 || leAt e 31 1 != 0 ||
    leAt e 22 2 / 2 ^ 14 != 0
  let off := fmta - c.balBase 0
  if q.refused then (.inl 5, c)
  else if reserved || fmta < c.balBase 0 || decide (131072 ≤ off) || off % 512 != 0 then (.inl 4, c)
  else
    let (j, hb, c) := c.dmaRead 7 false (ctxAddr q.hcx) 256
    if j ≠ .ok then (.inl 5, c)
    else if leAt hb 0 4 % 2 ^ 21 != q.handle + 2 ^ 20 then (.inl 4, c)
    else
    let (j, fb, c) := c.dmaRead 7 false fmta 512
    if j ≠ .ok then (.inl 5, c)
    else if leAt fb 1 1 = 0 then (.inl 3, c)
    else
      let (j, p, c) := c.dmaRead 7 false (leAt e 8 6) (leAt e 14 2)
      if j ≠ .ok ∧ leAt e 14 2 ≠ 0 then (.inl 5, c) else (.inr (Fmt.ofBytes fb, p), c)

/-- A count as NFAIL and NEST show it, in a byte (DESIGN CHOICE, log entry 97). -/
def count8 (n : Nat) : Nat := min 255 n

/-- A batch is offered to the Clamp: while the Clamp's side is down it is discarded and counts as lost (14 R418). -/
def Chip.offerBatch (c : Chip) (b : Batch) : Chip :=
  if c.sideDown 7 then c.dcqLost 4 1 else c.onBal fun x => { x with out := x.out ++ [b] }

/-- A request completes: its fields, its batch, its BDN operand and the counters (R199). -/
def Chip.balComplete (c : Chip) (q : BalReq) (status : Nat) (recs : List (List Byte)) (nfail nest marks : Nat) : Chip :=
  let nrec := count8 recs.length
  let c := c.onBal fun b => { b with reqs := b.reqs.filter fun x => x.idx != q.idx, done := q.idx :: b.done }
  let c := if q.refused then c
    else
      let c := (c.balWrite (c.balqAddr q.idx + 28) (leBytes 1 nrec ++ leBytes 1 (count8 nfail) ++ leBytes 1 (count8 nest))).balWrite
        (c.balqAddr q.idx + 3) (leBytes 1 status)
      let c := (c.offerBatch ⟨BitVec.ofNat 10 q.pod, recs⟩).hold q.pod
      c.when q.opnd fun c => c.floPost q.pod 8 status (nrec + count8 nfail * 2 ^ 8 + count8 nest * 2 ^ 16 + marks * 2 ^ 24)
  let c := match status with
    | 1 => c.bump Reg.BAL_REQ_OK
    | 2 => c.bump Reg.BAL_PARSEF
    | 3 => c.bump Reg.BAL_NOFMT
    | _ => c
  ((c.bumpBy Reg.BAL_VFAIL nfail).bumpBy Reg.BAL_ESTCNT nest).balPass 1024

/-- BAL_REQUEST_PROCESS: the request at an index, unless an earlier one names its handle. -/
def Chip.balProcess (c : Chip) (idx : Nat) : Chip :=
  match c.bal.reqs.find? fun x => x.idx == idx with
  | none => c
  | some q =>
    let before := c.bal.reqs.takeWhile fun x => x.idx != idx
    if !c.balUp || before.any fun x => !x.refused && x.handle == q.handle then c
    else
      match c.balJudge q with
      | (.inl st, c) => c.balComplete q st [] 0 0 0
      | (.inr (f, p), c) =>
        match scopesOf f p with
        | none => c.balComplete q 2 [] 0 0 0
        | some scopes =>
          let r : BalRun := ⟨c, VWork.ofBytes (c.rdMem (ctxAddr q.hcx + 0x40) 128), [], 0, 0, false, false, false⟩
          let r := scopes.foldl (fun r x => r.scope q f p x.1 x.2) r
          let c := r.chip.balWrite (ctxAddr q.hcx + 0x40) r.w.bytes
          c.balComplete q 1 (if bitOf (leAt q.entry 2 1) 1 then [] else r.recs) r.nfail r.nest
            (b2n r.late + 2 * b2n r.resend + 4 * b2n r.tamper)

/-! ### Meanings -/

/-- FMT_LOOKUP (R200). -/
def execFmtLookup (s : State) : Host.Outcome State Fault Refusal := s.onChip Chip.fmtLookup

/-- BAL_REQUEST_ACCEPT (R198). -/
def execBalRequestAccept (s : State) : Host.Outcome State Fault Refusal := s.onChip Chip.balAccept

/-- BAL_REQUEST_PROCESS (R206). -/
def execBalRequestProcess (idx : BitVec 10) (s : State) : Host.Outcome State Fault Refusal :=
  s.onChip fun c => c.balProcess idx.toNat

/-- FORMAT_IMAGE_LOAD (R205). -/
def execFormatImageLoad (v : Word) (s : State) : Host.Outcome State Fault Refusal :=
  s.onChip fun c => c.onReg Reg.BAL_IMG_CMD anyIni fun c => c.imageCmd v.toNat 1

/-- CURVE_IMAGE_LOAD (R205). -/
def execCurveImageLoad (v : Word) (s : State) : Host.Outcome State Fault Refusal :=
  s.onChip fun c => c.onReg Reg.BAL_IMG_CMD anyIni fun c => c.imageCmd v.toNat 2

/-- BAL_IMAGE_APPLY (R205). -/
def execBalImageApply (s : State) : Host.Outcome State Fault Refusal := s.onChip Chip.imageApply

end Sys2Proof.Machine
end

