-- ==== Sys2Proof/Machine/BalClose.lean ====
section
/-!
DEFINITION. The close of an interval and of a day: sums, loss and residual, the fit, and the
ranking of suspects (07_validation_and_balance.md R217–R228).
-/
namespace Sys2Proof.Machine

/-! ### binary64 (R225, R226)

Values are rationals; each operation's result is rounded to 53 significant bits, to nearest with
ties to even.  No quantity of these rules leaves the exponent range. -/

/-- Bits of a number. -/
def bitLen : Nat → Nat → Nat
  | 0, _ => 0
  | n + 1, v => if v = 0 then 0 else 1 + bitLen n (v / 2)

/-- `n / d` rounded to an integer, ties to even. -/
def roundEven (n d : Nat) : Nat :=
  let q := n / d
  let r := n % d
  if 2 * r < d then q else if d < 2 * r then q + 1 else q + q % 2

/-- A number rounded to 53 significant bits. -/
def f64 (x : Rat) : Rat :=
  let n := x.num.natAbs
  let e : Int := (bitLen 4096 n : Int) - bitLen 4096 x.den - 53
  let at' (e : Int) : Nat :=
    if 0 ≤ e then roundEven n (x.den * 2 ^ e.toNat) else roundEven (n * 2 ^ (-e).toNat) x.den
  let e := if 2 ^ 53 < at' e then e + 1 else e
  let m : Rat := (at' e : Nat)
  let y := if 0 ≤ e then m * ((2 ^ e.toNat : Nat) : Rat) else m / ((2 ^ (-e).toNat : Nat) : Rat)
  if x < 0 then -y else y

/-- Integer square root by bits. -/
def sqrtBits : Nat → Nat → Nat → Nat
  | 0, _, r => r
  | n + 1, v, r =>
    let t := r + 2 ^ n
    sqrtBits n v (if t * t ≤ v then t else r)

/-- Square root in binary64: two more bits than are kept, and a sticky bit. -/
def f64sqrt (x : Rat) : Rat :=
  if x ≤ 0 then 0
  else
    let k : Nat := 60 + bitLen 4096 x.den
    let v := x.num.natAbs * 4 ^ k / x.den
    let r := sqrtBits (bitLen 4096 v / 2 + 1) v 0
    let sticky : Nat := if r * r = v ∧ x.num.natAbs * 4 ^ k % x.den = 0 then 0 else 1
    f64 (((2 * r + sticky : Nat) : Rat) / ((2 ^ (k + 1) : Nat) : Rat))

/-- An integer as binary64. -/
def fi (i : Int) : Rat := f64 (i : Rat)

/-- Nearest integer, halves away from zero. -/
def ratRound (x : Rat) : Int := roundDiv x.num x.den

/-! ### Day entries (R222, R228, R230) -/

/-- A sum of a day entry, saturating in 64 bits; whether it saturated. -/
def satSum (old add : Int) : Int × Bool :=
  let s := old + add
  (clampI (-(2 ^ 63)) (2 ^ 63 - 1) s, decide (s < -(2 ^ 63)) || decide (2 ^ 63 - 1 < s))

/-- A day entry: whether it is saturated, its count (N of a group, NEST of a member), its sums. -/
structure DayEntry where
  sat : Bool
  n : Nat
  sums : List Int

/-- Read a day entry's bytes; `group` gives its layout. -/
def DayEntry.ofBytes (b : List Byte) (sums : Nat) : DayEntry :=
  ⟨bitOf (leAt b 6 2) 0, leAt b 4 2, (List.range sums).map fun i => sgn 64 (leAt b (8 + 8 * i) 8)⟩

/-- Write a day entry's bytes. -/
def DayEntry.bytes (e : DayEntry) (day : Nat) : List Byte :=
  leBytes 4 day ++ leBytes 2 e.n ++ leBytes 2 (b2n e.sat) ++ e.sums.flatMap fun s => leBytes 8 (uns 64 s)

/-- Address of a group's day entry. -/
def Chip.gdayAddr (c : Chip) (g : Nat) (d : Int) : Nat := c.balBase 4 + g * 2048 + (d % 32).toNat * 64

/-- Address of a member's day entry. -/
def Chip.mdayAddr (c : Chip) (h : Nat) (d : Int) : Nat := c.balBase 3 + h * 1024 + (d % 32).toNat * 32

/-- The entry at an address if it is of day `d`. -/
def Chip.dayEntry (c : Chip) (a : Nat) (d : Int) (sums : Nat) : Option DayEntry :=
  let b := (c.balRead a (8 + 8 * sums)).1
  if leAt b 0 4 = w32 d then some (DayEntry.ofBytes b sums) else none

/-- Add to the entry of a day, cleared on its first use for it. -/
def Chip.dayAdd (c : Chip) (a : Nat) (d : Int) (count : Nat) (adds : List Int) : Chip :=
  let e := (c.dayEntry a d adds.length).getD ⟨false, 0, adds.map fun _ => 0⟩
  let s := List.zipWith satSum e.sums adds
  let c := (c.balRead a (8 + 8 * adds.length)).2
  c.balWrite a ((⟨e.sat || (s.any fun x => x.2) || decide (0xFFFF < e.n + count), min 0xFFFF (e.n + count),
    s.map fun x => x.1⟩ : DayEntry).bytes (w32 d))

/-- A group's entry of a day, saturated ones and those without intervals left out. -/
def Chip.groupDay (c : Chip) (g : Nat) (d : Int) : Option DayEntry :=
  (c.dayEntry (c.gdayAddr g d) d 6).bind fun e => if e.sat || e.n == 0 then none else some e

/-! ### The sweep of a group (R218, R219) -/

/-- A member summed. -/
structure Summed where
  h : Nat
  p : Int
  est : Bool
  joinDay : Nat

/-- What a group's sweep forms. -/
structure Sweep where
  s : Int
  nmeas : Nat
  nest : Nat
  u : Int
  nun : Nat
  absEst : Nat
  absAll : Nat
  list : List Summed

/-- Where VWORK of a meter is read: in its hot context where it is resident, else in its record. -/
def Chip.vworkAddr (c : Chip) (h : Nat) : Nat :=
  (match c.resident h with
    | some n => ctxAddr n
    | none => c.recordAddr (BitVec.ofNat 20 h)) + 0x40

/-- The image of a meter's context that is being written back: it stays readable from the write-back buffer (05 R141). -/
def Chip.vworkHeld (c : Chip) (h : Nat) : Option (List Byte) := if (c.resident h).isSome then none else c.writeBuffer h

/-- VWORK of a meter. -/
def Chip.vworkOf (c : Chip) (h : Nat) : VWork :=
  VWork.ofBytes (match c.vworkHeld h with
    | some image => slice image 0x40 128
    | none => (c.balRead (c.vworkAddr h) 128).1)

/-- Add one member to a sweep, and clear its slot. -/
def Chip.sweepMember (c : Chip) (k : Int) (x : Sweep) (h : Nat) : Sweep × Chip :=
  let e := (c.memb h).1
  let mode := leAt e 6 1
  let s := (k % 16).toNat
  let here := bitOf (leAt e 16 2) s
  let est := !here || bitOf (leAt e 18 2) s
  let p : Int := if here then sgn 32 (leAt e (0x20 + 4 * s) 4) else ((c.vworkOf h).estimate (c.hourOf k)).1
  let counts := !bitOf mode 2 && decide (leAt e 8 4 ≤ w32 k)
  let c := c.balSeen (if here || (c.vworkHeld h).isSome then [] else [(c.vworkAddr h, 128)])
  let c := (c.setMemb h 16 2 (putBit (leAt e 16 2) s false)).setMemb h 18 2 (putBit (leAt e 18 2) s false)
  if !counts then (x, c)
  else if bitOf mode 3 then ({ x with u := x.u + p, nun := x.nun + 1 }, c)
  else
    ({ x with
      s := if bitOf mode 1 then x.s - p else x.s + p
      nmeas := x.nmeas + b2n (!est), nest := x.nest + b2n est
      absEst := x.absEst + (if est then p.natAbs else 0), absAll := x.absAll + p.natAbs
      list := x.list ++ [⟨h, p, est, leAt e 12 4⟩] }, c)

/-- Sweep a group's members. -/
def Chip.sweepGroup (c : Chip) (k : Int) (g : Nat) : Sweep × Chip :=
  (c.memberList g).foldl (fun xc h => xc.2.sweepMember k xc.1 h) (⟨0, 0, 0, 0, 0, 0, 0, []⟩, c.balSeen (c.listReads g))

/-- The interval a legal feeder copy belongs to. -/
def Chip.copyIvl (c : Chip) (x : FeederCopy) : Int := ((x.closed : Int) - 1) / c.ivl

/-- F and Q of a group, whether a value is present, whether it is partial: by the seconds its copies cover, or because
the balance interval is no whole multiple of the measuring interval `mi` (R218, 09 R284). -/
def Chip.feederOf (c : Chip) (mi : Nat) (copies : List FeederCopy) (g : Nat) (k : Int) : Int × Int × Bool × Bool :=
  match c.feeder g with
  | 1 =>
    let mask := c.grp g 0 6 3
    let f := copies.foldl (fun a x => a + (x.imp : Int) - x.exp) 0
    let q := copies.foldl (fun a x => a + ((List.range 4).foldl (fun b i =>
      b + if bitOf mask i then (x.i2h.getD i 0 : Int) else 0) 0)) 0
    let odd := !c.fuses.headEnd && c.ivl % mi != 0
    (f, q, copies != [], odd || copies != [] && (copies.map fun x => x.dur).foldl (· + ·) 0 != c.ivl)
  | 2 =>
    let h := c.grp g 0 31 12
    let v (i2h : Bool) : Option Int := (c.bal.checks.find? fun x => x.handle == h && x.k == k && x.i2h == i2h).map fun x => x.v
    ((v false).getD 0, (v true).getD 0, (v false).isSome, false)
  | _ => (0, 0, false, false)

/-- A signed 64-bit value, saturating. -/
def s64 (i : Int) : Int := clampI (-(2 ^ 63)) (2 ^ 63 - 1) i

/-- A group's entry of a day that holds intervals, saturated or not. -/
def Chip.groupDayAny (c : Chip) (g : Nat) (d : Int) : Option DayEntry :=
  (c.dayEntry (c.gdayAddr g d) d 6).bind fun e => if e.n == 0 then none else some e

/-- The mean residual of the last day before `d` whose entry holds intervals (R223). -/
def Chip.lastMean (c : Chip) (g : Nat) (d : Int) : Option Rat :=
  ((List.range 31).findSome? fun (i : Nat) => c.groupDayAny g (d - 1 - Int.ofNat i)).map fun e =>
    ((e.sums.getD 0 0 : Int) : Rat) / ((e.n : Nat) : Rat)

/-- What a group keeps for R223 when it closes `k`: the residuals before it, where they are the last two in a row. -/
def Chip.shiftHist (c : Chip) (g : Nat) (k : Int) : ShiftHist :=
  let x := Tab.get (fun _ => ShiftHist.initial) c.bal.shifts g
  if x.upTo = k - 1 then x else { x with last := [] }

/-- The day entries that a search for the last mean reads. -/
def Chip.meanReads (c : Chip) (g : Nat) (d : Int) : List (Nat × Nat) :=
  let n := ((List.range 31).takeWhile fun (i : Nat) => (c.groupDayAny g (d - 1 - Int.ofNat i)).isNone).length
  (List.range (min 31 (n + 1))).map fun (i : Nat) => (c.gdayAddr g (d - 1 - Int.ofNat i), 64)

/-- Whether a shift can be declared at all: it asks for three intervals in a row since the last (R223). -/
def Chip.shiftRipe (c : Chip) (g : Nat) (k : Int) : Bool :=
  let x := c.shiftHist g k
  c.rd Reg.BAL_SHIFT_TH != 0 && decide (2 ≤ x.fresh) && decide (2 ≤ x.last.length)

/-- A shift is judged at an interval: the mean it is declared against. -/
def Chip.shiftAt (c : Chip) (g : Nat) (k d r : Int) (valid : Bool) : Option Rat :=
  let th : Rat := ((c.rd Reg.BAL_SHIFT_TH : Nat) : Rat)
  let x := c.shiftHist g k
  if !c.shiftRipe g k then none
  else (c.lastMean g d).bind fun m =>
    let rs := (r, valid) :: x.last
    let above := rs.all fun y => y.2 && decide (m + th < (y.1 : Rat))
    let under := rs.all fun y => y.2 && decide ((y.1 : Rat) < m - th)
    if above || under then some m else none

/-- Remember an interval's residual. -/
def Chip.shiftKeep (c : Chip) (g : Nat) (k r : Int) (valid declared : Bool) : Chip :=
  let x := c.shiftHist g k
  let y : ShiftHist := ⟨((r, valid) :: x.last).take 2, if declared then 0 else min 3 (x.fresh + 1), k⟩
  c.onBal fun b => { b with shifts := Tab.put (fun _ => ShiftHist.initial) b.shifts g y }

/-- Add a VALID interval to the day sums (R222). -/
def Chip.dayTake (c : Chip) (g : Nat) (d r u q : Int) (l : List Summed) : Chip :=
  let c := c.dayAdd (c.gdayAddr g d) d 1 [r, r * r, u, q, q * q, u * q]
  l.foldl (fun c m => if sgn 32 m.joinDay ≤ d then
    c.dayAdd (c.mdayAddr m.h d) d (b2n m.est) [m.p, m.p * m.p, r * m.p] else c) c

/-- Finish a group's close (R220–R223, R229). -/
def Chip.groupFinish (c : Chip) (mi : Nat) (copies : List FeederCopy) (k : Int) (g : Nat) (x : Sweep) (pending : Bool) : Chip :=
  let (f, q, present, part) := c.feederOf mi copies g k
  let d := c.dayOfIvl k
  let loss := s64 (10 * (c.rd (Reg.GROUP_WORD g 3) : Int) * q / 65536 + c.rd (Reg.GROUP_WORD g 4))
  let u := s64 (f - x.s)
  let r := s64 (u - loss)
  let estHigh := decide (c.fl Reg.BAL_EST_CFG 15 8 * x.absAll < x.absEst * 256)
  let valid := present && !part && !estHigh && !pending
  let learning := c.grp g 0 11 10 == 1
  let learn := if valid then min 672 (c.grp g 2 15 0 + 1) else c.grp g 2 15 0
  let ends := learning && valid && learn == 672
  let c := (c.setGrp g 2 15 0 learn).when ends fun c => c.setGrp g 0 11 10 2
  let c := c.balSeen (if c.shiftRipe g k then c.meanReads g d else [])
  let shift := c.shiftAt g k d r valid
  let c := c.when valid fun c => c.dayTake g d r u q x.list
  let c := c.shiftKeep g k r valid shift.isSome
  let flags := b2n valid + 2 * b2n (!present) + 4 * b2n part + 8 * b2n estHigh + 16 * b2n pending +
    32 * b2n learning + 64 * b2n shift.isSome
  let c := ((c.wr (Reg.GROUP_WORD g 6) (w32 k)).wr64 (Reg.GROUP_WORD g 7) (Reg.GROUP_WORD g 8) (uns 64 r)).wr
    (Reg.GROUP_WORD g 9) flags
  let c := match shift with
    | some m => c.report 5 g (leBytes 4 (w32 k) ++ leBytes 4 (uns 32 (clampI (-(2 ^ 31)) (2 ^ 31 - 1) (ratRound m))) ++
        leBytes 8 (uns 64 r))
    | none => c
  let c := c.when ends fun c => c.report 7 g (leBytes 4 (w32 k))
  c.when (c.grp g 0 7 7 == 1) fun c =>
    c.report 1 g (leBytes 4 (w32 k) ++ leBytes 2 flags ++ leBytes 2 x.nmeas ++ leBytes 2 x.nest ++ leBytes 2 x.nun ++
      leBytes 4 (uns 32 q) ++ leBytes 8 (uns 64 f) ++ leBytes 8 (uns 64 x.s) ++ leBytes 8 (uns 64 loss) ++
      leBytes 8 (uns 64 r))

/-- Groups of the family of a base group (R216). -/
def Chip.family (c : Chip) (b : Nat) : List Nat :=
  (b :: ((List.range 6).filterMap fun r => if c.pmap b r < 6 then some (b + c.pmap b r) else none)).eraseDups

/-- Groups whose family has too much unassigned energy (R221, flag 4). -/
def Chip.pendingGroups (c : Chip) (xs : List (Nat × Sweep)) : List Nat :=
  (xs.filter fun x => c.grp x.1 0 9 9 == 1).flatMap fun x =>
    let fam := xs.filter fun y => (c.family x.1).contains y.1
    let u := fam.foldl (fun a y => a + y.2.u) 0
    let s := fam.foldl (fun a y => a + y.2.s) 0
    if (c.fl Reg.BAL_EST_CFG 23 16 : Int) * s < u * 256 then fam.map fun y => y.1 else []

/-- Close interval `k` with the legal copies that belong to it, of measuring intervals of `mi` seconds. -/
def Chip.closeIvl (c : Chip) (mi : Nat) (copies : List FeederCopy) (k : Int) : Chip :=
  let (xs, c) := c.grpsOn.foldl (fun (xc : List (Nat × Sweep) × Chip) g =>
    let (x, c) := xc.2.sweepGroup k g
    (xc.1 ++ [(g, x)], c)) ([], c)
  let pend := c.pendingGroups xs
  let c := xs.foldl (fun c x => c.groupFinish mi copies k x.1 x.2 (pend.contains x.1)) c
  c.onBal fun b => { b with
    checks := b.checks.filter fun x => decide (k < x.k)
    nextOpen := some (k + 1)
    dayDue := if c.dayOfIvl (k + 1) = c.dayOfIvl k then b.dayDue else some (c.dayOfIvl k) }

/-- INTERVAL_CLOSE: the oldest interval not yet closed, once its close time has come; BAL takes the
legal copies of it and of earlier intervals (R217, R218). -/
def State.intervalClose (s : State) (us : Nat) : Chip × Leg :=
  let c := s.chip
  let k := c.kOpen
  if !c.balUp || !c.bit Reg.BAL_CTRL 0 || c.bal.dayDue.isSome || decide (c.utc < (k + 1 + c.lag) * c.ivl) then
    (c, s.leg)
  else
    let mine := s.leg.copies.filter fun x => c.copyIvl x == k
    ((c.closeIvl (miLen s.leg.metCfg.toNat) mine k).keepMax Reg.BAL_CLOSE_MAXT us,
      { s.leg with copies := s.leg.copies.filter fun x => decide (k < c.copyIvl x) })

/-! ### The close of a day (R224–R228) -/

/-- Days of a window that ends at `d`. -/
def daysTo (d : Int) (n : Nat) : List Int := (List.range n).map fun (i : Nat) => d - Int.ofNat i

/-- FIT_DAYS; 0 acts as 1. -/
def Chip.fitDays (c : Chip) : Nat := max 1 (c.fl Reg.BAL_SUS_CFG 12 8)

/-- WIN_DAYS under R228. -/
def Chip.winDays (c : Chip) : Nat := min (max 1 (c.fl Reg.BAL_SUS_CFG 4 0)) (2976 * c.ivl / 86400)

/-- The sum of one sum over entries. -/
def sumOf (es : List DayEntry) (i : Nat) : Int := es.foldl (fun a e => a + e.sums.getD i 0) 0

/-- The fit of A and B from a group's entries (R225); none keeps them. -/
def lossFit (es : List DayEntry) : Option (Rat × Rat) :=
  let n := fi ((es.map fun e => e.n).foldl (· + ·) 0 : Nat)
  let su := fi (sumOf es 2)
  let sq := fi (sumOf es 3)
  let sqq := fi (sumOf es 4)
  let suq := fi (sumOf es 5)
  let den := f64 (f64 (n * sqq) - f64 (sq * sq))
  if n = 0 then none
  else
    let (a, b) : Rat × Rat := if n < 2 ∨ den ≤ 0 then (0, f64 (su / n))
      else
        let a := f64 (f64 (f64 (n * suq) - f64 (su * sq)) / den)
        if a < 0 then (0, f64 (su / n)) else (a, f64 (f64 (su - f64 (a * sq)) / n))
    some (if b < 0 then (if 0 < sqq then max 0 (f64 (suq / sqq)) else 0, 0) else (a, b))

/-- A saturated at 2^32 − 1. -/
def sat32 (i : Int) : Nat := (clampI 0 (2 ^ 32 - 1) i).toNat

/-- A listed suspect: handle, ρ, β, N, NEST, Σp. -/
structure Suspect where
  h : Nat
  rho : Rat
  beta : Rat
  n : Nat
  nest : Nat
  sp : Int

/-- Judge a member over the window (R226). -/
def Chip.suspect (c : Chip) (g : Nat) (days : List Int) (h : Nat) : Option Suspect :=
  let join := sgn 32 (leAt (c.memb h).1 12 4)
  let both := days.filterMap fun d =>
    match c.groupDay g d, c.dayEntry (c.mdayAddr h d) d 3 with
    | some x, some y => if y.sat || decide (d < join) then none else some (x, y)
    | _, _ => none
  let gs := both.map fun x => x.1
  let ms := both.map fun x => x.2
  let n : Nat := (gs.map fun e => e.n).foldl (· + ·) 0
  let nest : Nat := (ms.map fun e => e.n).foldl (· + ·) 0
  let nn := fi n
  let sr := fi (sumOf gs 0)
  let srr := fi (sumOf gs 1)
  let sp := fi (sumOf ms 0)
  let spp := fi (sumOf ms 1)
  let srp := fi (sumOf ms 2)
  let sxy := f64 (f64 (nn * srp) - f64 (sr * sp))
  let sxx := f64 (f64 (nn * spp) - f64 (sp * sp))
  let syy := f64 (f64 (nn * srr) - f64 (sr * sr))
  let minN := clamp 4 2976 (c.fl Reg.BAL_SUS_CFG 27 16)
  if n < minN ∨ c.fl Reg.BAL_EST_CFG 15 8 * n < nest * 256 ∨ sxx ≤ 0 ∨ syy ≤ 0 then none
  else
    let rho := f64 (sxy / f64sqrt (f64 (sxx * syy)))
    let beta := f64 (sxy / sxx)
    if ((c.fl Reg.BAL_SUS_TH 15 0 : Nat) : Rat) / 16384 ≤ rho ∧ ((c.fl Reg.BAL_SUS_TH 31 16 : Nat) : Rat) / 4096 ≤ beta then
      some ⟨h, rho, beta, n, nest, sumOf ms 0⟩
    else none

/-- The day entries that judging a member reads. -/
def Chip.suspectReads (c : Chip) (g : Nat) (days : List Int) (h : Nat) : List (Nat × Nat) :=
  (days.filter fun d => (c.groupDay g d).isSome).map fun d => (c.mdayAddr h d, 32)

/-- The order of R227: higher ρ, then higher β, then lower handle. -/
def Suspect.before (x y : Suspect) : Bool :=
  if x.rho = y.rho then (if x.beta = y.beta then decide (x.h ≤ y.h) else decide (y.beta < x.beta)) else decide (y.rho < x.rho)

/-- Insertion in the order of R227. -/
def rankIn (x : Suspect) : List Suspect → List Suspect
  | [] => [x]
  | y :: ys => if x.before y then x :: y :: ys else y :: rankIn x ys

/-- A suspect entry (Table 14). -/
def Suspect.bytes (x : Suspect) : List Byte :=
  leBytes 4 x.h ++ leBytes 2 (uns 16 (ratRound (x.rho * 16384))) ++
    leBytes 2 (clampI 0 0xFFFF (ratRound (x.beta * 4096))).toNat ++ leBytes 2 x.n ++ leBytes 2 x.nest ++
    leBytes 4 (sat32 (ratRound (f64 (x.beta * fi x.sp))))

/-- The reports of a ranked list (R227). -/
def Chip.suspectReports (c : Chip) (g : Nat) : Nat → Nat → List Suspect → Chip
  | 0, _, _ => c
  | n + 1, first, l =>
    if l.isEmpty then c
    else
      let three := l.take 3
      (c.report 3 g (leBytes 1 first ++ leBytes 1 three.length ++ leBytes 6 0 ++
        three.flatMap Suspect.bytes)).suspectReports g n (first + 3) (l.drop 3)

/-- A group's day close (R224). -/
def Chip.groupDayClose (c : Chip) (d : Int) (g : Nat) : Chip :=
  let active := c.grp g 0 11 10 == 2
  let win := daysTo d c.winDays
  let c := c.balSeen ((daysTo d (max c.winDays c.fitDays)).map fun d => (c.gdayAddr g d, 64))
  let c := c.balSeen (if active then c.listReads g ++ (c.memberList g).flatMap (c.suspectReads g win) else [])
  let ranked := if active then ((c.memberList g).filterMap (c.suspect g win)).foldl (fun l x => rankIn x l) [] else []
  let listed := ranked.take 32
  let ng : Nat := ((win.filterMap (c.groupDay g)).map fun e => e.n).foldl (· + ·) 0
  let fit := (lossFit ((daysTo d c.fitDays).filterMap (c.groupDay g))).map fun ab =>
    (sat32 (ratRound (f64 (f64 (ab.1 * 65536) / 10))), sat32 (ratRound ab.2))
  let (a, b) := fit.getD (c.rd (Reg.GROUP_WORD g 3), c.rd (Reg.GROUP_WORD g 4))
  let c := c.when (c.grp g 0 8 8 == 0) fun c => (c.wr (Reg.GROUP_WORD g 3) a).wr (Reg.GROUP_WORD g 4) b
  let c := c.report 2 g (leBytes 4 (w32 d) ++ leBytes 1 (c.grp g 0 11 10) ++ leBytes 1 listed.length ++
    leBytes 2 ranked.length ++ leBytes 4 a ++ leBytes 4 b ++ leBytes 8 ng)
  c.suspectReports g 11 1 listed

/-- DAY_CLOSE: the day whose last interval has closed. -/
def Chip.dayClose (c : Chip) : Chip :=
  match c.bal.dayDue with
  | none => c
  | some d =>
    if !c.balUp || !c.bit Reg.BAL_CTRL 0 then c
    else (c.grpsOn.foldl (fun c g => c.groupDayClose d g) c).onBal fun b => { b with dayDue := none }

/-! ### Register writes with effects -/

/-- A write of BAL_CTRL: at enabling, intervals whose close has passed count as closed. -/
def Chip.balCtrlWrite (c : Chip) (v : Nat) : Chip :=
  let on := bitOf v 0 && !c.bit Reg.BAL_CTRL 0
  let next := max c.openAt (c.bal.nextOpen.getD c.openAt)
  (c.wr Reg.BAL_CTRL (v % 4)).when on fun c => c.onBal fun b => { b with nextOpen := some next }

/-- A write of BAL_CFG, which takes effect only while BAL is disabled and sets CFG_ERR at other times; a change of IL
returns every group to learning (Table 17). -/
def Chip.balCfgWrite (c : Chip) (v : Nat) : Chip :=
  let new := fld v 19 4 * 16 + v % 4
  if c.bit Reg.BAL_CTRL 0 then c.cfgErr 9
  else
    let il := v % 4 != c.fl Reg.BAL_CFG 1 0
    (c.wr Reg.BAL_CFG new).when il fun c =>
      ((List.range 4096).foldl (fun c g => c.relearn g) c).onBal fun b => { b with nextOpen := none, dayDue := none, shifts := [] }

/-- A write of a region base, ignored while BAL is enabled (R230). -/
def Chip.balBaseWrite (c : Chip) (r v : Nat) : Chip := if c.bit Reg.BAL_CTRL 0 then c.cfgErr 9 else c.wr r v

/-! ### Meanings -/

/-- INTERVAL_CLOSE (R217). -/
def execIntervalClose (us : BitVec 32) (s : State) : Host.Outcome State Fault Refusal :=
  s.onLegal fun s => s.intervalClose us.toNat

/-- DAY_CLOSE (R224). -/
def execDayClose (s : State) : Host.Outcome State Fault Refusal := s.onChip Chip.dayClose

end Sys2Proof.Machine
end

