-- ==== Sys2Proof/Machine/ClampMap.lean ====
section
/-!
DEFINITION. The media side of the Clamp (08_clamp_media.md): geometry, the map and block table in
DRAM, ricks and their parity, page programs and reads, collection, wear levelling, patrol,
failures, and anchor records.
-/
namespace Sys2Proof.Machine

/-- Change the Clamp's own state. -/
def Chip.onClm (c : Chip) (f : Clm → Clm) : Chip := { c with clm := f c.clm }

/-- Change the media. -/
def Chip.onNand (c : Chip) (f : Nand → Nand) : Chip := { c with nand := f c.nand }

/-- Whether the Clamp runs: its block ungated and the NFL domain running. -/
def Chip.clmUp (c : Chip) : Bool := !c.gated 7 && domainRuns c.crp.power 7

/-- CLM_STATUS.STATE. -/
def Chip.clmState (c : Chip) : Nat := c.fl Reg.CLM_STATUS 2 0

/-- Set CLM_STATUS.STATE. -/
def Chip.setClmState (c : Chip) (v : Nat) : Chip := c.setFl Reg.CLM_STATUS 2 0 v

/-- Whether the media may be read: STATE 4 or 5. -/
def Chip.clmReady (c : Chip) : Bool := c.clmUp && (c.clmState == 4 || c.clmState == 5)

/-! ### Geometry (Tables 1, 2 and 12) -/

/-- A two-bit size field: 1, 2 or 4, and 3 acting as 2. -/
def pow2Of (v : Nat) : Nat := [1, 2, 4, 4].getD v 4

/-- What a geometry word means, with the values that act as others made equal. -/
def geomOf (g : Word) : List Nat :=
  let v := g.toNat
  [pow2Of (fld v 1 0), pow2Of (fld v 3 2), fld v 15 4 + 1, fld v 27 16 + 1, min 2 (fld v 29 28)]

/-- Dies per channel. -/
def Chip.nDies (c : Chip) : Nat := (geomOf (c.rdW Reg.CLM_GEOM)).getD 0 1
/-- Planes per die. -/
def Chip.nPlanes (c : Chip) : Nat := (geomOf (c.rdW Reg.CLM_GEOM)).getD 1 1
/-- Blocks per plane. -/
def Chip.nBlocks (c : Chip) : Nat := (geomOf (c.rdW Reg.CLM_GEOM)).getD 2 1
/-- Word lines per block. -/
def Chip.nWl (c : Chip) : Nat := (geomOf (c.rdW Reg.CLM_GEOM)).getD 3 1
/-- Parity bytes of a codeword (Table 2). -/
def Chip.cwParity (c : Chip) : Nat := 384 + 64 * (geomOf (c.rdW Reg.CLM_GEOM)).getD 4 0

/-- Pages per block in one plane, which are the rows of a rick (R232, R238). -/
def Chip.rowsOf (c : Chip) (slc : Bool) : Nat := if slc then c.nWl else 3 * c.nWl

/-- Data pages in a row of a rick. -/
def Chip.rowLen (c : Chip) : Nat := 7 * c.nPlanes

/-- Raw plane pages of TLC capacity (R236). -/
def Chip.rawPages (c : Chip) : Nat := 8 * c.nDies * c.nPlanes * c.nBlocks * c.rowsOf false

/-- Streams written in pSLC (Table 6). -/
def slcStream (s : Nat) : Bool := s == 1 || s == 6 || s == 7

/-- The block of a PPA: its bits [30:14]. -/
def ppaBlock (p : Nat) : Nat := p / 2 ^ 14

/-- The PPA of a page of a block. -/
def blockPpa (b plane page : Nat) : Nat := b * 2 ^ 14 + plane * 2 ^ 12 + page

/-- Channel of a block. -/
def blockChan (b : Nat) : Nat := b / 2 ^ 14

/-- Blocks of a channel in ascending PPA order. -/
def Chip.blocksOn (c : Chip) (ch : Nat) : List Nat :=
  (List.range c.nDies).flatMap fun d => (List.range c.nBlocks).map fun b => ch * 2 ^ 14 + d * 2 ^ 12 + b

/-- Every block in ascending PPA order. -/
def Chip.allBlocks (c : Chip) : List Nat := (List.range 8).flatMap c.blocksOn

/-- Whether a PPA exists in the geometry. -/
def Chip.ppaValid (c : Chip) (p : Nat) : Bool :=
  let b := ppaBlock p
  decide (b / 2 ^ 12 % 4 < c.nDies) && decide (b % 2 ^ 12 < c.nBlocks) && decide (p / 2 ^ 12 % 4 < c.nPlanes) &&
    decide (p % 2 ^ 12 < c.rowsOf false)

/-! ### Map and block table in DRAM (R235, Table 5) -/

/-- Transfers by which the Clamp reads its tables in DRAM: each is judged, and what is refused is counted and
recorded (01 R26, R27; which transfers they are: log entry 43). -/
def Chip.clmSeen (c : Chip) (reads : List (Nat × Nat)) : Chip :=
  reads.foldl (fun c r => c.noteAccess 6 false false r.1 r.2) c

/-- A value in DRAM at Platform level; an address the plan or the map refuses reads 0. -/
def Chip.clmGet (c : Chip) (a n : Nat) : Nat :=
  if (c.judge 6 false false a n).done then c.rdLe a n else 0

/-- Write a value to DRAM at Platform level. -/
def Chip.clmPut (c : Chip) (a n v : Nat) : Chip := (c.dmaWrite 6 false a (leBytes n v)).2

/-- Address of the map entry of a unit. -/
def Chip.mapAddr (c : Chip) (u : Nat) : Nat :=
  c.fl Reg.CLM_MAP_BASE_LO 31 12 * 4096 + c.fl Reg.CLM_MAP_BASE_HI 15 0 * 2 ^ 32 + 4 * u

/-- The map entry of a unit. -/
def Chip.mapEntry (c : Chip) (u : Nat) : Nat := c.clmGet (c.mapAddr u) 4

/-- The transfer that reads a unit's map entry. -/
def Chip.mapSeen (c : Chip) (u : Nat) : Chip := c.clmSeen [(c.mapAddr u, 4)]

/-- PPA of a lost unit. -/
def lostPpa : Nat := 0x7FFFFFFF

/-- An entry that is VALID and lost. -/
def lostEntry : Nat := 2 ^ 31 + lostPpa

/-- The page a map entry names: VALID and not lost. -/
def entryPage (e : Nat) : Option Nat := if bitOf e 31 && e != lostEntry then some (e % 2 ^ 31) else none

/-- Place of a block in the block table (DESIGN CHOICE, log entry 40: one
entry for each block that exists, by PPA). -/
def Chip.blkAddr (c : Chip) (b : Nat) : Nat :=
  c.fl Reg.CLM_BLK_BASE_LO 31 12 * 4096 + c.fl Reg.CLM_BLK_BASE_HI 15 0 * 2 ^ 32 +
    16 * ((blockChan b * c.nDies + b / 2 ^ 12 % 4) * c.nBlocks + b % 2 ^ 12)

/-- The transfer that reads the block table. -/
def Chip.tableSeen (c : Chip) : Chip := c.clmSeen [(c.blkAddr 0, 16 * c.allBlocks.length)]

/-- A field of a block's entry. -/
def Chip.blk (c : Chip) (b off n : Nat) : Nat := c.clmGet (c.blkAddr b + off) n

/-- Write a field of a block's entry. -/
def Chip.setBlk (c : Chip) (b off n v : Nat) : Chip := c.clmPut (c.blkAddr b + off) n v

/-- Erase count, 0xFF_FFFF unknown. -/
def Chip.blkEc (c : Chip) (b : Nat) : Nat := c.blk b 0 3
/-- STATE of Table 5. -/
def Chip.blkState (c : Chip) (b : Nat) : Nat := c.blk b 3 1
/-- Plane pages that hold current map units. -/
def Chip.blkValid (c : Chip) (b : Nat) : Nat := c.blk b 8 2
/-- Reads in progress. -/
def Chip.blkRefs (c : Chip) (b : Nat) : Nat := c.blk b 11 1
/-- Set STATE. -/
def Chip.setBlkState (c : Chip) (b v : Nat) : Chip := c.setBlk b 3 1 v

/-- Neither a factory nor a grown bad block. -/
def Chip.blkGood (c : Chip) (b : Nat) : Bool := c.blkState b != 7 && c.blkState b != 8

/-- Add to the VALID count of the block an entry names. -/
def Chip.countValid (c : Chip) (e : Nat) (up : Bool) : Chip :=
  match entryPage e with
  | none => c
  | some p =>
    let b := ppaBlock p
    (c.clmSeen [(c.blkAddr b + 8, 2)]).setBlk b 8 2 (if up then c.blkValid b + 1 else c.blkValid b - 1)

/-- Give a unit's map entry a value, adjusting VALID of both blocks (R241). -/
def Chip.setMap (c : Chip) (u e : Nat) : Chip :=
  let old := c.mapEntry u
  ((((c.mapSeen u).clmPut (c.mapAddr u) 4 e).countValid old false).countValid e true).onClm fun x =>
    { x with dirty := if x.dirty.contains (u / 4096) then x.dirty else x.dirty ++ [u / 4096] }

/-! ### Namespaces (R236, Table 3) -/

/-- First unit of a namespace. -/
def Chip.nsStart (c : Chip) (ns : Nat) : Nat := (c.clm.sizes.take ns).foldl (· + ·) 0
/-- Size of a namespace, units. -/
def Chip.nsSize (c : Chip) (ns : Nat) : Nat := c.clm.sizes.getD ns 0
/-- Units of all namespaces. -/
def Chip.nsTotal (c : Chip) : Nat := c.nsStart 4
/-- The namespace of a unit. -/
def Chip.nsOf (c : Chip) (u : Nat) : Nat :=
  ((List.range 4).find? fun n => decide (u < c.nsStart n + c.nsSize n)).getD 3

/-- Stream of the writes of a namespace, and of its copies (Table 6). -/
def writeStream (ns : Nat) : Nat := [0, 2, 1, 3].getD ns 3
/-- Stream of a copy of a unit (R248, R254). -/
def copyStream (ns : Nat) (why : Why) : Nat := if why = .wear then 5 else if ns = 2 then 1 else 4

/-! ### Counters of wear, and the media's health (R253, R254, R257, R263) -/

/-- The best valid anchor record: highest S_ck, the later among equals. A record is valid where both of its
pages can be read; a torn one cannot (R257). -/
def Nand.best (n : Nand) (bad : List Nat) : Option Anchor :=
  (n.anchors.filter fun a => !bad.contains a.ppa && !bad.contains a.ppa2).foldl (fun b a =>
    match b with
    | none => some a
    | some x => if x.sck < a.sck ∨ (x.sck = a.sck ∧ x.num < a.num) then some a else some x) none

/-- The anchor block of channel 0 or 1: the lowest-numbered good block of die 0. -/
def Chip.anchorBlock (c : Chip) (ch : Nat) : Option Nat :=
  ((List.range c.nBlocks).map fun b => ch * 2 ^ 14 + b).find? c.blkGood

/-- Whether a block is kept for anchor records. -/
def Chip.isAnchor (c : Chip) (b : Nat) : Bool := c.anchorBlock 0 == some b || c.anchorBlock 1 == some b

/-- Lowest and highest known erase count of good blocks, and whether one is unknown. -/
def Chip.ecUpdate (c : Chip) : Chip :=
  let good := c.allBlocks.filter c.blkGood
  let ecs := (good.map c.blkEc).filter (· != 0xFFFFFF)
  let lo : Nat := ecs.foldl min (ecs.headD 0)
  let hi : Nat := ecs.foldl max 0
  ((c.wr Reg.CLM_EC_MIN lo).wr Reg.CLM_EC_MAX hi).setBit Reg.CLM_STATUS 10 (good.any fun b => c.blkEc b == 0xFFFFFF)

/-- Pages of a block leave the media, its EC rises, it is FREE (R249). -/
def Chip.eraseNow (c : Chip) (b : Nat) : Chip :=
  let ec := c.blkEc b
  let c := (c.onNand fun n => { n with
    pages := Tab.drop (fun p => ppaBlock p == b) n.pages
    anchors := n.anchors.filter fun a => ppaBlock a.ppa != b }).bump Reg.CLM_ERASES
  let c := c.setBlk b 0 3 (if ec = 0xFFFFFF then 1 else min (ec + 1) 0xFFFFFE)
  ((c.setBlkState b 1).setBlk b 8 2 0).ecUpdate

/-- Take a sequence number (R237). -/
def Chip.takeSeq (c : Chip) : Nat × Chip :=
  (c.clm.nextSeq, c.onClm fun x => { x with nextSeq := x.nextSeq + 1 })

/-- The page at a PPA. -/
def Chip.nandGet (c : Chip) (ppa : Nat) : Option NandPage :=
  (c.nand.pages.find? fun e => e.1 == ppa).map fun e => e.2

/-- Whether a page holds a unit. -/
def NandPage.isUnit (p : NandPage) : Bool := p.flags / 4 % 16 == 0

/-- Pages of a block on the media, ascending. -/
def Chip.pagesOf (c : Chip) (b : Nat) : List (Nat × NandPage) :=
  c.nand.pages.filter fun e => ppaBlock e.1 == b

/-- Whether a block holds system pages that the checkpoint in force names, or newer ones (R248). -/
def Chip.holdsSystem (c : Chip) (b : Nat) : Bool :=
  (c.clm.dir.any fun e => ppaBlock e.2 == b) ||
    (match c.clm.anchor with
     | some a => (a.dir ++ a.blk).any fun p => ppaBlock p == b
     | none => false) ||
    (c.pagesOf b).any fun e => bitOf e.2.flags 2 && decide (c.clm.sck < e.2.seq)

/-- Lowest SEQ formed and not yet programmed, or the next. -/
def Chip.firstOpenSeq (c : Chip) : Nat :=
  (((c.clm.buf.filter fun u => u.place.isNone).map fun u => u.seq) ++ c.clm.copies.map (·.seq)).foldl min c.clm.nextSeq

/-- Start a checkpoint unless one is in progress (R256). -/
def Chip.ckptStart (c : Chip) : Chip :=
  c.when c.clm.ckpt.isNone fun c => c.onClm fun x => { x with ckpt := some (c.firstOpenSeq - 1) }

/-! ### Collecting a block (R248, R249) -/

/-- Collect a block: it is in COLLECT, and its pages are to be read, but for those of which a copy is formed
already. One that holds system pages causes a checkpoint (R248). -/
def Chip.startVictim (c : Chip) (b : Nat) (why : Why) (parity : Option Nat) : Chip :=
  if c.clm.victims.any fun v => v.block == b then c
  else
    let todo := if c.blkValid b = 0 then [] else
      ((c.pagesOf b).filter fun e => e.2.isUnit && !(c.clm.copies.any fun k => k.src == e.1)).map fun e => e.1
    let c := (c.setBlkState b 6).onClm fun x => { x with victims := x.victims ++ [⟨b, why, parity, todo⟩] }
    c.when (c.holdsSystem b) Chip.ckptStart

/-- A block is to be erased. -/
def Chip.eraseDue (c : Chip) (b : Nat) : Chip :=
  c.onClm fun x => { x with erasing := if x.erasing.contains b then x.erasing else x.erasing ++ [b] }

/-! ### Anchor records (R257) and retirement (R251, R253) -/

/-- Records in a block. -/
def Chip.anchorsIn (c : Chip) (b : Nat) : List Anchor := c.nand.anchors.filter fun a => ppaBlock a.ppa == b

/-- Records that fit in an anchor block, which is written in pSLC. -/
def Chip.anchorRoom (c : Chip) : Nat := c.rowsOf true * c.nPlanes / 2

/-- Whether an anchor block takes a record as it stands: erased, or with room after its records. -/
def Chip.anchorTakes (c : Chip) (b : Nat) : Bool :=
  !c.clm.erasing.contains b && (c.pagesOf b).isEmpty &&
    (c.blkState b == 1 || (c.blkState b == 3 && decide ((c.anchorsIn b).length < c.anchorRoom)))

/-- The anchor blocks in the order in which the next record may go into them: the one of the other channel than
the last record's first. -/
def Chip.anchorTurn (c : Chip) : List Nat :=
  (match c.nand.anchors.head? with
   | some a => if blockChan (ppaBlock a.ppa) = 0 then [1, 0] else [0, 1]
   | none => [0, 1]).filterMap c.anchorBlock

/-- The block that takes the next record. -/
def Chip.anchorPlace (c : Chip) : Option Nat := c.anchorTurn.find? c.anchorTakes

/-- The PPA of page `i` of an anchor block. -/
def Chip.anchorPpa (c : Chip) (b i : Nat) : Nat := blockPpa b (i % c.nPlanes) (i / c.nPlanes)

/-- What is to be done for an anchor block to take records: one never erased by the Clamp is erased, one in use
is collected; a full one is erased once a record has been written in the other. -/
def Chip.anchorMend (c : Chip) (b : Nat) : Chip :=
  if c.blkState b = 0 then c.eraseDue b
  else if c.blkState b = 4 then c.startVictim b .refresh none
  else if c.blkState b = 3 ∧ (c.pagesOf b).isEmpty ∧ c.anchorRoom ≤ (c.anchorsIn b).length ∧
      !(c.nand.anchors.head?.any fun a => ppaBlock a.ppa == b) then c.eraseDue b
  else c

/-- Both anchor blocks are made ready for records. -/
def Chip.anchorReady (c : Chip) : Chip := c.anchorTurn.foldl Chip.anchorMend c

/-- Write an anchor record in two consecutive pages, alternately in the two blocks (R257); none where neither block
takes one. -/
def Chip.anchorPut (c : Chip) (sck : Nat) (dir blk : List Nat) : Option Chip :=
  c.anchorPlace.map fun b =>
    let c := c.tableSeen
    let n := (c.anchorsIn b).length
    let (seq, c) := c.takeSeq
    let (_, c) := c.takeSeq
    let a : Anchor :=
      { num := 1 + (c.nand.anchors.map fun a => a.num).foldl max 0
        ppa := c.anchorPpa b (2 * n), ppa2 := c.anchorPpa b (2 * n + 1), seq := seq, ec := c.blkEc b
        geom := c.rdW Reg.CLM_GEOM, sizes := c.clm.sizes, sck := sck, nextSeq := c.clm.nextSeq
        nextRick := c.clm.nextRick, dir := dir, blk := blk, marks := c.clm.marks, patrol := c.rd Reg.CLM_PATROL_POS
        retired := ((c.allBlocks.map fun b => (b, c.blkState b)).filter fun e => e.2 == 7 || e.2 == 8) }
    let c := ((c.bumpBy Reg.CLM_WR_PAGES 2).setBlkState b 3).setBlk b 10 1 1
    ((c.onNand fun n => { n with anchors := a :: n.anchors }).onClm fun x => { x with
      anchor := some a, anchorOwed := false }).anchorReady

/-- The anchor record of a retirement, which carries the S_ck in force; it is owed until a block takes it (R257). -/
def Chip.anchorWrite (c : Chip) (sck : Nat) (dir blk : List Nat) : Chip :=
  (c.anchorPut sck dir blk).getD ((c.onClm fun x => { x with anchorOwed := true }).anchorReady)

/-- Write a record with what is in force. -/
def Chip.anchorAgain (c : Chip) : Chip :=
  c.anchorWrite c.clm.sck ((c.clm.anchor.map fun a => a.dir).getD []) ((c.clm.anchor.map fun a => a.blk).getD [])

/-- Good blocks of a channel. -/
def Chip.goodOn (c : Chip) (ch : Nat) : Nat := ((c.blocksOn ch).filter c.blkGood).length

/-- Too few good blocks on a channel make the media read-only (R253). -/
def Chip.readOnlyCheck (c : Chip) : Chip :=
  let b := c.nPlanes * c.rowsOf false
  let least := (c.nsTotal + (8 * b - 1)) / (8 * b) + 32
  if c.clmState == 4 && (List.range 8).any fun ch => decide (c.goodOn ch < least) then
    (c.setClmState 5).emberPost 0x705 ((List.range 8).flatMap fun ch => leBytes 2 (c.goodOn ch)) true true
  else c

/-- A block is RETIRED_G: counted and recorded (R251); cause 1 program, 2 erase, 3 verification. What an anchor
block held is given up with it. -/
def Chip.retireMark (c : Chip) (b cause : Nat) : Chip :=
  let c := (c.setBlkState b 8).wr Reg.CLM_RETIRED (min (c.rd Reg.CLM_RETIRED + 1) 0x3FFFF)
  let c := c.onNand fun n => { n with anchors := n.anchors.filter fun a => ppaBlock a.ppa != b }
  c.emberPost 0x701 (leBytes 4 b ++ leBytes 1 cause ++ leBytes 3 (c.blkEc b)) false true

/-- Retire a block, with the anchor record of its retirement, which carries the S_ck in force (R251, R257). -/
def Chip.retireBlock (c : Chip) (b cause : Nat) : Chip :=
  (c.retireMark b cause).anchorAgain.ecUpdate.readOnlyCheck

/-- The erase of a block fails, and the block is retired (R251). -/
def Chip.eraseFails (c : Chip) (b : Nat) : Chip := (c.bump Reg.CLM_ERASEF).retireBlock b 2

/-- A unit is lost: its entry says so, and it is counted and recorded (R252). -/
def Chip.unitLost (c : Chip) (u : Nat) : Chip :=
  let c := ((c.setMap u lostEntry).raise Reg.CLM_STATUS 12).bump Reg.CLM_LOST
  c.record 0x702 (leBytes 1 (c.nsOf u) ++ leBytes 4 (u - c.nsStart (c.nsOf u)))

/-! ### Ricks (R238–R240) -/

/-- Free blocks of a channel that may be taken. -/
def Chip.freeOn (c : Chip) (ch : Nat) : List Nat :=
  (c.blocksOn ch).filter fun b => (c.blkState b == 0 || c.blkState b == 1) && !c.isAnchor b && !c.clm.erasing.contains b

/-- The first element for which `f` is least. -/
def leastBy (f : Nat → Nat) (l : List Nat) : Option Nat :=
  l.foldl (fun b x => match b with
    | none => some x
    | some y => if f x < f y then some x else some y) none

/-- The free block a stream takes on a channel (R238); a FREE_NEW one must be erased, and is not while it is being
read (R246). -/
def Chip.pickBlock (c : Chip) (stream ch : Nat) : Option Nat :=
  let fr := (c.freeOn ch).filter fun b => c.blkState b != 0 || c.blkRefs b == 0
  if decide ((c.freeOn ch).length ≤ 16) && !(stream == 4 || stream == 5 || stream == 7) then none
  else match fr.find? fun b => c.blkState b == 0 with
  | some b => some b
  | none => leastBy (fun b => if stream = 4 ∨ stream = 5 then 0xFFFFFF - c.blkEc b else c.blkEc b) fr

/-- A page of zeros. -/
def zeroPage : List Byte := List.replicate 16384 0

/-- Take a block of a channel for a stream. A FREE_NEW one is erased first; where that erase fails the block is
retired and the next one taken (R238, R251). -/
def Chip.takeBlock (c : Chip) (duds : List Nat) (stream ch : Nat) : Nat → Option Nat × Chip
  | 0 => (none, c)
  | n + 1 =>
    match c.pickBlock stream ch with
    | none => (none, c)
    | some b =>
      if c.blkState b != 0 then (some b, c)
      else if duds.contains b then (c.eraseFails b).takeBlock duds stream ch n
      else (some b, c.eraseNow b)

/-- A block joins a rick. -/
def Chip.openBlock (c : Chip) (b rick : Nat) (parity slc : Bool) : Chip :=
  (((c.setBlkState b (if parity then 5 else 2)).setBlk b 4 4 rick).setBlk b 8 2 0).setBlk b 10 1 (b2n slc)

/-- Whether every channel has a block for a stream. -/
def Chip.canOpen (c : Chip) (stream : Nat) : Bool := (List.range 8).all fun ch => (c.pickBlock stream ch).isSome

/-- Take a block on each channel, ascending. -/
def Chip.takeBlocks (c : Chip) (duds : List Nat) (stream : Nat) : List (Option Nat) × Chip :=
  (List.range 8).foldl (fun x ch =>
    let (b, c) := x.2.takeBlock duds stream ch (c.allBlocks.length + 1)
    (x.1 ++ [b], c)) ([], c)

/-- Open a rick for a stream, where every channel has a block for it; the erase of a FREE_NEW block that `duds`
names fails. -/
def Chip.openRick (c : Chip) (duds : List Nat) (stream : Nat) : Option Rick × Chip :=
  let c := c.tableSeen
  if !c.canOpen stream then (none, c)
  else
    let (found, c) := c.takeBlocks duds stream
    match found.mapM id with
    | none => (none, c)
    | some bs =>
      let num := c.clm.nextRick
      let r : Rick :=
        { num := num, stream := stream, blocks := bs, pos := 0, par := List.replicate c.nPlanes zeroPage,
          failed := [], noParity := false }
      let c := (List.range 8).foldl (fun c ch =>
        c.openBlock (bs.getD ch 0) num (ch == num % 8) (slcStream stream)) c
      (some r, c.onClm fun x => { x with
        ricks := x.ricks ++ [r], nextRick := (num + 1) % 2 ^ 32, opened := x.opened + 1 })

/-- The open rick of a stream. -/
def Chip.openOf (c : Chip) (stream : Nat) : Option Rick := c.clm.ricks.find? fun r => r.stream == stream

/-- The open rick of a stream, opened if there is none. -/
def Chip.rickFor (c : Chip) (duds : List Nat) (stream : Nat) : Option Rick × Chip :=
  match c.openOf stream with
  | some r => (some r, c)
  | none => c.openRick duds stream

/-- Replace the open rick of the same stream. -/
def Chip.setRick (c : Chip) (r : Rick) : Chip :=
  c.onClm fun x => { x with ricks := x.ricks.map fun y => if y.stream = r.stream then r else y }

/-- Data channels of a rick, ascending. -/
def Rick.dataChans (r : Rick) : List Nat := (List.range 8).filter (· != r.num % 8)

/-- Channel, plane and row of a position: a row is filled channel by channel
(DESIGN CHOICE, log entry 40). -/
def Rick.place (r : Rick) (planes pos : Nat) : Nat × Nat × Nat :=
  let k := pos % (7 * planes)
  (r.dataChans.getD (k / planes) 0, k % planes, pos / (7 * planes))

/-- Channel of the next place of a rick. -/
def Rick.nextChan (r : Rick) (planes : Nat) : Nat := (r.place planes r.pos).1

/-- The PPA of a position of a rick. -/
def Rick.ppa (r : Rick) (planes pos : Nat) : Nat :=
  match r.place planes pos with
  | (ch, plane, row) => blockPpa (r.blocks.getD ch 0) plane row

/-- Put a page on the media. -/
def Chip.nandPut (c : Chip) (ppa : Nat) (pg : NandPage) : Chip :=
  (c.onNand fun n => { n with pages := Tab.ins (Tab.del n.pages ppa) ppa pg }).bump Reg.CLM_WR_PAGES

/-- A program on a channel, counted from the last wear-levelling copy there (R254). -/
def Chip.wearNote (c : Chip) (ch : Nat) (copy : Bool) : Chip :=
  c.onClm fun x => { x with wears := x.wears.set ch (if copy then 0 else min 7 (x.wears.getD ch 0 + 1)) }

/-- Program the next page of a rick, keeping the XOR of its row. -/
def Chip.putPage (c : Chip) (r : Rick) (pg : NandPage) : Nat × Chip :=
  let ppa := r.ppa c.nPlanes r.pos
  let plane := (r.place c.nPlanes r.pos).2.1
  let c := c.nandPut ppa { pg with stream := r.stream, rick := r.num, ec := c.blkEc (ppaBlock ppa) }
  let c := c.wearNote (r.nextChan c.nPlanes) (r.stream == 5)
  (ppa, c.setRick { r with
    pos := r.pos + 1, par := r.par.set plane (xorBytes (r.par.getD plane zeroPage) (padTo 16384 pg.data)) })

/-- Program the parity of the row just finished, one page a plane (R239). -/
def Chip.parityPages (c : Chip) (r : Rick) (row : Nat) : Chip :=
  let b := r.blocks.getD (r.num % 8) 0
  (List.range c.nPlanes).foldl (fun c plane =>
    let (seq, c) := c.takeSeq
    (c.wearNote (r.num % 8) false).nandPut (blockPpa b plane row)
      { sector := 0, stream := r.stream, flags := 16, seq := seq, rick := r.num, ec := c.blkEc b,
        data := r.par.getD plane zeroPage }) c

/-- A rick closes and waits for its verification (R240). -/
def Chip.closeRick (c : Chip) (r : Rick) : Chip :=
  let c := c.onClm fun x => { x with
    ricks := x.ricks.filter fun y => y.num != r.num, verify := x.verify ++ [r] }
  r.dataChans.foldl (fun c ch =>
    c.when (!r.failed.contains ch) fun c => c.setBlkState (r.blocks.getD ch 0) 3) c

/-- After a page: at the end of a row its parity is programmed and the units of the row leave the
write buffer; at the end of the last row the rick closes (R239–R241). -/
def Chip.rowEnd (c : Chip) (stream : Nat) : Chip :=
  match c.openOf stream with
  | none => c
  | some r =>
    if r.pos % c.rowLen = 0 then
      let row := r.pos / c.rowLen - 1
      let c := c.when (!r.noParity) fun c => c.parityPages r row
      let r := { r with par := List.replicate c.nPlanes zeroPage }
      let c := (c.setRick r).onClm fun x => { x with
        buf := x.buf.filter fun u => !(u.place.any fun p => r.blocks.contains (ppaBlock p)) }
      if r.noParity || row + 1 = c.rowsOf (slcStream stream) then c.closeRick r else c
    else c

/-- A PAD page: no data (Table 4). -/
def padPage (seq : Nat) : NandPage :=
  { sector := 0, stream := 0, flags := 8, seq := seq, rick := 0, ec := 0, data := zeroPage }

/-- Fill what is left of a row with PAD pages, passing over a failed block. -/
def Chip.padRow (c : Chip) (stream : Nat) : Nat → Chip
  | 0 => c
  | n + 1 =>
    match c.openOf stream with
    | none => c
    | some r =>
      if r.pos % c.rowLen = 0 then c
      else if r.failed.contains (r.nextChan c.nPlanes) then
        (c.setRick { r with pos := r.pos + 1 }).padRow stream n
      else
        let (seq, c) := c.takeSeq
        (c.putPage r (padPage seq)).2.padRow stream n

/-! ### Collection and wear levelling (R247–R249, R254) -/

/-- Why a block is collected. -/
def Chip.whyOf (c : Chip) (b : Nat) : Option Why := (c.clm.victims.find? fun v => v.block == b).map (·.why)

/-- Whether the reads and copies of a victim go on: HALT_HK pauses all but those of a failed verification. A block
that is no victim is one whose program failed (Table 11). -/
def Chip.goesOn (c : Chip) (b : Nat) : Bool :=
  !c.bit Reg.CLM_CTRL 2 || (match c.whyOf b with | none => true | some w => w == .failed)

/-- Whether nothing of a victim is still to be read, copied or checked, and no system page in it is needed (R248,
R249). -/
def Chip.victimDone (c : Chip) (v : Victim) : Bool :=
  let b := v.block
  v.todo.isEmpty &&
    !((c.clm.reads ++ c.clm.later).any fun r => r.use == .copy b || (match r.use with | .check x _ => x == b | _ => false)) &&
    !(c.clm.copies.any fun k => k.victim == b) && !c.holdsSystem b

/-- Once the last failed block of a rick is retired, its parity block is erased (R240). -/
def Chip.parityFree (c : Chip) (p : Nat) : Chip :=
  c.when (!(c.clm.victims.any fun w => w.parity == some p)) fun c =>
    (c.eraseDue p).onClm fun x => { x with held := x.held.filter fun r => r.blocks.getD (r.num % 8) 0 != p }

/-- Victims that are done go to their erase, or are retired if they failed verification; the last
of a rick releases its parity block (R240, R249). -/
def Chip.settleVictims (c : Chip) : Chip :=
  c.clm.victims.foldl (fun c v =>
    if c.victimDone v then
      let c := c.onClm fun x => { x with victims := x.victims.erase v }
      let c := if v.why = .failed then c.retireBlock v.block 3 else c.eraseDue v.block
      match v.parity with
      | none => c
      | some p => c.parityFree p
    else c) c

/-- Whether housekeeping may start work. -/
def Chip.mayCollect (c : Chip) : Bool :=
  c.clmReady && !c.bit Reg.CLM_CTRL 2 && c.working && !c.clm.stopping

/-- Collection starts and stops by the free blocks of each channel, and takes its next victim
(R247). -/
def Chip.collectCheck (c : Chip) : Chip :=
  let low := max 17 (c.fl Reg.CLM_HK_CFG 7 0)
  let high := max low (c.fl Reg.CLM_HK_CFG 15 8)
  let free (ch : Nat) : Nat := (c.freeOn ch).length
  let on := ((List.range 8).any fun ch => decide (free ch < low)) ||
    (c.clm.collecting && !((List.range 8).all fun ch => decide (high ≤ free ch)))
  if !c.mayCollect then c
  else
    let c := (c.tableSeen.onClm fun x => { x with collecting := on }).setBit Reg.CLM_STATUS 8 on
    if on && !(c.clm.victims.any fun v => v.why == .collection) then
      match leastBy free (List.range 8) with
      | none => c
      | some ch =>
        match leastBy (fun b => c.blkValid b * 2 ^ 24 + c.blkEc b)
            ((c.blocksOn ch).filter fun b => c.blkState b == 4) with
        | none => c
        | some b => c.startVictim b .collection none
    else c

/-- Wear levelling starts above WL_SPREAD and stops at WL_SPREAD − 16 (R254). -/
def Chip.wearCheck (c : Chip) : Chip :=
  let most := max 32 (c.fl Reg.CLM_HK_CFG 25 16)
  let spread := c.rd Reg.CLM_EC_MAX - c.rd Reg.CLM_EC_MIN
  let on := !c.bit Reg.CLM_STATUS 10 &&
    (decide (most < spread) || (c.clm.levelling && decide (most - 16 < spread)))
  if !c.mayCollect then c
  else
    let c := (c.onClm fun x => { x with levelling := on }).setBit Reg.CLM_STATUS 9 on
    if on && c.clm.wearing.isNone then
      match leastBy c.blkEc (c.allBlocks.filter fun b => c.blkState b == 4) with
      | none => c
      | some b => (c.onClm fun x => { x with wearing := some b }).startVictim b .wear none
    else c

/-- A VERIFIED block is refreshed (R251). -/
def Chip.refresh (c : Chip) (b : Nat) : Chip :=
  c.when (c.blkState b == 4) fun c => c.startVictim b .refresh none

/-! ### Page reads (R234, R239, R251, R252) -/

/-- Soft decodes a codeword took: one in each pass that its hard decode failed. -/
def cwSofts (steps : Nat) : CwRead → Nat
  | .hard k _ => k.val
  | .soft k _ => k.val + 1
  | .fail => steps + 1

/-- Whether a codeword's read calls for a refresh of its block. -/
def cwWeak (th : Nat) : CwRead → Bool
  | .hard k b => decide (0 < k.val) || decide (th < b.toNat)
  | _ => true

/-- Whether a codeword fails verification: not decoded, or above the limit of corrected bits (R240). -/
def cwFails (th : Nat) : CwRead → Bool
  | .hard _ b => decide (th < b.toNat)
  | .soft _ b => decide (th < b.toNat)
  | .fail => true

/-- Count the reading of pages and of their codewords. -/
def Chip.countReads (c : Chip) (pages : Nat) (cws : List CwRead) : Chip :=
  let steps := c.fl Reg.CLM_RL_CFG 18 16
  ((c.bumpBy Reg.CLM_RD_PAGES pages).bumpBy Reg.CLM_SOFT ((cws.map (cwSofts steps)).foldl (· + ·) 0)).bumpBy
    Reg.CLM_UNCORR (cws.filter (· == .fail)).length

/-- The open rick, or the closed one whose parity is still kept, that a page belongs to. -/
def Chip.rickOf (c : Chip) (ppa : Nat) : Option Rick :=
  (c.clm.ricks ++ c.clm.verify ++ c.clm.held).find? fun r =>
    r.blocks.contains (ppaBlock ppa) && !r.noParity && blockChan (ppaBlock ppa) != r.num % 8

/-- Whether a page can be rebuilt from its row. -/
def Chip.rebuildable (c : Chip) (ppa : Nat) : Bool := (c.rickOf ppa).isSome

/-- The content of a page rebuilt from parity and the other six data pages of its row; in a row
not yet complete the XOR is the one kept in SRAM (R239). -/
def Chip.rebuilt (c : Chip) (ppa : Nat) : List Byte :=
  match c.rickOf ppa with
  | none => zeroPage
  | some r =>
    let plane := ppa / 2 ^ 12 % 4
    let row := ppa % 2 ^ 12
    let par := if row = r.pos / c.rowLen ∧ r.pos % c.rowLen ≠ 0 then r.par.getD plane zeroPage
      else ((c.nandGet (blockPpa (r.blocks.getD (r.num % 8) 0) plane row)).map (·.data)).getD zeroPage
    (r.dataChans.filter (· != blockChan (ppaBlock ppa))).foldl (fun x ch =>
      xorBytes x (((c.nandGet (blockPpa (r.blocks.getD ch 0) plane row)).map fun p => padTo 16384 p.data).getD zeroPage)) par

/-- A page is rebuilt from rick parity: the pages of its row are read (R239, R264). -/
def Chip.countRebuild (c : Chip) (ppa : Nat) : Chip :=
  let row : List (Nat × NandPage) := match c.nandGet ppa with
    | some pg => c.nand.pages.filter fun e => e.2.rick == pg.rick && e.1 % 2 ^ 14 == ppa % 2 ^ 14 && e.1 != ppa
    | none => []
  (c.bump Reg.CLM_PAR_REBUILD).bumpBy Reg.CLM_RD_PAGES row.length

/-- A page read: its content, or none when its unit is lost. -/
def Chip.readPage (c : Chip) (ppa : Nat) (cws : List CwRead) : Option (List Byte) × Chip :=
  let c := c.countReads 1 cws
  match c.nandGet ppa with
  | none => (none, c)
  | some pg =>
    if !cws.contains .fail then (some pg.data, c)
    else if c.rebuildable ppa then (some (c.rebuilt ppa), c.countRebuild ppa)
    else
      let u := pg.sector / 4
      (none, c.when pg.isUnit fun c => (c.mapSeen u).when (c.mapEntry u == 2 ^ 31 + ppa) fun c => c.unitLost u)

/-- Whether a unit has a write pending in the buffer. -/
def Chip.pendingWrite (c : Chip) (u : Nat) : Bool := c.clm.buf.any fun x => x.unit == u && x.place.isNone

/-- Form a copy of a unit (R248). -/
def Chip.formCopy (c : Chip) (victim src u : Nat) (why : Why) (data : List Byte) : Chip :=
  let (seq, c) := c.takeSeq
  c.onClm fun x => { x with
    copies := x.copies ++ [⟨victim, src, u, seq, copyStream (c.nsOf u) why, data⟩] }

/-- A page of a victim was read: it is copied if its entry still names it and no write of the unit
is pending. -/
def Chip.copyRead (c : Chip) (b ppa : Nat) (data : Option (List Byte)) : Chip :=
  match data, c.nandGet ppa with
  | some d, some pg =>
    let u := pg.sector / 4
    (c.mapSeen u).when (c.mapEntry u == 2 ^ 31 + ppa && !c.pendingWrite u) fun c =>
      c.formCopy b ppa u ((c.whyOf b).getD .refresh) d
  | _, _ => c

/-! ### Page reads under way (R234, R246, R249) -/

/-- Page reads that may be in progress at a time: with the one program or erase that an event completes, 128
operations (R240; log entry 98). -/
def mostReads : Nat := 127

/-- Whether the word line of a page is complete: in pSLC with the page itself, in TLC with the last of its three
pages. A rick that is no longer open adds no page (R249). -/
def Chip.lineComplete (c : Chip) (ppa : Nat) : Bool :=
  match c.clm.ricks.find? fun r => r.blocks.contains (ppaBlock ppa) with
  | none => true
  | some r => slcStream r.stream ||
      (c.nandGet (blockPpa (ppaBlock ppa) (ppa / 2 ^ 12 % 4) (ppa % 2 ^ 12 / 3 * 3 + 2))).isSome

/-- Whether a page read that waits may begin: a copy's read-back once its word line is complete, and not while
housekeeping has stopped (R249, R261). -/
def Chip.mayBegin (c : Chip) (r : PageRead) : Bool :=
  match r.use with
  | .check _ _ => c.working && c.lineComplete r.ppa
  | _ => true

/-- Let a page read wait for its turn. -/
def Chip.readLater (c : Chip) (ppa : Nat) (use : ReadUse) : Chip :=
  c.onClm fun x => { x with later := x.later ++ [⟨ppa, use⟩] }

/-! ### Programs (R241, R248, R250) -/

/-- The page to be programmed next: the lowest SEQ formed. -/
inductive Job where
  | unit (u : WbUnit)
  | copy (k : CopyJob)
  | mark (m : Marker)
  deriving DecidableEq, Repr

/-- SEQ of a job; a marker's is taken when it is programmed, and it goes before the others. -/
def Job.seq : Job → Nat
  | .unit u => u.seq
  | .copy k => k.seq
  | .mark _ => 0

/-- Jobs that wait; only the write buffer's while a HOLD is entered. -/
def Chip.jobs (c : Chip) : List Job :=
  ((c.clm.buf.filter fun u => u.place.isNone).map .unit) ++
    (if c.working then (c.clm.copies.filter fun k => c.goesOn k.victim).map .copy else []) ++ c.clm.markers.map .mark

/-- Stream of a job. -/
def Chip.jobStream (c : Chip) : Job → Nat
  | .unit u => writeStream (c.nsOf u.unit)
  | .copy k => k.stream
  | .mark _ => 6

/-- Channel on which a stream's next page is programmed. -/
def Chip.nextChan (c : Chip) (stream : Nat) : Nat :=
  match c.openOf stream with
  | some r => r.nextChan c.nPlanes
  | none => if c.clm.nextRick % 8 = 0 then 1 else 0

/-- Whether a WRITE of a namespace accepted before a command is still to complete (R245). -/
def Chip.writeBefore (c : Chip) (ns cmd : Nat) : Bool :=
  c.clm.cmds.any fun k => decide (k.n < cmd) && leAt k.entry 0 1 == 2 && leAt k.entry 1 1 % 4 == ns

/-- Whether a job may be programmed: its stream has a rick or may open one; a wear-levelling copy takes no more
than one program in eight on its channel (R254); the writes accepted before an NSFORMAT go before its marker
(R245). -/
def Chip.mayRun (c : Chip) (j : Job) : Bool :=
  ((c.openOf (c.jobStream j)).isSome || c.canOpen (c.jobStream j)) &&
    (match j with
     | .unit _ => true
     | .copy k => k.stream != 5 || decide (7 ≤ c.clm.wears.getD (c.nextChan 5) 0)
     | .mark m => !(c.clm.buf.any fun u => u.place.isNone && c.nsOf u.unit == m.ns) && !c.writeBefore m.ns m.cmd)

/-- The job with the lowest SEQ of those that may be programmed. -/
def Chip.nextJob (c : Chip) : Option Job :=
  (c.jobs.filter c.mayRun).foldl (fun b x => match b with
    | none => some x
    | some y => if x.seq < y.seq then some x else some y) none

/-- The page of a job; `seq` is a marker's. -/
def Chip.jobPage (c : Chip) (seq : Nat) : Job → NandPage
  | .unit u => ⟨4 * u.unit, 0, c.nsOf u.unit, u.seq, 0, 0, u.data⟩
  | .copy k => ⟨4 * k.unit, 0, c.nsOf k.unit, k.seq, 0, 0, k.data⟩
  | .mark m => ⟨0, 0, m.ns + 4 + 32, seq, 0, 0, zeroPage⟩

/-- A SEQ is no longer waited for. -/
def Clm.unwait (x : Clm) (seq : Nat) : Clm :=
  { x with
    cmds := x.cmds.map fun k => { k with waits := k.waits.filter (· != seq) }
    flush := x.flush.map fun l => l.filter (· != seq) }

/-- Whether a SYNC command waits for a SEQ. -/
def Clm.syncs (x : Clm) (seq : Nat) : Bool :=
  x.cmds.any fun k => leAt k.entry 0 1 == 2 && k.waits.contains seq

/-- A unit was programmed: the map names it, and it stays in the buffer until the parity of its
row is written. -/
def Chip.unitDone (c : Chip) (u : WbUnit) (ppa : Nat) : Chip :=
  let c := (c.setMap u.unit (2 ^ 31 + ppa)).onClm fun x => { x with
    buf := x.buf.map fun y => if y.seq = u.seq then { y with place := some ppa } else y }
  if c.clm.syncs u.seq then
    (c.readLater ppa (.sync u.seq)).onClm fun x => { x with
      flush := x.flush.map fun l => l.filter (· != u.seq)
      cmds := x.cmds.map fun k =>
        if leAt k.entry 0 1 = 2 then k else { k with waits := k.waits.filter (· != u.seq) } }
  else c.onClm fun x => x.unwait u.seq

/-- A copy was programmed: the map changes only if it still names the victim's page; the copy is
to be read back (R248, R249). -/
def Chip.copyDone (c : Chip) (k : CopyJob) (ppa : Nat) : Chip :=
  let c := (c.mapSeen k.unit).when (c.mapEntry k.unit == 2 ^ 31 + k.src) fun c => c.setMap k.unit (2 ^ 31 + ppa)
  ((c.bump (if k.stream = 5 then Reg.CLM_WL_PAGES else Reg.CLM_GC_PAGES)).onClm fun x => { x with
    copies := x.copies.erase k }).readLater ppa (.check k.victim k.src)

/-- A marker was programmed: the entries of its namespace are cleared, and what the buffer keeps of it until the
parity of its row is gone with them (R245). -/
def Chip.markDone (c : Chip) (m : Marker) (seq : Nat) : Chip :=
  let c := (List.range (c.nsSize m.ns)).foldl (fun c i => c.setMap (c.nsStart m.ns + i) 0) c
  c.onClm fun x => { x with
    markers := x.markers.erase m, marks := x.marks.set m.ns seq, buf := x.buf.filter fun u => c.nsOf u.unit != m.ns }

/-- A job is programmed at the next place of its stream's rick. -/
def Chip.runJob (c : Chip) (duds : List Nat) (j : Job) : Chip :=
  match c.rickFor duds (c.jobStream j) with
  | (none, c) => c
  | (some r, c) =>
    match j with
    | .unit u => let (ppa, c) := c.putPage r (c.jobPage 0 j); (c.unitDone u ppa).rowEnd r.stream
    | .copy k => let (ppa, c) := c.putPage r (c.jobPage 0 j); (c.copyDone k ppa).rowEnd r.stream
    | .mark m =>
      let (seq, c) := c.takeSeq
      ((c.putPage r (c.jobPage seq j)).2.markDone m seq).rowEnd r.stream

/-- CTRL.FLUSH clears once nothing it waits for is left. -/
def Chip.flushCheck (c : Chip) : Chip :=
  match c.clm.flush with
  | some [] => (c.setBit Reg.CLM_CTRL 3 false).onClm fun x => { x with flush := none }
  | _ => c

/-- Whether the Clamp empties its buffer: a HOLD is entered, or ENABLE was written 0. -/
def Chip.draining (c : Chip) : Bool := c.crp.holdEntry || c.clm.stopping

/-- Room for a number of units that are not yet in the write buffer (R241). -/
def Chip.wbRoom (c : Chip) (units : List Nat) : Bool :=
  decide ((c.clm.buf.filter fun x => !units.contains x.unit).length + units.length ≤ 64)

/-- The sectors and slots that a number of records take, from the head on. -/
def archiveSlots (sectors : Nat) : Nat → Nat → Nat → List (Nat × Nat)
  | 0, _, _ => []
  | n + 1, h, s =>
    (h, s) :: (if s = 169 then archiveSlots sectors n ((h + 1) % sectors) 0 else archiveSlots sectors n h (s + 1))

/-- Units that a batch falls in. -/
def Chip.batchUnits (c : Chip) (b : Batch) : List Nat :=
  ((archiveSlots (4 * c.nsSize 0) b.records.length c.clm.head c.clm.slot).map fun p => c.nsStart 0 + p.1 / 4).eraseDups

/-- Whether the oldest batch waits for room (R241). -/
def Chip.batchWaits (c : Chip) : Bool :=
  match c.clm.batches with
  | [] => false
  | b :: _ => !c.wbRoom (c.batchUnits b)

/-- Whether a write waits for room in the buffer, or the buffer is emptied. -/
def Chip.wantsRoom (c : Chip) : Bool :=
  c.draining || decide (64 ≤ c.clm.buf.length) || (c.clm.merge.any fun m => m.left == 0) || c.batchWaits

/-- The stream whose row is filled with PAD pages, where no page is left to be programmed: that of a unit which
keeps room in the buffer until the parity of its row, or of a copy whose word line is not complete (log entry 40). -/
def Chip.padStream (c : Chip) : Option Nat :=
  match if c.wantsRoom then (c.clm.buf.filter fun u => u.place.isSome).head? else none with
  | some u => some (writeStream (c.nsOf u.unit))
  | none =>
    if !c.working then none
    else ((c.clm.later.find? fun r => !c.mayBegin r).bind fun r =>
      c.clm.ricks.find? fun k => k.blocks.contains (ppaBlock r.ppa)).map (·.stream)

/-- Program a PAD page at the next place of a stream's open rick. -/
def Chip.padNext (c : Chip) (stream : Nat) : Chip :=
  match c.openOf stream with
  | none => c
  | some r =>
    let (seq, c) := c.takeSeq
    (c.putPage r (padPage seq)).2.rowEnd stream

/-- Once ENABLE is 0 and the buffer is empty, the last checkpoint is taken (Table 11). -/
def Chip.stopCheck (c : Chip) : Chip :=
  c.when (c.clm.stopping && c.clm.buf.isEmpty && c.clm.markers.isEmpty && c.clm.merge.isNone) Chip.ckptStart

/-- Put a unit's content in the write buffer with a new SEQ; what waited for the SEQ it replaces
waits for the new one. -/
def Chip.wbPut (c : Chip) (u : Nat) (data : List Byte) : Nat × Chip :=
  let (seq, c) := c.takeSeq
  let old := (c.clm.buf.filter fun x => x.unit == u && x.place.isNone).map fun x => x.seq
  let turn (l : List Nat) : List Nat := l.map fun q => if old.contains q then seq else q
  (seq, c.onClm fun x => { x with
    buf := (x.buf.filter fun y => y.unit != u) ++ [⟨u, seq, data, none⟩]
    cmds := x.cmds.map fun k => { k with waits := turn k.waits }
    flush := x.flush.map turn })

/-- The block that a copy at a page was taken from, while it is still to be checked; else the page's own. -/
def Chip.copyOwner (c : Chip) (ppa : Nat) : Nat :=
  ((c.clm.reads ++ c.clm.later).findSome? fun r =>
    match r.use with
    | .check v _ => if r.ppa = ppa then some v else none
    | _ => none).getD (ppaBlock ppa)

/-- The pages of a failed block that hold current units are rebuilt and written again in a fresh
rick of the same stream, those still in the write buffer from there; a collection copy stays one of its victim
(R250). System pages are written again by a checkpoint. -/
def Chip.rewriteBlock (c : Chip) (b stream : Nat) : Chip :=
  (c.pagesOf b).foldl (fun c e =>
    if !e.2.isUnit then c
    else
      let u := e.2.sector / 4
      let c := c.mapSeen u
      if c.mapEntry u == 2 ^ 31 + e.1 then
        match c.clm.buf.find? fun x => x.unit == u with
        | some w => c.when w.place.isSome fun c => (c.wbPut u w.data).2
        | none =>
          let (seq, c) := c.takeSeq
          (c.countRebuild e.1).onClm fun x => { x with
            copies := x.copies ++ [⟨c.copyOwner e.1, e.1, u, seq, stream, c.rebuilt e.1⟩] }
      else c) c

/-- The other members of a failed rick finish their row, and the rick closes at it (R250 step 3). -/
def Chip.closeFailed (c : Chip) (r : Rick) : Chip :=
  let c := (c.setRick r).padRow r.stream (c.rowLen + 1)
  match c.clm.ricks.find? fun y => y.num == r.num with
  | none => c
  | some y =>
    let c := c.when (!y.noParity && y.pos % c.rowLen == 0 && decide (r.pos % c.rowLen ≠ 0)) fun c =>
      c.parityPages y (y.pos / c.rowLen - 1)
    (c.onClm fun x => { x with
      buf := x.buf.filter fun u => !(u.place.any fun p => y.blocks.contains (ppaBlock p)) }).closeRick y

/-- The program of the next page of an open rick fails, in its data block or, for `parity`, in the rick's parity
block (R250). -/
def Chip.rickFails (c : Chip) (r : Rick) (parity : Bool) : Chip :=
  let c := c.bump Reg.CLM_PROGF
  let ch := if parity then r.num % 8 else r.nextChan c.nPlanes
  let b := r.blocks.getD ch 0
  let c := if parity then c else c.rewriteBlock b r.stream
  let c := c.closeFailed (if parity then { r with noParity := true } else { r with failed := r.failed ++ [ch] })
  (c.when (c.holdsSystem b) Chip.ckptStart).retireBlock b 1

/-! ### Verification (R240) -/

/-- Blocks of a rick that are verified: the data blocks, but for those that failed. -/
def Rick.verified (r : Rick) : List Nat :=
  (r.dataChans.filter fun ch => !r.failed.contains ch).map fun ch => r.blocks.getD ch 0

/-- A block that passes becomes VERIFIED, and is refreshed if it needed a soft decode (R251); of one
that does not pass, the failing units are rebuilt and written again in stream 4, and it is collected
and retired. -/
def Chip.verifyBlock (c : Chip) (r : Rick) (found : List PageFound) (b : Nat) : Chip :=
  let th := c.fl Reg.CLM_PATROL_TH 15 0
  let mine := found.filter fun f => ppaBlock f.ppa.toNat == b
  let bad := mine.filter fun f => f.cws.any (cwFails th)
  if bad.isEmpty then
    (c.setBlkState b 4).when (mine.any fun f => f.cws.any (cwWeak th)) fun c => c.startVictim b .refresh none
  else
    let c := bad.foldl (fun c f =>
      match c.nandGet f.ppa.toNat with
      | none => c
      | some pg =>
        let u := pg.sector / 4
        if !pg.isUnit then c
        else
          let c := c.mapSeen u
          if c.mapEntry u != 2 ^ 31 + f.ppa.toNat then c
          else if r.noParity then c.when (f.cws.contains .fail) fun c => c.unitLost u
          else if c.pendingWrite u then c
          else (c.countRebuild f.ppa.toNat).formCopy b f.ppa.toNat u .failed (c.rebuilt f.ppa.toNat)) c
    c.startVictim b .failed (if r.noParity then none else some (r.blocks.getD (r.num % 8) 0))

/-- The read-back of a closed rick: its blocks are judged; its parity is kept while a block that failed is
collected, and its parity block is erased otherwise. -/
def Chip.verifyRick (c : Chip) (r : Rick) (found : List PageFound) : Chip :=
  let blocks := r.verified.filter fun b => c.blkState b == 3
  let pages := (blocks.map fun b => (c.pagesOf b).length).foldl (· + ·) 0
  let c := c.tableSeen.countReads pages (found.flatMap (·.cws))
  let c := blocks.foldl (fun c b => c.verifyBlock r found b) c
  let p := r.blocks.getD (r.num % 8) 0
  if c.blkState p = 5 then c.parityFree p
  else c.onClm fun x => { x with held := x.held.filter fun y => y.num != r.num }

/-! ### The patrol (R255) -/

/-- The block after one in PPA order, from the first again after the last. -/
def Chip.blockAfter (c : Chip) (b : Nat) : Nat := (c.allBlocks.find? fun x => decide (b < x)).getD 0

/-- A page that the patrol found uncorrectable loses its unit (R252). -/
def Chip.patrolLost (c : Chip) (f : PageFound) : Chip :=
  match c.nandGet f.ppa.toNat with
  | none => c
  | some pg => c.when (f.cws.contains .fail && pg.isUnit) fun c =>
      (c.mapSeen (pg.sector / 4)).when (c.mapEntry (pg.sector / 4) == 2 ^ 31 + f.ppa.toNat) fun c =>
        c.unitLost (pg.sector / 4)

end Sys2Proof.Machine
end

