-- ==== Sys2Proof/Machine/Clamp.lean ====
section
/-!
DEFINITION. The Clamp's archive batches, command queues, enable, checkpoints, rebuild, ride flush
and formatting (08_clamp_media.md).
-/
namespace Sys2Proof.Machine

/-! ### Archive batches (R242, R243) -/

/-- Post the ADN operand of a batch. -/
def Chip.batchDone (c : Chip) (pod status count sector slot : Nat) : Chip :=
  c.floPost pod 9 status (count % 256 + sector % 2 ^ 40 * 2 ^ 8 + slot * 2 ^ 48)

/-- Whether batches are refused: no ARCHIVE, or media that take no writes. -/
def Chip.batchRefused (c : Chip) : Bool :=
  [5, 6, 7].contains c.clmState || (c.clmState == 4 && c.nsSize 0 == 0)

/-- Whether the Clamp takes batches and commands: not halted, not stopping, no HOLD or RIDE. -/
def Chip.clmTaking (c : Chip) : Bool := c.clmUp && !c.bit Reg.CLM_CTRL 1 && c.working && !c.clm.stopping

/-- ARCHIVE_BATCH: the oldest batch BAL has submitted is queued, refused, or acknowledged at once
when it is empty. -/
def Chip.archiveBatch (c : Chip) : Chip :=
  match c.bal.out with
  | [] => c
  | b :: rest =>
    if !c.clmTaking then c
    else
      let c := { c with bal := { c.bal with out := rest } }
      if c.batchRefused then c.batchDone b.pod.toNat 1 0 0 0
      else if b.records.isEmpty then c.batchDone b.pod.toNat 0 0 c.clm.head c.clm.slot
      else c.onClm fun x => { x with batches := x.batches ++ [b] }

/-- Place one record at the head: a sector's COUNT and time follow it, and a unit the head enters
starts empty. -/
def Chip.archivePlace (c : Chip) (r : List Byte) : Chip :=
  let x := c.clm
  let off := x.head % 4 * 4096
  let d := if x.slot = 0 ∧ x.head % 4 = 0 then zeroPage else padTo 16384 x.headData
  let d := splice d (off + 24 * x.slot) (padTo 24 r)
  let d := splice d (off + 4080) (leBytes 1 (x.slot + 1))
  let d := splice d (off + 4088) (leBytes 8 c.time.toNat)
  let wrap := x.slot == 169 && x.head + 1 == 4 * c.nsSize 0
  (c.when wrap fun c => c.bump Reg.CLM_ARC_WRAP).onClm fun y => { y with
    headData := d
    slot := if x.slot = 169 then 0 else x.slot + 1
    head := if x.slot = 169 then (if wrap then 0 else x.head + 1) else x.head }

/-- Place a batch's records; each unit they fall in goes into the write buffer once. -/
def Chip.archiveAll (c : Chip) : List (List Byte) → Chip
  | [] => c
  | r :: rest =>
    let u := c.clm.head / 4
    let c := c.archivePlace r
    (c.when (rest.isEmpty || c.clm.head / 4 != u) fun c =>
      (c.wbPut (c.nsStart 0 + u) c.clm.headData).2).archiveAll rest

/-- A write waits for room in the buffer. CLM_WB_WAIT counts the cycles of the wait, whose length nothing gives the
model (R241; log entry 98). -/
def Chip.wbWait (c : Chip) : Chip :=
  let (n, c) := c.elapsed true
  c.bumpBy Reg.CLM_WB_WAIT n

/-- ARCHIVE_BATCH_ACCEPTED: the records of the oldest batch go into the write buffer where it has
room, and the ADN operand is posted; during a rebuild it waits (R259). -/
def Chip.batchAccepted (c : Chip) : Chip :=
  match c.clm.batches with
  | [] => c
  | b :: rest =>
    if !c.clmTaking then c
    else if c.clm.merge.isSome then c.when (c.clm.merge.any fun m => m.left == 0) Chip.wbWait
    else if c.batchRefused then
      (c.onClm fun x => { x with batches := rest }).batchDone b.pod.toNat 1 0 0 0
    else if c.clmState != 4 then c.when ([2, 3].contains c.clmState) Chip.wbWait
    else
      if !c.wbRoom (c.batchUnits b) then c.wbWait
      else
        let h := c.clm.head
        let s := c.clm.slot
        ((c.onClm fun x => { x with batches := rest }).archiveAll b.records).batchDone b.pod.toNat 0
          b.records.length h s

/-! ### Command queues (R244, R245) -/

/-- Level of a queue: 1 Platform, 2 Seal, 0 Host. -/
def clmLevel (q : Nat) : Nat := [1, 2, 0].getD q 0

/-- Entries of a queue. -/
def Chip.clmqSize (c : Chip) (q : Nat) : Nat := ringSize (c.fl (Reg.CLM_QCFG q) 3 0)

/-- Address of entry `i` of a queue. -/
def Chip.clmqAddr (c : Chip) (q i : Nat) : Nat :=
  c.fl (Reg.CLM_QBASE_LO q) 31 5 * 32 + c.fl (Reg.CLM_QBASE_HI q) 15 0 * 2 ^ 32 + 32 * i

/-- Index of the next entry to take. -/
def Chip.clmqNext (c : Chip) (q : Nat) : Nat := Tab.get (fun _ => 0) c.clm.fetched q

/-- A read for a command: at its queue's level, through the pair's domain for RING's. -/
def Chip.cmdRead (c : Chip) (k : ClmCmd) (addr len : Nat) : Access × List Byte × Chip :=
  match k.owner with
  | some (p, _) => if c.pairHost p then c.ringRead 6 (c.pairDomain p) true 260 addr len else c.dmaRead 6 true addr len
  | none => c.dmaRead 6 (k.queue == 2) addr len

/-- A write for a command. -/
def Chip.cmdWrite (c : Chip) (k : ClmCmd) (addr : Nat) (bs : List Byte) : Access × Chip :=
  match k.owner with
  | some (p, _) => if c.pairHost p then c.ringWrite 6 (c.pairDomain p) true 260 addr bs else c.dmaWrite 6 true addr bs
  | none => c.dmaWrite 6 (k.queue == 2) addr bs

/-- OP, namespace, first sector, count and buffer of an entry (Table 8). -/
def ClmCmd.op (k : ClmCmd) : Nat := leAt k.entry 0 1
/-- Namespace. -/
def ClmCmd.ns (k : ClmCmd) : Nat := leAt k.entry 1 1 % 4
/-- Whether FLAGS bit `b` is set: 0 OPND, 1 SYNC. -/
def ClmCmd.flag (k : ClmCmd) (b : Nat) : Bool := bitOf (leAt k.entry 2 1) b
/-- First sector. -/
def ClmCmd.first (k : ClmCmd) : Nat := leAt k.entry 4 5
/-- Sectors. -/
def ClmCmd.count (k : ClmCmd) : Nat := leAt k.entry 10 2
/-- Buffer address. -/
def ClmCmd.buffer (k : ClmCmd) : Nat := leAt k.entry 12 6
/-- Pod named with OPND. -/
def ClmCmd.pod (k : ClmCmd) : Nat := leAt k.entry 18 2 % 1024

/-- Units a READ or WRITE touches. -/
def Chip.cmdUnits (c : Chip) (k : ClmCmd) : List Nat :=
  upFrom (c.nsStart k.ns + k.first / 4) ((k.first + k.count - 1) / 4 + 1 - k.first / 4)

/-- Whether a level may read, or write, a namespace (Table 3). -/
def nsAllows (level ns : Nat) (wr : Bool) : Bool :=
  match ns with
  | 0 => !wr
  | 1 => level == 2 || (!wr && level == 1)
  | 2 => level != 0
  | _ => true

/-- The STATUS with which a command is turned away, 0 if it is not (R244, R245, R253, R259; the
order of the tests is DEDUCED, log entry 41). -/
def Chip.cmdJudge (c : Chip) (k : ClmCmd) : Nat :=
  let lvl := clmLevel k.queue
  if !(c.clmState == 4 || c.clmState == 5) then 6
  else if k.op = 0 ∨ 5 < k.op ∨ 4 ≤ leAt k.entry 1 1 ∨ 4 ≤ leAt k.entry 2 1 then 4
  else if (k.op = 1 ∨ k.op = 2) ∧ (k.count = 0 ∨ 256 < k.count) then 4
  else if k.op = 5 then
    if !c.bit Reg.CLM_CTRL 4 then 5 else if c.ppaValid (leAt k.entry 4 4 % 2 ^ 31) then 0 else 3
  else if k.op = 3 then 0
  else if !nsAllows lvl k.ns (k.op != 1) then 5
  else if k.op ≠ 1 ∧ c.clmState = 5 then 7
  else if k.op ≠ 4 ∧ 4 * c.nsSize k.ns < k.first + k.count then 3
  else 0

/-- The command at the head of a queue, not yet in progress: from memory, or for queue 2 from
RING's image. -/
def Chip.clmHead (c : Chip) (q : Nat) : Option (ClmCmd × Chip) :=
  if !c.bit (Reg.CLM_QCFG q) 31 then none
  else
    let mk (e : List Byte) (o : Option (Nat × BitVec 32)) : ClmCmd :=
      { n := c.clm.accepted, queue := q, idx := c.clmqNext q, entry := padTo 32 e, owner := o, status := 0,
        seq := 0, nlost := 0, waits := [], reads := 0, todo := [] }
    if q = 2 then c.ring.clm.head?.map fun x => (mk x.entry (some (x.pair, x.tag)), c)
    else if c.clmqNext q = c.fl (Reg.CLM_QPI q) 9 0 % c.clmqSize q then none
    else
      let (_, e, c) := c.dmaRead 6 false (c.clmqAddr q (c.clmqNext q)) 32
      some (mk e none, c)

/-- Change a command in progress. -/
def Chip.onCmd (c : Chip) (n : Nat) (f : ClmCmd → ClmCmd) : Chip :=
  c.onClm fun x => { x with cmds := x.cmds.map fun k => if k.n = n then f k else k }

/-- Take a command into progress; one with OPND takes its pod's hold (06 R178). -/
def Chip.cmdEnter (c : Chip) (k : ClmCmd) : Chip :=
  let c := c.onClm fun x => { x with cmds := x.cmds ++ [k], accepted := x.accepted + 1 }
  let c := if k.owner.isSome then c.onRing fun r => { r with clm := r.clm.drop 1 }
    else c.onClm fun x => { x with
      fetched := Tab.put (fun _ => 0) x.fetched k.queue ((k.idx + 1) % c.clmqSize k.queue) }
  c.when (k.flag 0) fun c => c.hold k.pod

/-- Decide a command's STATUS. -/
def Chip.cmdStatus (c : Chip) (n status : Nat) : Chip := c.onCmd n fun k => { k with status := status }

/-- Give a command the sectors of a unit: those it asks for go to its buffer. -/
def Chip.deliver (c : Chip) (k : ClmCmd) (u : Nat) (data : List Byte) : Chip :=
  let base := 4 * c.nsStart k.ns + k.first
  let lo := max (4 * u) base
  let hi := min (4 * u + 4) (base + k.count)
  match c.cmdWrite k (k.buffer + (lo - base) * 4096) (slice data ((lo - 4 * u) * 4096) ((hi - lo) * 4096)) with
  | (.ok, c) => c
  | (_, c) => c.cmdStatus k.n 5

/-- Sectors of a unit that a command asks for. -/
def Chip.sectorsIn (c : Chip) (k : ClmCmd) (u : Nat) : Nat :=
  let base := 4 * c.nsStart k.ns + k.first
  min (4 * u + 4) (base + k.count) - max (4 * u) base

/-- Count a read in progress in its block's REFS, up or down (Table 5). -/
def Chip.refs (c : Chip) (ppa : Nat) (up : Bool) : Chip :=
  let b := ppaBlock ppa
  (c.clmSeen [(c.blkAddr b + 11, 1)]).setBlk b 11 1 (if up then c.blk b 11 1 + 1 else c.blk b 11 1 - 1)

/-- One unit of a READ: from the write buffer, as zeros where it is not VALID or lost, or by a
page read of the page its entry names (R235, R241, R246, R252). -/
def Chip.readUnit (c : Chip) (k : ClmCmd) (u : Nat) : Chip :=
  match c.clm.buf.find? fun x => x.unit == u with
  | some x => c.deliver k u x.data
  | none =>
    let c := c.mapSeen u
    let e := c.mapEntry u
    match entryPage e with
    | some ppa =>
      let c := (c.refs ppa true).onClm fun x => { x with reads := x.reads ++ [⟨ppa, .sectors k.n u⟩] }
      c.onCmd k.n fun k => { k with reads := k.reads + 1 }
    | none =>
      let n := if e = lostEntry then c.sectorsIn k u else 0
      (c.deliver k u zeroPage).onCmd k.n fun k => { k with nlost := k.nlost + n }

/-- Content of a unit with a WRITE's sectors laid over what it held. -/
def Chip.overlay (c : Chip) (k : ClmCmd) (u : Nat) (old data : List Byte) : List Byte :=
  let base := 4 * c.nsStart k.ns + k.first
  let lo := max (4 * u) base
  splice (padTo 16384 old) ((lo - 4 * u) * 4096) (slice data ((lo - base) * 4096) (c.sectorsIn k u * 4096))

/-- Put the units of the WRITE in progress into the write buffer, in order, as far as it has room; with SYNC the
command waits until they are programmed and read back (R241, R245). -/
def Chip.fill (c : Chip) : Nat → Chip
  | 0 => c
  | n + 1 =>
    match c.clm.merge with
    | none => c
    | some m =>
      if m.left ≠ 0 then c
      else match m.todo, c.clm.cmds.find? fun k => k.n == m.cmd with
      | u :: rest, some k =>
        if !c.wbRoom [u] then c.wbWait
        else
          let old := ((m.got.find? fun g => g.1 == u).map fun g => g.2).getD zeroPage
          let (q, c) := c.wbPut u (c.overlay k u old m.data)
          let c := c.onCmd k.n fun k => { k with seq := max k.seq q, waits := if k.flag 1 then k.waits ++ [q] else k.waits }
          (c.onClm fun x => { x with merge := some { m with todo := rest } }).fill n
      | _, _ => c.onClm fun x => { x with merge := none }

/-- Let the WRITE in progress go on. -/
def Chip.fillAll (c : Chip) : Chip := c.fill 67

/-- Of the units that a WRITE covers only in part: those to be read from the media, with the page each entry
names; what the buffer holds of the others; and whether one of them is lost. -/
def Chip.mergeNeeds (c : Chip) (k : ClmCmd) : List (Nat × Nat) × List (Nat × List Byte) × Bool :=
  let part := (c.cmdUnits k).filter fun u => c.sectorsIn k u != 4
  let held (u : Nat) : Option WbUnit := c.clm.buf.find? fun x => x.unit == u
  let away := part.filter fun u => (held u).isNone
  (away.filterMap fun u => (entryPage (c.mapEntry u)).map fun p => (u, p),
    part.filterMap fun u => (held u).map fun x => (u, x.data),
    away.any fun u => c.mapEntry u == lostEntry)

/-- A WRITE whose data have come (R245). -/
def Chip.writeData (c : Chip) (k : ClmCmd) (data : List Byte) : Chip :=
  let c := c.clmSeen (((c.cmdUnits k).filter fun u => c.sectorsIn k u != 4).map fun u => (c.mapAddr u, 4))
  let (need, got, lost) := c.mergeNeeds k
  if lost then c.cmdStatus k.n 2
  else
    let c := need.foldl (fun c n => (c.refs n.2 true).readLater n.2 (.merge n.1)) c
    (c.onClm fun x => { x with merge := some ⟨k.n, data, got, need.length, false, c.cmdUnits k⟩ }).fillAll

/-- A WRITE (R245). -/
def Chip.runWrite (c : Chip) (k : ClmCmd) : Chip :=
  match c.cmdRead k k.buffer (k.count * 4096) with
  | (.ok, data, c) => c.writeData k data
  | (_, _, c) => c.cmdStatus k.n 5

/-- Look up the units of a READ in progress, as far as page reads may begin (R246). -/
def Chip.lookUp (c : Chip) (n : Nat) : Nat → Chip
  | 0 => c
  | f + 1 =>
    if mostReads ≤ c.clm.reads.length then c
    else match c.clm.cmds.find? fun k => k.n == n with
    | none => c
    | some k =>
      match k.todo with
      | [] => c
      | u :: rest => ((c.onCmd n fun k => { k with todo := rest }).readUnit k u).lookUp n f

/-- SEQs in the write buffer not yet programmed. -/
def Chip.unprogrammed (c : Chip) : List Nat := (c.clm.buf.filter fun x => x.place.isNone).map (·.seq)

/-- Run an accepted command. -/
def Chip.cmdRun (c : Chip) (k : ClmCmd) : Chip :=
  match k.op with
  | 1 => (c.onCmd k.n fun j => { j with todo := c.cmdUnits k }).lookUp k.n 66
  | 2 => c.runWrite k
  | 3 => let l := c.unprogrammed; c.onCmd k.n fun k => { k with waits := l }
  | 4 => c.onClm fun x => { x with markers := x.markers ++ [⟨k.ns, k.n⟩] }
  | _ =>
    let ppa := leAt k.entry 4 4 % 2 ^ 31
    ((c.refs ppa true).readLater ppa (.raw k.n)).onCmd k.n fun k => { k with reads := 1 }

/-- Whether a command waits for the WRITE that is not yet wholly in the buffer: a WRITE or a FLUSH does, and what
touches its units. -/
def Chip.waitsForWrite (c : Chip) (k : ClmCmd) : Bool :=
  match c.clm.merge with
  | none => false
  | some m => k.op == 2 || k.op == 3 || (c.clm.cmds.any fun j => j.n == m.cmd &&
      ((k.op == 4 && j.ns == k.ns) || (k.op == 1 && (c.cmdUnits j).any (c.cmdUnits k).contains)))

/-- Whether a WRITE or an NSFORMAT waits for a READ that has not yet looked up a unit it touches. -/
def Chip.waitsForRead (c : Chip) (k : ClmCmd) : Bool :=
  (k.op == 2 || k.op == 4) && c.clm.cmds.any fun j => j.todo.any fun u =>
    if k.op = 4 then c.nsOf u == k.ns else (c.cmdUnits k).contains u

/-- Whether a command must wait, so that commands which touch one unit take effect in the order of their
acceptance, and writes and batches wait for room in order (R241, R244). -/
def Chip.cmdWaits (c : Chip) (k : ClmCmd) : Bool :=
  (k.op != 3 && k.op != 5 && c.clm.markers.any fun m => m.ns == k.ns) || c.waitsForWrite k || c.waitsForRead k ||
    (k.op == 2 && c.batchWaits)

/-- Accept a command: turned away with its STATUS, or run. -/
def Chip.cmdAccept (c : Chip) (k : ClmCmd) : Chip :=
  let st := c.cmdJudge k
  if st ≠ 0 then (c.cmdEnter k).cmdStatus k.n st
  else if c.cmdWaits k then
    c.when (k.op == 2 && (c.batchWaits || c.clm.merge.any fun m => m.left == 0)) Chip.wbWait
  else (c.cmdEnter k).cmdRun k

/-- Take the command at the head of a queue if its OP is the one asked for. -/
def Chip.clmTake (c : Chip) (q : Nat) (p : Nat → Bool) : Chip :=
  if !c.clmTaking || decide (32 ≤ c.clm.cmds.length) then c
  else match c.clmHead q with
  | none => c
  | some (k, d) => if p k.op then d.cmdAccept k else c

/-! ### Page reads done (R234, R249) -/

/-- Object number of an anchor record's first page (DESIGN CHOICE, log entry 40). -/
def anchorObject : Nat := 0xE0000000

/-- A bitmap of the blocks of a list, the first in bit 0 of byte 0. -/
def bitmap (all : List Nat) (on : Nat → Bool) : List Byte :=
  (List.range ((all.length + 7) / 8)).map fun i =>
    BitVec.ofNat 8 ((((all.drop (8 * i)).take 8).zipIdx.map fun e => b2n (on e.1) * 2 ^ e.2).foldl (· + ·) 0)

/-- The two pages of an anchor record, with the CRC-32 that protects it in the last bytes (R257; the places of its
parts: DESIGN CHOICE, log entry 40). -/
def Anchor.bytes (a : Anchor) (all : List Nat) : List Byte :=
  let words (l : List Nat) : List Byte := leBytes 4 l.length ++ l.flatMap (leBytes 4)
  let body := leBytes 4 a.geom.toNat ++ a.sizes.flatMap (leBytes 4) ++ leBytes 8 a.sck ++ leBytes 8 a.nextSeq ++
    leBytes 4 a.nextRick ++ words a.dir ++ words a.blk ++ a.marks.flatMap (leBytes 8) ++ leBytes 4 a.patrol ++
    bitmap all fun b => a.retired.any fun e => e.1 == b
  padTo 32764 body ++ leBytes 4 (crc32 (padTo 32764 body))

/-- A page of an anchor record, with the metadata of Table 4. -/
def Chip.anchorPage (c : Chip) (ppa : Nat) : Option NandPage :=
  c.nand.anchors.findSome? fun a =>
    let page (i : Nat) : NandPage :=
      ⟨anchorObject + i, 6, 4, a.seq + i, 0, a.ec, slice (a.bytes c.allBlocks) (16384 * i) 16384⟩
    if a.ppa = ppa then some (page 0) else if a.ppa2 = ppa then some (page 1) else none

/-- The bytes of a page as they lie on the media, undecoded: in each codeword its user bytes, its
metadata and its parity, whose code the manual does not give (free). -/
def Chip.rawBytes (c : Chip) (ppa : Nat) : List Byte × Chip :=
  match (c.nandGet ppa).or (c.anchorPage ppa) with
  | none => (List.replicate (4 * (4128 + c.cwParity)) 0xFF, c)
  | some pg =>
    (List.range 4).foldl (fun (x : List Byte × Chip) i =>
      let meta' := leBytes 5 (if pg.isUnit then pg.sector + i else pg.sector) ++ leBytes 1 pg.stream ++
        leBytes 1 pg.flags ++ [0] ++ leBytes 8 pg.seq ++ leBytes 4 pg.rick ++ leBytes 3 pg.ec ++ leBytes 5 0
      let (par, c) := x.2.free c.cwParity
      (x.1 ++ slice pg.data (4096 * i) 4096 ++ meta' ++ leBytes 4 (crc32 meta') ++ par, c)) ([], c)

/-- A command's page read ended. -/
def Chip.sectorsRead (c : Chip) (n u : Nat) (data : Option (List Byte)) : Chip :=
  match c.clm.cmds.find? fun k => k.n == n with
  | none => c
  | some k =>
    let lost := if data.isNone then c.sectorsIn k u else 0
    (c.deliver k u (data.getD zeroPage)).onCmd n fun k =>
      { k with reads := k.reads - 1, nlost := k.nlost + lost }

/-- A read for a partial WRITE ended; with the last the WRITE goes on, or fails for a lost unit. -/
def Chip.mergeRead (c : Chip) (u : Nat) (data : Option (List Byte)) : Chip :=
  match c.clm.merge with
  | none => c
  | some m =>
    let m := { m with
      got := m.got ++ [(u, data.getD [])], left := m.left - 1, lost := m.lost || data.isNone }
    if 0 < m.left ∨ !m.lost then (c.onClm fun x => { x with merge := some m }).fillAll
    else (c.onClm fun x => { x with merge := none }).cmdStatus m.cmd 2

/-- A copy was read back. One that cannot be read has not passed: it is formed again, from the page it was copied
from, or from its row's parity where that page is gone; its victim waits for the new copy (R249). -/
def Chip.copyChecked (c : Chip) (b src ppa : Nat) (cws : List CwRead) : Chip :=
  match c.nandGet ppa with
  | none => c
  | some pg =>
    let u := pg.sector / 4
    if !cws.contains .fail then c
    else
      let c := c.mapSeen u
      if c.mapEntry u ≠ 2 ^ 31 + ppa then c
      else match ((c.nandGet src).map (·.data)).or (if c.rebuildable ppa then some (c.rebuilt ppa) else none) with
      | none => c.unitLost u
      | some d => (c.when ((c.nandGet src).isNone) fun c => c.countRebuild ppa).when (!c.pendingWrite u) fun c => c.formCopy b ppa u ((c.whyOf b).getD .refresh) d

/-- A raw read ended. -/
def Chip.rawRead (c : Chip) (n ppa : Nat) : Chip :=
  match c.clm.cmds.find? fun k => k.n == n with
  | none => c
  | some k =>
    let (bs, c) := c.rawBytes ppa
    let (how, c) := c.cmdWrite k k.buffer bs
    c.onCmd n fun k => { k with reads := 0, status := if how = .ok then k.status else 5 }

/-- A read-back under SYNC ended; a page that cannot be read is written again. -/
def Chip.syncRead (c : Chip) (seq ppa : Nat) (cws : List CwRead) : Chip :=
  let redo := if cws.contains .fail && !c.rebuildable ppa then c.clm.buf.find? fun u => u.seq == seq else none
  match redo with
  | some u => c.onClm fun x => { x with buf := x.buf.map fun y => if y = u then { y with place := none } else y }
  | none => c.onClm fun x => x.unwait seq

/-- Begin the page reads that wait and may. -/
def Chip.beginLater (c : Chip) : Nat → Chip
  | 0 => c
  | n + 1 =>
    if mostReads ≤ c.clm.reads.length then c
    else match c.clm.later.find? c.mayBegin with
    | none => c
    | some r =>
      let c := c.onClm fun x => { x with later := x.later.erase r, reads := x.reads ++ [r] }
      (match r.use with
        | .check _ _ | .sync _ => c.refs r.ppa true
        | _ => c).beginLater n

/-- Begin the reads of pages to be copied from victims, unless housekeeping has stopped (R261). -/
def Chip.beginCopies (c : Chip) : Nat → Chip
  | 0 => c
  | n + 1 =>
    if !c.working || decide (mostReads ≤ c.clm.reads.length) then c
    else match c.clm.victims.find? fun v => !v.todo.isEmpty && c.goesOn v.block with
    | none => c
    | some v =>
      let p := v.todo.headD 0
      ((c.onClm fun x => { x with
        victims := x.victims.map fun w => if w.block = v.block then { w with todo := v.todo.drop 1 } else w
        reads := x.reads ++ [⟨p, .copy v.block⟩] }).refs p true).beginCopies n

/-- Begin page reads as far as the limit of operations lets (R240). -/
def Chip.beginReads (c : Chip) : Chip :=
  let c := c.beginLater mostReads
  (c.clm.cmds.foldl (fun c k => c.lookUp k.n 66) c).beginCopies mostReads

/-- What the Clamp goes on with after any work on the media: an anchor record that is owed, victims that are done, collection and wear levelling,
and the page reads that may begin. -/
def Chip.pursue (c : Chip) : Chip :=
  if !c.clmReady then c
  else ((c.when c.clm.anchorOwed Chip.anchorAgain).settleVictims.collectCheck.wearCheck.settleVictims).beginReads

/-- Whether a victim's page must wait to be copied for the marker of its unit's namespace (R245, R248). -/
def Chip.copyHeld (c : Chip) (r : PageRead) : Bool :=
  match r.use, c.nandGet r.ppa with
  | .copy _, some pg => pg.isUnit && c.clm.markers.any fun m => m.ns == c.nsOf (pg.sector / 4)
  | _, _ => false

/-- What a page read is for takes its result. -/
def Chip.readEnd (c : Chip) (r : PageRead) (cws : List CwRead) : Chip :=
  let weak := cws.any fun w => cwWeak (c.fl Reg.CLM_PATROL_TH 15 0) w
  match r.use with
  | .sectors n u => let (d, c) := c.readPage r.ppa cws; c.sectorsRead n u d
  | .merge u => let (d, c) := c.readPage r.ppa cws; c.mergeRead u d
  | .copy b => let (d, c) := c.readPage r.ppa cws; c.copyRead b r.ppa d
  | .check b src => ((c.countReads 1 cws).copyChecked b src r.ppa cws).when weak fun c => c.refresh (ppaBlock r.ppa)
  | .sync seq => (c.countReads 1 cws).syncRead seq r.ppa cws
  | .raw n => (c.bump Reg.CLM_RD_PAGES).rawRead n r.ppa

/-- PAGE_READ_DONE: the page read begun first ends. -/
def Chip.pageRead (c : Chip) (cws : List CwRead) : Chip :=
  if !c.clmReady then c
  else match c.clm.reads with
  | [] => c
  | r :: rest =>
    if c.copyHeld r then c.onClm fun x => { x with reads := rest ++ [r] }
    else (((c.onClm fun x => { x with reads := rest }).refs r.ppa false).readEnd r cws).pursue

/-! ### Programs, verification, erases and the patrol (R240, R241, R249–R251, R255) -/

/-- The reserve of stream 7: its open rick, opened where there is none (R261; log entry 42). -/
def Chip.rideReserve (c : Chip) (duds : List Nat) : Chip := (c.rickFor duds 7).2

/-- PAGE_PROGRAM_DONE. Stream 7 has its reserve. The erase of a FREE_NEW block that `duds` names fails. -/
def Chip.pageProgram (c : Chip) (duds : List Nat) : Chip :=
  if !c.clmReady then c
  else
    let c := match c.nextJob with
      | some j => c.runJob duds j
      | none => match c.padStream with
        | some s => c.padNext s
        | none => c
    (c.when c.working fun c => c.rideReserve duds).fillAll.flushCheck.stopCheck.pursue

/-- PROGRAM_FAILURE (R250): the program of the next page, a PAD page where no other is due, fails; with `sys`, that of the checkpoint in progress,
which is then begun again (R256). -/
def Chip.programFailure (c : Chip) (parity sys : Bool) (duds : List Nat) : Chip :=
  let due := if sys then c.clm.ckpt.map fun _ => 6 else (c.nextJob.map c.jobStream).or c.padStream
  match if c.clmReady then due else none with
  | none => c
  | some stream =>
    match c.rickFor duds stream with
    | (none, c) => c
    | (some r, c) =>
      let c := c.rickFails r parity
      (c.when sys fun c => c.onClm fun x => { x with ckpt := some (c.firstOpenSeq - 1) }).fillAll.pursue

/-- RICK_VERIFIED: the read-back of the rick that closed first completes; one in which the flush met failed blocks is
first mended, once mains return. -/
def Chip.rickVerified (c : Chip) (found : List PageFound) : Chip :=
  if !c.clmReady then c
  else match c.clm.verify with
  | [] => c
  | r :: rest =>
    if c.crp.power == .ride && !r.failed.isEmpty then c
    else ((c.onClm fun x => { x with verify := rest, held := x.held ++ [r] }).verifyRick r found).pursue

/-- The block whose erase is in progress: the first due that is not being read (R246); in RIDE the one begun before
(R261). -/
def Chip.eraseNext (c : Chip) : Option Nat :=
  if c.crp.power == .ride then c.clm.rideErase else c.clm.erasing.find? fun b => c.blkRefs b == 0

/-- BLOCK_ERASE_DONE: the erase in progress ends, or fails. -/
def Chip.eraseDone (c : Chip) (failed : Bool) : Chip :=
  if !c.clmReady then c
  else match c.eraseNext with
  | none => c
  | some b =>
    let c := c.tableSeen.onClm fun x => { x with
      erasing := x.erasing.erase b, rideErase := none, wearing := if x.wearing = some b then none else x.wearing }
    (if failed then c.eraseFails b else c.eraseNow b).pursue

/-- PATROL_READ: the next block (R255); the erase of a FREE_NEW block that `duds` names fails. One that is being read
is erased later (R246). -/
def Chip.patrolRead (c : Chip) (found : List PageFound) (duds : List Nat) : Chip :=
  if !c.mayCollect then c
  else
    let b := c.rd Reg.CLM_PATROL_POS / 2 ^ 14
    let c := c.tableSeen.wr Reg.CLM_PATROL_POS (c.blockAfter b * 2 ^ 14)
    if c.blkState b == 0 && c.blkRefs b != 0 then c.eraseDue b
    else if c.blkState b == 0 then
      (if duds.contains b then c.eraseFails b else c.eraseNow b).pursue
    else if c.blkState b == 4 then
      let mine := found.filter fun f => ppaBlock f.ppa.toNat == b
      let c := mine.foldl Chip.patrolLost (c.countReads (c.pagesOf b).length (mine.flatMap (·.cws)))
      (c.when (mine.any fun f => f.cws.any (cwWeak (c.fl Reg.CLM_PATROL_TH 15 0))) fun c => c.refresh b).pursue
    else c

/-! ### Completion (R245, Table 7) -/

/-- Pass completed entries at a queue's consumer index. -/
def Chip.clmPass (c : Chip) (q : Nat) : Nat → Chip
  | 0 => c
  | n + 1 =>
    let ci := c.rd (Reg.CLM_QCI q)
    if c.clm.done.contains (q, ci) then
      ((c.wr (Reg.CLM_QCI q) ((ci + 1) % c.clmqSize q)).onClm fun x => { x with
        done := x.done.filter (· != (q, ci)) }).clmPass q n
    else c

/-- Whether a command in progress may complete. -/
def Chip.cmdReady (c : Chip) (k : ClmCmd) : Bool :=
  k.reads == 0 && k.todo.isEmpty && (k.status != 0 || (k.waits.isEmpty && !(c.clm.merge.any fun m => m.cmd == k.n) &&
    !(c.clm.markers.any fun m => m.cmd == k.n)))

/-- The STATUS a command ends with. -/
def ClmCmd.final (k : ClmCmd) : Nat := if k.status ≠ 0 then k.status else if 0 < k.nlost then 2 else 1

/-- A completion of one of RING's commands: discarded and lost while RING's side is down (14 R418). -/
def Chip.clampCpl (c : Chip) (x : Cpl) : Chip := if c.sideDown 0 then c.dcqLost 7 1 else c.complete x

/-- Tinder sees the STATUS with which its own WRITE ends (13 R397). -/
def Chip.tinderSees (c : Chip) (n status : Nat) : Chip :=
  { c with upd := { c.upd with write := c.upd.write.map fun w => if w.1 = n then (n, status) else w } }

/-- A command completes: STATUS, SEQ and NLOST in its entry, or a completion for one of RING's;
with OPND an ADN operand in command form. -/
def Chip.cmdFinish (c : Chip) (k : ClmCmd) : Chip :=
  let c := (c.onClm fun x => { x with cmds := x.cmds.filter fun y => y.n != k.n }).tinderSees k.n k.final
  let tail := leBytes 8 k.seq ++ leBytes 4 k.nlost
  let c := match k.owner with
    | some (p, tag) => c.clampCpl ⟨p, tag, 0x20, BitVec.ofNat 8 k.final, padTo 56 tail, true, 0⟩
    | none =>
      let a := c.clmqAddr k.queue k.idx
      let c := (c.dmaWrite 6 false (a + 20) tail).2
      let c := (c.dmaWrite 6 false (a + 3) (leBytes 1 k.final)).2
      (c.onClm fun x => { x with done := x.done ++ [(k.queue, k.idx)] }).clmPass k.queue 1024
  c.when (k.flag 0) fun c => c.floPost k.pod 9 k.final (2 ^ 63 + k.queue * 2 ^ 10 + k.idx)

/-- CLM_COMMAND_COMPLETE: the oldest command that may; with none in progress to complete, an entry
whose OP is none of Table 8 is taken from the first queue that holds one. -/
def Chip.cmdComplete (c : Chip) : Chip :=
  if !c.clmUp then c
  else match c.clm.cmds.find? c.cmdReady with
  | some k => c.cmdFinish k
  | none =>
    match (List.range 3).find? fun q =>
        match c.clmHead q with
        | some (k, _) => decide (k.op = 0 ∨ 5 < k.op)
        | none => false with
    | none => c
    | some q =>
      let d := c.clmTake q fun o => decide (o = 0 ∨ 5 < o)
      match d.clm.cmds.find? d.cmdReady with
      | some k => d.cmdFinish k
      | none => d

/-! ### Enable and stop (R233, R258, Table 11) -/

/-- Pages that a command's reads found uncorrectable. -/
def failedPages (found : List PageFound) : List Nat :=
  (found.filter fun f => f.cws.contains .fail).map fun f => f.ppa.toNat

/-- Identification: a geometry mismatch, no valid anchor record, no checkpoint, or a rebuild. `found` are the pages of
anchor records that did not read clean. -/
def Chip.clmStart (c : Chip) (found : List PageFound) : Chip :=
  if geomOf c.nand.devices != geomOf (c.rdW Reg.CLM_GEOM) then c.setClmState 7
  else
    let c := c.countReads (2 * c.nand.anchors.length) (found.flatMap (·.cws))
    match c.nand.best (failedPages found) with
    | none => c.setClmState 6
    | some a =>
      let c := c.wr Reg.CLM_RETIRED (a.retired.filter fun e => e.2 == 8).length
      (c.setClmState (if a.dir.isEmpty then 3 else 2)).onClm fun x => { x with
        formatted := true, sizes := a.sizes, told := false, anchor := some a }

/-- Commands in progress when the media are no longer served: those with no STATUS yet end with 0x06. -/
def Clm.dropWork (x : Clm) : List ClmCmd :=
  x.cmds.map fun k => { k with status := if k.status = 0 then 6 else k.status, reads := 0, todo := [] }

/-- Everything but the media is as after reset. -/
def Chip.clmClear (c : Chip) : Chip :=
  let c := c.setFl Reg.CLM_STATUS 10 0 0
  c.onClm fun x => { Clm.reset with
    batches := x.batches, cmds := x.dropWork
    fetched := x.fetched, done := x.done, accepted := x.accepted, formatted := x.formatted, sizes := x.sizes }

/-- ENABLE written 0: flush, checkpoint, then stop. -/
def Chip.clmStop (c : Chip) : Chip :=
  if c.clmState = 4 ∨ c.clmState = 5 then (c.onClm fun x => { x with stopping := true }).stopCheck
  else c.clmClear

/-- A write of CLM_CTRL.  CKPT_NOW and FLUSH set on a 1; CKPT_NOW while the media are not ready is
cleared at once (DEDUCED, log entry 42). Once HALT_HK is cleared, collection and wear levelling are judged. -/
def Chip.clmCtrlWrite (c : Chip) (v : Nat) (who : Who) (found : List PageFound) : Chip :=
  let old := c.rd Reg.CLM_CTRL
  let raw := if who.level = .seal then bitOf v 4 else bitOf old 4
  let c := c.noteRws who Reg.CLM_CTRL 0x10 v
  let keep := putFld (putBit old 4 raw) 2 0 (fld v 2 0)
  let keep := putBit (putBit keep 3 (bitOf old 3 || bitOf v 3)) 5 (bitOf old 5 || bitOf v 5)
  let c := c.wr Reg.CLM_CTRL keep
  let c := if bitOf v 0 && c.clmState == 0 && c.clmUp then c.clmStart found
    else if !bitOf v 0 && bitOf old 0 && !c.clm.stopping then c.clmStop else c
  let c := c.when (bitOf v 3 && !bitOf old 3) fun c =>
    let l := c.unprogrammed
    (c.onClm fun x => { x with flush := some l }).flushCheck
  let c := c.when (bitOf v 5) fun c =>
    if c.clmState = 4 ∨ c.clmState = 5 then c.ckptStart else c.setBit Reg.CLM_CTRL 5 false
  c.when (bitOf old 2 && !bitOf v 2) Chip.pursue

/-- A write of CLM_HK_CFG: collection and wear levelling are judged by the new limits (R247, R254). -/
def Chip.hkCfgWrite (c : Chip) (v : Nat) : Chip := (c.wr Reg.CLM_HK_CFG (v % 2 ^ 31)).pursue

/-! ### Checkpoints (R256, R257) -/

/-- Program a system page in stream 6. -/
def Chip.systemPage (c : Chip) (duds : List Nat) (obj : Nat) (data : List Byte) : Option (Nat × Chip) :=
  match c.rickFor duds 6 with
  | (none, _) => none
  | (some r, c) =>
    let (seq, c) := c.takeSeq
    let (ppa, c) := c.putPage r ⟨obj, 6, 4, seq, 0, 0, data⟩
    some (ppa, c.rowEnd 6)

/-- Program a run of system pages. -/
def Chip.systemPages (c : Chip) (duds : List Nat) : List (Nat × List Byte) → Option (List Nat × Chip)
  | [] => some ([], c)
  | (o, d) :: rest =>
    match c.systemPage duds o d with
    | none => none
    | some (p, c) => (c.systemPages duds rest).map fun x => (p :: x.1, x.2)

/-- Pages of 16 KiB from addresses in DRAM; one that is refused reads as zeros, and is counted and recorded. -/
def Chip.dramPages (c : Chip) (l : List Nat) : List (List Byte) × Chip :=
  l.foldl (fun x a =>
    let (_, d, c) := x.2.dmaRead 6 false a 16384
    (x.1 ++ [d], c)) ([], c)

/-- Map segments of 4,096 entries. -/
def Chip.segments (c : Chip) : Nat := (c.nsTotal + 4095) / 4096

/-- Segments a checkpoint writes: those changed, those never written, and those whose page lies in
a block being collected or retired. -/
def Chip.segmentsDue (c : Chip) : List Nat :=
  (List.range c.segments).filter fun s =>
    c.clm.dirty.contains s ||
      (match c.clm.dir.find? fun e => e.1 == s with
       | none => true
       | some e => [6, 8].contains (c.blkState (ppaBlock e.2)))

/-- Pages of a list of bytes. -/
def inPages (bs : List Byte) : List (List Byte) :=
  (List.range ((bs.length + 16383) / 16384)).map fun i => slice bs (16384 * i) 16384

/-- Object numbers of the block table and the directory (DESIGN CHOICE, log entry 40). -/
def blkObject : Nat := 0x80000000
/-- First object number of the directory. -/
def dirObject : Nat := 0xC0000000

/-- Number a list of pages from an object number on. -/
def numbered (base : Nat) (l : List (List Byte)) : List (Nat × List Byte) :=
  l.zipIdx.map fun e => (base + e.2, e.1)

/-- Write segments, block table and directory, then the anchor record; none where a page finds no
rick, or the record no block. -/
def Chip.ckptWrite (c : Chip) (duds : List Nat) (sck : Nat) : Option Chip :=
  let segs := c.segmentsDue
  let (data, c) := c.tableSeen.dramPages (segs.map fun s => c.mapAddr (4096 * s))
  match c.systemPages duds (segs.zip data) with
  | none => none
  | some (ps, c) =>
    let dir := (c.clm.dir.filter fun e => !segs.contains e.1) ++ segs.zip ps
    let table := c.allBlocks.flatMap fun b => leBytes 16 (c.blk b 0 16)
    match c.systemPages duds (numbered blkObject (inPages table)) with
    | none => none
    | some (bs, c) =>
      let list := (List.range c.segments).flatMap fun s =>
        leBytes 4 (((dir.find? fun e => e.1 == s).map fun e => e.2).getD lostPpa)
      match c.systemPages duds (numbered dirObject (inPages list)) with
      | none => none
      | some (ds, c) =>
        (c.anchorPut sck ds bs).map fun c => c.onClm fun x => { x with
          sck := sck, dir := dir, dirty := [], opened := 0, ckptAt := c.time, ckpt := none }

/-- CHECKPOINT_COMPLETE. A victim whose system pages it did not make stale causes another (R248). A checkpoint whose
anchor record no block takes is not complete: the blocks are made ready. -/
def Chip.ckptComplete (c : Chip) (duds : List Nat) : Chip :=
  match c.clm.ckpt with
  | none => c
  | some sck =>
    if !c.clmReady then c
    else match if c.anchorPlace.isNone then none else c.ckptWrite duds sck with
    | none => c.anchorReady
    | some c =>
      let c := c.setBit Reg.CLM_CTRL 5 false
      if c.clm.stopping && c.clm.buf.isEmpty && c.clm.merge.isNone then
        let c := c.clmClear
        c.when (c.bit Reg.CLM_CTRL 0) fun c => c.clmStart []
      else (c.when (c.clm.victims.any fun v => c.holdsSystem v.block) Chip.ckptStart).rideReserve duds |>.pursue

/-- CHECKPOINT_DUE: CKPT_RICKS ricks opened, or CKPT_MIN minutes passed. -/
def Chip.ckptDue (c : Chip) : Chip :=
  let ricks := max 1 (c.fl Reg.CLM_CKPT_CFG 7 0)
  let mins := max 1 (c.fl Reg.CLM_CKPT_CFG 23 8)
  c.when (c.clmReady && c.working && (decide (ricks ≤ c.clm.opened) ||
    decide (mins * 60000000000 ≤ c.time.toNat - c.clm.ckptAt.toNat))) Chip.ckptStart

/-! ### Rebuild (R243, R258, R260) -/

/-- Pages a scan finds: those it can read, and of the others those whose row has parity. -/
def Chip.scanned (c : Chip) (above : Nat) (bad : List Nat) : List (Nat × NandPage) :=
  c.nand.pages.filter fun e => decide (above ≤ e.2.seq) && (!bad.contains e.1 ||
    c.nand.pages.any fun p => bitOf p.2.flags 4 && p.2.rick == e.2.rick && p.1 % 2 ^ 14 == e.1 % 2 ^ 14)

/-- Pages of a scan that were recovered from their rows. -/
def Chip.recovered (c : Chip) (found : List (Nat × NandPage)) (bad : List Nat) : Chip :=
  (found.filter fun e => bad.contains e.1).foldl (fun c e => c.countRebuild e.1) c

/-- Ascending SEQ; of two equal ones the copy marked RIDE first, so that the other wins. -/
def scanOrder (l : List (Nat × NandPage)) : List (Nat × NandPage) :=
  l.mergeSort fun a b => decide (a.2.seq < b.2.seq ∨ (a.2.seq = b.2.seq ∧ bitOf a.2.flags 6))

/-- Apply one scanned page: a data page sets its unit's entry, a marker clears its namespace. Pages of a namespace
below its last marker, which the anchor names too, are ignored. -/
def Chip.applyPage (c : Chip) (e : Nat × NandPage) : Chip :=
  if e.2.isUnit then c.when (decide (c.clm.marks.getD (e.2.flags % 4) 0 ≤ e.2.seq)) fun c => (c.clmPut (c.mapAddr (e.2.sector / 4)) 4 (2 ^ 31 + e.1)).onClm fun x => { x with
      dirty := if x.dirty.contains (e.2.sector / 16384) then x.dirty else x.dirty ++ [e.2.sector / 16384] }
  else if bitOf e.2.flags 5 then
    let ns := e.2.flags % 4
    ((c.dmaWrite 6 false (c.mapAddr (c.nsStart ns)) (List.replicate (4 * c.nsSize ns) 0)).2).onClm fun x => { x with
      marks := x.marks.set ns e.2.seq, dirty := (List.range c.segments) }
  else c

/-- Entries that still name an erased block, or a page of another unit, are lost (R258 step 6). -/
def Chip.dropStale (c : Chip) : Chip :=
  let c := c.clmSeen [(c.mapAddr 0, 4 * c.nsTotal)]
  (List.range c.nsTotal).foldl (fun c u =>
    match entryPage (c.mapEntry u) with
    | none => c
    | some p =>
      match c.nandGet p with
      | some pg => if pg.isUnit && pg.sector / 4 == u then c else c.unitLost u
      | none => c.unitLost u) c

/-- Recount VALID from the map. -/
def Chip.recount (c : Chip) : Chip :=
  let c := c.allBlocks.foldl (fun c b => (c.setBlk b 8 2 0).setBlk b 11 1 0) c
  (List.range c.nsTotal).foldl (fun c u => c.countValid (c.mapEntry u) true) c

/-- The highest rick number on the media for a stream. -/
def Chip.lastRick (c : Chip) (stream : Nat) : Nat :=
  ((c.nand.pages.filter fun e => e.2.stream == stream).map fun e => e.2.rick).foldl max 0

/-- No block: above every channel's. -/
def noBlock : Nat := 2 ^ 17

/-- Position after a page of a rick: a row with parity is complete, one without it goes on after its last page. -/
def Chip.posAfter (c : Chip) (num : Nat) (e : Nat × NandPage) : Nat :=
  let ch := blockChan (ppaBlock e.1)
  let row := e.1 % 2 ^ 12
  if bitOf e.2.flags 4 then (row + 1) * c.rowLen
  else row * c.rowLen + (if ch < num % 8 then ch else ch - 1) * c.nPlanes + e.1 / 2 ^ 12 % 4 + 1

/-- What a rick's pages say of it: its blocks, how far it is written, the XOR of a row not yet complete, and whether a
complete row has no parity, as after a failure in the parity block (R250). -/
def Chip.rickFromMedia (c : Chip) (num : Nat) : Rick :=
  let ps := c.nand.pages.filter fun e => e.2.rick == num
  let stream := (ps.head?.map fun e => e.2.stream).getD 0
  let block (ch : Nat) : Nat :=
    match (ps.find? fun e => blockChan (ppaBlock e.1) == ch).map fun e => ppaBlock e.1 with
    | some b => b
    | none => ((c.blocksOn ch).find? fun b =>
        (c.blkState b == 2 || c.blkState b == 5) && c.blk b 4 4 == num).getD noBlock
  let data := ps.filter fun e => !bitOf e.2.flags 4
  let pos := (ps.map (c.posAfter num)).foldl max 0
  let par (plane : Nat) : List Byte := (data.filter fun e => e.1 % 2 ^ 12 == pos / c.rowLen && e.1 / 2 ^ 12 % 4 == plane).foldl
    (fun x e => xorBytes x (padTo 16384 e.2.data)) zeroPage
  { num := num, stream := stream, blocks := (List.range 8).map block, pos := pos,
    par := (List.range c.nPlanes).map par, failed := []
    noParity := data.any fun e => decide (e.1 % 2 ^ 12 < pos / c.rowLen) &&
      !(ps.any fun p => bitOf p.2.flags 4 && p.1 % 2 ^ 14 == e.1 % 2 ^ 14) }

/-- Ricks on the media, by number. -/
def Chip.ricksOnMedia (c : Chip) : List Nat := ((c.nand.pages.map fun e => e.2.rick).eraseDups).mergeSort (· ≤ ·)

/-- State of a block after a rebuild: retired, open or parity in an open rick, an anchor block with records, free;
of the others a parity block stays one, and a VERIFIED block stays so if it holds the pages it held then. -/
def Chip.blockAfterScan (c : Chip) (ricks : List Rick) (scan : Bool) (b : Nat) : Nat :=
  let old := c.blkState b
  if old = 7 ∨ old = 8 then old
  else match ricks.find? fun r => r.blocks.contains b with
  | some r => if blockChan b = r.num % 8 then 5 else 2
  | none =>
    match (c.pagesOf b).head? with
    | none => if !(c.anchorsIn b).isEmpty then 3 else if scan || old == 0 then 0 else 1
    | some p => if bitOf p.2.flags 4 then 5 else if old = 4 ∧ c.blk b 4 4 = p.2.rick then 4 else 3

/-- Erase count and last rick of a block as its metadata give them; unknown where a scan finds none. -/
def Chip.learnBlock (c : Chip) (scan : Bool) (b : Nat) : Chip :=
  match (c.pagesOf b).head?, (c.anchorsIn b).head? with
  | some p, _ => ((c.setBlk b 0 3 p.2.ec).setBlk b 4 4 p.2.rick).setBlk b 10 1 (b2n (slcStream p.2.stream))
  | none, some a => (c.setBlk b 0 3 a.ec).setBlk b 10 1 1
  | none, none => if scan && c.blkState b == 0 then c.setBlk b 0 3 0xFFFFFF else c

/-- Ricks, their blocks' states and erase counts, and what is still to be verified, from the media; the erase counts
are those of the metadata (R258 step 7, R260). The parity block of a rick that is verified is erased (R240). -/
def Chip.restoreRicks (c : Chip) (scan : Bool) : Chip :=
  let c := c.tableSeen
  let all := c.ricksOnMedia.map c.rickFromMedia
  let isOpen (r : Rick) : Bool := r.num == c.lastRick r.stream && !r.noParity && !r.blocks.contains noBlock &&
    r.blocks.all c.blkGood && decide (r.pos < c.rowLen * c.rowsOf (slcStream r.stream)) &&
    !(r.stream == 7 && decide (c.rowsOf true < r.pos / c.rowLen + 3))
  let opened := all.filter isOpen
  let states := c.allBlocks.map fun b => (b, c.blockAfterScan opened scan b)
  let c := states.foldl (fun c e => c.setBlkState e.1 e.2) c
  let c := c.allBlocks.foldl (fun c b => c.learnBlock scan b) c
  let verify := all.filter fun r => !isOpen r && r.verified.any fun b => c.blkState b == 3
  let kept := (opened ++ verify).map fun r => r.blocks.getD (r.num % 8) 0
  c.onClm fun x => { x with
    ricks := opened, verify := verify
    erasing := c.allBlocks.filter fun b => c.blkState b == 5 && !kept.contains b
    nextRick := max x.nextRick ((all.map fun r => r.num + 1).foldl max 0) }

/-- The ARCHIVE head: the sector after the last filled slot of the unit with the highest SEQ
(R243). -/
def Chip.restoreHead (c : Chip) : Chip :=
  let mine := (List.range (c.nsSize 0)).filterMap fun i =>
    (entryPage (c.mapEntry (c.nsStart 0 + i))).bind fun p => (c.nandGet p).map fun g => (i, g)
  match mine.foldl (fun (b : Option (Nat × NandPage)) x => match b with
      | none => some x
      | some y => if y.2.seq < x.2.seq then some x else some y) none with
  | none => c.onClm fun x => { x with head := 0, slot := 0, headData := zeroPage }
  | some (i, g) =>
    let filled := (List.range 4).filter fun k => leAt g.data (4096 * k + 4080) 1 != 0
    let next := 4 * i + (match filled.getLast? with | some k => k + 1 | none => 0)
    c.onClm fun x => { x with
      head := next % (4 * c.nsSize 0), slot := 0, headData := if next / 4 = i then g.data else zeroPage }

/-- What both ways of rebuilding end with: next SEQ, head, counts, STATE 4 and a checkpoint. -/
def Chip.rebuildEnd (c : Chip) (a : Anchor) (ms : Nat) (scan : Bool) (duds : List Nat) : Chip :=
  let top := (c.nand.pages.map fun e => e.2.seq).foldl max 0
  let c := (c.restoreRicks scan).onClm fun x => { x with nextSeq := max (top + 1) a.nextSeq }
  let c := ((c.dropStale.recount.restoreHead).wr Reg.CLM_REBUILD_MS ms).ecUpdate
  let c := (c.setClmState 4).readOnlyCheck
  ((c.rideReserve duds).onClm fun x => { x with ckptAt := c.time }).ckptStart.pursue

/-- Load the map and the block table that an anchor's checkpoint names; none where a page of them
is unreadable (R258 step 2). -/
def Chip.loadCkpt (c : Chip) (a : Anchor) (bad : List Nat) : Option Chip :=
  let page (p : Nat) : Option (List Byte) := if bad.contains p then none else (c.nandGet p).map fun g => padTo 16384 g.data
  match a.dir.mapM page, a.blk.mapM page with
  | some ds, some bs =>
    let list := (List.range c.segments).map fun s => (s, leAt ds.flatten (4 * s) 4)
    match list.mapM fun (e : Nat × Nat) => if e.2 = lostPpa then some zeroPage else page e.2 with
    | none => none
    | some segs =>
      let c := (numbered 0 segs).foldl (fun c e => (c.dmaWrite 6 false (c.mapAddr (4096 * e.1)) e.2).2) c
      let c := c.allBlocks.zipIdx.foldl (fun c e => c.setBlk e.1 0 16 (leAt bs.flatten (16 * e.2) 16)) c
      let c := a.retired.foldl (fun c e => c.setBlkState e.1 e.2) c
      some (c.onClm fun x => { x with
        dir := list.filter fun e => e.2 != lostPpa, sck := a.sck, nextRick := a.nextRick, marks := a.marks, dirty := [] })
  | _, _ => none

/-- Pages that the loading of a checkpoint reads: the directory, and where that can be read the block table and the
segments. -/
def Chip.ckptPages (c : Chip) (a : Anchor) (bad : List Nat) : Nat :=
  match a.dir.mapM fun p => if bad.contains p then none else (c.nandGet p).map fun g => padTo 16384 g.data with
  | none => a.dir.length
  | some ds => a.dir.length + a.blk.length +
      ((List.range c.segments).filter fun s => leAt ds.flatten (4 * s) 4 != lostPpa).length

/-- Pages of the ricks that hold one with a SEQ above S_ck: codeword 0 of each is read (R258 step 3). -/
def Chip.pagesAfter (c : Chip) (sck : Nat) : Nat :=
  let ricks := (c.nand.pages.filter fun e => decide (sck < e.2.seq)).map fun e => e.2.rick
  (c.nand.pages.filter fun e => ricks.contains e.2.rick).length

/-- CLM_REBUILD_DONE: from the checkpoint and the pages after S_ck; where a page of the checkpoint
is unreadable the full scan begins, and is recorded. `found` are the pages that did not read clean. -/
def Chip.rebuildDone (c : Chip) (ms : Nat) (found : List PageFound) (duds : List Nat) : Chip :=
  if !c.clmUp || c.clmState != 2 then c
  else match c.clm.anchor with
  | none => c
  | some a =>
    let bad := failedPages found
    let cws := found.flatMap (·.cws)
    match c.loadCkpt a bad with
    | none => ((((c.countReads (c.ckptPages a bad) cws).setClmState 3).onClm fun x => { x with told := true })).record 0x703 []
    | some d =>
      let d := (d.countReads (c.ckptPages a bad + c.pagesAfter a.sck) cws).wr Reg.CLM_PATROL_POS a.patrol
      ((scanOrder (d.scanned (a.sck + 1) bad)).foldl Chip.applyPage (d.recovered (d.scanned (a.sck + 1) bad) bad)).rebuildEnd a ms false duds

/-- FULL_SCAN_DONE (R260): page 0 of every block but the retired ones is read, and every programmed page. -/
def Chip.scanDone (c : Chip) (ms : Nat) (found : List PageFound) (duds : List Nat) : Chip :=
  if !c.clmUp || c.clmState != 3 then c
  else match c.clm.anchor with
  | none => c
  | some a =>
    let told := c.clm.told
    let blocks := c.allBlocks.filter fun b => !(a.retired.any fun e => e.1 == b)
    let c := c.countReads ((blocks.map fun b => max 1 (c.pagesOf b).length).foldl (· + ·) 0) (found.flatMap (·.cws))
    let c := (c.dmaWrite 6 false (c.mapAddr 0) (List.replicate (4 * c.nsTotal) 0)).2
    let c := c.allBlocks.foldl (fun c b => c.setBlk b 0 16 0xFFFFFF) c
    let c := a.retired.foldl (fun c e => c.setBlkState e.1 e.2) c
    let c := (c.wr Reg.CLM_PATROL_POS a.patrol).onClm fun x => { x with
      sck := a.sck, marks := a.marks, nextRick := a.nextRick, dir := [], dirty := [], told := false }
    let pages := c.scanned 0 (failedPages found)
    let c := ((scanOrder pages).foldl Chip.applyPage (c.recovered pages (failedPages found))).rebuildEnd a ms true duds
    c.when told fun c => c.record 0x704 (leBytes 4 ms)

/-! ### Ride-through, formatting, reset (R261–R264) -/

/-- The program of a row's parity in the flush fails at a page that `fails` names: the rick has no parity from then
on, and its parity block takes no more pages (R250). -/
def Chip.rideParity (c : Chip) (fails : List Nat) (row : Nat) : Chip :=
  match c.openOf 7 with
  | none => c
  | some r =>
    let b := r.blocks.getD (r.num % 8) 0
    c.when (!r.noParity && (List.range c.nPlanes).any fun p => fails.contains (blockPpa b p row)) fun c =>
      (c.bump Reg.CLM_PROGF).setRick { r with noParity := true, failed := r.failed ++ [r.num % 8] }

/-- After a place of the flush: at the end of a row its parity. -/
def Chip.rideEnd (c : Chip) (fails : List Nat) : Chip :=
  match c.openOf 7 with
  | none => c
  | some r => (c.when (r.pos % c.rowLen == 0) fun c => c.rideParity fails (r.pos / c.rowLen - 1)).rowEnd 7

/-- Parity of a partial last row, the absent pages taken as zero; the rick closes when fewer than
three rows remain, or its parity failed. -/
def Chip.rideRow (c : Chip) (fails : List Nat) : Chip :=
  match c.openOf 7 with
  | none => c
  | some r =>
    let row := r.pos / c.rowLen
    let c := if r.pos % c.rowLen = 0 then c
      else
        let c := c.rideParity fails row
        let r := (c.openOf 7).getD r
        (c.when (!r.noParity) fun c => c.parityPages r row).setRick { r with
          pos := (row + 1) * c.rowLen, par := List.replicate c.nPlanes zeroPage }
    match c.openOf 7 with
    | none => c
    | some r => if r.noParity ∨ c.rowsOf true < r.pos / c.rowLen + 3 then c.closeRick r else c

/-- A program of the flush fails: its row ends there, and the next row follows (R261). The block that failed takes
no more pages (R250 step 1). -/
def Chip.rideFails (c : Chip) (fails : List Nat) (r : Rick) : Chip :=
  let failed := r.failed ++ [r.nextChan c.nPlanes]
  let c := c.bump Reg.CLM_PROGF
  if r.pos % c.rowLen = 0 then (c.setRick { r with failed := failed, pos := r.pos + c.rowLen }).rideRow fails
  else (c.setRick { r with failed := failed }).rideRow fails

/-- Program one unit of the write buffer in stream 7; one already under way keeps its SEQ and is
marked RIDE. Programs at the pages that `fails` names fail. -/
def Chip.rideUnit (fails duds : List Nat) (u : WbUnit) : Nat → Chip → Chip
  | 0, c => c
  | n + 1, c =>
    match c.rickFor duds 7 with
    | (none, c) => c
    | (some r, c) =>
      if r.failed.contains (r.nextChan c.nPlanes) then
        rideUnit fails duds u n ((c.setRick { r with pos := r.pos + 1 }).rideEnd fails)
      else if fails.contains (r.ppa c.nPlanes r.pos) then rideUnit fails duds u n (c.rideFails fails r)
      else
        let flags := c.nsOf u.unit + (if u.place.isSome then 64 else 0)
        let (ppa, c) := c.putPage r ⟨4 * u.unit, 7, flags, u.seq, 0, 0, u.data⟩
        ((c.setMap u.unit (2 ^ 31 + ppa)).onClm fun x => { x with
          buf := x.buf.filter (· != u) }).onClm (fun x => x.unwait u.seq) |>.rideEnd fails

/-- The ride flush (R261 steps 2 to 4): checkpoints stop, the write buffer goes to stream 7. -/
def Chip.rideFlush (c : Chip) (fails duds : List Nat) : Chip :=
  if c.clmState = 4 ∨ c.clmState = 5 then
    ((c.clm.buf.foldl (fun c u => rideUnit fails duds u (8 * (c.rowLen + 1)) c) c).rideRow fails |>.raise Reg.CLM_STATUS 11).onClm
      fun x => { x with ckpt := none }
  else c.raise Reg.CLM_STATUS 11

/-- The RIDE notice: no more batches and commands are taken, and the batches not yet acknowledged are dropped with
no ADN (R261 step 1). Of the erases only the one in progress goes on (step 2). -/
def Chip.clmRide (c : Chip) : Chip :=
  ({ c with bal := { c.bal with out := [] } }).onClm fun x => { x with
    batches := [], rideErase := c.clm.erasing.find? fun b => c.blkRefs b == 0 }

/-- A rick in which the flush met failed blocks: it closes, their pages are written again, and they are retired (R250
steps 2 to 5, once mains return). -/
def Chip.rideMend (c : Chip) (r : Rick) : Chip :=
  let blocks := (r.failed.map fun ch => r.blocks.getD ch 0).filter c.blkGood
  let c := blocks.foldl (fun c b => c.rewriteBlock b r.stream) c
  let c := c.when (c.clm.ricks.any fun y => y.num == r.num && !blocks.isEmpty) fun c => c.closeFailed r
  blocks.foldl (fun c b => c.retireBlock b 1) c

/-- The RUN notice: a checkpoint that was interrupted, and is still asked for or needed by a victim, is taken
again; collection is judged (R247, R248, R256, R261). -/
def Chip.clmResume (c : Chip) : Chip :=
  if c.clmState = 4 ∨ c.clmState = 5 then
    let c := ((c.clm.ricks ++ c.clm.verify).filter fun r => r.stream == 7).foldl Chip.rideMend c
    let c := (c.onClm fun x => { x with rideErase := none }).when (c.bit Reg.CLM_CTRL 5 || c.clm.victims.any fun v => c.holdsSystem v.block) Chip.ckptStart
    c.fillAll.stopCheck.pursue
  else c

/-- The anchor block of a channel is erased; where the erase fails, the next good block takes its place. -/
def Chip.anchorFormat (c : Chip) (duds : List Nat) (ch : Nat) : Nat → Chip
  | 0 => c
  | n + 1 =>
    match c.anchorBlock ch with
    | none => c
    | some b =>
      if duds.contains b then ((c.bump Reg.CLM_ERASEF).retireMark b 2).anchorFormat duds ch n else c.eraseNow b

/-- MEDIA_FORMAT: a write of CLM_MEDIA_CMD. -/
def Chip.mediaFormat (c : Chip) (v : Nat) (who : Who) (duds : List Nat) : Chip :=
  if who.level ≠ .seal then c.noteRws who Reg.CLM_MEDIA_CMD 3 v
  else
    let c := c.wr Reg.CLM_MEDIA_CMD (v % 4)
    let sizes := (List.range 4).map fun n => c.fl (Reg.CLM_NS_SIZE n) 27 0
    let stop (c : Chip) : Chip := c.setBit Reg.CLM_MEDIA_CMD 0 false
    if !bitOf v 0 then c
    else if !c.clmUp || !([4, 5, 6].contains c.clmState) then stop c
    else if c.clmState ≠ 6 ∧ !bitOf v 1 then stop (c.wr Reg.CLM_MEDIA_RESULT 3)
    else if 7 * c.rawPages / 8 < sizes.foldl (· + ·) 0 then stop (c.wr Reg.CLM_MEDIA_RESULT 2)
    else
      let bad := c.nand.badMarks
      let grown := if c.clmState = 6 then [] else c.allBlocks.filter fun b => c.blkState b == 8
      let c := (c.countReads (2 * c.nPlanes * c.allBlocks.length) []).onNand fun n => { n with pages := [], anchors := [] }
      let c := c.allBlocks.foldl (fun c b => (c.setBlk b 0 16 0xFFFFFF).setBlkState b
        (if bad.contains b then 7 else if grown.contains b then 8 else 0)) c
      let seq := max 1 c.clm.nextSeq
      let c := c.onClm fun x => { Clm.reset with
        batches := x.batches, cmds := x.dropWork
        fetched := x.fetched, done := x.done, accepted := x.accepted, formatted := true, sizes := sizes
        headData := zeroPage, nextSeq := seq, ckptAt := c.time }
      let c := (c.dmaWrite 6 false (c.mapAddr 0) (List.replicate (4 * c.nsTotal) 0)).2
      let c := [0, 1].foldl (fun c ch => c.anchorFormat duds ch (c.nBlocks + 1)) c
      let c := (c.anchorWrite 0 [] []).ecUpdate
      stop ((((c.setClmState 4).wr Reg.CLM_MEDIA_RESULT 1).readOnlyCheck).rideReserve duds)

/-! ### The commands -/

/-- CLM_ENABLE (R233, R258). -/
def execClmEnable (v : Word) (who : Who) (found : List PageFound) (s : State) : Host.Outcome State Fault Refusal :=
  s.onChip fun c => c.onReg Reg.CLM_CTRL who.num fun c => c.clmCtrlWrite v.toNat who found

/-- CLM_DISABLE (R256). -/
def execClmDisable (v : Word) (who : Who) (s : State) : Host.Outcome State Fault Refusal :=
  s.onChip fun c => c.onReg Reg.CLM_CTRL who.num fun c => c.clmCtrlWrite v.toNat who []

/-- CKPT_NOW (R256). -/
def execCkptNow (v : Word) (who : Who) (s : State) : Host.Outcome State Fault Refusal :=
  s.onChip fun c => c.onReg Reg.CLM_CTRL who.num fun c => c.clmCtrlWrite v.toNat who []

/-- CTRL_FLUSH (R241). -/
def execCtrlFlush (v : Word) (who : Who) (s : State) : Host.Outcome State Fault Refusal :=
  s.onChip fun c => c.onReg Reg.CLM_CTRL who.num fun c => c.clmCtrlWrite v.toNat who []

/-- ARCHIVE_BATCH (R242). -/
def execArchiveBatch (s : State) : Host.Outcome State Fault Refusal := s.onChip Chip.archiveBatch

/-- ARCHIVE_BATCH_ACCEPTED (R242, R243). -/
def execArchiveBatchAccepted (s : State) : Host.Outcome State Fault Refusal := s.onChip Chip.batchAccepted

/-- CLM_READ (R244). -/
def execClmRead (queue : Fin 3) (s : State) : Host.Outcome State Fault Refusal :=
  s.onChip fun c => c.clmTake queue (· == 1)

/-- CLM_WRITE (R245). -/
def execClmWrite (queue : Fin 3) (s : State) : Host.Outcome State Fault Refusal :=
  s.onChip fun c => c.clmTake queue (· == 2)

/-- CLM_FLUSH_COMMAND (R245). -/
def execClmFlushCommand (queue : Fin 3) (s : State) : Host.Outcome State Fault Refusal :=
  s.onChip fun c => c.clmTake queue (· == 3)

/-- NSFORMAT (R245). -/
def execNsformat (queue : Fin 3) (s : State) : Host.Outcome State Fault Refusal :=
  s.onChip fun c => c.clmTake queue (· == 4)

/-- RAWREAD (R245). -/
def execRawread (queue : Fin 3) (s : State) : Host.Outcome State Fault Refusal :=
  s.onChip fun c => c.clmTake queue (· == 5)

/-- CLM_COMMAND_COMPLETE (R245). -/
def execClmCommandComplete (s : State) : Host.Outcome State Fault Refusal := s.onChip Chip.cmdComplete

/-- PAGE_PROGRAM_DONE (R239–R241, R247). -/
def execPageProgramDone (duds : List (BitVec 17)) (s : State) : Host.Outcome State Fault Refusal :=
  s.onChip fun c => c.pageProgram (duds.map (·.toNat))

/-- RICK_VERIFIED (R240). -/
def execRickVerified (found : List PageFound) (s : State) : Host.Outcome State Fault Refusal :=
  s.onChip fun c => c.rickVerified found

/-- PAGE_READ_DONE (R234). -/
def execPageReadDone (codewords : List CwRead) (s : State) : Host.Outcome State Fault Refusal :=
  s.onChip fun c => c.pageRead codewords

/-- PROGRAM_FAILURE (R250). -/
def execProgramFailure (parity sys : Bool) (duds : List (BitVec 17)) (s : State) : Host.Outcome State Fault Refusal :=
  s.onChip fun c => c.programFailure parity sys (duds.map (·.toNat))

/-- BLOCK_ERASE_DONE (R249, R251). -/
def execBlockEraseDone (failed : Bool) (s : State) : Host.Outcome State Fault Refusal :=
  s.onChip fun c => c.eraseDone failed

/-- PATROL_READ (R255). -/
def execPatrolRead (found : List PageFound) (duds : List (BitVec 17)) (s : State) : Host.Outcome State Fault Refusal :=
  s.onChip fun c => c.patrolRead found (duds.map (·.toNat))

/-- CHECKPOINT_DUE (R256). -/
def execCheckpointDue (s : State) : Host.Outcome State Fault Refusal := s.onChip Chip.ckptDue

/-- CHECKPOINT_COMPLETE (R256, R257). -/
def execCheckpointComplete (duds : List (BitVec 17)) (s : State) : Host.Outcome State Fault Refusal :=
  s.onChip fun c => c.ckptComplete (duds.map (·.toNat))

/-- CLM_REBUILD_DONE (R258). -/
def execClmRebuildDone (ms : Word) (found : List PageFound) (duds : List (BitVec 17)) (s : State) :
    Host.Outcome State Fault Refusal :=
  s.onChip fun c => c.rebuildDone ms.toNat found (duds.map (·.toNat))

/-- FULL_SCAN_DONE (R260). -/
def execFullScanDone (ms : Word) (found : List PageFound) (duds : List (BitVec 17)) (s : State) :
    Host.Outcome State Fault Refusal :=
  s.onChip fun c => c.scanDone ms.toNat found (duds.map (·.toNat))

/-- MEDIA_FORMAT (R262). -/
def execMediaFormat (v : Word) (who : Who) (duds : List (BitVec 17)) (s : State) : Host.Outcome State Fault Refusal :=
  s.onChip fun c => c.onReg Reg.CLM_MEDIA_CMD who.num fun c => c.mediaFormat v.toNat who (duds.map (·.toNat))

end Sys2Proof.Machine
end

