-- ==== Sys2Proof/Machine/Backbone.lean ====
section
/-!
DEFINITION. The Ethernet ports of the backbone: receive classification, queues to and from
software, PTP insertion, relayed blocks and their ingest (10_time_and_backbone.md R307–R316, R325,
R326, R334).
-/
namespace Sys2Proof.Machine

/-- Change the backbone's own state. -/
def Chip.onBkb (c : Chip) (f : Bkb → Bkb) : Chip := { c with bkb := f c.bkb }

/-- A port. -/
def Chip.port (c : Chip) (p : Nat) : EthPort := Tab.get (fun _ => EthPort.initial) c.bkb.ports p

/-- Change a port. -/
def Chip.onPort (c : Chip) (p : Nat) (f : EthPort → EthPort) : Chip :=
  c.onBkb fun b => { b with ports := Tab.put (fun _ => EthPort.initial) b.ports p (f (c.port p)) }

/-- MODE of a port. -/
def Chip.portMode (c : Chip) (p : Nat) : Nat := c.fl (Reg.BKB_PORT_CFG p) 30 29

/-- Whether a port runs: enabled with a mode, its ETH clock running, the backbone enabled, and no
RIDE past step 3 (R307). -/
def Chip.portUp (c : Chip) (p : Nat) : Bool :=
  c.bit (Reg.BKB_PORT_CFG p) 31 && c.portMode p != 0 && c.bit Reg.BKB_CTRL 0 && !c.gated 1 &&
    domainRuns c.crp.power 9 && !c.muxOff (4 + p) && !c.crp.downs.contains (20 + p)

/-- LINK of a port (R307). -/
def Chip.link (c : Chip) (p : Nat) : Bool := c.bit (Reg.BKB_PORT_CFG p) 31 && c.portMode p != 0 && (c.port p).sync

/-- MAXLEN of a port: 64–9,216, values outside acting as the nearest limit. -/
def Chip.maxLen (c : Chip) (p : Nat) : Nat := clamp 64 9216 (c.fl (Reg.BKB_PORT_CFG p) 13 0)

/-! ### Ethernet headers -/

/-- Big-endian value of `n` bytes at `off`. -/
def beAt (b : List Byte) (off n : Nat) : Nat := beVal (slice b off n)

/-- Ethertype after at most one VLAN tag, and where the payload begins. -/
def etherType (f : List Byte) : Nat × Nat :=
  if beAt f 12 2 = 0x8100 then (beAt f 16 2, 18) else (beAt f 12 2, 14)

/-- Where the UDP header of a frame begins, and whether it goes over IPv6 (R309). -/
def udpAt (f : List Byte) : Option (Nat × Bool) :=
  let (et, o) := etherType f
  let at4 := o + 4 * (leAt f o 1 % 16)
  if et = 0x0800 ∧ leAt f o 1 / 16 = 4 ∧ leAt f (o + 9) 1 = 17 ∧ beAt f (o + 6) 2 % 0x4000 = 0 ∧ at4 + 8 ≤ f.length then
    some (at4, false)
  else if et = 0x86DD ∧ leAt f (o + 6) 1 = 17 ∧ o + 48 ≤ f.length then some (o + 40, true)
  else none

/-- Whether a frame is an event or general message of PTP (Table 2, order 3). -/
def isPtp (f : List Byte) : Bool :=
  (etherType f).1 == 0x88F7 ||
    match udpAt f with
    | some (u, _) => beAt f (u + 2) 2 == 319 || beAt f (u + 2) 2 == 320
    | none => false

/-- Whether a port takes frames to a destination (Table 2, order 2). -/
def Chip.macAccepts (c : Chip) (p : Nat) (da : List Byte) : Bool :=
  let own := leBytes 4 (c.rd (Reg.BKB_MAC_LO p)) ++ leBytes 2 (c.rd (Reg.BKB_MAC_HI p))
  let m := c.rd (Reg.BKB_MCAST p)
  da == own || da == List.replicate 6 0xFF ||
    (bitOf m 0 && da == [0x01, 0x1B, 0x19, 0, 0, 0]) || (bitOf m 1 && da == [0x01, 0x80, 0xC2, 0, 0, 0x0E]) ||
    (bitOf m 2 && bitOf (leAt da 0 1) 0)

/-- Whether a frame is a PAUSE frame (IEEE 802.3 Annex 31B). -/
def isPause (f : List Byte) : Bool := beAt f 12 2 == 0x8808 && beAt f 14 2 == 1

/-- Duration of a number of PAUSE quanta of 512 bit times, ns, at the port's rate. -/
def Chip.quantaNs (c : Chip) (p q : Nat) : Nat :=
  match c.portMode p with
  | 1 => q * 512 / 10
  | 3 => q * [51200, 5120, 512].getD (c.port p).speed 512
  | _ => q * 512

/-! ### Time stamps (R325) -/

/-- Network time with its fraction, 2^-32 ns. -/
def Chip.timeFine (c : Chip) : Nat := c.tim.now.toNat * 2 ^ 32 + c.tim.frac.toNat

/-- Slew added in a cycle, 2^-32 ns: INC × SLEW_PPM × 10^-6. -/
def Chip.slewStep (c : Chip) : Nat := c.tim.inc * clamp 1 500 (c.fl Reg.BKB_TIM_CTRL 24 16) / 1000000

/-- Internal latencies of a port between the serial balls and the reference plane, 0.1 ns: receive, transmit
(Table 8). -/
def Chip.latencies (c : Chip) (p : Nat) : Nat × Nat :=
  match c.portMode p, (c.port p).speed with
  | 1, _ => (614, 422)
  | 3, 0 => (33616, 32880)
  | 3, 1 => (4816, 4080)
  | _, _ => (1936, 1200)

/-- Network time at an instant `phase` / 2^16 of the way from this TIM cycle to the next, moved by a number of
0.1 ns, truncated to 1/256 ns: nanoseconds and fraction. -/
def Chip.stampAt (c : Chip) (phase : BitVec 16) (moved : Int) : BitVec 64 × Byte :=
  let most : Int := (c.slewStep : Nat)
  let slew := if c.tim.slewing then clampI (-most) most c.tim.slewRem else 0
  let fine : Int := ((c.timeFine : Nat) : Int) + ((c.tim.inc : Nat) + slew) * (phase.toNat : Int) / 65536
  let v := (10 * fine + moved * ((2 ^ 32 : Nat) : Int)) / ((10 * 2 ^ 24 : Nat) : Int)
  (BitVec.ofInt 64 (v / 256), BitVec.ofInt 8 v)

/-- Stamp of a frame that begins to arrive: the receive latency and BKB_LATp.RX are taken off. -/
def Chip.rxStamp (c : Chip) (p : Nat) (phase : BitVec 16) : BitVec 64 × Byte :=
  c.stampAt phase (-((c.latencies p).1 + 10 * c.fl (Reg.BKB_LAT p) 15 0 : Nat))

/-- Stamp of a frame that leaves: the transmit latency and BKB_LATp.TX are added. -/
def Chip.txStamp (c : Chip) (p : Nat) (phase : BitVec 16) : BitVec 64 × Byte :=
  c.stampAt phase ((c.latencies p).2 + 10 * c.fl (Reg.BKB_LAT p) 31 16 : Nat)

/-! ### Receive queues (R310) -/

/-- Slots of a receive queue. -/
def Chip.rxqSize (c : Chip) (q : Nat) : Nat := 2 ^ (min 7 (c.fl (Reg.BKB_RXQ_CFG q) 3 0) + 4)

/-- Whether the servo judges the time as in service. -/
def Chip.timeLocked (c : Chip) : Bool := c.fl Reg.BKB_TIM_CTRL 1 0 == 1

/-- Write a frame and its record to a receive queue, or count it as dropped. -/
def Chip.rxDeliver (c : Chip) (q cls p : Nat) (f : List Byte) (stamp : BitVec 64 × Byte) (locked : Bool) : Chip :=
  let n := c.rxqSize q
  let slot := if c.bit (Reg.BKB_RXQ_CFG q) 4 then 16384 else 2048
  let pi := c.rd (Reg.BKB_RXQ_PI q) % n
  let drop (c : Chip) : Chip := c.bump (Reg.BKB_RX_DROP q)
  if !c.bit (Reg.BKB_RXQ_CFG q) 31 || (pi + 1) % n == c.rd (Reg.BKB_RXQ_CI q) % n || decide (slot < 32 + f.length) then drop c
  else
    let a := c.fl (Reg.BKB_RXQ_BASE_LO q) 31 12 * 4096 + c.fl (Reg.BKB_RXQ_BASE_HI q) 15 0 * 2 ^ 32 + slot * pi
    let record := leBytes 8 stamp.1.toNat ++ leBytes 2 f.length ++ leBytes 1 (p + 2 * cls + 8 * b2n locked) ++ [stamp.2] ++
      List.replicate 20 0
    match c.dmaWrite 10 false a (record ++ f) with
    | (.ok, c) => c.wr (Reg.BKB_RXQ_PI q) ((pi + 1) % n)
    | (_, c) => drop c

/-- ETH_FRAME_RECEIVED: a frame without its FCS, whether the FCS was good, and where in the TIM cycle its time stamp
point crossed the serial balls (R309, Table 2). -/
def Chip.ethReceived (c : Chip) (p : Nat) (f : List Byte) (good : Bool) (phase : BitVec 16) : Chip :=
  let stamp := c.rxStamp p phase
  if !c.portUp p then c
  else if !good || decide (f.length + 4 < 64) then c.bump (Reg.BKB_RX_FCS p)
  else if c.maxLen p < f.length + 4 then c.bump (Reg.BKB_RX_LONG p)
  else if isPause f then
    c.when (c.bit (Reg.BKB_PORT_CFG p) 27) fun c =>
      c.onPort p fun x => { x with pauseUntil := BitVec.ofNat 64 (c.time.toNat + c.quantaNs p (beAt f 16 2)) }
  else if !c.macAccepts p (slice f 0 6) then c
  else if isPtp f then c.rxDeliver 0 0 p f stamp c.timeLocked
  else
    let (et, o) := etherType f
    if et = c.fl Reg.BKB_ETYPE 15 0 then
      c.onBkb fun b => { b with arrived := b.arrived ++ [⟨p, f, f.drop o, stamp.1, stamp.2, c.timeLocked⟩] }
    else if et = c.fl Reg.BKB_ETYPE 31 16 then c.rxDeliver 2 2 p f stamp c.timeLocked
    else c.rxDeliver 1 1 p f stamp c.timeLocked

/-! ### Relayed blocks (R312–R316) -/

/-- Whether `n` entries of a block lie below `stop`, the first at `off`, with legal lengths. -/
def entriesGood (b : List Byte) (stop : Nat) : Nat → Nat → Bool
  | 0, _ => true
  | n + 1, off =>
    let len := leAt b (off + 12) 2
    decide (off + 16 ≤ stop) && decide (1 ≤ len) && decide (len ≤ 2045) &&
      decide (off + 16 + (len + 3) / 4 * 4 ≤ stop) && entriesGood b stop n (off + 16 + (len + 3) / 4 * 4)

/-- The checks of R313. -/
def blockGood (b : List Byte) : Bool :=
  let blen := leAt b 12 4
  leAt b 0 1 == 1 && decide (28 ≤ blen) && decide (blen ≤ b.length) && leAt b 2 2 != 0 &&
    crc32 (b.take (blen - 4)) == leAt b (blen - 4) 4 && entriesGood b (blen - 4) (leAt b 2 2) 24

/-- Bytes of the ingest buffer. -/
def ingestSize : Nat := 524288

/-- Bytes in use in the ingest buffer. -/
def Chip.ingestFill (c : Chip) : Nat := (c.bkb.ingest.map fun x => x.data.length).foldl (· + ·) 0

/-- A PAUSE frame with a number of quanta, padded to 60 bytes. -/
def Chip.pauseFrame (c : Chip) (p quanta : Nat) : List Byte :=
  padTo 60 ([0x01, 0x80, 0xC2, 0, 0, 0x01] ++ leBytes 4 (c.rd (Reg.BKB_MAC_LO p)) ++ leBytes 2 (c.rd (Reg.BKB_MAC_HI p)) ++
    [0x88, 0x08, 0, 1] ++ beBytes 2 quanta)

/-- Each port with PAUSE_TX sends PAUSE. -/
def Chip.sendPause (c : Chip) (quanta : Nat) : Chip :=
  [0, 1].foldl (fun c p =>
    c.when (c.portUp p && c.bit (Reg.BKB_PORT_CFG p) 26) fun c =>
      (c.onPort p fun x => { x with sent := c.pauseFrame p quanta :: x.sent }).bump (Reg.BKB_PAUSE_TX p)) c

/-- INGEST_HI is set at three quarters full and cleared below half, with the PAUSE of each. -/
def Chip.ingestLevel (c : Chip) : Chip :=
  let fill := c.ingestFill
  if ingestSize * 3 / 4 ≤ fill ∧ !c.bit Reg.BKB_STATUS 4 then (c.setBit Reg.BKB_STATUS 4 true).sendPause 0xFFFF
  else if fill < ingestSize / 2 ∧ c.bit Reg.BKB_STATUS 4 then (c.setBit Reg.BKB_STATUS 4 false).sendPause 0
  else c

/-- BLOCK_INGEST: the block that arrived first is checked, forwarded, dropped or accepted. -/
def Chip.blockIngest (c : Chip) : Chip :=
  match c.bkb.arrived with
  | [] => c
  | x :: rest =>
    let c := c.onBkb fun b => { b with arrived := rest }
    let b := x.block
    let s := leAt b 4 2 % 4096
    let bseq := leAt b 8 4
    let d := (bseq + 2 ^ 32 - c.rd (Reg.BKB_BLK_LAST s)) % 2 ^ 32
    let known := c.bit (Reg.BKB_BLK_LAST s + 4) 0
    if !blockGood b then c.bump Reg.BKB_BLK_BAD
    else if leAt b 6 2 % 4096 ≠ c.fl Reg.BKB_NODE 11 0 then
      (c.bump Reg.BKB_BLK_FWD).rxDeliver 1 3 x.port x.frame (x.ts, x.sub) x.locked
    else if ingestSize < c.ingestFill + leAt b 12 4 then c.bump Reg.BKB_INGEST_DROP
    else if known && (d == 0 || decide (2 ^ 31 ≤ d)) then c.bump Reg.BKB_BLK_DUP
    else
      let c := (c.bump Reg.BKB_BLK_OK).when known fun c => c.bumpBy Reg.BKB_BLK_GAP (d - 1)
      let c := (c.wr (Reg.BKB_BLK_LAST s) bseq).wr (Reg.BKB_BLK_LAST s + 4) 1
      (c.onBkb fun k => { k with
        ingest := k.ingest ++ [⟨b.take (leAt b 12 4), x.ts, 24, 0⟩] }).ingestLevel

/-- The frame-arrived operand of an entry (R315). -/
def Chip.relayOperand (c : Chip) (smn slot idx : Nat) : AllocOp :=
  let src := c.rd (Reg.FLO_SRC_CFG 3)
  { cls := BitVec.ofNat 6 src, src := 3, hvalid := true, fmtv := bitOf src 16, cordv := false, kind := 1,
    smn := BitVec.ofNat 32 smn, cord := 0, buf := BitVec.ofNat 11 slot, fmt := BitVec.ofNat 8 (fld src 15 8),
    arg := BitVec.ofNat 16 (idx % 256) }

/-- Store one entry addressed to this node: record and bytes in a run of slots, then the operand;
none while it must wait (R315, R316). -/
def Chip.entryStore (c : Chip) (x : IngestBlock) : Option Chip :=
  let smn := leAt x.data x.off 4
  let len := leAt x.data (x.off + 12) 2
  let n := if len ≤ 960 then 1 else (64 + len + 1023) / 1024
  if !c.portGated 5 && !c.allocRoom 3 then none
  else match c.poolFind .bkb n with
  | none => none
  | some slot =>
    let record := slice x.data (x.off + 4) 8 ++ leBytes 2 len ++ leBytes 1 (leAt x.data (x.off + 14) 1 % 4 + 128) ++
      leBytes 1 n ++ leBytes 2 (leAt x.data 4 2 % 4096) ++ [0, 0] ++ slice x.data 8 4 ++ leBytes 8 x.rxts.toNat ++
      List.replicate 36 0
    match c.dmaWrite 10 false (slotAddr slot) (record ++ slice x.data (x.off + 16) len) with
    | (.ok, c) =>
      let c := c.poolTake .bkb slot n
      some (if c.portGated 5 then c.postLost 10 else c.allocPost (c.relayOperand smn slot x.idx))
    | (_, c) => some (c.bump Reg.BKB_BLK_ENTLOST)

/-- Go past the entry just unpacked; after the last the block leaves the buffer. -/
def Chip.entryPast (c : Chip) (x : IngestBlock) (rest : List IngestBlock) : Chip :=
  let len := leAt x.data (x.off + 12) 2
  let y := { x with off := x.off + 16 + (len + 3) / 4 * 4, idx := x.idx + 1 }
  if y.idx < leAt x.data 2 2 then c.onBkb fun b => { b with ingest := y :: rest }
  else (c.onBkb fun b => { b with ingest := rest }).ingestLevel

/-- BLOCK_ENTRY_UNPACK. -/
def Chip.entryUnpack (c : Chip) : Chip :=
  match c.bkb.ingest with
  | [] => c
  | x :: rest =>
    if c.gated 1 || c.bit Reg.BKB_CTRL 1 then c
    else if leAt x.data x.off 4 / 2 ^ 20 ≠ c.fl Reg.BKB_NODE 11 0 then (c.bump Reg.BKB_BLK_FOREIGN).entryPast x rest
    else match c.entryStore x with
    | none => c
    | some c => c.entryPast x rest

/-! ### Transmission (R311, R325, R326) -/

/-- Entries of a transmit queue. -/
def Chip.txqSize (c : Chip) (p q : Nat) : Nat := ringSize (c.fl (Reg.BKB_TXQ_CFG p q) 3 0)

/-- Whether a transmit queue is enabled and has an entry. -/
def Chip.txqHas (c : Chip) (p q : Nat) : Bool :=
  c.bit (Reg.BKB_TXQ_CFG p q) 31 && c.rd (Reg.BKB_TXQ_CI p q) != c.fl (Reg.BKB_TXQ_PI p q) 9 0 % c.txqSize p q

/-- Address of the head entry of a queue. -/
def Chip.txqHead (c : Chip) (p q : Nat) : Nat :=
  c.fl (Reg.BKB_TXQ_BASE_LO p q) 31 5 * 32 + c.fl (Reg.BKB_TXQ_BASE_HI p q) 15 0 * 2 ^ 32 + 32 * c.rd (Reg.BKB_TXQ_CI p q)

/-- Whether a queue is gated. -/
def Chip.txqGated (c : Chip) (p q : Nat) : Bool := c.bit (Reg.BKB_TXQ_CFG p q) 9

/-- The queue a port serves next, and whether its head is a released gated frame that was
delayed: released frames first, then ungated heads, queue 0 highest. -/
def Chip.txNext (c : Chip) (p : Nat) : Option (Nat × Bool) :=
  match (List.range 4).filterMap fun q =>
      if c.txqHas p q && c.txqGated p q then ((c.port p).released.find? fun r => r.1 == q) else none with
  | r :: _ => some r
  | [] => ((List.range 4).find? fun q => c.txqHas p q && !c.txqGated p q).map fun q => (q, false)

/-- The head of a queue completes: STATUS, and TXTS where a stamp was taken; CI advances. -/
def Chip.ethFinish (c : Chip) (p q status : Nat) (stamp : Option (BitVec 64 × Byte)) : Chip :=
  let a := c.txqHead p q
  let c := match stamp with
    | some (t, s) => ((c.dmaWrite 10 false (a + 24) (leBytes 8 t.toNat)).2.dmaWrite 10 false (a + 21) [s]).2
    | none => c
  let c := (c.dmaWrite 10 false (a + 20) (leBytes 1 status)).2
  (c.wr (Reg.BKB_TXQ_CI p q) ((c.rd (Reg.BKB_TXQ_CI p q) + 1) % c.txqSize p q)).onPort p fun x =>
    { x with released := x.released.filter fun r => r.1 != q }

/-- The 16-bit words of a byte list, the last padded with 0. -/
def words16 (b : List Byte) : List Nat := (List.range ((b.length + 1) / 2)).map fun i => beAt b (2 * i) 2

/-- One's complement addition of 16-bit words. -/
def add16 (a b : Nat) : Nat := let s := a + b; if 0xFFFF < s then s - 0xFFFF else s

/-- A checksum brought up to date for the words that differ (RFC 1624, equation 3); a result of 0
is sent as 0xFFFF. -/
def checksumUpdate (hc : Nat) (old new : List Nat) : Nat :=
  let s := (old.zip new).foldl (fun s w => if w.1 = w.2 then s else add16 (add16 s (0xFFFF - w.1)) w.2) (0xFFFF - hc)
  if s = 0xFFFF then 0xFFFF else 0xFFFF - s

/-- A frame changed after its UDP checksum was formed, the checksum brought up to date. -/
def fixUdp (old new : List Byte) : List Byte :=
  match udpAt old with
  | none => new
  | some (u, v6) =>
    let hc := beAt old (u + 6) 2
    if hc = 0 ∧ !v6 then new
    else splice new (u + 6) (beBytes 2 (checksumUpdate hc (words16 (old.drop u)) (words16 (new.drop u))))

/-- Whether one-step insertion applies to a frame (R326). -/
def oneStepGood (f : List Byte) (ofs : Nat) : Bool :=
  let t := leAt f ofs 1 % 16
  decide (ofs + 44 ≤ f.length) && (t == 0 || t == 3) && !bitOf (leAt f (ofs + 6) 1) 1

/-- The frame with the egress stamp inserted (R326). -/
def oneStep (f : List Byte) (ofs : Nat) (ts : BitVec 64) (sub : Byte) (req : Nat) : List Byte :=
  let corr := beAt f (ofs + 8) 8
  let add (n : Int) : List Byte := beBytes 8 ((((corr : Nat) : Int) + n) % 2 ^ 64).toNat
  let new :=
    if leAt f ofs 1 % 16 = 0 then
      splice (splice f (ofs + 34) (beBytes 6 (ts.toNat / 1000000000) ++ beBytes 4 (ts.toNat % 1000000000))) (ofs + 8)
        (add (256 * sub.toNat : Nat))
    else splice f (ofs + 8) (add ((((ts.toNat : Nat) : Int) - ((req : Nat) : Int)) * 65536 + ((256 * sub.toNat : Nat) : Int)))
  fixUdp f new

/-- Whether an entry is valid for its port (Table 4, R326). -/
def Chip.txValid (c : Chip) (p : Nat) (e f : List Byte) : Bool :=
  let len := leAt e 6 2
  decide (60 ≤ len) && decide (len ≤ c.maxLen p - 4) && decide (leAt e 8 1 < 4) &&
    (!bitOf (leAt e 8 1) 1 || oneStepGood f (leAt e 10 2))

/-- ETH_TRANSMIT_START: the port's next frame starts; `phase` is where in the TIM cycle its time stamp point leaves the
serial balls. An invalid entry, or with the outputs gated any of queues
1–3 (15 R447), completes untransmitted. -/
def Chip.ethStart (c : Chip) (p : Nat) (phase : BitVec 16) : Chip :=
  if !c.portUp p || (c.port p).tx.isSome || decide (c.time.toNat < (c.port p).pauseUntil.toNat) then c
  else match c.txNext p with
  | none => c
  | some (q, late) =>
    if c.outputsGated && q != 0 then c.ethFinish p q 4 none
    else
      let (how, e, c) := c.dmaRead 10 false (c.txqHead p q) 32
      let (how2, f, c) := if how = .ok then c.dmaRead 10 false (leAt e 0 6) (leAt e 6 2 % 2 ^ 14) else (how, [], c)
      if how2 ≠ .ok ∨ !c.txValid p e f then c.ethFinish p q 3 none
      else
        let (t, sub) := c.txStamp p phase
        let f := if bitOf (leAt e 8 1) 1 then oneStep f (leAt e 10 2) t sub (leAt e 12 8) else f
        c.onPort p fun x => { x with tx := some ⟨q, e, f, late, t, sub⟩ }

/-- ETH_TRANSMIT_DONE. -/
def Chip.ethDone (c : Chip) (p : Nat) : Chip :=
  match (c.port p).tx with
  | none => c
  | some t =>
    let c := (c.onPort p fun x => { x with tx := none, sent := t.frame :: x.sent }).bump (Reg.BKB_TX_OK p)
    let c := c.when t.late fun c => c.bump (Reg.BKB_TX_LATE p)
    c.ethFinish p t.queue (if t.late then 2 else 1) (if leAt t.entry 8 1 % 4 = 0 then none else some (t.ts, t.sub))

/-- Disabling a port aborts the frame on its wire (Table 4). -/
def Chip.ethAbort (c : Chip) (p : Nat) : Chip :=
  match (c.port p).tx with
  | none => c
  | some t => (c.onPort p fun x => { x with tx := none }).ethFinish p t.queue 4 none

/-- A write of BKB_PORT_CFGp: MODE and MAXLEN keep while ENABLE is 1 (R307, 00 R491). -/
def Chip.portCfgWrite (c : Chip) (p v : Nat) : Chip :=
  let r := Reg.BKB_PORT_CFG p
  let old := c.rd r
  let v := putFld v 25 14 0
  let keep := putFld (putFld v 30 29 (fld old 30 29)) 13 0 (fld old 13 0)
  let c := if bitOf old 31 then (c.wr r keep).when (keep != v) fun c => c.cfgErr 1 else c.wr r v
  c.when (bitOf old 31 && !bitOf v 31) fun c => c.ethAbort p

/-- ETH_LINK_CHANGE. -/
def Chip.linkChange (c : Chip) (p : Nat) (sync : Bool) (speed : Nat) : Chip :=
  c.onPort p fun x => { x with sync := sync, speed := speed }

/-! ### The commands -/

/-- ETH_FRAME_RECEIVED (R309). -/
def execEthFrameReceived (port : Fin 2) (frame : List Byte) (fcsGood : Bool) (phase : BitVec 16)
    (s : State) : Host.Outcome State Fault Refusal :=
  s.onChip fun c => c.ethReceived port frame fcsGood phase

/-- BLOCK_INGEST (R313, R314). -/
def execBlockIngest (s : State) : Host.Outcome State Fault Refusal := s.onChip Chip.blockIngest

/-- BLOCK_ENTRY_UNPACK (R315). -/
def execBlockEntryUnpack (s : State) : Host.Outcome State Fault Refusal := s.onChip Chip.entryUnpack

/-- PAUSE_REPEAT (R316). -/
def execPauseRepeat (s : State) : Host.Outcome State Fault Refusal :=
  s.onChip fun c => c.when (c.bit Reg.BKB_STATUS 4) fun c => c.sendPause 0xFFFF

/-- ETH_TRANSMIT_START (R311). -/
def execEthTransmitStart (port : Fin 2) (phase : BitVec 16) (s : State) :
    Host.Outcome State Fault Refusal :=
  s.onChip fun c => c.ethStart port phase

/-- ETH_TRANSMIT_DONE (R311). -/
def execEthTransmitDone (port : Fin 2) (s : State) : Host.Outcome State Fault Refusal :=
  s.onChip fun c => c.ethDone port

/-- ETH_LINK_CHANGE (R307). -/
def execEthLinkChange (port : Fin 2) (sync : Bool) (speed : Fin 3) (s : State) :
    Host.Outcome State Fault Refusal :=
  s.onChip fun c => c.linkChange port sync speed

end Sys2Proof.Machine
end

