-- ==== Sys2Proof/Machine/Guard.lean ====
section
/-!
DEFINITION. The Guard: life-cycle commands, key derivation from the root secret, the access plan,
the tamper sources and the debug gate (12_guard.md R362–R388).
-/
namespace Sys2Proof.Machine

/-- Write the state in force into the four copies (R363). -/
def LifeCycle.commit (l : LifeCycle) : LifeCycle :=
  { l with copies := List.replicate 4 ⟨l.state, l.tripped, l.rootKilled, true⟩ }

/-- How far a state stands on the way of R362. -/
def LcState.rank : LcState → Nat
  | .blank => 0
  | .personalised => 1
  | .sealed => 2
  | .retired => 3

/-- A blank device that kindling has not completed: it does not leave RUN by command before (R387). -/
def Chip.unkindled (c : Chip) (l : LifeCycle) : Bool := l.state == .blank && !c.grd.kindled

/-- Whether VDD_CORE is down: DORMANT and OFF. -/
def Chip.coreOff (c : Chip) : Bool := c.crp.power == .dormant || c.crp.power == .off

/-! ### Key derivation (R368–R371) -/

/-- Whether the key slot, or the second slot of a pair, has LOCK. -/
def Chip.kdfLocked (c : Chip) (slot alg : Nat) : Bool :=
  attrLock (c.attr slot) || (alg == 9 && attrLock (c.attr (slot + 1)))

/-- Whether the power state allows a derivation: RUN, TRIM and HOLD (Table 10). -/
def Chip.kdfPower (c : Chip) : Bool := c.crp.power == .run || c.crp.power == .trim || c.crp.power == .hold

/-- The RESULT with which a derivation is refused, in the order 6, 2, 3, 4, 5; 1 when it is not
(Table 3). One that the power state refuses has RESULT 6, as one that its entry aborts (DEDUCED, log entry 95). -/
def Chip.kdfResult (c : Chip) (slot alg : Nat) : Nat :=
  if c.tamperLine || !c.bit Reg.CIU_CTRL 0 || !c.kdfPower then 6
  else if 8192 ≤ slot then 2
  else if alg = 0 ∨ alg = 10 ∨ 12 ≤ alg ∨ (alg = 9 ∧ slot % 2 = 1) then 3
  else if c.grd.root.isNone then 4
  else if c.kdfLocked slot alg then 5
  else 1

/-- The context words as bytes. -/
def Chip.kdfCtx (c : Chip) : List Byte :=
  (List.range 8).flatMap fun k => leBytes 4 (c.rd (Reg.GRD_KDF_CTX k))

/-- KEY_DERIVATION: a write of GRD_KDF_CMD (R368, R371). While a derivation runs its other fields take the write, and a
GO is not taken. -/
def Chip.kdfCmd (c : Chip) (v : Nat) (who : Who) : Chip :=
  if who.level ≠ .seal then c.noteRws who Reg.GRD_KDF_CMD 0x80017FFF v
  else if c.grd.kdf.isSome then
    (c.wr Reg.GRD_KDF_CMD (2 ^ 31 + v % 2 ^ 15 + 2 ^ 16 * fld v 16 16)).when (bitOf v 31) fun c =>
      c.setFl Reg.GRD_KDF_STATUS 2 0 7
  else
    let c := c.wr Reg.GRD_KDF_CMD (v % 2 ^ 15 + 2 ^ 16 * fld v 16 16)
    if !bitOf v 31 then c
    else
      let slot := v % 2 ^ 15
      let attr := c.rdW Reg.GRD_KDF_ATTR
      match c.kdfResult slot (attrAlg attr.toNat) with
      | 1 =>
        let c := (upFrom 0 24).foldl (fun c k => c.wr (Reg.GRD_KDF_PUB k) 0) c
        let c := (c.setBit Reg.GRD_KDF_CMD 31 true).wr Reg.GRD_KDF_STATUS 0x100
        c.onGrd fun g => { g with kdf := some ⟨slot, attr, c.kdfCtx, bitOf v 16, c.ciu.accepted⟩ }
      | r => c.wr Reg.GRD_KDF_STATUS r

/-- The first valid output of the construction, its counter starting at `i` and going on over
`tries` outputs (R369). -/
def kdfOut (root fixed : List Byte) (alg len : Nat) : Nat → Nat → List Byte
  | 0, _ => []
  | tries + 1, i =>
    let blocks := (len + 31) / 32
    let out := ((upFrom i blocks).flatMap fun j => hmac256 root (beBytes 4 j ++ fixed)).take len
    if (alg ≠ 8 ∧ alg ≠ 9) ∨ scalarValid alg (beVal out) || tries = 0 then out
    else kdfOut root fixed alg len tries (i + blocks)

/-- The 48 or 32 bytes of each coordinate of the public point of a scalar, X then Y (R370). -/
def pubBytes (alg d : Nat) : List Byte :=
  let cv := if alg = 9 then curve384 else curve256
  let q := (cv.mul 384 d cv.gen).getD (0, 0)
  beBytes cv.bytes q.1 ++ beBytes cv.bytes q.2

/-- Attributes of a derived key: ORIGIN 2, PARENT 0, SESSION 0, VALID 1 (R370). -/
def kdfAttr (a : Nat) : Nat := putBit (attrOf a 2 0) 31 true

/-- KEY_DERIVATION_DONE: the key is placed, once no request accepted before the GO names its slot
(R149, R370). A CIU disabled meanwhile ends it with RESULT 6, a slot locked meanwhile with RESULT 5
(log entry 95). -/
def Chip.kdfDone (c : Chip) : Chip :=
  match c.grd.kdf, c.grd.root with
  | none, _ => c
  | some _, none => c.kdfEnd 4
  | some k, some root =>
    if c.ciu.inflight.any fun r => decide (r.order < k.since) && c.names r (c.touched k.slot (attrAlg k.attr.toNat)) then c
    else if !c.bit Reg.CIU_CTRL 0 then c.kdfEnd 6
    else if c.kdfLocked k.slot (attrAlg k.attr.toNat) then c.kdfEnd 5
    else
      let alg := attrAlg k.attr.toNat
      let len := algBytes alg
      let out := kdfOut root (k.ctx ++ [BitVec.ofNat 8 alg] ++ beBytes 4 (8 * len)) alg len 64 1
      let c := c.storeKey k.slot (kdfAttr k.attr.toNat) (derivedVal alg out)
      let c := c.when (k.pub && (alg == 8 || alg == 9)) fun c =>
        (pieces 4 (pubBytes alg (beVal out))).zipIdx.foldl
          (fun c e => c.wr (Reg.GRD_KDF_PUB e.2) (leVal e.1)) c
      c.kdfEnd 1

/-! ### The tamper line (R365, R377, R378) -/

/-- ACTION of a source. -/
def Chip.tmpAction (c : Chip) (i : Nat) : Nat := c.fl (Reg.GRD_TMP_CFG i) 1 0

/-- Whether the line is held asserted. -/
def Chip.lineWanted (c : Chip) (l : LifeCycle) : Bool :=
  l.tripped || l.state == .retired || c.grd.present.any fun i => decide (2 ≤ c.tmpAction i)

/-- The CIU erases and a derivation aborts when the line is asserted (R168, R371). -/
def Chip.lineAsserts (c : Chip) : Chip := c.eraseStart .tamper

/-- Bring the line to what holds now. -/
def Chip.syncLine (c : Chip) (l : LifeCycle) : Chip :=
  let on := c.lineWanted l
  let rises := on && !c.tamperLine
  ((c.setBit Reg.GRD_STATUS 3 on).setBit Reg.CIU_ALARM 5 on).when rises Chip.lineAsserts

/-! ### Debug states (R381–R386) -/

/-- The debug state returns to CLOSED; a pending request falls with it (R383). -/
def Chip.dbgClose (c : Chip) : Chip := c.onGrd fun g => { g with dbg := .closed, dbgReq := none }

/-- The root secret leaves the working register. -/
def Chip.rootGone (c : Chip) : Chip :=
  ((c.setBit Reg.GRD_STATUS 1 false).setBit Reg.GRD_STATUS 2 false).onGrd fun g => { g with root := none }

/-- Entry to OPEN clears the secrets first, the Guard core's SRAM among them (R384). -/
def Chip.openClear (c : Chip) : Chip :=
  (c.lineAsserts.rootGone.setBit Reg.GRD_STATUS 4 true).onGrd fun g =>
    { g with coreHeld := true, pathCut := true, sram := [] }

/-- Whether a debug state may be granted now (R378, R387, Table 9). -/
def Chip.dbgPermits (c : Chip) (l : LifeCycle) (state : Nat) : Bool :=
  (c.crp.power == .run || c.crp.power == .trim || c.crp.power == .hold) &&
  !(l.tripped && l.state != .retired) && !c.kindling l &&
  (state == 1 || (state == 2 && l.state != .sealed))

/-- A debug state is granted (R381, R382, R384). -/
def Chip.dbgEnter (c : Chip) (l : LifeCycle) (state : Nat) : Chip :=
  let c := c.when (state == 2 && l.state != .retired && c.grd.dbg != .opened) Chip.openClear
  c.onGrd fun g => { g with
    dbg := if state = 2 then .opened else .service, dbgReq := none, refusals := 0 }

/-! ### Tamper sources (R377–R380) -/

/-- Overwrite both wrapped copies and the working register, and set ROOT_KILLED (R377). -/
def rootKill (x : Chip × LifeCycle) : Chip × LifeCycle :=
  (x.1.rootGone.onGrd fun g => { g with wrapped := [[], []] }, { x.2 with rootKilled := true }.commit)

/-- Set TRIPPED; a grant falls to CLOSED except in RETIRED (R377, R378). -/
def tripSet (x : Chip × LifeCycle) : Chip × LifeCycle :=
  (if x.2.state = .retired then x.1 else x.1.dbgClose, { x.2 with tripped := true }.commit)

/-- One occurrence of a source: the action in force is taken in full (R377, R380). -/
def tamperAct (i : Nat) (x : Chip × LifeCycle) : Chip × LifeCycle :=
  let act := x.1.tmpAction i
  let kill := x.1.bit (Reg.GRD_TMP_CFG i) 8
  if act = 0 then x
  else
    let c := (x.1.bump (Reg.GRD_TMP_CNT i)).raise Reg.GRD_TMP_LATCH i
    let x := if act = 3 then tripSet (c, x.2) else (c, x.2)
    let x := if act = 3 ∧ kill = true then rootKill x else x
    ((x.1.syncLine x.2).emberPost 0xA04 (leBytes 1 i ++ leBytes 1 act ++ leBytes 1 (b2n kill))
      (act == 3) (act == 3), x.2)

/-- The condition of a source stands. -/
def Chip.stands (c : Chip) (i : Nat) : Chip :=
  if c.grd.present.contains i then c else c.onGrd fun g => { g with present := g.present ++ [i] }

/-- A source's condition appears; nothing new happens while it is present. -/
def tamperBegin (i : Nat) (x : Chip × LifeCycle) : Chip × LifeCycle :=
  if x.1.grd.present.contains i then x else tamperAct i (x.1.stands i, x.2)

/-- At a power-on reset every source that shows is met as if it had just begun (R379). -/
def tamperStart (x : Chip × LifeCycle) : Chip × LifeCycle :=
  x.1.grd.present.foldl (fun x i => tamperAct i x) (x.1.syncLine x.2, x.2)

/-- A source's condition ends, and the line follows (R377). -/
def tamperEnd (i : Nat) (x : Chip × LifeCycle) : Chip × LifeCycle :=
  let c := x.1.onGrd fun g => { g with present := g.present.filter (· != i) }
  (c.syncLine x.2, x.2)

/-- A source follows a condition that the chip itself holds. -/
def tamperSense (i : Nat) (on : Bool) (x : Chip × LifeCycle) : Chip × LifeCycle :=
  if on then tamperBegin i x else if x.1.grd.present.contains i then tamperEnd i x else x

/-- The CIU's alarms have gone with a reset of the CIU: source 8 ends. -/
def alarmEnds (x : Chip × LifeCycle) : Chip × LifeCycle :=
  if x.1.grd.present.contains 8 && x.1.fl Reg.CIU_ALARM 4 0 == 0 then tamperEnd 8 x else x

/-- Whether the condition of a source that the chip holds itself stands so: the CIU's detector
alarms, and refused responses (Table 6); the others come from outside. -/
def Chip.condition (c : Chip) (i : Nat) (on : Bool) : Bool :=
  match i with
  | 8 => (c.fl Reg.CIU_ALARM 4 0 != 0) == on
  | 9 => !on || decide (8 ≤ c.grd.refusals)
  | _ => true

/-- TAMPER_CFG_WRITE (R380). -/
def tmpCfgWrite (i v : Nat) (who : Who) (x : Chip × LifeCycle) : Chip × LifeCycle :=
  let r := Reg.GRD_TMP_CFG i
  let c := x.1
  if who.level ≠ .seal then (c.noteRws who r 0x1FB v, x.2)
  else
    let lowers := decide (fld v 1 0 < c.fl r 1 0) || (c.bit r 8 && !bitOf v 8) ||
      decide (c.fl r 7 4 < fld v 7 4) || (c.bit r 3 != bitOf v 3)
    if x.2.state = .sealed ∧ lowers = true then (c.raise Reg.GRD_STATUS 5, x.2)
    else
      let raised := decide (c.fl r 1 0 < fld v 1 0)
      let kills := !c.bit r 8 && bitOf v 8 && fld v 1 0 == 3
      let c := c.wr r (fld v 8 8 * 2 ^ 8 + fld v 7 3 * 2 ^ 3 + fld v 1 0)
      if !c.grd.present.contains i then (c, x.2)
      else if raised then tamperAct i (c, x.2)
      else if kills then rootKill (c, x.2)
      else (c.syncLine x.2, x.2)

/-! ### Debug instructions and grants (R381–R383) -/

/-- GRD_DEV_ID (00 Table 2). -/
def Chip.devId (c : Chip) : Nat := 0x81200200 + 0x1000 * (if c.fuses.headEnd then 2 else 1)

/-- GRD_DBG_STATE. -/
def Chip.dbgState (c : Chip) : Nat :=
  (match c.grd.dbg with | .closed => 0 | .service => 1 | .opened => 2) +
    4 * b2n c.grd.dbgReq.isSome + 8 * b2n c.grd.backoff + 16 * min 15 c.grd.refusals

/-- Whether the debug port is powered (Table 10). -/
def Chip.dbgPortUp (c : Chip) : Bool := !c.coreOff

/-- What the debug port shifts out. -/
def Chip.shiftOut (c : Chip) (d : List Byte) : Chip := (c.onGrd fun g => { g with tdo := d }).answer (.data d)

/-- BYPASS: one bit of delay. -/
def Chip.dbgBypass (c : Chip) (tdi : Bool) : Chip :=
  (c.shiftOut [BitVec.ofNat 8 (b2n c.grd.bypass)]).onGrd fun g => { g with bypass := tdi }

/-- CHALLENGE: 32 bytes from the entropy source. -/
def Chip.dbgChallenge (c : Chip) : Chip :=
  let (bs, c) := c.free 32
  (c.shiftOut bs).onGrd fun g => { g with challenge := some bs }

/-- A response is refused: a back-off starts, and the eighth in succession is the condition of
source 9 (R382). -/
def dbgRefuse (x : Chip × LifeCycle) : Chip × LifeCycle :=
  let c := x.1.onGrd fun g => { g with dbgReq := none, backoff := true, refusals := g.refusals + 1 }
  if c.grd.refusals = 8 then tamperEnd 9 (tamperBegin 9 (c, x.2)) else (c, x.2)

/-- RESPOND: the hardware's checks; what passes is raised to the firmware, or granted in BLANK
(R381). A response that fails them is refused (DEDUCED, log entry 30). -/
def dbgRespond (req : Nat) (fresh : Bool) (x : Chip × LifeCycle) : Chip × LifeCycle :=
  let c := x.1
  if c.grd.backoff then x
  else
    let used := c.onGrd fun g => { g with challenge := none }
    if c.grd.challenge.isNone || !fresh || !c.dbgPermits x.2 req then dbgRefuse (used, x.2)
    else if x.2.state = .blank then (used.dbgEnter x.2 req, x.2)
    else (used.onGrd fun g => { g with dbgReq := some req }, x.2)

/-- DEBUG_GRANT: a write of GRD_DBG_GRANT (R381–R383). -/
def dbgGrant (v : Nat) (who : Who) (x : Chip × LifeCycle) : Chip × LifeCycle :=
  let c := x.1
  if who.level ≠ .seal then (c.noteRws who Reg.GRD_DBG_GRANT 0x80000007 v, x.2)
  else
    let c := c.wr Reg.GRD_DBG_GRANT (v % 8)
    if !bitOf v 31 then (c, x.2)
    else if bitOf v 2 then if c.grd.dbgReq.isSome then dbgRefuse (c, x.2) else (c, x.2)
    else if v % 4 = 0 then (c.dbgClose, x.2)
    else if c.grd.dbgReq.isSome && c.dbgPermits x.2 (v % 4) then (c.dbgEnter x.2 (v % 4), x.2)
    else (c, x.2)

/-! ### Life-cycle commands (R362–R365) -/

/-- RESULT of a life-cycle command (R363); GO clears with it. -/
def Chip.lcResult (c : Chip) (code r : Nat) : Chip :=
  (c.wr Reg.GRD_LC_CMD code).setFl Reg.GRD_LC_STATE 10 8 r

/-- The RESULT a command earns, 1 when its conditions hold (Table 1). -/
def Chip.lcJudge (c : Chip) (l : LifeCycle) (code : Nat) : Nat :=
  match code with
  | 1 =>
    if l.state ≠ .blank then 2
    else if c.grd.kindled && !l.tripped &&
      (List.range 8).any fun k => c.rd (Reg.GRD_DBG_AUTH k) != 0 then 1 else 3
  | 2 => if l.state ≠ .personalised then 2 else if c.grd.dbg == .closed && !l.tripped then 1 else 3
  | 3 => 1
  | 4 =>
    if !l.tripped then 2
    else if l.rootKilled || c.grd.present.any fun i => decide (2 ≤ c.tmpAction i) then 3 else 1
  | _ => 2

/-- The life cycle after a command whose conditions hold (Table 1). -/
def LifeCycle.after (l : LifeCycle) (code : Nat) : LifeCycle :=
  match code with
  | 1 => { l with state := .personalised }.commit
  | 2 => { l with state := .sealed }.commit
  | 3 => { l with state := .retired }.commit
  | _ => { l with tripped := false }.commit

/-- A life-cycle command: a Seal-level write of GRD_LC_CMD with GO. Until kindling has ended the Guard core is held, and
there is no such write (R366). -/
def lcCmd (code : Nat) (who : Who) (x : Chip × LifeCycle) : Chip × LifeCycle :=
  let c := x.1
  if c.kindling x.2 then x
  else if who.level ≠ .seal then (c.noteRws who Reg.GRD_LC_CMD 0x8000000F (2 ^ 31 + code), x.2)
  else match c.lcJudge x.2 code with
  | 1 =>
    let l := x.2.after code
    let c := if code = 3 then c.rootGone.onGrd fun g => { g with wrapped := [[], []] } else c
    let c := (c.syncLine l).emberPost 0xA02 (leBytes 1 x.2.state.rank ++ leBytes 1 l.state.rank ++
      leBytes 1 (b2n l.tripped) ++ leBytes 1 (b2n l.rootKilled)) false true
    (c.lcResult code 1, l)
  | r => (c.lcResult code r, x.2)

/-! ### The access plan (R374) -/

/-- ACCESS_PLAN_COMMIT: the shadow becomes the active plan. -/
def Chip.planCommit (c : Chip) (v : Nat) (who : Who) : Chip :=
  if who.level ≠ .seal then c.noteRws who Reg.GRD_AP_CTRL 1 v
  else if !bitOf v 0 then c
  else (List.range 64).foldl (fun c r => (List.range 8).foldl (fun c w =>
    c.wr (Reg.AP_ACTIVE r w) (c.rd (Reg.AP_SHADOW r w))) c) c

/-! ### Meanings -/

/-- The chip and the life cycle as the Guard leaves them: a trip, or its end, is seen by the legal engine at once, and a
trip has its entry in the legal log (R378). -/
def State.guard (s : State) (x : Chip × LifeCycle) : State :=
  if x.2.tripped = s.lc.tripped then { s with chip := x.1, lc := x.2 }
  else
    let r := { s with chip := x.1 }.legalGive (s.leg.observe x.2.tripped)
    { s with chip := r.1, lc := x.2, leg := r.2 }

/-- Answer with the Guard's chip and life cycle changed. -/
def State.guarded (s : State) (f : Chip × LifeCycle → Chip × LifeCycle) :
    Host.Outcome State Fault Refusal :=
  s.onAll fun s => s.guard (f (s.chip, s.lc))

/-- PERSONALISE (R363). -/
def execPersonalise (who : Who) (s : State) : Host.Outcome State Fault Refusal :=
  s.guarded (onRegLc Reg.GRD_LC_CMD who.num (lcCmd 1 who))

/-- SEAL (R363). -/
def execSeal (who : Who) (s : State) : Host.Outcome State Fault Refusal :=
  s.guarded (onRegLc Reg.GRD_LC_CMD who.num (lcCmd 2 who))

/-- RETIRE (R365). -/
def execRetire (who : Who) (s : State) : Host.Outcome State Fault Refusal :=
  s.guarded (onRegLc Reg.GRD_LC_CMD who.num (lcCmd 3 who))

/-- CLEAR_TRIP (R364). -/
def execClearTrip (who : Who) (s : State) : Host.Outcome State Fault Refusal :=
  s.guarded (onRegLc Reg.GRD_LC_CMD who.num (lcCmd 4 who))

/-- KEY_DERIVATION (R369). -/
def execKeyDerivation (v : Word) (who : Who) (s : State) : Host.Outcome State Fault Refusal :=
  s.onChip fun c => c.onReg Reg.GRD_KDF_CMD who.num fun c => c.kdfCmd v.toNat who

/-- KEY_DERIVATION_DONE (R370). -/
def execKeyDerivationDone (s : State) : Host.Outcome State Fault Refusal := s.onChip Chip.kdfDone

/-- ACCESS_PLAN_COMMIT (R374). -/
def execAccessPlanCommit (v : Word) (who : Who) (s : State) : Host.Outcome State Fault Refusal :=
  s.onChip fun c => c.onReg Reg.GRD_AP_CTRL who.num fun c => c.planCommit v.toNat who

/-- TAMPER_CONDITION (R377). In OFF nothing is detected: what stands there then is met at the next start (R379). -/
def execTamperCondition (src : Fin 11) (s : State) : Host.Outcome State Fault Refusal :=
  s.guarded fun x =>
    if x.1.condition src.val true = false then x
    else if x.1.crp.power = .off then (x.1.stands src.val, x.2)
    else tamperBegin src.val x

/-- TAMPER_CONDITION_END (R377). -/
def execTamperConditionEnd (src : Fin 11) (s : State) : Host.Outcome State Fault Refusal :=
  s.guarded fun x => if x.1.condition src.val false then tamperSense src.val false x else x

/-- TAMPER_CFG_WRITE (R380). -/
def execTamperCfgWrite (src : Fin 11) (v : Word) (who : Who) (s : State) :
    Host.Outcome State Fault Refusal :=
  s.guarded (onRegLc (Reg.GRD_TMP_CFG src) who.num (tmpCfgWrite src.val v.toNat who))

/-- CIU_ALARM (05 R167), which is the condition of tamper source 8 (Table 6); the CIU is without power in DORMANT and
OFF. -/
def execCiuAlarm (det : Fin 5) (s : State) : Host.Outcome State Fault Refusal :=
  s.guarded fun x =>
    if x.1.coreOff then x
    else
      let c := x.1.ciuAlarm det.val
      tamperSense 8 (c.fl Reg.CIU_ALARM 4 0 != 0) (c, x.2)

/-- IDCODE (R381). -/
def execIdcode (s : State) : Host.Outcome State Fault Refusal :=
  s.onChip fun c => c.when c.dbgPortUp fun c => c.shiftOut (leBytes 4 c.devId)

/-- BYPASS (R381). -/
def execBypass (tdi : Bool) (s : State) : Host.Outcome State Fault Refusal :=
  s.onChip fun c => c.when c.dbgPortUp fun c => c.dbgBypass tdi

/-- CHALLENGE (R381). -/
def execChallenge (s : State) : Host.Outcome State Fault Refusal :=
  s.onChip fun c => c.when c.dbgPortUp Chip.dbgChallenge

/-- DSTATUS (R381). -/
def execDstatus (s : State) : Host.Outcome State Fault Refusal :=
  s.onChip fun c => c.when c.dbgPortUp fun c => c.shiftOut (leBytes 4 c.dbgState)

/-- DEBUG_BACKOFF_END (R382). -/
def execDebugBackoffEnd (s : State) : Host.Outcome State Fault Refusal :=
  s.onChip fun c => c.onGrd fun g => { g with backoff := false }

/-- DEBUG_GRANT_EXPIRY (R383); a lifetime of 0 never ends. -/
def execDebugGrantExpiry (s : State) : Host.Outcome State Fault Refusal :=
  s.onChip fun c => c.when (c.fl Reg.GRD_DBG_TMO 15 0 != 0 && c.grd.dbg != .closed) Chip.dbgClose

end Sys2Proof.Machine
end

