-- ==== Sys2Proof/Machine/Ember.lean ====
section
/-!
DEFINITION. The Ember log: commitment of records, snapshots, time marks, software records, the
cursor and the clearing of the last area (16_ember_log.md).
-/
namespace Sys2Proof.Machine

/-- Change the log. -/
def Chip.onEmber (c : Chip) (f : Ember → Ember) : Chip := { c with ember := f c.ember }

/-- Start and end of the last area (Table 1). -/
def lastStart : Nat := 0x20000

/-- First position after the last area. -/
def lastEnd : Nat := 0xFC000

/-- The bytes of a record: header (Table 2), payload, padding (R459). -/
def EmbRec.bytes (r : EmbRec) : List Byte :=
  leBytes 4 (r.payload.length % 4096 + r.typ % 4096 * 2 ^ 12 + r.flags.toNat * 2 ^ 24) ++ leBytes 4 r.seq.toNat ++
    leBytes 4 r.opsec.toNat ++ leBytes 4 (r.pcyc % 2 ^ 24 + r.sub.toNat * 2 ^ 24) ++ r.payload ++
    List.replicate ((16 - r.payload.length % 16) % 16) 0

/-- Bytes a record takes. -/
def EmbRec.size (r : EmbRec) : Nat := 16 + (r.payload.length + 15) / 16 * 16

/-- Whether a record is a pad. -/
def EmbRec.isPad (r : EmbRec) : Bool := r.typ == 0xE00

/-! ### Commitment (R461–R464)

None of the writer's steps happens in OFF (14 R426). -/

/-- Records overlapping `p … p+n-1` leave the last area whole; the record in the window among them
becomes stale (R464, R468). -/
def Chip.overwrite (c : Chip) (p n : Nat) : Chip :=
  let hit (e : Nat × EmbRec) : Bool := decide (e.1 < p + n) && decide (p < e.1 + e.2.size)
  let gone := c.ember.last.filter hit
  let c := c.onEmber fun e => { e with last := e.last.filter fun x => !hit x }
  c.when (gone.any fun e => c.ember.loadedAt == some e.1) fun c => c.setBit Reg.GRD_EMB_RSTAT 3 true

/-- Write a record at the head of the last area. -/
def Chip.writeLast (c : Chip) (r : EmbRec) : Chip :=
  let p := c.ember.head
  (c.overwrite p r.size).onEmber fun e => { e with last := e.last ++ [(p, r)], head := p + r.size }

/-- The pad that fills the end of the last area (Table 3). -/
def padRec (r : EmbRec) (room : Nat) : EmbRec :=
  { r with typ := 0xE00, flags := 0, seq := 0xFFFFFFFF, payload := List.replicate (room - 16) 0, snap := false }

/-- A record to the last area, with a pad where it would run past the end (R464). -/
def Chip.toLast (c : Chip) (r : EmbRec) : Chip :=
  let room := lastEnd - c.ember.head
  let c := if r.size ≤ room then c
    else (c.when (decide (0 < room)) fun c => c.writeLast (padRec r room)).onEmber fun e =>
      { e with head := lastStart }
  let c := c.writeLast r
  c.when (c.ember.head == lastEnd) fun c => c.onEmber fun e => { e with head := lastStart }

/-- A record to the first area, while it has room and the record is due there (R463). -/
def Chip.toFirst (c : Chip) (lc : LifeCycle) (r : EmbRec) : Chip :=
  let early := lc.state == .blank || lc.state == .personalised
  if c.ember.firstFull || !(early || r.flags.getLsbD 0) then c
  else if c.ember.firstUsed + r.size ≤ lastStart then
    c.onEmber fun e => { e with first := e.first ++ [(e.firstUsed, r)], firstUsed := e.firstUsed + r.size }
  else c.onEmber fun e => { e with firstFull := true }

/-- EMBER_RECORD_COMMIT: the next record of the intake takes its SEQ and is written. While a
snapshot is copied the records wait (R465). -/
def Chip.emberCommit (c : Chip) (lc : LifeCycle) : Chip :=
  match c.ember.intake, c.ember.snapDue with
  | r :: rest, [] =>
    if c.crp.power = .off then c
    else
      let r := { r with seq := c.ember.seq }
      let c := c.onEmber fun e =>
        { e with intake := rest, seq := e.seq + 1, snapDue := if r.snap then [r] else [] }
      (c.toLast r).toFirst lc r
  | _, _ => c

/-! ### Snapshots (R465) -/

/-- The slot of the next snapshot: 0–3 once each, then the one of 4–7 with the oldest. -/
def Ember.nextSlot (e : Ember) : Nat :=
  if e.snapCnt < 4 then e.snapCnt
  else
    let late := e.snaps.filter fun s => decide (4 ≤ s.1)
    match (upFrom 4 4).find? fun s => !(late.any fun x => x.1 == s) with
    | some s => s
    | none => ((late.foldl (fun (b : Option (Nat × EmbSnap)) x =>
        match b with
        | none => some x
        | some y => if x.2.num < y.2.num then some x else some y) none).map (·.1)).getD 4

/-- The newest whole records that fit in `room`, the last of them first in `newest`. -/
def fitRecords : Nat → List EmbRec → List EmbRec
  | _, [] => []
  | room, r :: rs => if r.size ≤ room then fitRecords (room - r.size) rs ++ [r] else []

/-- The records a snapshot copies, ending with the trigger, which is cut when it is too long. -/
def Ember.snapRecords (e : Ember) (trigger : EmbRec) : List EmbRec :=
  if 2032 < trigger.size then
    [{ trigger with payload := trigger.payload.take 2016, flags := trigger.flags ||| 8 }]
  else fitRecords 2032 ((e.last.map (·.2)).filter fun r => !r.isPad).reverse

/-- EMBER_SNAPSHOT. -/
def Chip.emberSnapshot (c : Chip) : Chip :=
  match c.ember.snapDue with
  | [] => c
  | r :: rest => c.when (c.crp.power != .off) fun c => c.onEmber fun e =>
    let rs := e.snapRecords r
    let body := rs.flatMap EmbRec.bytes
    let snap : EmbSnap :=
      { num := e.snapCnt, seq := r.seq, opsec := r.opsec, pcyc := r.pcyc, sub := r.sub,
        count := rs.length, used := body.length, body := body }
    { e with
      snapDue := rest, snapCnt := e.snapCnt + 1
      snaps := (e.snaps.filter fun s => s.1 != e.nextSlot) ++ [(e.nextSlot, snap)] }

/-- The 2 KiB of a snapshot slot. -/
def EmbSnap.bytes (s : EmbSnap) : List Byte :=
  padTo 2048 (leBytes 4 s.seq.toNat ++ leBytes 4 s.opsec.toNat ++ leBytes 4 (s.pcyc % 2 ^ 24 + s.sub.toNat * 2 ^ 24) ++
    leBytes 2 s.count ++ leBytes 2 s.used ++ s.body)

/-! ### Drops, marks and time (R460, R462, R469) -/

/-- EMBER_DROP_REPORT: one record of type 0xE01 for a past second with drops; it waits while the intake is full. -/
def Chip.dropReport (c : Chip) : Chip :=
  match c.ember.dropsDue with
  | none => c
  | some (n, typ) => c.when (c.crp.power != .off && c.emberRoom 0xE01 false) fun c =>
    (c.onEmber fun e => { e with dropsDue := none }).record 0xE01 (leBytes 4 n ++ leBytes 2 typ)

/-- Post a time mark: network time (0 while TIM does not run), STATE, legal time, LFLAGS (R469). -/
def Chip.timeMark (c : Chip) (g : Leg) : Chip :=
  let net := if domainRuns c.crp.power 10 then c.time.toNat else 0
  c.when (c.crp.power != .off) fun c => c.record 0xE02 (leBytes 8 net ++ leBytes 1 (c.fl Reg.BKB_TIM_CTRL 1 0) ++ leBytes 5 g.secs ++
    leBytes 1 (b2n g.clkInvalid) ++ [0])

/-- The fields that a loss of power would lose are committed (R460). -/
def Chip.emberTimeCommit (c : Chip) : Chip :=
  c.when (c.crp.power != .off) fun c => c.onEmber fun e => { e with savedOpsec := e.opsec, savedSub := e.sub }

/-! ### Records from software (R466) -/

/-- EMBER_STAGING_WRITE: the first write to the idle window claims it for its level. -/
def Chip.stagingWrite (c : Chip) (off : Nat) (v : Word) (l : Level) : Chip :=
  if l = .host then c
  else if c.ember.stageOwner ≠ none ∧ c.ember.stageOwner ≠ some l then c.raise Reg.GRD_EMB_STATUS 2
  else c.onEmber fun e =>
    { e with stageOwner := some l, stage := Tab.put (fun _ => 0) e.stage (off / 4) v }

/-- The first bytes of the staging window. -/
def Chip.staged (c : Chip) (n : Nat) : List Byte :=
  ((List.range ((n + 3) / 4)).flatMap fun i =>
    leBytes 4 (Tab.get (fun _ => (0 : Word)) c.ember.stage i).toNat).take n

/-- Whether a level may write a TYPE, with MILESTONE or without (Table 3). -/
def softwareMay (l : Level) (typ : Nat) (milestone : Bool) : Bool :=
  match l with
  | .seal => decide (0xC00 ≤ typ) && decide (typ ≤ 0xCFF)
  | .platform => decide (0xD00 ≤ typ) && decide (typ ≤ 0xDFF) && !milestone
  | .host => false

/-- EMBER_SOFTWARE_WRITE: a write of GRD_EMB_WCMD with GO; RESULT 1 accepted, 2 refused,
3 dropped. -/
def Chip.softwareRecord (c : Chip) (v : Nat) (l : Level) : Chip :=
  if l = .host then c
  else if c.ember.stageOwner ≠ none ∧ c.ember.stageOwner ≠ some l then c.raise Reg.GRD_EMB_STATUS 2
  else
    let c := c.wr Reg.GRD_EMB_WCMD (fld v 24 0)
    if !bitOf v 31 then c
    else
      let typ := fld v 11 0
      let len := fld v 23 12
      let payload := c.staged len
      let result := if !softwareMay l typ (bitOf v 24) || decide (4080 < len) then 2
        else if c.emberRoom typ false then 1 else 3
      let c := c.when (result != 2) fun c => c.emberPost typ payload false (bitOf v 24)
      (c.onEmber fun e => { e with stageOwner := none, stage := [] }).wr Reg.GRD_EMB_WSTAT result

/-! ### Reading (R468) and clearing (R467) -/

/-- A command or cursor write ends with a RESULT and GAP. -/
def Chip.readResult (c : Chip) (result : Nat) (gap : Bool) : Chip :=
  (c.setFl Reg.GRD_EMB_RSTAT 2 0 result).setBit Reg.GRD_EMB_RSTAT 4 gap

/-- Put bytes in the window, loaded from a position. -/
def Chip.loadWindow (c : Chip) (p : Nat) (b : List Byte) : Chip :=
  (c.onEmber fun e => { e with window := padTo 4096 b, loadedAt := some p }).setBit Reg.GRD_EMB_RSTAT 3 false

/-- What the log holds at a position that a load may name: the record that starts there, or a whole
snapshot slot; a slot not yet used reads 0 (DESIGN CHOICE, log entry 85). -/
def Ember.bytesAt (e : Ember) (p : Nat) : Option (List Byte) :=
  if 0xFC000 ≤ p then
    if p % 0x800 = 0 then
      some (((e.snaps.find? fun s => s.1 == (p - 0xFC000) / 0x800).map fun s => s.2.bytes).getD (List.replicate 2048 0))
    else none
  else if lastStart ≤ p then (e.last.find? fun r => r.1 == p).map fun r => r.2.bytes
  else (e.first.find? fun r => r.1 == p).map fun r => r.2.bytes

/-- Load the window from the cursor: RESULT 1, or 2 where no record starts. -/
def Chip.loadCursor (c : Chip) (gap : Bool) : Chip :=
  let p := c.fl Reg.GRD_EMB_CURSOR 19 4 * 16
  match c.ember.bytesAt p with
  | some b => (c.loadWindow p b).readResult 1 gap
  | none => c.readResult 2 gap

/-- Move the cursor and load. -/
def Chip.moveCursor (c : Chip) (p : Nat) (gap : Bool) : Chip := (c.wr Reg.GRD_EMB_CURSOR p).loadCursor gap

/-- Records of the last area that are not pads, oldest first. -/
def Ember.held (e : Ember) : List (Nat × EmbRec) := e.last.filter fun r => !r.2.isPad

/-- Move to a record if there is one, else end with a RESULT. -/
def Chip.moveTo (c : Chip) (r : Option (Nat × EmbRec)) (gap : Bool) (otherwise : Nat) : Chip :=
  match r with
  | some x => c.moveCursor x.1 gap
  | none => c.readResult otherwise false

/-- NEXT: past the record at the cursor; to the oldest, with GAP, when it has been overwritten. -/
def Chip.emberNext (c : Chip) : Chip :=
  let p := c.fl Reg.GRD_EMB_CURSOR 19 4 * 16
  if c.ember.held = [] then c.readResult 4 false
  else if c.ember.loadedAt = some p && c.bit Reg.GRD_EMB_RSTAT 3 then c.moveTo c.ember.held.head? true 4
  else match findIdx (fun r => r.1 == p) c.ember.last with
  | none => c.readResult 2 false
  | some i => c.moveTo ((c.ember.last.drop (i + 1)).find? fun r => !r.2.isPad) false 4

/-- A command ends: GO clears, CODE stays. -/
def Chip.emberCmd (c : Chip) (code : Nat) : Chip := c.wr Reg.GRD_EMB_CMD code

/-- CLEAR_LAST (R467). -/
def Chip.clearLast (c : Chip) (lc : LifeCycle) (l : Level) : Chip :=
  if l = .seal ∧ (lc.state = .blank ∨ lc.state = .retired) then
    (c.onEmber fun e => { e with last := [] }).readResult 0 false
  else c.readResult 5 false

/-! ### Meanings -/

/-- EMBER_RECORD_COMMIT (R461). -/
def execEmberRecordCommit (s : State) : Host.Outcome State Fault Refusal :=
  s.onChipLc fun lc c => c.emberCommit lc

/-- EMBER_SNAPSHOT (R465). -/
def execEmberSnapshot (s : State) : Host.Outcome State Fault Refusal := s.onChip Chip.emberSnapshot

/-- EMBER_DROP_REPORT (R462). -/
def execEmberDropReport (s : State) : Host.Outcome State Fault Refusal := s.onChip Chip.dropReport

/-- TIME_MARK (R469). -/
def execTimeMark (s : State) : Host.Outcome State Fault Refusal :=
  s.onChipSee fun s => s.chip.timeMark s.leg

/-- EMBER_TIME_COMMIT (R460). -/
def execEmberTimeCommit (s : State) : Host.Outcome State Fault Refusal := s.onChip Chip.emberTimeCommit

/-- EMBER_STAGING_WRITE (R466). -/
def execEmberStagingWrite (offset : BitVec 12) (v : Word) (who : Who) (s : State) :
    Host.Outcome State Fault Refusal :=
  s.onChip fun c => c.onReg (Reg.GRD_EMB_STAGE (offset.toNat / 4)) who.num fun c => c.stagingWrite offset.toNat v who.level

/-- EMBER_SOFTWARE_WRITE (R466). -/
def execEmberSoftwareWrite (v : Word) (who : Who) (s : State) : Host.Outcome State Fault Refusal :=
  s.onChip fun c => c.onReg Reg.GRD_EMB_WCMD who.num fun c => c.softwareRecord v.toNat who.level

/-- OLDEST. -/
def Chip.emberOldest (c : Chip) : Chip := c.moveTo c.ember.held.head? false 4

/-- FIND. -/
def Chip.emberFind (c : Chip) : Chip :=
  c.moveTo (c.ember.held.find? fun r => r.2.seq == c.rdW Reg.GRD_EMB_FSEQ) false 3

/-- NEWEST. -/
def Chip.emberNewest (c : Chip) : Chip := c.moveTo c.ember.held.getLast? false 4

/-- OLDEST (R468). -/
def execOldest (s : State) : Host.Outcome State Fault Refusal :=
  s.onChip fun c => c.onReg Reg.GRD_EMB_CMD anyIni fun c => c.emberOldest.emberCmd 1

/-- NEXT (R468). -/
def execNext (s : State) : Host.Outcome State Fault Refusal :=
  s.onChip fun c => c.onReg Reg.GRD_EMB_CMD anyIni fun c => c.emberNext.emberCmd 2

/-- FIND (R468). -/
def execFind (s : State) : Host.Outcome State Fault Refusal :=
  s.onChip fun c => c.onReg Reg.GRD_EMB_CMD anyIni fun c => c.emberFind.emberCmd 3

/-- NEWEST (R468). -/
def execNewest (s : State) : Host.Outcome State Fault Refusal :=
  s.onChip fun c => c.onReg Reg.GRD_EMB_CMD anyIni fun c => c.emberNewest.emberCmd 4

/-- CLEAR_LAST (R467). -/
def execClearLast (who : Who) (s : State) : Host.Outcome State Fault Refusal :=
  s.onChipLc fun lc c => c.onReg Reg.GRD_EMB_CMD who.num fun c => (c.clearLast lc who.level).emberCmd 5

/-- CURSOR_WRITE (R468). -/
def execCursorWrite (v : Word) (s : State) : Host.Outcome State Fault Refusal :=
  s.onChip fun c => c.onReg Reg.GRD_EMB_CURSOR anyIni fun c => c.moveCursor (fld v.toNat 19 4 * 16) false

/-- LEGAL_ENGINE_START (09 R305); the time mark of a power-on reset follows it (R469). -/
def execLegalEngineStart (regsGood : Bool) (badAccounts : List (BitVec 14)) (s : State) :
    Host.Outcome State Fault Refusal :=
  s.onLegal fun s =>
    let (c, g) := s.legalRun fun g => g.start regsGood badAccounts
    (c.when c.ember.markDue fun c => (c.onEmber fun e => { e with markDue := false }).timeMark g, g)

end Sys2Proof.Machine
end

