-- ==== Sys2Proof/Machine/TimeUnit.lean ====
section
/-!
DEFINITION. Network time: increment, step, slew, the UTC offset, the comparators and the time
inputs (10_time_and_backbone.md R317–R330).
-/
namespace Sys2Proof.Machine

/-- Change the timing unit. -/
def Chip.onTim (c : Chip) (f : Tim → Tim) : Chip := { c with tim := f c.tim }

/-- Set network time with its fraction, modulo 2^64 ns. -/
def Chip.setTimeFine (c : Chip) (t : Int) : Chip :=
  let v := (t % (2 ^ 96 : Nat)).toNat
  c.onTim fun x => { x with now := BitVec.ofNat 64 (v / 2 ^ 32), frac := BitVec.ofNat 32 v }

/-! ### Increment (R317) -/

/-- Nominal increment, 2 ns, in 2^-32 ns. -/
def incNominal : Nat := 0x200000000

/-- 500 ppm of it. -/
def incRange : Nat := incNominal * 500 / 1000000

/-- A write of BKB_TIM_INC_LO is held. -/
def Chip.incLoWrite (c : Chip) (v : Nat) : Chip := c.onTim fun x => { x with incLo := BitVec.ofNat 32 v }

/-- TIM_INC_WRITE: the pair is applied, clipped to 2 ns ± 500 ppm. -/
def Chip.incWrite (c : Chip) (v : Nat) : Chip :=
  let inc := clamp (incNominal - incRange) (incNominal + incRange) (v % 256 * 2 ^ 32 + c.tim.incLo.toNat)
  ((c.wr Reg.BKB_TIM_INC_LO (inc % 2 ^ 32)).wr Reg.BKB_TIM_INC_HI (inc / 2 ^ 32)).onTim fun x =>
    { x with inc := inc, incLo := BitVec.ofNat 32 inc }

/-! ### Comparators (R327–R329) -/

/-- TGT of a comparator. -/
def Chip.cmpTgt (c : Chip) (n : Nat) : Nat := c.rd64 (Reg.BKB_CMP_TGT_LO n) (Reg.BKB_CMP_TGT_HI n)

/-- PER of a comparator: below 1,000 ns it acts as 1,000; 0 is one-shot. -/
def Chip.cmpPer (c : Chip) (n : Nat) : Nat :=
  let p := c.rd64 (Reg.BKB_CMP_PER_LO n) (Reg.BKB_CMP_PER_HI n)
  if p = 0 then 0 else max 1000 p

/-- NEXT of a comparator. -/
def Chip.cmpNext (c : Chip) (n : Nat) : Nat := c.rd64 (Reg.BKB_CMP_NEXT_LO n) (Reg.BKB_CMP_NEXT_HI n)

/-- Set NEXT. -/
def Chip.setNext (c : Chip) (n v : Nat) : Chip := c.wr64 (Reg.BKB_CMP_NEXT_LO n) (Reg.BKB_CMP_NEXT_HI n) (v % 2 ^ 64)

/-- The first firing TGT + n × PER not earlier than a time. -/
def firstFiring (tgt per now : Nat) : Nat := if now ≤ tgt then tgt else tgt + (now - tgt + per - 1) / per * per

/-- Release the head frame of every gated queue that names a comparator; one that finds another
frame on the wire is delayed (R311, R328). -/
def Chip.launch (c : Chip) (n : Nat) : Chip :=
  [0, 1].foldl (fun c p => (List.range 4).foldl (fun c q =>
    c.when (c.txqHas p q && c.txqGated p q && c.fl (Reg.BKB_TXQ_CFG p q) 8 4 == n &&
        !((c.port p).released.any fun r => r.1 == q)) fun c =>
      c.onPort p fun x => { x with released := x.released ++ [(q, x.tx.isSome)] }) c) c

/-- Drive a TIM_OUT pin. -/
def Chip.timOut (c : Chip) (n : Nat) (f : Bool → Bool) : Chip :=
  c.onBkb fun b => { b with outs := b.outs.set n (f (b.outs.getD n false)) }

/-- A firing: counted, and its ACTION taken; PULSE and TOGGLE exist for comparators 0–3. -/
def Chip.cmpAct (c : Chip) (n : Nat) (late : Bool) : Chip :=
  let st := Reg.BKB_CMP_STAT n
  let c := c.bumpFl st 14 0
  let c := c.when late fun c => c.setBit st 15 true
  match c.fl (Reg.BKB_CMP_CFG n) 30 28 with
  | 1 => c.when (decide (n < 4)) fun c => c.timOut n fun _ => true
  | 2 => c.when (decide (n < 4)) fun c => c.timOut n fun b => !b
  | 3 => (c.setBit Reg.BKB_CMP_IRQ n true).irq (128 + n)
  | 4 => c.launch n
  | _ => c

/-- Fire: a one-shot clears its ENABLE, a periodic one advances NEXT. -/
def Chip.cmpFire (c : Chip) (n : Nat) (late : Bool) : Chip :=
  let c := c.cmpAct n late
  if c.cmpPer n = 0 then c.setBit (Reg.BKB_CMP_CFG n) 31 false else c.setNext n (c.cmpNext n + c.cmpPer n)

/-- Compute NEXT as on enable; a one-shot whose TGT is past fires at once with LATE. -/
def Chip.cmpArm (c : Chip) (n : Nat) : Chip :=
  let now := c.time.toNat
  if c.cmpPer n = 0 then
    (c.setNext n (c.cmpTgt n)).when (decide (c.cmpTgt n < now)) fun c => c.cmpFire n true
  else c.setNext n (firstFiring (c.cmpTgt n) (c.cmpPer n) now)

/-- COMPARATOR_FIRE: an enabled comparator whose NEXT network time has reached. -/
def Chip.cmpDue (c : Chip) (n : Nat) : Chip :=
  c.when (!c.gated 1 && c.bit (Reg.BKB_CMP_CFG n) 31 && decide (c.cmpNext n ≤ c.time.toNat)) fun c => c.cmpFire n false

/-- COMPARATOR_ENABLE: a write of BKB_CMPc_CFG. -/
def Chip.cmpCfgWrite (c : Chip) (n v : Nat) : Chip :=
  let r := Reg.BKB_CMP_CFG n
  let was := c.bit r 31
  (c.wr r (putFld (putFld v 27 24 0) 7 0 0)).when (bitOf v 31 && !was) fun c => c.cmpArm n

/-- A write of a _LO half is held (R327). -/
def Chip.holdLow (c : Chip) (reg v : Nat) : Chip :=
  c.onBkb fun b => { b with held := b.held.filter (fun e => e.1 != reg) ++ [(reg, BitVec.ofNat 32 v)] }

/-- The half held for a register, or its present value. -/
def Chip.heldLow (c : Chip) (reg : Nat) : Nat :=
  match c.bkb.held.find? fun e => e.1 == reg with
  | some e => e.2.toNat
  | none => c.rd reg

/-- A write of a _HI half applies the pair; an enabled comparator takes it at once. -/
def Chip.cmpPairWrite (c : Chip) (n lo hi v : Nat) : Chip :=
  ((c.wr lo (c.heldLow lo)).wr hi v).onBkb (fun b => { b with held := b.held.filter fun e => e.1 != lo }) |>.when
    (c.bit (Reg.BKB_CMP_CFG n) 31) fun c => c.cmpArm n

/-- What a step does to a comparator (R329): a periodic one takes the first firing not earlier than
the new time, those skipped are counted; a one-shot passed fires LATE. -/
def Chip.cmpStep (c : Chip) (old new n : Nat) : Chip :=
  if !c.bit (Reg.BKB_CMP_CFG n) 31 then c
  else if c.cmpPer n = 0 then
    c.when (decide (old < c.cmpTgt n) && decide (c.cmpTgt n < new)) fun c => c.cmpFire n true
  else
    let next := firstFiring (c.cmpTgt n) (c.cmpPer n) new
    let skip := if old < new then (next - c.cmpNext n) / c.cmpPer n else 0
    let st := Reg.BKB_CMP_STAT n
    (c.setNext n next).setFl st 31 16 (min 0xFFFF (c.fl st 31 16 + skip))

/-! ### Step and slew (R319, R320) -/

/-- A PAUSE in force at a step of the time keeps the quanta it has left (R308); one that has ended is forgotten. -/
def Chip.pauseStep (c : Chip) (old : Nat) (d : Int) (p : Nat) : Chip :=
  c.onPort p fun x => { x with
    pauseUntil := if old < x.pauseUntil.toNat then BitVec.ofInt 64 ((x.pauseUntil.toNat : Int) + d) else 0 }

/-- Apply a step: the slew in progress is cancelled, the comparators and a PAUSE take up the new time. -/
def Chip.stepBy (c : Chip) (d : Int) : Chip :=
  let old := c.time.toNat
  let c := (c.setTimeFine (((c.timeFine : Nat) : Int) + d * ((2 ^ 32 : Nat) : Int))).onTim fun x => { x with slewing := false, slewRem := 0 }
  let c := (c.setBit Reg.BKB_TIM_CTRL 9 false).setBit Reg.BKB_TIM_CTRL 4 false
  (List.range 16).foldl (fun c n => c.cmpStep old c.time.toNat n) ((c.pauseStep old d 0).pauseStep old d 1)

/-- A write of STEP: refused while STATE is LOCKED. -/
def Chip.stepWrite (c : Chip) : Chip :=
  if c.fl Reg.BKB_TIM_CTRL 1 0 = 1 then (c.setBit Reg.BKB_TIM_CTRL 4 false).raise Reg.BKB_STATUS 1
  else c.stepBy (sgn 64 (c.rd64 Reg.BKB_TIM_STEP_LO Reg.BKB_TIM_STEP_HI))

/-- SLEW_GO: the remainder is replaced, or CFG_ERR set for an amount out of range. -/
def Chip.slewGo (c : Chip) : Chip :=
  let a := sgn 32 (c.rd Reg.BKB_TIM_SLEW)
  let c := c.setBit Reg.BKB_TIM_CTRL 5 false
  if a < -1000000 ∨ 1000000 < a then c.cfgErr 1
  else (c.setBit Reg.BKB_TIM_CTRL 9 (a != 0)).onTim fun x =>
    { x with slewing := a != 0, slewRem := a * ((2 ^ 32 : Nat) : Int) }

/-- SLEW_COMPLETE: what remains is added. -/
def Chip.slewEnd (c : Chip) : Chip :=
  c.when c.tim.slewing fun c =>
    ((c.setTimeFine (((c.timeFine : Nat) : Int) + c.tim.slewRem)).setBit Reg.BKB_TIM_CTRL 9 false).onTim fun x =>
      { x with slewing := false, slewRem := 0 }

/-- `n` TIM cycles pass. -/
def Chip.timCycles (c : Chip) (n : Nat) : Chip :=
  let most : Int := ((n * c.slewStep : Nat) : Int)
  let d : Int := if c.tim.slewing then clampI (-most) most c.tim.slewRem else 0
  let left := c.tim.slewRem - d
  let on := c.tim.slewing && left != 0
  ((c.setTimeFine (((c.timeFine + n * c.tim.inc : Nat) : Int) + d)).setBit Reg.BKB_TIM_CTRL 9 on).onTim fun x =>
    { x with slewing := on, slewRem := if on then left else 0 }

/-- A write of BKB_TIM_CTRL: STATE, SLEW_PPM, then a slew and a step; a change to LOCKED writes a
time mark (R318, 16 R469). STATE is judged as written, before the step. -/
def Chip.timCtrlWrite (c : Chip) (g : Leg) (v : Nat) : Chip :=
  let r := Reg.BKB_TIM_CTRL
  let was := c.fl r 1 0
  let c := (c.setFl r 24 16 (fld v 24 16)).setFl r 1 0 (fld v 1 0)
  let c := c.when (fld v 1 0 == 1 && was != 1) fun c => c.timeMark g
  let c := c.when (bitOf v 5) Chip.slewGo
  c.when (bitOf v 4) Chip.stepWrite

/-! ### UTC offset and time inputs (R324, R330) -/

/-- UTC_OFS_APPLY: at the whole second the written offset comes into force. -/
def Chip.utcApply (c : Chip) : Chip := c.onTim fun x => { x with utcOfs := BitVec.ofNat 16 (c.fl Reg.BKB_UTC_OFS 15 0) }

/-- The stamp of an edge that comes now: the network time, ±4 ns (R330). -/
def Chip.edgeStamp (c : Chip) (t : BitVec 64) : BitVec 64 :=
  BitVec.ofNat 64 (clamp (c.time.toNat - 4) (c.time.toNat + 4) t.toNat)

/-- TIM_IN_EDGE: stamped and counted while BKB runs; TIM_IN0 shows whether a pulse per second is present, and a window
measured against one that is not is discarded (14 R415). -/
def Chip.timIn (c : Chip) (i : Nat) (time : BitVec 64) : Chip :=
  if c.gated 1 then c else
  let t := c.edgeStamp time
  let c := (c.wr64 (Reg.BKB_CAP_LO i) (Reg.BKB_CAP_HI i) t.toNat).bumpFl Reg.BKB_CAP_CNT (16 * i + 15) (16 * i)
  if i = 0 then
    let good := c.bkb.pps.any fun p => decide (p.toNat + 999000000 ≤ t.toNat) && decide (t.toNat ≤ p.toNat + 1001000000)
    let c := c.onBkb fun b => { b with pps := some t, ppsGood := good }
    c.when (!good) fun c => c.trimLost 2
  else c

/-! ### The commands -/

/-- TIM_INC_WRITE (R317). -/
def execTimIncWrite (v : Word) (s : State) : Host.Outcome State Fault Refusal :=
  s.onChip fun c => c.onReg Reg.BKB_TIM_INC_HI anyIni fun c => c.incWrite v.toNat

/-- TIM_STEP: a write of BKB_TIM_CTRL (R319). -/
def execTimStep (v : Word) (s : State) : Host.Outcome State Fault Refusal :=
  s.onChipSee fun s => s.chip.onReg Reg.BKB_TIM_CTRL anyIni fun c => c.timCtrlWrite s.leg v.toNat

/-- SLEW_GO: a write of BKB_TIM_CTRL (R320). -/
def execSlewGo (v : Word) (s : State) : Host.Outcome State Fault Refusal :=
  s.onChipSee fun s => s.chip.onReg Reg.BKB_TIM_CTRL anyIni fun c => c.timCtrlWrite s.leg v.toNat

/-- SLEW_COMPLETE (R320). -/
def execSlewComplete (s : State) : Host.Outcome State Fault Refusal := s.onChip Chip.slewEnd

/-- TIM_STATE_WRITE: a write of BKB_TIM_CTRL (R318). -/
def execTimStateWrite (v : Word) (s : State) : Host.Outcome State Fault Refusal :=
  s.onChipSee fun s => s.chip.onReg Reg.BKB_TIM_CTRL anyIni fun c => c.timCtrlWrite s.leg v.toNat

/-- UTC_OFS_APPLY (R324). -/
def execUtcOfsApply (s : State) : Host.Outcome State Fault Refusal := s.onChip Chip.utcApply

/-- COMPARATOR_FIRE (R327, R328). -/
def execComparatorFire (cmp : Fin 16) (s : State) : Host.Outcome State Fault Refusal :=
  s.onChip fun c => c.cmpDue cmp

/-- PULSE_END (R328). -/
def execPulseEnd (out : Fin 4) (s : State) : Host.Outcome State Fault Refusal :=
  s.onChip fun c => c.timOut out fun _ => false

/-- COMPARATOR_ENABLE (R327). -/
def execComparatorEnable (cmp : Fin 16) (v : Word) (s : State) : Host.Outcome State Fault Refusal :=
  s.onChip fun c => c.onReg (Reg.BKB_CMP_CFG cmp) anyIni fun c => c.cmpCfgWrite cmp v.toNat

/-- COMPARATOR_TGT_WRITE (R327). -/
def execComparatorTgtWrite (cmp : Fin 16) (v : Word) (s : State) : Host.Outcome State Fault Refusal :=
  s.onChip fun c => c.onReg (Reg.BKB_CMP_TGT_HI cmp) anyIni fun c => c.cmpPairWrite cmp (Reg.BKB_CMP_TGT_LO cmp) (Reg.BKB_CMP_TGT_HI cmp) v.toNat

/-- COMPARATOR_PER_WRITE (R327). -/
def execComparatorPerWrite (cmp : Fin 16) (v : Word) (s : State) : Host.Outcome State Fault Refusal :=
  s.onChip fun c => c.onReg (Reg.BKB_CMP_PER_HI cmp) anyIni fun c => c.cmpPairWrite cmp (Reg.BKB_CMP_PER_LO cmp) (Reg.BKB_CMP_PER_HI cmp) v.toNat

/-- TIM_IN_EDGE (R330). -/
def execTimInEdge (pin : Fin 2) (time : BitVec 64) (s : State) : Host.Outcome State Fault Refusal :=
  s.onChip fun c => c.timIn pin time

end Sys2Proof.Machine
end

