-- ==== Sys2Proof/Machine/Update.lean ====
section
/-!
DEFINITION. Tinder: the checks on an image, the refusal conditions, the chunk journal, the copy into
IMAGE, the load of the image, and the chain (13_update_and_tinder.md).
-/
namespace Sys2Proof.Machine

/-! ### The journal (R396) -/

/-- What the journal holds now. -/
def Upd.journal (u : Upd) : Journal :=
  { state := u.state, next := u.next, verified := u.verified, installed := u.installed, pending := u.pending
    series := u.series, order := u.order }

/-- Tinder with what a journal holds. -/
def Upd.load (u : Upd) (j : Journal) : Upd :=
  { u with
    state := j.state, next := j.next, verified := j.verified, installed := j.installed, pending := j.pending
    series := j.series, order := j.order }

/-- The bytes of a copy that its CRC-32 covers (their layout: DESIGN CHOICE, log entry 52). -/
def Journal.bytes (j : Journal) (num : Nat) : List Byte :=
  let image (m : Option Manifest) : List Byte := (m.elim [] fun m => leBytes 4 m.image.length ++ m.image) ++ leBytes 4 0
  leBytes 4 num ++ leBytes 1 j.state ++ leBytes 2 j.next ++ image j.installed ++ image j.pending ++
    leBytes 512 ((j.verified.map fun k => 2 ^ k).foldl (· + ·) 0) ++
    ((List.range 8).flatMap fun i => leBytes 4 (Tab.get (fun _ => (0 : Word)) j.series i).toNat) ++
    j.order.flatMap fun e => leBytes 2 e.1 ++ leBytes 2 e.2

/-- Whether a copy of the journal is valid. -/
def JournalCopy.good (x : JournalCopy) : Bool := x.crc == crc32 (x.journal.bytes x.num)

/-- Write a change of the journal over the older of the two copies. -/
def Upd.save (u : Upd) : Upd :=
  if (u.copies.head?.map (·.journal)) = some u.journal then u
  else
    let num := ((u.copies.head?.map (·.num)).getD 0 + 1) % 2 ^ 32
    { u with copies := ⟨num, u.journal, crc32 (u.journal.bytes num)⟩ :: u.copies.take 1 }

/-- Change Tinder's journal and chain. -/
def Chip.onUpd (c : Chip) (f : Upd → Upd) : Chip := { c with upd := (f c.upd).save }

/-! ### Tinder's commands to Clamp queue 1 (R397) -/

/-- A READ or WRITE of sectors of a namespace; the entry names no buffer, since Tinder's lies in the Guard core's own
memory (DESIGN CHOICE, log entry 52). -/
def Chip.tinderCmd (c : Chip) (op ns flags sector count : Nat) : ClmCmd :=
  { n := c.clm.accepted, queue := 1, idx := c.clmqNext 1, owner := none, status := 0, seq := 0, nlost := 0, waits := []
    entry := padTo 32 (leBytes 1 op ++ leBytes 1 ns ++ leBytes 1 flags ++ [0] ++ leBytes 5 sector ++ [0] ++ leBytes 2 count)
    reads := 0, todo := [] }

/-- Whether the Clamp takes such a command at once: the commands of queue 1 before it are taken, and it need not
wait. -/
def Chip.tinderTakes (c : Chip) (k : ClmCmd) : Bool :=
  c.clmTaking && c.bit (Reg.CLM_QCFG 1) 31 && decide (c.clm.cmds.length < 32) &&
    c.clmqNext 1 == c.fl (Reg.CLM_QPI 1) 9 0 % c.clmqSize 1 && (c.cmdJudge k != 0 || !c.cmdWaits k)

/-- Tinder gives a command: CLM_QPI1 passes it, and the Clamp takes it. -/
def Chip.tinderEnter (c : Chip) (k : ClmCmd) : Chip :=
  (c.setFl (Reg.CLM_QPI 1) 9 0 ((k.idx + 1) % c.clmqSize 1)).cmdEnter k

/-- What a unit holds: the write buffer first, then its page, else zeros. -/
def Chip.unitContent (c : Chip) (u : Nat) : List Byte :=
  match c.clm.buf.find? fun x => x.unit == u with
  | some x => x.data
  | none => ((entryPage (c.mapEntry u)).bind c.nandGet).elim zeroPage (·.data)

/-- Units that sectors of a namespace lie in. -/
def Chip.nsUnits (c : Chip) (ns sector count : Nat) : List Nat :=
  let first := 4 * c.nsStart ns + sector
  upFrom (first / 4) ((first + count + 3) / 4 - first / 4)

/-- Bytes of sectors of a namespace. -/
def Chip.nsRead (c : Chip) (ns sector count : Nat) : List Byte :=
  (c.nsUnits ns sector count).flatMap c.unitContent |>.drop ((4 * c.nsStart ns + sector) % 4 * 4096)
    |>.take (count * 4096)

/-- Tinder reads sectors by a READ, which completes with it (log entry 52): the bytes, or none where the Clamp does not
take it or turns it away. -/
def Chip.tinderRead (c : Chip) (ns sector count : Nat) : Option (List Byte) × Chip :=
  let k := c.tinderCmd 1 ns 0 sector count
  if !c.tinderTakes k || c.cmdJudge k != 0 then (none, c)
  else
    let data := c.nsRead ns sector count
    let away := (c.nsUnits ns sector count).filter fun u => !(c.clm.buf.any fun x => x.unit == u)
    let pages := (away.filter fun u => (entryPage (c.mapEntry u)).isSome).length
    let lost := ((away.filter fun u => c.mapEntry u == lostEntry).map (c.sectorsIn k)).foldl (· + ·) 0
    let d := ((c.tinderEnter k).clmSeen (away.map fun u => (c.mapAddr u, 4))).countReads pages []
    (some data, d.cmdFinish { k with nlost := lost })

/-- Tinder gives a WRITE of bytes to sectors, which is turned away with its STATUS or goes on as any other; `flags` 2
is SYNC. -/
def Chip.tinderWrite (c : Chip) (ns flags sector : Nat) (data : List Byte) : Chip :=
  let k := c.tinderCmd 2 ns flags sector (data.length / 4096)
  let d := c.tinderEnter k
  if c.cmdJudge k ≠ 0 then d.cmdStatus k.n (c.cmdJudge k) else d.writeData k data

/-- First MAINT sector of the staging area. -/
def Chip.updStage (c : Chip) : Nat := c.rd Reg.GRD_UPD_STAGE + c.fl Reg.GRD_UPD_STAGE_HI 7 0 * 2 ^ 32

/-- Staged chunk `k` (R392). -/
def Chip.stagedChunk (c : Chip) (k : Nat) : List Byte := c.nsRead 3 (c.updStage + 16 * k) 16

/-- Tinder reads staged chunk `k`. -/
def Chip.readStaged (c : Chip) (k : Nat) : Option (List Byte) × Chip := c.tinderRead 3 (c.updStage + 16 * k) 16

/-- Chunk `k` of IMAGE. -/
def Chip.imageChunk (c : Chip) (k : Nat) : List Byte := c.nsRead 1 (16 * k) 16

/-! ### Images (R390–R393) -/

/-- Bytes of a whole image whose header gives a BODYLEN. -/
def imageLen (bodyLen : Nat) : Nat := 64 + (bodyLen + 15) / 16 * 16 + 128

/-- An image's KIND and SERIES. -/
def imgKind (b : List Byte) : Nat := leAt b 4 1

/-- SERIES of an image. -/
def imgSeries (b : List Byte) : Nat := leAt b 12 4

/-- The body of an image. -/
def imgBody (b : List Byte) : List Byte := slice b 64 (leAt b 8 4)

/-- The trailer of an image. -/
def imgTrailer (b : List Byte) : List Byte := slice b (imageLen (leAt b 8 4) - 128) 128

/-- Kinds of Table 1. -/
def tableKind (k : Nat) : Bool := decide (1 ≤ k) && decide (k ≤ 7)

/-- Whether every byte from `off` to `off + n - 1` is 0. -/
def zeros (b : List Byte) (off n : Nat) : Bool := (slice b off n).all (· == 0)

/-- Check 1: header fields and WCRC. -/
def headerGood (b : List Byte) : Bool :=
  (tableKind (imgKind b) || imgKind b == 0x10) && wrapperGood b (imgKind b) 1048576 && zeros b 6 2 && zeros b 18 2 &&
    zeros b 52 8

/-- The manifest an image's body spells (Table 4). -/
def Manifest.ofImage (b : List Byte) : Manifest :=
  let d := imgBody b
  let n := leAt d 6 2
  { image := b, series := BitVec.ofNat 32 (imgSeries b), imgLen := leAt d 0 4, nChunk := leAt d 4 2, entry := BitVec.ofNat 64 (leAt d 8 8),
    loads := (List.range n).map fun i => (leAt d (32 + 16 * i) 4, leAt d (36 + 16 * i) 4, leAt d (40 + 16 * i) 8)
    chash := (List.range (leAt d 4 2)).map fun i => slice d (32 + 16 * n + 32 * i) 32 }

/-- Whether `n` bytes at `a` lie in DRAM or in one flow core's local memory (R392). -/
def Chip.loadable (c : Chip) (a n : Nat) : Bool :=
  c.regionOf a == c.regionOf (a + max n 1 - 1) &&
    match c.regionOf a with
    | .dram | .flowMemory _ => true
    | _ => false

/-- Body rules of a manifest: Table 4, each load within the image and to memory, and room in IMAGE. -/
def Chip.manifestGood (c : Chip) (b : List Byte) : Bool :=
  let d := imgBody b
  let m := Manifest.ofImage b
  m.nChunk == (m.imgLen + 65535) / 65536 && decide (1 ≤ m.nChunk) && decide (m.nChunk ≤ 4096) && decide (1 ≤ m.loads.length) &&
    decide (m.loads.length ≤ 16) && zeros d 16 16 && d.length == 32 + 16 * m.loads.length + 32 * m.nChunk &&
    (m.loads.all fun l => decide (l.1 + l.2.1 ≤ m.imgLen) && c.loadable l.2.2 l.2.1) &&
    decide (4 * m.nChunk ≤ c.nsSize 1)

/-- The chain order a body spells (Table 3). -/
def orderOf (d : List Byte) : List (Nat × Nat) :=
  (List.range (leAt d 0 2)).map fun i => (leAt d (4 + 4 * i) 4 % 4096, leAt d (4 + 4 * i) 4 / 2 ^ 16 % 4096)

/-- Body rules of each kind (check 7). -/
def Chip.bodyGood (c : Chip) (b : List Byte) : Bool :=
  let d := imgBody b
  match imgKind b with
  | 1 => decide (d.length ≤ 131072) && c.fmtImageGood (pieces 512 d)
  | 2 => decide (d.length ≤ 65536) && (pieces 256 d).all fun e => e.length == 256 && crvGood e
  | 3 =>
    let l := leAt d 0 2
    decide (1 ≤ l) && decide (l ≤ 128) && zeros d 2 2 && d.length == 4 + (l + 3) / 4 * 4 &&
      ((slice d 4 l).all fun x => decide (x.toNat < 128)) && zeros d (4 + l) (d.length - 4 - l)
  | 4 => d.length == 200 && (List.range 12).all fun i => zeros d (16 * i + 12) 4
  | 5 => d.length == 512
  | 6 => calendarValid d
  | 7 =>
    let n := leAt d 0 2
    decide (1 ≤ n) && decide (n ≤ 4096) && zeros d 2 2 && d.length == 4 + 4 * n &&
      (List.range n).all fun i => leAt d (4 + 4 * i) 4 / 2 ^ 12 % 16 == 0 && decide (leAt d (4 + 4 * i) 4 < 2 ^ 28)
  | 0x10 => c.manifestGood b
  | _ => false

/-- Place of a kind among GRD_UPD_SERIESi. -/
def seriesIdx (kind : Nat) : Nat := if kind = 0x10 then 0 else kind

/-- The accepted series of a kind. -/
def Chip.accepted (c : Chip) (kind : Nat) : Nat := (Tab.get (fun _ => (0 : Word)) c.upd.series (seriesIdx kind)).toNat

/-- Record an accepted series. -/
def Chip.accept (c : Chip) (b : List Byte) : Chip :=
  c.onUpd fun u => { u with
    series := Tab.put (fun _ => (0 : Word)) u.series (seriesIdx (imgKind b)) (BitVec.ofNat 32 (imgSeries b)) }

/-- GRD_UPD_AUTH. -/
def Chip.updAuth (c : Chip) : List Byte := (List.range 8).flatMap fun k => leBytes 4 (c.rd (Reg.GRD_UPD_AUTH k))

/-- Checks 1–7 of Table 5 in order: the RESULT of the first that fails, 1 when none does. -/
def Chip.judgeImage (c : Chip) (b : List Byte) : Nat :=
  let t := imgTrailer b
  let x := beVal (slice t 0 32)
  let y := beVal (slice t 32 32)
  let node := leAt b 16 2
  if !headerGood b then 2
  else if sha256 (slice t 0 64) != c.updAuth then 3
  else if !(curve256.onCurve x y && curve256.verify x y (sha256 (b.take 64)) (slice t 64 64)) then 3
  else if sha256 (imgBody b) != slice b 20 32 then 4
  else if node ≠ 0xFFFF ∧ node ≠ c.fl Reg.BKB_NODE 11 0 then 5
  else if imgSeries b < c.accepted (imgKind b) then 6
  else if !c.bodyGood b then 7
  else 1

/-! ### Refusal conditions (R394, R395) -/

/-- Whether a calendar has a tariff action at a minute boundary: one of the local day's profile, or a change of tariff
that its rules make there. -/
def Calendar.actsAt (k : Calendar) (t : Nat) : Bool :=
  let (day, minute) := localTime (some k) t
  ((k.profile day).any fun a => a.1 == minute) || k.tariffAt t != k.tariffAt ((t : Int) - 60)

/-- Whether a boundary that the legal engine has scheduled lies within 120 s of now, on its clock: an interval close
while one is open, demand and billing closes, and tariff actions, those of the calendar also while an override holds
(DEDUCED, log entry 50). -/
def Leg.boundaryNear (g : Leg) : Bool :=
  let cfg := g.metCfg.toNat
  let first := g.secs - 120
  let last := g.secs + 120
  let near (n : Nat) : Bool := decide (0 < n) && decide (first ≤ last / n * n)
  (g.mi.isSome && near (miLen cfg)) || near (subLen cfg) || !(billsIn g.active (first - 1) last).isEmpty ||
    decide (0 < g.billReqs) || g.overrideReq.isSome ||
    (g.active.any fun k => (upFrom ((first + 59) / 60) (last / 60 + 1 - (first + 59) / 60)).any fun m => k.actsAt (60 * m)) ||
    (g.activateAt.any fun t => decide (first ≤ t) && decide (t ≤ last)) ||
    (g.override.any fun o => decide (first ≤ o.2) && decide (o.2 ≤ last))

/-- The bits of Table 6. -/
def State.refusals (s : State) : Nat :=
  let c := s.chip
  let enclosure := c.bit Reg.GRD_TMP_CTRL 2 && c.grd.present.contains (c.fl Reg.GRD_TMP_CTRL 1 0)
  b2n (decide (c.fl Reg.CRP_BKP_STATUS 22 16 < 80)) + 2 * b2n (c.bit Reg.GRD_UPD_CTRL 0) + 4 * b2n enclosure +
    8 * b2n (c.crp.power == .ride) + 16 * b2n s.leg.boundaryNear + 32 * b2n (c.bit Reg.BKB_PAIR_STATUS 9) +
    64 * b2n s.lc.tripped

/-- Report a RESULT. -/
def Chip.updResult (c : Chip) (r : Nat) : Chip := c.setFl Reg.GRD_UPD_STATUS 11 8 r

/-- Report a refusal under R393: counted and recorded. -/
def Chip.updRefuse (c : Chip) (r refuse kind series : Nat) : Chip :=
  ((c.updResult r).bump Reg.GRD_UPD_REFCNT).record 0xA12
    (leBytes 1 r ++ leBytes 1 refuse ++ leBytes 1 kind ++ leBytes 4 series)

/-- Check the refusal conditions: REFUSE shows them; none may be present. -/
def State.checked (s : State) (kind series : Nat) (go : Chip → Chip) : Chip :=
  let bits := s.refusals
  let c := s.chip.setFl Reg.GRD_UPD_STATUS 22 16 bits
  if bits = 0 then go c else c.updRefuse 8 bits kind series

/-! ### The chain (R402, R403) -/

/-- Own node number. -/
def Chip.node (c : Chip) : Nat := c.fl Reg.BKB_NODE 11 0

/-- The parent in the chain order; none for a node absent from it. -/
def Chip.chainParent (c : Chip) : Option Nat := (c.upd.order.find? fun e => e.1 == c.node).map (·.2)

/-- The children, at most 8. -/
def Chip.children (c : Chip) : List Nat :=
  if c.chainParent.isNone then [] else ((c.upd.order.filter fun e => e.2 == c.node).map (·.1)).take 8

/-- The payload of a chain frame from a node (Table 8). -/
def ChainFrame.bytes (f : ChainFrame) (src : Nat) : List Byte :=
  let body := leBytes 1 1 ++ leBytes 1 f.typ ++ leBytes 2 src ++ leBytes 4 f.series.toNat ++ leBytes 1 f.kind ++ [0] ++
    leBytes 2 f.chunk ++ leBytes 4 f.offset ++ leBytes 2 f.data.length ++ [0, 0] ++ f.data
  body ++ leBytes 4 (crc32 body)

/-- A chain frame as a port sends it, without FCS: to the node's address, from the port's, under BKB_ETYPE.CHAIN. -/
def Chip.chainFrame (c : Chip) (p : Nat) (f : ChainFrame) : List Byte :=
  padTo 60 (beBytes 6 (Config.nodeMac f.dest).toNat ++ leBytes 4 (c.rd (Reg.BKB_MAC_LO p)) ++
    leBytes 2 (c.rd (Reg.BKB_MAC_HI p)) ++ beBytes 2 (c.fl Reg.BKB_ETYPE 31 16) ++ f.bytes c.node)

/-- Send a chain frame, over each port that runs (DESIGN CHOICE, log entry 51). -/
def Chip.chainSend (c : Chip) (f : ChainFrame) : Chip :=
  [0, 1].foldl (fun c p => c.when (c.portUp p && c.link p) fun c =>
    (c.onPort p fun x => { x with sent := c.chainFrame p f :: x.sent }).bump (Reg.BKB_TX_OK p)) c

/-- Send bytes to a node in pieces of at most 1,024. -/
def Chip.sendPieces (c : Chip) (typ dest series kind chunk off : Nat) (data : List Byte) : Chip :=
  (pieces 1024 data).zipIdx.foldl (fun c p =>
    c.chainSend ⟨typ, dest, BitVec.ofNat 32 series, kind, chunk, off + 1024 * p.2, p.1⟩) c

/-- Bytes of the chunk `k` of a manifest that lie in the image. -/
def Manifest.chunkLen (m : Manifest) (k : Nat) : Nat := min 65536 (m.imgLen - 65536 * k)

/-- Send a chunk's bytes to a node. -/
def Chip.sendBytes (c : Chip) (m : Manifest) (k : Nat) (data : List Byte) (dest : Nat) : Chip :=
  c.sendPieces 2 dest m.series.toNat 0x10 k 0 (data.take (m.chunkLen k))

/-- Send a staged chunk to a node; none goes while the Clamp does not give it. -/
def Chip.sendChunk (c : Chip) (m : Manifest) (k dest : Nat) : Chip :=
  match c.readStaged k with
  | (some data, c) => c.sendBytes m k data dest
  | (none, c) => c

/-- Forward an image that has passed to the children: header, trailer and a manifest's body in TYPE 1
pieces, a table's body in TYPE 2 pieces (DESIGN CHOICE, log entry 51). -/
def Chip.forwardImage (c : Chip) (b : List Byte) : Chip :=
  let n := imageLen (leAt b 8 4)
  let k := imgKind b
  c.children.foldl (fun c d =>
    if k = 0x10 then c.sendPieces 1 d (imgSeries b) k 0 0 (slice b 0 n)
    else ((c.sendPieces 1 d (imgSeries b) k 0 0 (b.take 64)).sendPieces 2 d (imgSeries b) k 0 64
      (slice b 64 (n - 192))).sendPieces 1 d (imgSeries b) k 0 (n - 128) (imgTrailer b)) c

/-- Ask the parent for a chunk; the root has none. -/
def Chip.requestChunk (c : Chip) (m : Manifest) (k : Nat) : Chip :=
  match c.chainParent with
  | some p => if p = 0xFFF then c else c.chainSend ⟨3, p, m.series, 0x10, k, 0, []⟩
  | none => c

/-- Chunks of the pending image not verified. -/
def Chip.missing (c : Chip) (m : Manifest) : List Nat :=
  (List.range m.nChunk).filter fun k => !c.upd.verified.contains k

/-- Payload of the LOADER records. -/
def Chip.loaderBody (c : Chip) : List Byte := leBytes 1 c.upd.state ++ leBytes 2 c.upd.next

/-- REQUEST frames for every chunk whose verified bit is clear (R401). -/
def Chip.requestMissing (c : Chip) : Chip :=
  match c.upd.pending with
  | some m => (c.missing m).foldl (fun c k => c.requestChunk m k) c
  | none => c

/-- Enter LOADER, with a record where the state was another, and ask for what is missing (R401). -/
def Chip.enterLoader (c : Chip) : Chip :=
  let was := c.upd.state
  let c := c.onUpd fun u => { u with state := 5, retried := false, write := none }
  (c.when (was != 5) fun c => c.emberPost 0xA10 c.loaderBody true true).requestMissing

/-- The copy is complete. -/
def Chip.copyEnds (c : Chip) : Chip :=
  let was := c.upd.state
  let c := c.onUpd fun u => { u with state := 4, retried := false }
  c.when (was == 5) fun c => c.emberPost 0xA11 c.loaderBody false true

/-! ### The copy (R396–R398) -/

/-- Whether Tinder copies: COPYING, or LOADER with every chunk verified, and not stopped by RIDE. -/
def Chip.copying (c : Chip) (m : Manifest) : Bool :=
  (c.upd.state == 3 || (c.upd.state == 5 && (c.missing m).isEmpty)) && !c.upd.paused && decide (c.upd.next < m.nChunk)

/-- Copy chunk NEXT: it is read from staging, checked, and written to IMAGE with SYNC. A chunk that fails its check
moves the state to LOADER. Where the Clamp does not take the commands now, nothing is begun. -/
def Chip.copyNext (c : Chip) : Chip :=
  match c.upd.pending with
  | none => c
  | some m =>
    let k := c.upd.next
    if !c.copying m || c.upd.write.isSome then c
    else match c.readStaged k with
    | (none, c) => c
    | (some data, d) =>
      if sha256 data != m.chash.getD k [] then
        (d.onUpd fun u => { u with verified := u.verified.filter (· != k) }).enterLoader
      else
        let w := d.tinderCmd 2 1 2 (16 * k) 16
        if !d.tinderTakes w then d
        else (d.tinderWrite 1 2 (16 * k) data).onUpd fun u => { u with write := some (w.n, 0) }

/-- CHUNK_COPY_DONE: Tinder finds that the WRITE of chunk NEXT has ended, with the STATUS that the command names. NEXT
advances and the next chunk is copied; a WRITE that ended otherwise is given once more, and then LOADER follows. With
no WRITE in progress the copy goes on where the Clamp kept it waiting. -/
def Chip.chunkCopied (c : Chip) (status : Nat) : Chip :=
  match c.upd.pending with
  | none => c
  | some m =>
    if !c.copying m then c
    else match c.upd.write with
    | none => c.copyNext
    | some (_, st) =>
      if st = 0 ∨ st ≠ status then c
      else if st = 1 then
        let k := c.upd.next
        let c := c.onUpd fun u => { u with next := k + 1, retried := false, write := none }
        if k + 1 = m.nChunk then c.copyEnds else c.copyNext
      else if c.upd.retried then c.enterLoader
      else (c.onUpd fun u => { u with retried := true, write := none }).copyNext

/-- Tinder issues no further step (R398). -/
def Chip.tinderStop (c : Chip) : Chip := c.onUpd fun u => { u with paused := true, retried := false, write := none }

/-- COPY_RESUME: Tinder goes on at NEXT once the Clamp is ready. -/
def Chip.copyResume (c : Chip) : Chip :=
  c.when (c.clmUp && c.clmState == 4) fun c =>
    (c.onUpd fun u => if u.paused then { u with paused := false, retried := false } else u).copyNext

/-- Whether a frame's FCRC matches (Table 8). -/
def chainFcrcGood (f : List Byte) : Bool := crc32 (f.take (20 + leAt f 16 2)) == leAt f (20 + leAt f 16 2) 4

/-- Whether frames of the chain arrive: BKB reached and ETH running. -/
def Chip.chainUp (c : Chip) : Bool := !c.gated 1 && domainRuns c.crp.power 9

/-- Whether a frame, its FCRC apart, is one that this node takes: VER and TYPE good, from the parent or, for a
REQUEST or a HAVE, from a child; the root takes images from anyone. -/
def Chip.chainAddressed (c : Chip) (f : List Byte) (typ : Nat) : Bool :=
  let len := leAt f 16 2
  let src := leAt f 2 2 % 4096
  let up := match c.chainParent with | some p => p == 0xFFF || p == src | none => false
  c.chainUp && f.length == 24 + len && leAt f 0 1 == 1 && leAt f 1 1 == typ &&
    (if typ ≤ 2 then decide (1 ≤ len) && decide (len ≤ 1024) && up else len == 0 && c.children.contains src)

/-- A chain frame that this node takes. -/
def Chip.chainTakes (c : Chip) (f : List Byte) (typ : Nat) : Bool := c.chainAddressed f typ && chainFcrcGood f

/-- A table of bytes with some put in. -/
def putBytes (t : List (Nat × Byte)) (off : Nat) (d : List Byte) : List (Nat × Byte) :=
  d.zipIdx.foldl (fun t e => Tab.ins (Tab.del t (off + e.2)) (off + e.2) e.1) t

/-- A manifest that passed checks 1–7 is accepted, or refused while another is being copied. -/
def Chip.takeManifest (c : Chip) (b : List Byte) : Chip :=
  let m := Manifest.ofImage b
  let same := match c.upd.pending with | some p => p.series == m.series | none => false
  if decide (3 ≤ c.upd.state) && !same then c.updResult 10
  else if imgSeries b = c.accepted 0x10 then c.updResult 1
  else ((c.accept b).onUpd fun u => { u with
    state := 1, next := 0, verified := [], pending := some m, pieces := [], retried := false }).updResult 1

/-- A table that passed checks 1–7: a reload, or one whose greater SERIES is recorded when no refusal
condition holds; a chain order is taken up (R393, R404). -/
def State.takeTable (s : State) (b : List Byte) : Chip :=
  let take (c : Chip) : Chip := c.when (imgKind b == 7) fun c => c.onUpd fun u => { u with order := orderOf (imgBody b) }
  if imgSeries b = s.chip.accepted (imgKind b) then (take s.chip).updResult 1
  else s.checked (imgKind b) (imgSeries b) fun c => (take (c.accept b)).updResult 1

/-- A whole image has come over the chain: it is judged, forwarded, and taken (R403). -/
def State.imageArrived (s : State) (b : List Byte) : Chip :=
  let c := s.chip
  match c.judgeImage b with
  | 1 =>
    if imgKind b = 0x10 then
      let d := c.takeManifest b
      if d.fl Reg.GRD_UPD_STATUS 11 8 = 1 then d.forwardImage b else d
    else { s with chip := c.forwardImage b }.takeTable b
  | r => c.updRefuse r 0 (imgKind b) (imgSeries b)

/-- A piece of an image at an offset: kept until the image is whole. -/
def State.imagePiece (s : State) (f : List Byte) : Chip :=
  let kind := leAt f 8 1
  let series := BitVec.ofNat 32 (leAt f 4 4)
  let u := s.chip.upd
  let had := ((u.arriving.find? fun a => a.kind == kind && a.series == series).map (·.got)).getD []
  let got := putBytes had (leAt f 12 4) (slice f 20 (leAt f 16 2))
  let rest := u.arriving.filter fun a => a.kind != kind
  let bytes := got.map (·.2)
  let whole := decide (64 ≤ got.length) && got.map (·.1) == List.range (imageLen (leAt bytes 8 4))
  let tooLong := decide (imageLen 1048576 < got.length)
  let c := s.chip.onUpd fun u => { u with
    arriving := if whole || tooLong then rest else rest ++ [⟨kind, series, got⟩] }
  if whole then { s with chip := c }.imageArrived bytes else c

/-- Whether the Clamp takes the WRITE that stages chunk `k`, and does not turn it away. -/
def Chip.stagingTakes (c : Chip) (k : Nat) : Bool :=
  let w := c.tinderCmd 2 3 0 (c.updStage + 16 * k) 16
  c.tinderTakes w && c.cmdJudge w == 0

/-- A chunk has been received whole: it is checked, staged, forwarded and reported, or asked for again
(R403). Once none is missing the image is STAGED, or in LOADER its copy begins (R401). -/
def Chip.chunkArrived (c : Chip) (m : Manifest) (k : Nat) (data : List Byte) : Chip :=
  let c := c.onUpd fun u => { u with pieces := [] }
  if sha256 data != m.chash.getD k [] then c.requestChunk m k
  else if !c.stagingTakes k then c.requestChunk m k
  else
    let c := (c.tinderWrite 3 0 (c.updStage + 16 * k) data).onUpd fun u => { u with verified := u.verified ++ [k] }
    let c := c.children.foldl (fun c d => c.sendBytes m k data d) c
    let c := match c.chainParent with
      | some p => if p = 0xFFF then c else c.chainSend ⟨4, p, m.series, 0x10, k, 0, []⟩
      | none => c
    if (c.missing m).isEmpty then
      if c.upd.state = 1 then c.onUpd fun u => { u with state := 2 } else c.copyNext
    else c

/-- Whether a frame carries a piece of a chunk that the pending image still lacks. -/
def Chip.chunkWanted (c : Chip) (m : Manifest) (f : List Byte) : Bool :=
  let k := leAt f 10 2
  (c.upd.state == 1 || c.upd.state == 5) && m.series.toNat == leAt f 4 4 && decide (k < m.nChunk) &&
    !c.upd.verified.contains k && decide (leAt f 12 4 + leAt f 16 2 ≤ 65536)

/-- A piece that fails FCRC is dropped, and the chunk that it names requested again (R403). -/
def Chip.pieceLost (c : Chip) (f : List Byte) : Chip :=
  match c.upd.pending with
  | none => c
  | some m => c.when (c.chainAddressed f 2 && leAt f 8 1 == 0x10 && c.chunkWanted m f) fun c => c.requestChunk m (leAt f 10 2)

/-- A piece of a chunk of the pending image; pieces of another chunk drop what came of it before. -/
def Chip.chunkPiece (c : Chip) (f : List Byte) : Chip :=
  match c.upd.pending with
  | none => c
  | some m =>
    let k := leAt f 10 2
    if !c.chunkWanted m f then c
    else
      let had := if c.upd.pieceChunk = k then c.upd.pieces else []
      let got := putBytes had (leAt f 12 4) (slice f 20 (leAt f 16 2))
      let c := c.onUpd fun u => { u with pieces := got, pieceChunk := k }
      let need := m.chunkLen k
      if (got.filter fun e => decide (e.1 < need)).length = need then
        c.chunkArrived m k (padTo 65536 ((got.filter fun e => decide (e.1 < need)).map (·.2)))
      else c

/-- In LOADER Tinder serves receive queue 2 itself: the frame it takes up passes the oldest slot (R401; DESIGN CHOICE,
log entry 51). -/
def Chip.loaderServes (c : Chip) : Chip :=
  let n := ringSize (c.fl (Reg.BKB_RXQ_CFG 2) 3 0)
  let ci := c.rd (Reg.BKB_RXQ_CI 2) % n
  c.when (c.upd.state == 5 && c.chainUp && ci != c.rd (Reg.BKB_RXQ_PI 2) % n) fun c =>
    c.wr (Reg.BKB_RXQ_CI 2) ((ci + 1) % n)

/-- CHAIN_HEADER_PIECE. -/
def State.headerPiece (s : State) (f : List Byte) : Chip :=
  if s.chip.chainTakes f 1 then s.imagePiece f else s.chip

/-- CHAIN_BODY_PIECE. -/
def State.bodyPiece (s : State) (f : List Byte) : Chip :=
  if !chainFcrcGood f then s.chip.pieceLost f
  else if !s.chip.chainAddressed f 2 then s.chip
  else if leAt f 8 1 = 0x10 then s.chip.chunkPiece f
  else s.imagePiece f

/-- CHAIN_REQUEST: a child's request for a chunk that this node has verified is answered. -/
def Chip.chainRequest (c : Chip) (f : List Byte) : Chip :=
  if !c.chainTakes f 3 then c
  else match c.upd.pending with
  | some m => c.when (m.series.toNat == leAt f 4 4 && c.upd.verified.contains (leAt f 10 2)) fun c =>
      c.sendChunk m (leAt f 10 2) (leAt f 2 2 % 4096)
  | none => c

/-! ### The load (R399, R400) -/

/-- The cores are held: the cluster's, and every flow core in reset. -/
def Chip.holdCores (c : Chip) : Chip :=
  let c := (c.wr Reg.APC_CORE_RUN 0).onApc fun a => { a with started := [], harts := [] }
  (List.range 24).foldl (fun c n => c.coreHold n) c

/-- Chunks that a manifest's loads read. -/
def Manifest.chunks (m : Manifest) : List Nat :=
  (List.range m.nChunk).filter fun k =>
    m.loads.any fun l => decide (0 < l.2.1) && decide (l.1 < 65536 * (k + 1)) && decide (65536 * k < l.1 + l.2.1)

/-- Read chunks of IMAGE: what came of each; none where the Clamp does not give one. -/
def Chip.readChunks (c : Chip) : List Nat → Option (List (Nat × List Byte)) × Chip
  | [] => (some [], c)
  | k :: rest =>
    match c.tinderRead 1 (16 * k) 16 with
    | (none, c) => (none, c)
    | (some d, c) =>
      let (l, c) := c.readChunks rest
      (l.map fun l => (k, d) :: l, c)

/-- Bytes of the image from an offset, of the chunks read. -/
def imageBytes (chunks : List (Nat × List Byte)) (off n : Nat) : List Byte :=
  (chunks.filter fun e => decide (off < 65536 * (e.1 + 1)) && decide (65536 * e.1 < off + n)).flatMap (·.2)
    |>.drop (off % 65536) |>.take n

/-- Load the installed image and release the cluster's cores; a chunk that fails its check moves the
state to LOADER, and the cores stay held. The installed image is then what is to be copied again
(DESIGN CHOICE, log entry 52). Where the Clamp does not give the chunks the cores stay held until another
IMAGE_LOAD. -/
def Chip.imageLoad (c : Chip) : Chip :=
  let c := c.holdCores
  match c.upd.installed with
  | none => c
  | some m =>
    match c.readChunks m.chunks with
    | (none, c) => c
    | (some got, c) =>
      if got.all fun e => sha256 e.2 == m.chash.getD e.1 [] then
        let c := m.loads.foldl (fun c l => c.sealWrite 15 l.2.2 (imageBytes got l.1 l.2.1)) c
        (c.wr64 Reg.APC_BOOT_VEC_LO Reg.APC_BOOT_VEC_HI m.entry.toNat).coreRun 0xF ⟨15, .seal⟩
      else (c.onUpd fun u => { u with pending := some m, verified := [], next := 0 }).enterLoader

/-- The pending manifest becomes the installed one. -/
def Chip.installPending (c : Chip) : Chip :=
  c.onUpd fun u => { u with state := 0, installed := u.pending, pending := none, verified := [], next := 0 }

/-- IMAGE_LOAD at a start: not while IMAGE holds no runnable image; in LOADER what is missing is asked for (R401). -/
def Chip.startLoad (c : Chip) : Chip :=
  if c.upd.state = 5 then c.requestMissing
  else if c.upd.state = 3 ∨ !c.clmReady then c
  else (if c.upd.state = 4 then c.installPending else c).imageLoad

/-! ### Commands (Table 11) -/

/-- A command ends: GO clears, CODE stays. -/
def Chip.updCmd (c : Chip) (code : Nat) : Chip := c.wr Reg.GRD_UPD_CMD code

/-- UPDATE_CHECK: the table image at GRD_UPD_TBL_ADDR is judged. -/
def State.updateCheck (s : State) : Chip :=
  let c := s.chip
  let a := c.rd Reg.GRD_UPD_TBL_ADDR_LO + c.fl Reg.GRD_UPD_TBL_ADDR_HI 15 0 * 2 ^ 32
  let (h, c) := c.sealRead 15 a 64
  let (b, c) := c.sealRead 15 a (imageLen (min 1048576 (leAt h 8 4)))
  if !tableKind (imgKind h) then c.updRefuse 2 0 (imgKind h) (imgSeries h)
  else match c.judgeImage b with
  | 1 => { s with chip := c }.takeTable b
  | r => c.updRefuse r 0 (imgKind b) (imgSeries b)

/-- Series of the pending image, 0 where there is none. -/
def Chip.pendingSeries (c : Chip) : Nat := (c.upd.pending.map fun m => m.series.toNat).getD 0

/-- UPDATE_START: the copy begins (R397). -/
def State.updateStart (s : State) : Chip :=
  if s.chip.upd.state ≠ 2 then s.chip.updResult 9
  else s.checked 0x10 s.chip.pendingSeries fun c =>
    ((c.onUpd fun u => { u with state := 3, next := 0, retried := false, write := none }).updResult 1).copyNext

/-- UPDATE_ACTIVATE. A Clamp that is not ready keeps the load, with the cores held, until IMAGE_LOAD (DESIGN CHOICE,
log entry 52). -/
def State.updateActivate (s : State) : Chip :=
  if s.chip.upd.state ≠ 4 then s.chip.updResult 9
  else s.checked 0x10 s.chip.pendingSeries fun c =>
    (if c.clmReady then c.installPending.imageLoad else c.installPending.holdCores).updResult 1

/-- UPDATE_ABORT. -/
def Chip.updateAbort (c : Chip) : Chip :=
  if c.upd.state = 1 ∨ c.upd.state = 2 then
    (c.onUpd fun u => { u with state := 0, pending := none, verified := [], pieces := [], next := 0 }).updResult 1
  else c.updResult 9

/-! ### Meanings -/

/-- UPDATE_CHECK (R393, R404). -/
def execUpdateCheck (s : State) : Host.Outcome State Fault Refusal :=
  s.onChipSee fun s => s.chip.onReg Reg.GRD_UPD_CMD anyIni fun _ => s.updateCheck.updCmd 1

/-- UPDATE_START (R395). -/
def execUpdateStart (s : State) : Host.Outcome State Fault Refusal :=
  s.onChipSee fun s => s.chip.onReg Reg.GRD_UPD_CMD anyIni fun _ => s.updateStart.updCmd 2

/-- UPDATE_ACTIVATE (R399). -/
def execUpdateActivate (s : State) : Host.Outcome State Fault Refusal :=
  s.onChipSee fun s => s.chip.onReg Reg.GRD_UPD_CMD anyIni fun _ => s.updateActivate.updCmd 3

/-- UPDATE_ABORT (R396, R397). -/
def execUpdateAbort (s : State) : Host.Outcome State Fault Refusal :=
  s.onChip fun c => c.onReg Reg.GRD_UPD_CMD anyIni fun c => c.updateAbort.updCmd 4

/-- CHAIN_HEADER_PIECE (R403). -/
def execChainHeaderPiece (frame : List Byte) (s : State) : Host.Outcome State Fault Refusal :=
  s.onChipSee fun s => { s with chip := s.chip.loaderServes }.headerPiece frame

/-- CHAIN_BODY_PIECE (R403). -/
def execChainBodyPiece (frame : List Byte) (s : State) : Host.Outcome State Fault Refusal :=
  s.onChipSee fun s => { s with chip := s.chip.loaderServes }.bodyPiece frame

/-- CHAIN_REQUEST (R401). -/
def execChainRequest (frame : List Byte) (s : State) : Host.Outcome State Fault Refusal :=
  s.onChip fun c => c.loaderServes.chainRequest frame

/-- CHAIN_HAVE (R402): a child reports a verified chunk. The manual gives the report no further effect on the
receiver. -/
def execChainHave (_frame : List Byte) (s : State) : Host.Outcome State Fault Refusal := s.onChip Chip.loaderServes

/-- CHUNK_COPY_DONE (R397). -/
def execChunkCopyDone (status : Byte) (s : State) : Host.Outcome State Fault Refusal :=
  s.onChip fun c => c.chunkCopied status.toNat

/-- COPY_RESUME (R398). -/
def execCopyResume (s : State) : Host.Outcome State Fault Refusal := s.onChip Chip.copyResume

/-- IMAGE_LOAD (R399). -/
def execImageLoad (s : State) : Host.Outcome State Fault Refusal := s.onChip Chip.startLoad

end Sys2Proof.Machine
end

