-- ==== Sys2Proof/Machine/Reset.lean ====
section
/-!
DEFINITION. What a reset leaves: of one block, of the device, of everything, and what survives
(14_clocks_power_reset.md R416–R422).
-/
namespace Sys2Proof.Machine

/-- Blocks that were gated before and are not now: their next gated access is recorded anew (R417, 01 R22). -/
def Chip.reopen (c was : Chip) : Chip :=
  c.onCrp fun x => { x with noted := x.noted.filter fun b => !was.portGated b || c.portGated b }

/-- Registers for which `p` holds take their reset values. -/
def Chip.resetRegs (c : Chip) (p : Nat → Bool) : Chip := { c with regs := Tab.drop p c.regs }

/-- A pool is as after reset. -/
def Chip.resetPool (c : Chip) (p : Pool) : Chip := c.setPool p (PoolState.initial p.num)

/-! ### Block reset (Table 8, R442) -/

/-- What a block holds beside its registers takes its reset value. The Legal Partition keeps its state
(R265, R422). -/
def Chip.blockState (c : Chip) (b : Nat) : Chip :=
  match b with
  | 0 => { c with ring := { Ring.reset with clm := c.ring.clm } }.resetPool .ring
  | 1 => ({ c with
      bkb := { Bkb.reset with held := c.bkb.held, outs := c.bkb.outs, pps := c.bkb.pps, ppsGood := c.bkb.ppsGood }
      pair := .reset }.resetPool .bkb).resetPool .pair
  | 2 => { c with lma := { Lma.reset with storing := c.lma.storing, notices := c.lma.notices } }.resetPool .lma
  | 3 => ({ c with air := [], ciu := { c.ciu with airKeys := [] } }.resetPool .air0).resetPool .air1
  | 4 => { c with ciu := .reset }
  | 5 => { c with flo := .reset }
  | 6 => { c with
      hcx := .reset
      apc := { Apc.reset with ddrSelfRefresh := c.apc.ddrSelfRefresh, poison := c.apc.poison, mtime := c.apc.mtime } }
  | 7 => { c with clm := .reset, upd := { c.upd with write := none } }
  | 9 => { c with bal := { Bal.reset with out := c.bal.out } }
  | _ => c

/-- Crossings of a block: its own, and those of the multiplexers that feed it. -/
def crossings (b : Nat) : List Nat :=
  match b with
  | 0 => [0, 19]
  | 1 => [1, 20, 21]
  | 3 => [3, 22, 23]
  | _ => [b]

/-- Blocks go down together: their side of every crossing is down, and what a producer had on its way to one of them is
discarded. It counts as lost where the producer's side stays up (R418, R420). -/
def Chip.blocksDown (c : Chip) (bs : List Nat) : Chip :=
  let lost (b d n : Nat) (c : Chip) : Chip := if bs.contains b || c.sideDown b then c else c.dcqLost d n
  let c := c.when (bs.contains 9) fun c =>
    (lost 2 11 c.lma.notices.length c).onLma fun l => { l with notices := [] }
  let c := c.when (bs.contains 7) fun c =>
    (lost 9 4 c.bal.out.length c).onBal fun x => { x with out := [] }
  let c := c.when (bs.contains 7) fun c =>
    (lost 0 3 c.ring.clm.length c).onRing fun x => { x with clm := [] }
  c.onCrp fun x => { x with downs := x.downs ++ (bs.flatMap crossings).filter fun d => !x.downs.contains d }

/-- A block is reset: its registers and its state. Its side of every crossing goes down (R418). -/
def Chip.blockReset (c : Chip) (b : Nat) : Chip :=
  let was := c.tamperLine
  let c := ((c.blocksDown [b]).blockState b).resetRegs (inBlock b)
  let c := c.when (b == 5) Chip.sessSweep
  c.when (b == 4) fun c => c.setBit Reg.CIU_ALARM 5 was

/-! ### Device reset and core power-on (R422) -/

/-- Registers that a device reset keeps: of TIM, the active plan, the tamper configuration, the Ember
log's but for the cursor and RSTAT (16 R471), the reset causes and the energy counters (R422), and the authority hashes that are fixed from
PERSONALISED (12 Table 14, 13 Table 13). -/
def keptReg (fixed : Bool) (k : Nat) : Bool :=
  isTimReg k || (decide (0xA02000 ≤ k) && decide (k < 0xA02800)) || (decide (0xA00400 ≤ k) && decide (k < 0xA0042C)) ||
    (decide (0xA04000 ≤ k) && decide (k ≤ Reg.GRD_EMB_WSTAT) && k != Reg.GRD_EMB_CURSOR && k != Reg.GRD_EMB_RSTAT) || k == Reg.CRP_RST_CAUSE ||
    (decide (0xB00408 ≤ k) && decide (k < 0xB00470)) ||
    (fixed && ((decide (0xA00540 ≤ k) && decide (k < 0xA00560)) || (decide (0xA06020 ≤ k) && decide (k < 0xA06040))))

/-- The Guard's stores that no reset touches: eMRAM, PUF, and what stands at the balls and detectors but
for the CIU's alarms, which the reset clears (12 Table 6, source 8). -/
def Grd.stored (g : Grd) : Grd :=
  { Grd.delivered with
    kindled := g.kindled, pufKey := g.pufKey, wrapped := g.wrapped
    present := g.present.filter (· != 8) }

/-- Tinder at a start: the journal as its valid copy written last has it (13 R396). -/
def Upd.stored (u : Upd) : Upd :=
  { (match u.copies.find? JournalCopy.good with
     | some x => Upd.delivered.load x.journal
     | none => Upd.delivered) with copies := u.copies, paused := true }

/-- CRP after a device reset: the start resumes at step 3; the monitors run on. -/
def Crp.restart (x : Crp) : Crp :=
  { Crp.reset x.factory with
    power := if x.xaValid then .run else .trim, startStep := 3, coreEn := true, rstLow := x.rstLow, xaValid := x.xaValid
    xbValid := x.xbValid, code := x.code, energy := x.energy, saved := x.saved, pfail := x.pfail, coreLow := x.coreLow }

/-- Everything outside the retained set returns to its reset value; the tamper line follows what holds, and
XA_LOST and XB_LOST what the monitors, which run on, have judged.
`dram` says whether DRAM is, or was, in self-refresh (R358, R422). -/
def Chip.restart (c : Chip) (lc : LifeCycle) (dram : Bool) : Chip :=
  let d : Chip :=
    { Chip.reset with
      regs := Tab.drop (fun k => !keptReg (lc.state != .blank) k) c.regs, mem := c.mem, freeCtr := c.freeCtr, fuses := c.fuses
      ember := { c.ember with window := [], loadedAt := none }
      apc := { Apc.reset with ddrSelfRefresh := dram, poison := c.apc.poison, mtime := c.apc.mtime }
      grd := c.grd.stored, upd := c.upd.stored, crp := { c.crp.restart with keptDram := dram }, tim := c.tim, nand := c.nand
      bkb := { Bkb.reset with held := c.bkb.held, outs := c.bkb.outs, pps := c.bkb.pps, ppsGood := c.bkb.ppsGood } }
  (d.setFl Reg.CRP_STATUS 1 0 (c.fl Reg.CRP_STATUS 1 0)).syncLine lc

/-- Whether DRAM holds its contents in self-refresh once a reset that gives warning has placed it there. -/
def Chip.dramSaved (c : Chip) : Bool := c.bit Reg.APC_DDR_STATUS 0 || c.apc.ddrSelfRefresh

/-- Set a bit of CRP_RST_CAUSE. -/
def Chip.cause (c : Chip) (b : Nat) : Chip := c.setBit Reg.CRP_RST_CAUSE b true

/-- A device reset: of cause `b` of Table 17, DRAM placed in self-refresh first when there is warning.
It occurs in RUN, TRIM and HOLD (Table 11). -/
def Chip.deviceReset (c : Chip) (lc : LifeCycle) (b : Nat) (warned : Bool) : Chip :=
  if c.crp.power == .run || c.crp.power == .trim || c.crp.power == .hold then
    (c.restart lc (warned && c.dramSaved)).cause b
  else c

/-- Memory that is the host's own, which no loss of the device's power touches. -/
def Chip.hostMem (c : Chip) : List Host.Cell := Tab.drop (fun a => decide (a < 0x800000000000)) c.mem

/-- Core power-on on leaving DORMANT: as a device reset, but the SRAMs and DRAM are lost, the energy
counters are restored, the start is at step 2, XA is judged anew and network time restarts (R33, R407,
R413, 10 R318). -/
def Chip.coreOn (c : Chip) (lc : LifeCycle) : Chip :=
  let d := c.restart lc false
  let d := { d with mem := c.hostMem, apc := { d.apc with mtime := 0 }, tim := .reset, bkb := .reset }.resetRegs isTimReg
  ((d.setBit Reg.CRP_STATUS 0 false).onCrp fun x => { x with
    power := .run, startStep := 3, xaValid := false, energy := c.crp.saved, keptDram := false }).cause 1

/-! ### Power-on reset and loss of VDD_SEAL (R421, R426) -/

/-- The log at a power-on reset: what was committed; PCYC counts up (16 R460). -/
def Ember.powerOn (e : Ember) : Ember :=
  { Ember.delivered with
    first := e.first, firstUsed := e.firstUsed, firstFull := e.firstFull, last := e.last, head := e.head, snaps := e.snaps
    snapCnt := e.snapCnt, seq := e.seq, opsec := e.savedOpsec, sub := e.savedSub, savedOpsec := e.savedOpsec
    savedSub := e.savedSub, pcyc := min (e.pcyc + 1) 0xFFFFFF }

/-- Power-on reset of the chip: eMRAM, the fuses, what stands at the balls and the media remain. The Guard reports the
tamper sources that show (12 R379). -/
def Chip.fromOff (c : Chip) (lc : LifeCycle) : Chip × LifeCycle :=
  let fixed := lc.state != .blank
  let d : Chip :=
    { Chip.reset with
      regs := Tab.drop (fun k => !(fixed && keptReg true k && !keptReg false k)) c.regs, freeCtr := c.freeCtr, fuses := c.fuses
      mem := c.hostMem, ember := c.ember.powerOn, grd := c.grd.stored, upd := c.upd.stored
      crp := { Crp.reset c.crp.factory with rstLow := c.crp.rstLow, pfail := c.crp.pfail }, nand := c.nand }
  tamperStart (d, lc)

/-- VDD_SEAL is lost: OFF, and a debug grant ends (12 R383). What is not in eMRAM or on the media is gone at the power-on
reset that follows; nothing runs until then. -/
def Chip.sealLost (c : Chip) : Chip := c.dbgClose.onCrp fun x => { x with power := .off, coreEn := false }

/-- Power-on reset of the machine; one that finds VDD_SEAL not yet lost loses it. -/
def State.powerOn (s : State) : State :=
  let leg := if s.chip.crp.power = .off then s.leg else s.leg.lost
  State.guard { s with leg := leg } (s.chip.fromOff s.lc)

/-- Loss of VDD_SEAL. -/
def State.sealLost (s : State) : State :=
  if s.chip.crp.power = .off then s else { s with chip := s.chip.sealLost, leg := s.leg.lost }

/-! ### CRP_BLK_RST and CRP_CLK_GATE (R416–R420, R432) -/

/-- Block that holds a Kiln partition, wholly or in part (15 Table 1). -/
def kilnOwner (part : Nat) : Nat := [0, 1, 2, 3, 4, 5, 5, 5, 6, 6, 7, 9, 1].getD part 11

/-- Whether a Kiln run holds a partition of a block (15 R441). -/
def Chip.kilnBusy (c : Chip) (b : Nat) : Bool := c.kilnHolds.any fun p => kilnOwner p == b

/-- A bit of CRP_BLK_RST takes a value: a block whose bit rises is reset and held. -/
def Chip.rstBit (c : Chip) (b : Nat) (on : Bool) : Chip :=
  let d := c.setBit Reg.CRP_BLK_RST b on
  if on && !c.bit Reg.CRP_BLK_RST b then d.blockReset b else d.reopen c

/-- The blocks whose bit a write of CRP_BLK_RST raises: they are reset together. -/
def Chip.rstRising (c : Chip) (v : Nat) : List Nat :=
  (List.range 10).filter fun b => bitOf v b && !c.bit Reg.CRP_BLK_RST b && !c.kilnBusy b

/-- BLOCK_RESET_WRITE; for a partition that a Kiln run holds it takes effect after the run. -/
def Chip.blkRstWrite (c : Chip) (v : Nat) : Chip :=
  let c := c.blocksDown (c.rstRising v)
  (List.range 10).foldl (fun c b =>
    if c.kilnBusy b then { c with kiln := { c.kiln with rstDue := c.kiln.rstDue ++ [(b, bitOf v b)] } }
    else c.rstBit b (bitOf v b)) c

/-- Blocks that CRP_CLK_GATE cannot gate read 0, fused blocks 1 (R416). -/
def Chip.gateBit (c : Chip) (b : Nat) (on : Bool) : Chip :=
  if c.fused b then c.setBit Reg.CRP_CLK_GATE b true
  else
    let was := c.bit Reg.CRP_CLK_GATE b
    (c.setBit Reg.CRP_CLK_GATE b on).onCrp fun x =>
      if on then { x with closing := if was then x.closing else x.closing ++ [b] }
      else { x with closing := x.closing.filter (· != b), closed := x.closed.filter (· != b) }

/-- CLOCK_GATE_WRITE. -/
def Chip.clkGateWrite (c : Chip) (v : Nat) : Chip :=
  (List.range 10).foldl (fun c b =>
    if c.kilnBusy b then { c with kiln := { c.kiln with gateDue := c.kiln.gateDue ++ [(b, bitOf v b)] } }
    else c.gateBit b (bitOf v b)) c

/-- GATE_CLOSE: a gate asked for closes. -/
def Chip.gateClose (c : Chip) (b : Nat) : Chip :=
  if c.crp.closing.contains b then
    c.onCrp fun x => { x with
      closing := x.closing.filter (· != b), closed := x.closed ++ [b], noted := x.noted.filter (· != b) }
  else c

/-- DCQ_REHANDSHAKE: the block is out of reset with its clock running, and traffic resumes; not over a multiplexer whose
forced switch still holds its domain in reset (R420). -/
def Chip.rehandshake (c : Chip) (b : Nat) : Chip :=
  if c.gated b then c
  else c.onCrp fun x => { x with
    downs := x.downs.filter fun d => !(crossings b).contains d || x.switches.any fun e => e.2.forced && e.1 + 16 == d }

/-- BLOCK_RESET_WRITE (R418). -/
def execBlockResetWrite (v : Word) (s : State) : Host.Outcome State Fault Refusal :=
  s.guarded (onRegLc Reg.CRP_BLK_RST anyIni fun x => alarmEnds (x.1.blkRstWrite v.toNat, x.2))

/-- CLOCK_GATE_WRITE (R416). -/
def execClockGateWrite (v : Word) (s : State) : Host.Outcome State Fault Refusal :=
  s.onChip fun c => c.onReg Reg.CRP_CLK_GATE anyIni fun c => c.clkGateWrite v.toNat

/-- GATE_CLOSE (R416). -/
def execGateClose (block : Fin 12) (s : State) : Host.Outcome State Fault Refusal :=
  s.onChip fun c => c.gateClose block.val

/-- DCQ_REHANDSHAKE (R420). -/
def execDcqRehandshake (block : Fin 12) (s : State) : Host.Outcome State Fault Refusal :=
  s.onChip fun c => c.rehandshake block.val

end Sys2Proof.Machine
end

