-- ==== Sys2Proof/Machine/Kiln.lean ====
section
/-!
DEFINITION. The Kiln: when a run may start, what is cleared before scan, segments, aborts, and the end
of a run (15_selftest_and_pairing.md R433–R443); and the two commands by which a debugger enters OPEN,
which aborts a run.
-/
namespace Sys2Proof.Machine

/-- Change the Kiln. -/
def Chip.onKiln (c : Chip) (f : Kiln → Kiln) : Chip := { c with kiln := f c.kiln }

/-- Partitions present (R433, Table 1). -/
def Chip.kilnParts (c : Chip) : List Nat := (List.range 13).filter fun p => !(c.fuses.headEnd && (p == 2 || p == 3))

/-- Idle conditions of Table 3, but for partition 12. -/
def Chip.partIdle (c : Chip) (p : Nat) : Bool :=
  match p with
  | 0 => !c.bit Reg.RING_CTRL 0
  | 1 => !c.bit Reg.BKB_CTRL 0 && !c.bit (Reg.BKB_PORT_CFG 0) 31 && !c.bit (Reg.BKB_PORT_CFG 1) 31
  | 2 => !c.bit Reg.LMA_CTRL 0
  | 3 => !c.bit (Reg.AIR_MAC_CTRL 0) 0 && !c.bit (Reg.AIR_MAC_CTRL 1) 0
  | 4 => !c.bit Reg.CIU_CTRL 0 && c.ciu.inflight.isEmpty
  | 5 => !c.bit Reg.FLO_CTRL 0 && c.podsUsed == 0
  | 6 => (groupCores 6).all c.coreHeld
  | 7 => (groupCores 7).all c.coreHeld
  | 8 => c.rd Reg.APC_CORE_RUN == 0
  | 9 => !c.bit Reg.APC_DDR_CFG 31
  | 10 => c.clmState == 0
  | 11 => !c.bit Reg.BAL_CTRL 0 && c.bal.reqs.isEmpty && c.fl Reg.BAL_STATUS 1 0 == 0
  | _ => true

/-- Whether a partition is idle (Table 3). -/
def Chip.kilnIdle (c : Chip) (p : Nat) : Bool :=
  if p = 12 then (c.kilnParts.filter (· < 12)).all c.partIdle else c.partIdle p

/-! ### The end of a run (R442, R443) -/

/-- RESULT, and BUSY and GO clear. -/
def Chip.kilnResult (c : Chip) (r : Nat) : Chip :=
  ((c.setFl Reg.CRP_KLN_STATUS 27 24 r).setBit Reg.CRP_KLN_STATUS 31 false).setBit Reg.CRP_KLN_CTRL 31 false

/-- The partitions that failed, as a mask. -/
def partMask (l : List Nat) : Nat := ((List.range 13).filter l.contains).foldl (fun m p => m + 2 ^ p) 0

/-- The record of a run that failed or was aborted (16 Table 3). -/
def Chip.kilnRecord (c : Chip) (r : KilnRun) (result : Nat) : Chip :=
  c.emberPost 0xB05 (leBytes 1 (if r.boot then 1 else 2) ++ leBytes 1 result ++ leBytes 2 (partMask r.fail) ++
    leBytes 1 (c.fl Reg.CRP_KLN_STATUS 19 14)) r.boot r.boot

/-- A run is aborted: it stops shifting, if it has come so far, and its partitions are reset at its end (R437, R442). -/
def Chip.kilnAbort (c : Chip) (result : Nat) : Chip :=
  match c.kiln.run with
  | none => c
  | some r =>
    if r.stop.isSome then c
    else c.onKiln fun k => { k with run := some { r with stop := some result } }

/-- A flow core is as after reset; its pods return under R191. -/
def Chip.coreClear (c : Chip) (n : Nat) : Chip :=
  ((c.coreReset n 0 0).setFcore n FlowCore.initial).resetRegs (inCore n)

/-- Registers of the flow cores, which lie in partitions 6 and 7. -/
def isCoreReg (k : Nat) : Bool := (List.range 24).any fun n => inCore n k

/-- The block reset that a partition of the run receives. -/
def Chip.partReset (c : Chip) (p : Nat) : Chip :=
  match p with
  | 1 => ({ c with bkb := { c.bkb with ports := [], arrived := [], ingest := [] } }.resetRegs fun k =>
      inBlock 1 k && decide (k < 0x120000)).resetPool .bkb
  | 5 => ({ c with flo := { Flo.reset with cores := c.flo.cores } }.resetRegs fun k => inBlock 5 k && !isCoreReg k).sessSweep
  | 6 => (groupCores 6).foldl Chip.coreClear c
  | 7 => (groupCores 7).foldl Chip.coreClear c
  | 9 => c.resetRegs fun k =>
      decide (0x610000 ≤ k) && decide (k < 0x620000)
  | 12 => ({ c with pair := .reset, hcx := .reset }.resetRegs fun k =>
      decide (0x120000 ≤ k) && decide (k < 0x130000)).resetPool .pair
  | _ =>
    match kilnBlock p with
    | some b => c.blockReset b
    | none => c

/-- Writes of CRP_BLK_RST and CRP_CLK_GATE held up by the run take effect (R441). -/
def Chip.kilnDue (c : Chip) : Chip :=
  let k := c.kiln
  let c := c.onKiln fun k => { k with rstDue := [], gateDue := [] }
  let c := k.rstDue.foldl (fun c e => c.rstBit e.1 e.2) c
  k.gateDue.foldl (fun c e => c.gateBit e.1 e.2) c

/-- Whether every segment asked for has run, or the run has stopped at a failure or an abort. -/
def KilnRun.over (r : KilnRun) : Bool :=
  r.stop.isSome || r.parts.all fun p => Tab.get (fun _ => 0) r.done p == r.count

/-- KILN_RUN_END, after `us` microseconds. -/
def Chip.kilnEnd (c : Chip) (us : Nat) : Chip :=
  match c.kiln.run with
  | none => c
  | some r =>
    if !(r.checked || r.stop.isSome) || !r.over then c
    else
      let was := c
      let result := r.stop.getD (if r.fail.isEmpty then 1 else 2)
      let c := c.onKiln fun k => { k with
        run := none
        failed := (k.failed.filter fun p => r.stop.isSome || !r.parts.contains p || r.fail.contains p) ++
          r.fail.filter fun p => !k.failed.contains p }
      let c := r.parts.foldl Chip.partReset c
      let c := ((c.kilnResult result).wr Reg.CRP_KLN_FAILMASK (partMask r.fail)).wr Reg.CRP_KLN_DUR us
      (c.when (result != 1) fun c => c.kilnRecord r result).kilnDue.reopen was

/-! ### The start of a run (R436, R439, R440) -/

/-- The RESULT with which a run is refused, 0 when it is not (Table 2). The order of the checks is the
model's (DESIGN CHOICE, log entry 54). -/
def Chip.kilnJudge (c : Chip) (v : Nat) (who : Who) : Nat :=
  let mode := fld v 30 29
  let part := fld v 23 20
  let first := fld v 19 14
  let count := fld v 13 7
  let parts := if mode = 1 then c.kilnParts else [part]
  if mode ≠ 1 ∧ mode ≠ 2 then 8
  else if mode = 1 ∧ (who.level ≠ .seal ∨ c.rd Reg.APC_CORE_RUN ≠ 0 ∨ c.bit Reg.APC_DDR_CFG 31 = true) then 7
  else if c.crp.power ≠ .run ∨ c.crp.holdEntry = true then 6
  else if mode = 2 ∧ (!c.kilnParts.contains part || count == 0 || decide (64 < first + count)) then 8
  else if mode = 2 ∧ (part = 8 ∨ part = 9 ∨ part = 12) then 7
  else if !parts.all c.kilnIdle then 5
  else if !c.crp.xaValid then 4
  else 0

/-- KILN_BOOT and KILN_SLICE: a write of CRP_KLN_CTRL. -/
def Chip.kilnCtrlWrite (c : Chip) (v : Nat) (who : Who) : Chip :=
  let fields (c : Chip) : Chip := c.wr Reg.CRP_KLN_CTRL (2 ^ 31 * fld (c.rd Reg.CRP_KLN_CTRL) 31 31 +
    2 ^ 29 * fld v 30 29 + 2 ^ 7 * fld v 23 7)
  let c := fields c
  if !bitOf v 31 then c
  else if c.kiln.run.isSome then c.cfgErr 11
  else
    let boot := fld v 30 29 == 1
    let c := c.when (fld v 30 29 == 2) fun c => (c.setFl Reg.CRP_KLN_STATUS 23 20 (fld v 23 20)).setFl Reg.CRP_KLN_STATUS 19 14 0
    match c.kilnJudge v who with
    | 0 =>
      let run : KilnRun :=
        { boot := boot, parts := if boot then c.kilnParts else [fld v 23 20], checked := false, done := []
          first := if boot then 0 else fld v 19 14, count := if boot then 64 else fld v 13 7, fail := [], stop := none }
      (((c.setBit Reg.CRP_KLN_CTRL 31 true).setBit Reg.CRP_KLN_STATUS 31 true).setFl Reg.CRP_KLN_STATUS 27 24 0).onKiln
        fun k => { k with run := some run }
    | r => c.kilnResult r

/-! ### Clearing and scanning (R434, R435, R438) -/

/-- Memory from `a`, `n` bytes, reads 0. -/
def Chip.zeroMem (c : Chip) (a n : Nat) : Chip :=
  { c with mem := Tab.drop (fun k => decide (a ≤ k) && decide (k < a + n)) c.mem }

/-- The blocks whose side of their crossings goes down when a partition is cleared (R441). The timing unit and the
comparators are never scanned, so that the crossing to BKB's registers stays up. -/
def partSides (p : Nat) : List Nat :=
  match p with
  | 1 => [20, 21]
  | 9 => [6]
  | _ => (kilnBlock p).toList

/-- The clearing of Table 3. Of partitions 1, 2, 9 and 11 the state holds nothing that it would clear. -/
def Chip.partClear (c : Chip) (p : Nat) : Chip :=
  match p with
  | 0 => c.onRing fun r => { r with lgl := [], cry := [], clm := [] }
  | 3 => c.onCiu fun u => { u with airKeys := [] }
  | 4 => (c.eraseStart .kiln).bulkClearDone
  | 5 => { c with flo := { c.flo with pods := [] } }.sessSweep
  | 6 => c.zeroMem 0x50000000 (12 * 0x20000)
  | 7 => c.zeroMem (0x50000000 + 12 * 0x20000) (12 * 0x20000)
  | 8 => { c.zeroMem 0x40000000 0x400000 with hcx := .reset }
  | 10 => c.onClm fun x => { x with buf := [] }
  | 12 => c.zeroMem 0x60000000 0x200000
  | _ => c

/-- KILN_CLOCK_CHECK_END: the count of the test clock and the core voltage in mV (R436). -/
def Chip.kilnChecked (c : Chip) (count mv : Nat) : Chip :=
  match c.kiln.run with
  | none => c
  | some r =>
    if r.checked || r.stop.isSome then c
    else
      let c := (c.wr Reg.CRP_KLN_TCLK count).wr Reg.CRP_KLN_VMON mv
      let refused := if count < 396000 ∨ 404000 < count ∨ !c.crp.xaValid then 4
        else if mv < 780 ∨ 820 < mv then 3 else 0
      if refused ≠ 0 then (c.onKiln fun k => { k with run := none }).kilnResult refused
      else
        let c := (c.onKiln fun k => { k with run := some { r with checked := true } }).bump Reg.CRP_KLN_RUNS
        r.parts.foldl Chip.partClear (c.blocksDown (r.parts.flatMap partSides))

/-- KILN_SEGMENT_END: the MISR of the segment in progress is compared with the ROM's signature. -/
def Chip.kilnSegment (c : Chip) (p : Nat) (misr : Word) : Chip :=
  match c.kiln.run with
  | none => c
  | some r =>
    let n := Tab.get (fun _ => 0) r.done p
    if !r.checked || r.stop.isSome || !r.parts.contains p || decide (r.count ≤ n) then c
    else
      let seg := r.first + n
      let pass := misr == Config.kilnSig p seg
      let kept := (Tab.get (fun _ => []) c.kiln.passed p).filter (· != seg)
      let c := c.wr (Reg.CRP_KLN_SIG p) misr.toNat
      let c := c.when (!pass && !r.boot) fun c => c.setFl Reg.CRP_KLN_STATUS 19 14 seg
      c.onKiln fun k => { k with
        passed := Tab.put (fun _ => []) k.passed p (if pass then kept ++ [seg] else kept)
        run := some { r with
          done := Tab.put (fun _ => 0) r.done p (if pass || r.boot then n + 1 else r.count)
          fail := if pass || r.fail.contains p then r.fail else r.fail ++ [p] } }

/-- KILN_VDD_SAMPLE. -/
def Chip.kilnVdd (c : Chip) (mv : Nat) : Chip :=
  match c.kiln.run with
  | some r =>
    if !r.checked then c
    else (c.wr Reg.CRP_KLN_VMON mv).when (decide (mv < 780) || decide (820 < mv)) fun c => c.kilnAbort 9
  | none => c

/-- CRP_KLN_MASKp as a number of 64 bits. -/
def Chip.kilnMask (c : Chip) (p : Nat) : Nat :=
  ((List.range 64).filter (Tab.get (fun _ => []) c.kiln.passed p).contains).foldl (fun m s => m + 2 ^ s) 0

/-- Full-set coverage of a partition, in 0.01 % (Table 1). -/
def kilnFull (p : Nat) : Nat := [9840, 9810, 9760, 9830, 9870, 9890, 9910, 9910, 9780, 9720, 9820, 9850, 9750].getD p 0

/-- The shares of segments 0–7 of partition 7, by the example of R443. -/
def kilnKnown (p s : Nat) : Option Nat := if p = 7 then [8140, 610, 295, 162, 101, 74, 52, 41][s]? else none

/-- What the segments before `s` leave of a partition's full-set coverage. -/
def kilnLeft (p : Nat) : Nat → Nat
  | 0 => kilnFull p
  | s + 1 => kilnLeft p s - min (kilnLeft p s) ((kilnKnown p s).getD (Config.kilnShare p s))

/-- The share of the faults that a segment detects first: the example's where it gives one, else free, such that the
64 of a partition make up its full-set coverage (R435, Table 1). -/
def kilnShareOf (p s : Nat) : Nat :=
  if s = 63 then kilnLeft p 63 else min (kilnLeft p s) ((kilnKnown p s).getD (Config.kilnShare p s))

/-- CRP_KLN_COVp: the sum of the shares of the segments passed (R435). -/
def Chip.kilnCov (c : Chip) (p : Nat) : Nat :=
  ((List.range 64).filter (Tab.get (fun _ => []) c.kiln.passed p).contains).foldl (fun m s => m + kilnShareOf p s) 0

/-! ### Meanings -/

/-- KILN_BOOT (R439). -/
def execKilnBoot (v : Word) (who : Who) (s : State) : Host.Outcome State Fault Refusal :=
  s.onChip fun c => c.onReg Reg.CRP_KLN_CTRL who.num fun c => c.kilnCtrlWrite v.toNat who

/-- KILN_SLICE (R440). -/
def execKilnSlice (v : Word) (who : Who) (s : State) : Host.Outcome State Fault Refusal :=
  s.onChip fun c => c.onReg Reg.CRP_KLN_CTRL who.num fun c => c.kilnCtrlWrite v.toNat who

/-- KILN_CLOCK_CHECK_END (R436). -/
def execKilnClockCheckEnd (count : BitVec 20) (mv : BitVec 10) (s : State) : Host.Outcome State Fault Refusal :=
  s.onChip fun c => c.kilnChecked count.toNat mv.toNat

/-- KILN_SEGMENT_END (R434). -/
def execKilnSegmentEnd (part : Fin 13) (misr : Word) (s : State) : Host.Outcome State Fault Refusal :=
  s.onChip fun c => c.kilnSegment part.val misr

/-- KILN_VDD_SAMPLE (R436). -/
def execKilnVddSample (mv : BitVec 10) (s : State) : Host.Outcome State Fault Refusal :=
  s.onChip fun c => c.kilnVdd mv.toNat

/-- KILN_RUN_END (R442). -/
def execKilnRunEnd (us : BitVec 32) (s : State) : Host.Outcome State Fault Refusal :=
  s.guarded fun x => alarmEnds (x.1.kilnEnd us.toNat, x.2)

/-- Entry to OPEN aborts a run (Table 2, RESULT 10). -/
def openAborts (was : Chip) (x : Chip × LifeCycle) : Chip × LifeCycle :=
  (if x.1.grd.dbg == .opened && was.grd.dbg != .opened then x.1.kilnAbort 10 else x.1, x.2)

/-- RESPOND (12 R381). The signature is for the firmware to verify; the hardware does not read it. -/
def execRespond (req : Byte) (_sig : List Byte) (fresh : Bool) (s : State) :
    Host.Outcome State Fault Refusal :=
  s.guarded fun x => if x.1.dbgPortUp then openAborts x.1 (dbgRespond req.toNat fresh x) else x

/-- DEBUG_GRANT (12 R381). -/
def execDebugGrant (v : Word) (who : Who) (s : State) : Host.Outcome State Fault Refusal :=
  s.guarded (onRegLc Reg.GRD_DBG_GRANT who.num fun x => openAborts x.1 (dbgGrant v.toNat who x))

end Sys2Proof.Machine
end

