-- ==== Sys2Proof/Machine/Pair.lean ====
section
/-!
DEFINITION. The pair link: frames, lock-step order, health, fail-over and the pair's registers
(15_selftest_and_pairing.md R444–R457), and the allocation of pods, which lock-step orders (06 R180,
15 R446, R447).
-/
namespace Sys2Proof.Machine

/-- Whether the pair logic runs: enabled, its block and FAB running. -/
def Chip.pairRuns (c : Chip) : Bool :=
  c.bit Reg.BKB_PAIR_CFG 31 && !c.gated 1 && c.domainUp 3 && !(c.kilnHolds.contains 12)

/-- The states of the primary's side: PRIMARY, ISOLATED, MUTED, SOLO (R453, R457). -/
def Chip.primarySide (c : Chip) : Bool := [1, 4, 5, 6].contains c.pairState

/-! ### Health (R450) -/

/-- The health word (Table 5). -/
def Chip.health (c : Chip) (lc : LifeCycle) : Nat :=
  let ue := match c.apc.lastUe with
    | some t => decide (c.time.toNat < t.toNat + 1000000000)
    | none => false
  b2n (!c.kiln.failed.isEmpty) + 2 * b2n ue + 4 * b2n (decide (5 ≤ c.clmState)) +
    8 * b2n (c.fl Reg.CIU_ALARM 4 0 != 0) + 16 * b2n ((List.range 5).any fun p => c.bit (Reg.CRP_PLL_STATUS p) 1) +
    32 * b2n (c.crp.power == .trim) + 64 * b2n (c.bit Reg.CRP_STATUS 2) + 128 * b2n lc.tripped +
    256 * b2n (c.bit Reg.BKB_PAIR_STATUS 10) + 512 * b2n (c.gated 2) + 32768 * b2n (c.bit Reg.BKB_PAIR_HEALTH 15)

/-- HEARTBEAT_SEND (R445). -/
def Chip.heartbeat (c : Chip) (lc : LifeCycle) : Chip :=
  c.when c.pairRuns fun c => c.pairSend 1 0 (leBytes 2 (c.health lc) ++ leBytes 2 0 ++ leBytes 8 c.time.toNat)

/-- Several triggers of one frame: every cause is recorded, and there is one takeover (R452). -/
def Chip.pairTriggers (c : Chip) (causes : List (Nat × Nat)) : Chip :=
  let on := causes.filter fun e => c.bit Reg.BKB_PAIR_CFG e.1
  if c.pairState = 2 && !on.isEmpty && (!c.bit Reg.BKB_PAIR_STATUS 10 || c.bit Reg.BKB_PAIR_CFG 27) then
    (on.foldl (fun c e => c.setBit Reg.BKB_PAIR_STATUS e.2 true) c).takeOver
  else c

/-! ### Frames (Table 4) -/

/-- Whether a frame's length and FCRC are right. -/
def pairFrameGood (f : List Byte) : Bool :=
  let len := leAt f 2 2
  decide (len ≤ 2048) && f.length == 20 + len && crc32 (f.take (16 + len)) == leAt f (16 + len) 4

/-- ACK covers frames of the replay buffer (R446). -/
def Chip.pairAck (c : Chip) (ack : Nat) : Chip :=
  c.onPair fun p =>
    if p.acked < ack ∧ ack ≤ p.lseq then { p with acked := ack, replay := p.replay.filter fun x => decide (ack < x.lseq) }
    else p

/-- Whether a frame makes this chip demote itself (R453). -/
def Chip.outranked (c : Chip) (f : List Byte) : Bool :=
  let epoch := leAt f 12 2
  c.primarySide && (leAt f 0 1 == 3 ||
    ((leAt f 1 1 == 1 || leAt f 1 1 == 6) &&
      (decide (c.epoch < epoch) || (epoch == c.epoch && decide (leAt f 14 2 % 4096 < c.fl Reg.BKB_NODE 11 0)))))

/-! ### Order records (R446, R447) -/

/-- Slots that the frame of an operand occupies. -/
def Chip.frameSlots (c : Chip) (a : AllocOp) : Nat :=
  if a.buf = 0 then 0
  else match srcPool a.src.toNat with
    | some p => (((c.pool p).runs.find? fun r => r.1 == a.buf.toNat).map (·.2)).getD 1
    | none => 1

/-- The order record of a pod about to be allocated, and the chip that has read its slots: as initiator 10, under
the plan (01 R26; DEDUCED, log entry 56). RLEN counts the whole record (DEDUCED, log entry 56). -/
def Chip.orderRecord (c : Chip) (a : AllocOp) : List Byte × Chip :=
  let n := c.frameSlots a
  let (_, slots, d) := c.dmaRead 10 false (slotAddr a.buf.toNat) (1024 * n)
  (leBytes 2 (24 + 1024 * n) ++ leBytes 1 a.src.toNat ++ leBytes 1 0 ++ leBytes 4 c.flo.ticket.toNat ++ a.bytes ++
    slots, d)

/-- Bytes in the replay buffer. -/
def Pair.held (p : Pair) : Nat := (p.replay.map fun x => x.payload.length).foldl (· + ·) 0

/-- Stream a record: frames of at most 2,048 bytes, kept in the replay buffer. -/
def Chip.stream (c : Chip) (rec : List Byte) : Chip :=
  (pieces 2048 rec).foldl (fun c d =>
    let n := c.pair.lseq + 1
    (c.onPair fun p => { p with lseq := n, replay := p.replay ++ [⟨n, d⟩] }).pairSend 2 n d) c

/-- Take one whole record off what has been received: none while it is not whole. -/
def takeRecord (b : List Byte) : Option (List Byte × List Byte) :=
  let n := leAt b 0 2
  if b.length < 24 ∨ n < 24 ∨ b.length < n then none else some (b.take n, b.drop ((n + 3) / 4 * 4))

/-- A received record: its slots are written to slots of the pair's pool, as initiator 10 under the plan (01 R26,
R27; DEDUCED, log entry 56), and its operand waits in stream order with BUF changed. None when the pool has no such
run. -/
def Chip.placeRecord (c : Chip) (r : List Byte) : Option Chip :=
  let a := AllocOp.ofBytes (slice r 8 16)
  let n := (r.length - 24) / 1024
  let put (c : Chip) (a : AllocOp) : Chip := c.onPair fun p => { p with queue := p.queue ++ [a] }
  if n = 0 then some (put c { a with buf := 0 })
  else match c.poolFind .pair n with
    | some slot => some (put ((c.poolTake .pair slot n).dmaWrite 10 false (slotAddr slot) (slice r 24 (1024 * n))).2
        { a with buf := BitVec.ofNat 11 slot })
    | none => none

/-- Every whole record of the bytes received; none when one finds no slots. -/
def Chip.placeRecords (c : Chip) (b : List Byte) : Nat → Option (Chip × List Byte)
  | 0 => some (c, b)
  | n + 1 =>
    match takeRecord b with
    | none => some (c, b)
    | some (r, rest) =>
      match c.placeRecord r with
      | some c => c.placeRecords rest n
      | none => none

/-- An ORDER frame for a standby: taken when it is the next and its records find their slots, and
acknowledged. -/
def Chip.orderTaken (c : Chip) (lc : LifeCycle) (f : List Byte) : Chip :=
  if c.pairState ≠ 2 then c
  else if leAt f 4 4 ≠ c.pair.rxSeq + 1 then c.heartbeat lc
  else match c.placeRecords (c.pair.rxPart ++ slice f 16 (leAt f 2 2)) 128 with
    | some (d, rest) => (d.onPair fun p => { p with rxSeq := p.rxSeq + 1, rxPart := rest }).heartbeat lc
    | none => c

/-- A frame received: what every valid frame does, then what its TYPE does. `want` is the TYPE a command
stands for; 0 stands for any. -/
def Chip.pairFrame (c : Chip) (lc : LifeCycle) (want : Nat) (f : List Byte) : Chip :=
  if !c.pairRuns || !c.pair.aligned then c
  else if !pairFrameGood f then c.bump Reg.BKB_PAIR_CRCERR
  else
    let typ := leAt f 0 1
    let typ := if want = 0 ∨ want = typ then typ else 0
    let state := leAt f 1 1
    let c := ((c.bump Reg.BKB_PAIR_RXFRM).onPair fun p => { p with alive := true, partner := state }).pairLink
    let c := c.pairAck (leAt f 8 4)
    let c := if c.outranked f then c.demote
      else if c.pairState = 4 ∧ state = 2 then c.pairEnter 1 else c
    let c := c.when (typ == 1) fun c => c.wr Reg.BKB_PAIR_PHEALTH (leAt f 16 2)
    let fault := typ == 1 && (leAt f 16 2 &&& c.fl Reg.BKB_PAIR_HMASK 15 0) != 0
    let c := c.pairTriggers ((if fault then [(25, 6)] else []) ++ if state = 4 then [(26, 7)] else [])
    match typ with
    | 2 => c.orderTaken lc f
    | 4 => c.when (c.pairState == 2) fun c => c.setBit Reg.BKB_PAIR_STATUS 10 true
    | _ => c

/-! ### The link (R444, R445, R454) -/

/-- PAIR_LINK_UP: word alignment, and a valid frame. -/
def Chip.pairLinkUp (c : Chip) (lc : LifeCycle) (f : List Byte) : Chip :=
  (c.onPair fun p => { p with aligned := true }).pairFrame lc 0 f

/-- PAIR_ALIGNMENT_LOSS. -/
def Chip.pairUnaligned (c : Chip) : Chip := (c.onPair fun p => { p with aligned := false }).pairLink

/-- PAIR_LINK_LOST: a primary is isolated, a standby may take over. -/
def Chip.pairLost (c : Chip) : Chip :=
  if !c.pairRuns then c
  else
    let c := (c.onPair fun p => { p with alive := false }).pairLink
    if c.pairState = 1 then c.pairEnter 4 else c.trigHb

/-- ORDER_RESEND: everything after ACK again. -/
def Chip.orderResend (c : Chip) : Chip :=
  if !c.pairRuns || c.pairState != 1 then c
  else c.pair.replay.foldl (fun c x => (c.pairSend 2 x.lseq x.payload).bump Reg.BKB_PAIR_RETX) c

/-- Whether the replay buffer has no room for one more record of the largest size. -/
def Chip.replayFull (c : Chip) (n : Nat) : Bool := decide (262144 < c.pair.held + n)

/-- REPLAY_LAG_EXPIRY: the primary sends DROP and ceases streaming. -/
def Chip.replayLag (c : Chip) : Chip :=
  if c.pairRuns && c.pairState == 1 && c.pair.streaming && !c.pair.replay.isEmpty then
    (c.onPair fun p => { p with streaming := false, replay := [] }).pairSend 4 0 []
  else c

/-! ### Commands and configuration (R457, Table 11) -/

/-- CLEAR_OOS: a new stream begins. -/
def Chip.clearOos (c : Chip) : Chip :=
  (c.setBit Reg.BKB_PAIR_STATUS 10 false).onPair fun p => { p with
    streaming := true, lseq := 0, acked := 0, replay := [], rxSeq := 0, rxPart := [] }

/-- PAIR_CFG_WRITE. -/
def Chip.pairCfgWrite (c : Chip) (v : Nat) : Chip :=
  let old := c.rd Reg.BKB_PAIR_CFG
  let locked := bitOf old 31 && (fld v 30 29 != fld old 30 29 || fld v 11 0 != fld old 11 0)
  let w := if bitOf old 31 then putFld (putFld v 30 29 (fld old 30 29)) 11 0 (fld old 11 0) else v
  let c := (c.when locked fun c => c.cfgErr 1).wr Reg.BKB_PAIR_CFG w
  let role := if bitOf v 31 then [0, 1, 2, 0].getD (fld w 30 29) 0 else 0
  (c.onPair fun p => { p with saved := none }).pairEnter role

/-! ### Allocation (06 R180, R446, R447) -/

/-- Allocate a pod for an operand of a local queue: in PRIMARY its record is streamed first. -/
def Chip.allocLocal (c : Chip) (a : AllocOp) : Chip :=
  if c.pairState = 1 ∧ c.pairRuns = true ∧ c.pair.streaming = true ∧ a.src.toNat < 6 then
    let (record, c) := c.orderRecord a
    let c := c.stream record
    let pod := ((c.flo.freeList.head?).getD 0).toNat
    let n := c.pair.lseq
    let c := c.allocate a
    c.setPod pod { c.pod pod with order := n }
  else c.allocate a

/-- Whether a local operand must wait for room in the replay buffer. -/
def Chip.replayWait (c : Chip) (a : AllocOp) : Bool :=
  c.pairState == 1 && c.pairRuns && c.pair.streaming && decide (a.src.toNat < 6) &&
    c.replayFull (24 + 1024 * c.frameSlots a)

/-- POD_ALLOCATE: records received come first, in stream order; then the local queues, which a standby
does not serve. -/
def Chip.podAlloc (c : Chip) : Chip :=
  match c.pair.queue with
  | a :: rest =>
    let c := c.countAllocWait none
    c.when (c.mayAllocate a) fun c => (c.onPair fun p => { p with queue := rest }).allocate a
  | [] =>
    if c.pairState = 2 then c
    else match c.allocSource with
    | none => c.countAllocWait none
    | some s =>
      match c.allocQueue s with
      | [] => c
      | a :: rest =>
        if c.replayWait a then c.countAllocWait none
        else
          let c := (c.countAllocWait (some s)).setAllocQueue s rest
          (c.onFlo fun f => { f with srcNext := s }).allocLocal a

/-! ### Meanings -/

/-- POD_ALLOCATE (06 R180). -/
def execPodAllocate (s : State) : Host.Outcome State Fault Refusal := s.onChip Chip.podAlloc

/-- HEARTBEAT_SEND (R445). -/
def execHeartbeatSend (s : State) : Host.Outcome State Fault Refusal := s.onChipLc fun lc c => c.heartbeat lc

/-- HEARTBEAT_FRAME (R450). -/
def execHeartbeatFrame (frame : List Byte) (s : State) : Host.Outcome State Fault Refusal :=
  s.onChipLc fun lc c => c.pairFrame lc 1 frame

/-- ORDER_FRAME (R447). -/
def execOrderFrame (frame : List Byte) (s : State) : Host.Outcome State Fault Refusal :=
  s.onChipLc fun lc c => c.pairFrame lc 2 frame

/-- TAKEOVER_FRAME (R453). -/
def execTakeoverFrame (frame : List Byte) (s : State) : Host.Outcome State Fault Refusal :=
  s.onChipLc fun lc c => c.pairFrame lc 3 frame

/-- DROP_FRAME (R449). -/
def execDropFrame (frame : List Byte) (s : State) : Host.Outcome State Fault Refusal :=
  s.onChipLc fun lc c => c.pairFrame lc 4 frame

/-- PAIR_LINK_UP (R444). -/
def execPairLinkUp (frame : List Byte) (s : State) : Host.Outcome State Fault Refusal :=
  s.onChipLc fun lc c => c.pairLinkUp lc frame

/-- PAIR_LINK_LOST (R445). -/
def execPairLinkLost (s : State) : Host.Outcome State Fault Refusal := s.onChip Chip.pairLost

/-- ORDER_RESEND (R446). -/
def execOrderResend (s : State) : Host.Outcome State Fault Refusal := s.onChip Chip.orderResend

/-- REPLAY_LAG_EXPIRY (R449). -/
def execReplayLagExpiry (s : State) : Host.Outcome State Fault Refusal := s.onChip Chip.replayLag

/-- MUTE_DELAY_EXPIRY (R454): the link has stayed lost. Where it has returned, R453 decides. -/
def execMuteDelayExpiry (s : State) : Host.Outcome State Fault Refusal :=
  s.onChip fun c => c.when (c.pairState == 4 && !c.pairUp) fun c => c.mute.pairEnter 5

/-- RECLAIM_EXPIRY (R454). -/
def execReclaimExpiry (s : State) : Host.Outcome State Fault Refusal :=
  s.onChip fun c => c.when (c.pairState == 5) fun c => c.unmute.pairEnter 6

/-- BKB_PAIR_CMD.TAKEOVER. -/
def Chip.takeoverCmd (c : Chip) : Chip :=
  c.when (c.pairState == 2 && (!c.bit Reg.BKB_PAIR_STATUS 10 || c.bit Reg.BKB_PAIR_CFG 27)) fun c =>
    (c.setBit Reg.BKB_PAIR_STATUS 7 true).takeOver

/-- BKB_PAIR_CMD.DEMOTE. -/
def Chip.demoteCmd (c : Chip) : Chip := c.when c.primarySide Chip.demote

/-- PAIR_CMD_TAKEOVER (R451): always enabled, and ignored by an out-of-step standby without TAKE_OOS
(R449). -/
def execPairCmdTakeover (s : State) : Host.Outcome State Fault Refusal :=
  s.onChip fun c => c.onReg Reg.BKB_PAIR_CMD anyIni Chip.takeoverCmd

/-- PAIR_CMD_DEMOTE (R453). -/
def execPairCmdDemote (s : State) : Host.Outcome State Fault Refusal :=
  s.onChip fun c => c.onReg Reg.BKB_PAIR_CMD anyIni Chip.demoteCmd

/-- CLEAR_OOS (R449). -/
def execClearOos (s : State) : Host.Outcome State Fault Refusal :=
  s.onChip fun c => c.onReg Reg.BKB_PAIR_CMD anyIni Chip.clearOos

/-- PAIR_CFG_WRITE (R457). -/
def execPairCfgWrite (v : Word) (s : State) : Host.Outcome State Fault Refusal :=
  s.onChip fun c => c.onReg Reg.BKB_PAIR_CFG anyIni fun c => c.pairCfgWrite v.toNat

/-- PAIR_ALIGNMENT_LOSS (R444). -/
def execPairAlignmentLoss (s : State) : Host.Outcome State Fault Refusal := s.onChip Chip.pairUnaligned

end Sys2Proof.Machine
end

