-- ==== Sys2Proof/Machine/Power.lean ====
section
/-!
DEFINITION. Reset sources and the start sequence, kindling, power states and the RIDE sequence, the
watchdog, the backup store and the temperature sensor (14_clocks_power_reset.md R421–R431, 12_guard.md
R363–R367, 17_electrical_and_package.md R484).
-/
namespace Sys2Proof.Machine

/-! ### DRAM and the RUN notice (11 R358, R427, R429) -/

/-- The controller enters self-refresh; READY clears. -/
def Chip.dramSleep (c : Chip) : Chip :=
  c.when (c.bit Reg.APC_DDR_STATUS 0) fun c =>
    (c.setBit Reg.APC_DDR_STATUS 0 false).onApc fun a => { a with ddrSelfRefresh := true }

/-- The controller leaves self-refresh at the RUN notice, contents as they were; one that has been enabled and has not
yet come to its first READY goes on to that. -/
def Chip.dramWake (c : Chip) : Chip :=
  c.when (c.bit Reg.APC_DDR_CFG 31 && !c.bit Reg.APC_DDR_STATUS 3 && c.apc.ddrSelfRefresh) fun c =>
    (c.setBit Reg.APC_DDR_STATUS 0 true).onApc fun a => { a with ddrSelfRefresh := false }

/-- The RUN notice: DRAM and the Clamp resume. A first expiry of the watchdog stands, since only a kick
ends it (R424). -/
def Chip.runNotice (c : Chip) : Chip := c.dramWake.clmResume

/-! ### PLLs (R406) -/

/-- A PLL's LOCK and HOLDOVER. -/
def Chip.setPll (c : Chip) (p : Nat) (lock hold : Bool) : Chip :=
  (c.setBit (Reg.CRP_PLL_STATUS p) 0 lock).setBit (Reg.CRP_PLL_STATUS p) 1 hold

/-- A PLL that runs loses its reference: it holds, and a loss of lock is counted. -/
def Chip.pllHolds (c : Chip) (p : Nat) : Chip :=
  if c.bit (Reg.CRP_PLL_STATUS p) 0 then (c.bumpFl (Reg.CRP_PLL_STATUS p) 31 16).setPll p false true else c

/-- The PLLs on M9: A, B, C and E. -/
def refPlls : List Nat := [0, 1, 2, 4]

/-- SEL of a multiplexer. -/
def Chip.setMux (c : Chip) (m v : Nat) : Chip := c.setFl (Reg.CRP_MUX_SEL m) 1 0 v

/-- The PLLs locked on what M9 then gives, M0 on PLL_A. -/
def Chip.pllsUp (c : Chip) : Chip :=
  (refPlls.foldl (fun c p => c.setPll p true false) (c.setMux 9 (b2n (!c.crp.xaValid)))).setMux 0 0

/-! ### Trim of FRC: its start, and what ends a window (R414, R415) -/

/-- TRIM_START: a run begins against the first reference available, at the present temperature (R414). -/
def Chip.trimStart (c : Chip) : Chip :=
  if c.bit Reg.CRP_TRIM_CFG 0 && decide (3 ≤ c.crp.startStep) && c.crp.trim.isNone && !c.coreOff then
    match c.refPick with
    | some r => c.onCrp fun x => { x with trim := some 0, trimRef := r, trimTemp := c.fl Reg.CRP_TEMP 11 0 }
    | none => c
  else c

/-- Since `was` the power state has changed, or M9 has switched (R415). -/
def Chip.trimFrom (c was : Chip) : Chip :=
  c.when (c.crp.power != was.crp.power || c.fl (Reg.CRP_MUX_SEL 9) 1 0 != was.fl (Reg.CRP_MUX_SEL 9) 1 0) Chip.trimAgain

/-! ### The start sequence (R423, Table 9) -/

/-- Steps 6–8: the blocks are released in turn; in TRIM when XA is not valid (R412). -/
def Chip.finishStart (c : Chip) : Chip :=
  let d := (c.pllsUp.setMux 8 (b2n (!c.crp.xbValid))).when c.crp.xbValid fun c => c.setPll 3 true false
  ((d.onCrp fun x => { x with startStep := 8, power := if x.xaValid then .run else .trim }).trimFrom c).reopen c

/-- A start that RIDE or HOLD interrupted goes on from its step: XA became valid meanwhile (R423). -/
def Chip.startOn (c : Chip) : Chip := c.when (c.crp.startStep == 5 && c.crp.xaValid) Chip.finishStart

/-- CORE_POWER_ON: VDD_CORE valid, at a start or on leaving DORMANT, which has its time mark (16 R469). CORE_EN enables
the regulators, so that it is high before (17 R476). -/
def State.corePowerOn (s : State) : Chip :=
  let c := s.chip
  if c.crp.power = .off ∨ !c.crp.coreEn then c
  else match c.crp.startStep with
  | 1 => c.onCrp fun x => { x with startStep := 3 }
  | 2 => (c.coreOn s.lc).timeMark s.leg
  | _ => c

/-! ### The Guard's start (12 R363, R366, R367) -/

/-- The copy that at least three good ones agree with. -/
def agreed (l : List LcCopy) : Option LcCopy :=
  let good := l.filter (·.good)
  good.find? fun x => decide (3 ≤ (good.filter (· == x)).length)

/-- The most advanced of the good copies. -/
def mostAdvanced (l : List LcCopy) : Option LcCopy :=
  (l.filter (·.good)).foldl (fun b x =>
    match b with
    | none => some x
    | some y => if y.state.rank < x.state.rank then some x else some y) none

/-- The state taken from the four copies, which are then rewritten; with no good copy the state stays
(DESIGN CHOICE, log entry 32). -/
def LifeCycle.startUp (l : LifeCycle) : LifeCycle :=
  match (agreed l.copies).orElse fun _ => mostAdvanced l.copies with
  | some x => { l with state := x.state, tripped := x.tripped, rootKilled := x.rootKilled }.commit
  | none => l.commit

/-- The root secret is unwrapped into its working register, or ROOT_FAIL (R367). -/
def Chip.rootUnwrap (c : Chip) (l : LifeCycle) : Chip :=
  if l.state = .retired ∨ l.rootKilled = true ∨ !c.grd.kindled then c
  else match (c.grd.wrapped.filterMap fun w => keyUnwrap c.grd.pufKey w).head? with
  | some r => (c.setBit Reg.GRD_STATUS 1 true).onGrd fun g => { g with root := some r }
  | none => (c.setBit Reg.GRD_STATUS 2 true).emberPost 0xA03 [] true true

/-- GUARD_START: steps 4 and 5; with XA already valid the start goes on to its end. -/
def guardStart (x : Chip × LifeCycle) : Chip × LifeCycle :=
  let c := x.1
  if c.crp.startStep ≠ 3 ∨ c.crp.rstLow = true ∨ !(c.crp.power == .run || c.crp.power == .trim) then x
  else
    let l := x.2.startUp
    let c := (c.onCrp fun y => { y with startStep := 5 }).setBit Reg.GRD_STATUS 0 c.grd.kindled
    let c := (c.rootUnwrap l).syncLine l
    (c.when c.crp.xaValid Chip.finishStart, l)

/-! ### RIDE (R425, R428–R430, Table 12) -/

/-- A chain's transmission is cut as by HALT_TX (02 R63). -/
def Chip.lineCut (c : Chip) (n : Nat) : Chip :=
  match (c.chain n).tx with
  | none => c
  | some tx =>
    match tx.kind, tx.sentAt with
    | .request, some t => c.txComplete n 5 (t.toNat % 2 ^ 32)
    | .request, none => c.txComplete n 4 0
    | _, _ => c.setChain n { c.chain n with tx := none }

/-- Line, air and backbone transmission stops. -/
def Chip.transmitStop (c : Chip) : Chip :=
  let c := (List.range 3).foldl (fun c n => c.lineCut n) c
  let c := (List.range 2).foldl (fun c u => c.airAbort u) c
  (List.range 2).foldl (fun c p => c.ethAbort p) c

/-- RESULT of a power command; GO clears. -/
def Chip.pwrResult (c : Chip) (r : Nat) : Chip :=
  (c.setFl Reg.CRP_PWR_STATUS 6 4 r).setBit Reg.CRP_PWR_CMD 31 false

/-- Whether a RIDE cause acts in the present state (Table 11). Until PFAIL_N has let CORE_EN rise after a power-on
reset there is no core to carry over (17 R475, R476; log entry 65). -/
def Chip.canRide (c : Chip) : Bool :=
  (c.crp.power == .run || c.crp.power == .trim || c.crp.power == .hold) && c.crp.coreEn

/-- RIDE is entered: steps 1–5 of Table 12 but for the legal engine's own. A RIDE that begins in HOLD
has steps 3 and 6 behind it (R430). -/
def Chip.rideEntry (c : Chip) : Chip :=
  let held := c.crp.power == .hold
  let c := (c.dbgClose.eraseStart .power).transmitStop
  let c := (c.when c.crp.holdEntry fun c => c.pwrResult 2).clmRide
  let c := (c.dramSleep.tinderStop.kilnAbort 10).onCrp fun x => { x with
    power := .ride, before := if held then x.before else x.power, holdEntry := false, flushed := held, descent := 0 }
  let c := c.trimAgain
  c.when held fun c => (((c.raise Reg.CLM_STATUS 11).setMux 0 1).setPll 0 false false).setPll 1 false false |>.setPll 4 false false

/-- A RIDE cause: deferred while kindling runs (R428); during a forced switch it waits for its end (R409). -/
def Chip.rideCause (c : Chip) (lc : LifeCycle) : Chip :=
  if !c.canRide then c
  else if c.kindling lc then c.onCrp fun x => { x with deferred := true }
  else if c.crp.switches.any (·.2.forced) then c.onCrp fun x => { x with rideWaits := true }
  else c.rideEntry

/-- RIDE_FLUSH_DONE: step 6, and step 7 after it; `fails` are the pages at which a program of the flush fails, `duds`
the FREE_NEW blocks whose erase fails. The map in DRAM takes what the flush has moved when
DRAM next serves; the model writes it at once (DESIGN CHOICE, log entry 59). -/
def Chip.flushDone (c : Chip) (fails duds : List Nat) : Chip :=
  if c.crp.power ≠ .ride ∨ c.crp.flushed = true then c
  else
    let asleep := c.apc.ddrSelfRefresh && !c.bit Reg.APC_DDR_STATUS 0
    let c := c.when asleep fun c => c.setBit Reg.APC_DDR_STATUS 0 true
    let c := (c.rideFlush fails duds).when asleep fun c => c.setBit Reg.APC_DDR_STATUS 0 false
    let c := (((c.setMux 0 1).setPll 0 false false).setPll 1 false false).setPll 4 false false
    c.onCrp fun x => { x with flushed := true }

/-- The return from RIDE (R429): PLLs and domains restart, and the RUN notice. A start that RIDE
interrupted goes on from its step. -/
def Chip.rideReturn (c : Chip) : Chip :=
  let d := (c.when (c.crp.startStep == 8) Chip.pllsUp).onCrp fun x => { x with
    power := if x.xaValid || x.startStep != 8 then .run else .trim, flushed := false }
  (d.trimAgain.runNotice.reopen c).startOn

/-- PFAIL_NEGATED: PFAIL_N has been negated for RETURN × 10 ms. After a power-on reset CORE_EN rises (17 R476). A descent
that has been called for is not called back (R429). -/
def Chip.pfailNegated (c : Chip) : Chip :=
  let c := c.onCrp fun x => { x with
    pfail := false, coreLow := false, coreEn := x.coreEn || (x.startStep == 1 && !c.coreOff) }
  if c.crp.power = .ride ∧ c.crp.flushed = true ∧ c.crp.descent = 0 then c.rideReturn else c

/-- RIDE_LIMIT: TMAX has expired, or CHARGE is below DORM_CHG, or both in one cycle. -/
def Chip.rideLimit (c : Chip) (tmax charge : Bool) : Chip :=
  let t := tmax && c.fl Reg.CRP_RIDE_CFG 15 8 != 0
  let b := charge && decide (c.fl Reg.CRP_BKP_STATUS 22 16 < c.fl Reg.CRP_RIDE_CFG 22 16)
  if c.crp.power = .ride ∧ c.crp.descent = 0 then c.onCrp fun x => { x with descent := b2n t + 2 * b2n b } else c

/-- DESCENT_TO_DORMANT: once the power-fail close and the flush are complete (R429). The root secret stays in its
wrapped form only (12 Table 10). -/
def State.descend (s : State) : Chip :=
  let c := s.chip
  if c.crp.power = .ride ∧ c.crp.descent ≠ 0 ∧ c.crp.flushed = true ∧ s.leg.pfail = true then
    let c := c.record 0xB03 (leBytes 1 c.crp.descent ++ leBytes 1 (c.fl Reg.CRP_BKP_STATUS 22 16) ++
      leBytes 2 (c.fl Reg.CRP_BKP_STATUS 8 0))
    let c := (c.setBit Reg.GRD_STATUS 1 false).onGrd fun g => { g with root := none }
    c.emberTimeCommit.energyDraw.onCrp fun x => { x with power := .dormant, saved := x.energy, coreEn := false, descent := 0 }
  else c

/-- DORMANT_WAKE: PFAIL_N negated for RETURN × 10 ms in DORMANT leaves it and raises CORE_EN; the start goes on from step
2 once VDD_CORE is valid (Table 11). -/
def Chip.dormantWake (c : Chip) : Chip :=
  if c.crp.power = .dormant then
    c.onCrp fun x => { x with power := .run, startStep := 2, coreEn := true, pfail := false, coreLow := false }
  else c

/-! ### Kindling (12 R366, R428) -/

/-- Kindling completes: the PUF key and the root secret exist, wrapped twice, and the record is written;
a RIDE that was deferred is judged afresh, and waits for the end of a forced switch as any other (R409). -/
def Chip.kindle (c : Chip) : Chip :=
  let (puf, c) := c.free 32
  let (seed, c) := c.free 64
  let root := sha256 seed
  let w := keyWrap puf root
  let c := (c.setBit Reg.GRD_STATUS 0 true).onGrd fun g =>
    { g with kindled := true, entropyWait := false, pufKey := puf, wrapped := [w, w], root := some root }
  let c := c.emberPost 0xA01 (leBytes 8 c.fuses.serial.toNat) false true
  let due := c.crp.deferred && (c.crp.pfail || c.crp.coreLow)
  let c := c.onCrp fun x => { x with deferred := false, coreLow := false }
  if !due || !c.canRide then c
  else if c.crp.switches.any (·.2.forced) then c.onCrp fun x => { x with rideWaits := true }
  else c.rideEntry

/-- Steps 1–7 of kindling, as far as the entropy tests let it come. -/
def Chip.kindleTry (c : Chip) (lc : LifeCycle) (pass : Bool) : Chip :=
  if !c.kindling lc || c.coreOff then c
  else if pass then c.kindle
  else c.onGrd fun g => { g with entropyWait := true }

/-! ### The return from TRIM (R412) -/

/-- Frames that the LMA was decoding when LIN stopped are abandoned. -/
def Chip.lanesAbandon (c : Chip) : Chip :=
  (List.range 24).foldl (fun c n =>
    if (c.lane n).phase = .header ∨ (c.lane n).phase = .payload then c.laneIdle n else c) c

/-- The return from TRIM to RUN once every PLL of M9 has locked on XA. -/
def Chip.trimLeave (c : Chip) : Chip :=
  if c.crp.power = .trim ∧ c.crp.xaValid = true ∧ c.crp.startStep = 8 ∧ c.fl (Reg.CRP_MUX_SEL 9) 1 0 = 0 ∧
      refPlls.all (fun p => !c.bit (Reg.CRP_PLL_STATUS p) 1) = true then
    let d := c.lanesAbandon.onCrp fun x => { x with power := .run }
    d.trimAgain.reopen c
  else c

/-! ### HOLD (R427) -/

/-- A power command's CODE is written; GO reads 1 until its RESULT. -/
def Chip.pwrCmd (c : Chip) (code : Nat) : Chip := c.wr Reg.CRP_PWR_CMD (2 ^ 31 + code)

/-- HOLD_COMMAND; a device that is still to be kindled does not leave RUN (12 R387). -/
def Chip.holdCommand (c : Chip) (lc : LifeCycle) : Chip :=
  if (c.crp.power == .run || c.crp.power == .trim) && !c.crp.holdEntry && c.kiln.run.isNone && !c.unkindled lc then
    ((c.pwrCmd 1).setFl Reg.CRP_PWR_STATUS 6 4 0).onCrp fun x => { x with holdEntry := true }
  else if c.crp.holdEntry then c.pwrResult 2
  else (c.pwrCmd 1).pwrResult 2

/-- HOLD_ENTERED: the Clamp's buffer is empty. DRAM enters self-refresh with the domains (DEDUCED, log
entry 60); PLL_B and PLL_E stop (Table 10). -/
def Chip.holdEntered (c : Chip) : Chip :=
  if c.crp.holdEntry && c.clm.buf.isEmpty then
    let c := (c.setPll 1 false false).setPll 4 false false
    (c.dramSleep.onCrp fun x => { x with power := .hold, before := x.power, holdEntry := false }).trimAgain.pwrResult 1
  else c

/-- HOLD is left: to RUN or TRIM as before, TRIM when XA was lost meanwhile, and the RUN notice. -/
def Chip.holdLeave (c : Chip) : Chip :=
  let d := c.when (c.crp.startStep == 8) fun c => (c.setPll 1 true false).setPll 4 true false
  let d := (d.onCrp fun x => { x with power := if x.xaValid || x.startStep != 8 then x.before else .trim }).trimAgain.trimLeave
  (d.runNotice.reopen c).startOn

/-- RUN_COMMAND. -/
def Chip.runCommand (c : Chip) (who : Who) : Chip :=
  let c := c.pwrCmd 2
  if who.level = .seal ∧ c.crp.power = .hold then c.holdLeave.pwrResult 1 else c.pwrResult 2

/-- RIDE_COMMAND. -/
def Chip.rideCommand (c : Chip) (lc : LifeCycle) (who : Who) : Chip :=
  let c := c.pwrCmd 3
  if who.level = .seal ∧ c.canRide = true then (c.rideCause lc).pwrResult 1 else c.pwrResult 2

/-- WAKE_EVENT. -/
def Chip.wakeEvent (c : Chip) (e : Nat) : Chip :=
  c.when (c.crp.power == .hold && c.bit Reg.CRP_WAKE_EN e) Chip.holdLeave

/-! ### Watchdog, reset commands (R422–R424) -/

/-- WDT_ENABLE: a write of CRP_WDT_CFG. -/
def Chip.wdtCfgWrite (c : Chip) (v : Nat) : Chip :=
  c.wr Reg.CRP_WDT_CFG (v % 2 ^ 16 + 2 ^ 31 * b2n (bitOf v 31 || c.bit Reg.CRP_WDT_CFG 31))

/-- WDT_KICK. -/
def Chip.wdtKick (c : Chip) (v : Nat) : Chip :=
  c.when (v % 2 ^ 16 == 0xA5C3) fun c => c.onCrp fun x => { x with wdtFirst := false }

/-- WDT_EXPIRY. -/
def Chip.wdtExpiry (c : Chip) (lc : LifeCycle) : Chip :=
  if !c.bit Reg.CRP_WDT_CFG 31 || !(c.crp.power == .run || c.crp.power == .trim) then c
  else if c.crp.wdtFirst then
    (c.emberPost 0xB04 (leBytes 2 (c.fl Reg.CRP_WDT_CFG 15 0)) true true).deviceReset lc 4 true
  else (c.raise Reg.CRP_STATUS 2).onCrp fun x => { x with wdtFirst := true }

/-- RST_N_ASSERT; before VDD_CORE is valid it only holds the sequence. -/
def Chip.rstAssert (c : Chip) (lc : LifeCycle) : Chip :=
  (if 3 ≤ c.crp.startStep then c.deviceReset lc 2 false else c).onCrp fun x => { x with rstLow := true }

/-- DEVICE_RESET_CMD. -/
def Chip.resetCmd (c : Chip) (lc : LifeCycle) (v : Nat) (who : Who) : Chip :=
  if who.level ≠ .seal then c.noteRws who Reg.CRP_RST_CMD 1 v
  else if bitOf v 0 then c.deviceReset lc 3 true else c

/-! ### The backup store and the sensor (R431, 17 R484) -/

/-- CHARGE for a VBKP and a VFULL in 20 mV units. -/
def chargeOf (v full : Nat) : Nat :=
  let f := max 136 full
  min 100 (100 * (v * v - 135 * 135) / (f * f - 135 * 135))

/-- VBKP_MEASURE. -/
def Chip.vbkpMeasure (c : Chip) (v : Nat) : Chip :=
  if c.coreOff then c
  else c.wr Reg.CRP_BKP_STATUS (v + 2 ^ 16 * chargeOf v (c.fl Reg.CRP_BKP_CFG 8 0))

/-- Whether the die temperature has moved by TEMP_STEP °C since the last trim (R414, Table 16: 0 disables). CRP_TEMP counts
0.125 °C. -/
def Chip.tempMoved (c : Chip) : Bool :=
  let step := c.fl Reg.CRP_TRIM_CFG 19 16
  step != 0 && decide (8 * step ≤ (sgn 12 (c.fl Reg.CRP_TEMP 11 0) - sgn 12 c.crp.trimTemp).natAbs)

/-- TEMP_SAMPLE: the sample is shown and judged; a move by TEMP_STEP starts a trim (R414). -/
def Chip.tempSample (c : Chip) (t : Nat) : Chip :=
  if c.coreOff || decide (c.crp.startStep < 3) then c
  else
    let c := c.setFl Reg.CRP_TEMP 11 0 t
    let c := c.when (c.bit Reg.CRP_TEMP_CFG 16 && decide (sgn 12 (c.fl Reg.CRP_TEMP_CFG 11 0) ≤ sgn 12 t)) fun c =>
      c.raise Reg.CRP_TEMP 31
    c.when c.tempMoved Chip.trimStart

/-! ### Meanings -/

/-- POWER_ON_RESET (R421, R423). -/
def execPowerOnReset (s : State) : Host.Outcome State Fault Refusal := s.onAll State.powerOn

/-- VDD_SEAL_LOSS (R426). -/
def execVddSealLoss (s : State) : Host.Outcome State Fault Refusal := s.onAll State.sealLost

/-- CORE_POWER_ON (R423). -/
def execCorePowerOn (s : State) : Host.Outcome State Fault Refusal := s.onChipSee State.corePowerOn

/-- GUARD_START (12 R363, R367). -/
def execGuardStart (s : State) : Host.Outcome State Fault Refusal := s.guarded guardStart

/-- KINDLING (12 R366). -/
def execKindling (testsPass : Bool) (s : State) : Host.Outcome State Fault Refusal :=
  s.onChipLc fun lc c => c.kindleTry lc testsPass

/-- KINDLING_ENTROPY_RETRY (12 Table 2, step 3). -/
def execKindlingEntropyRetry (testsPass : Bool) (s : State) : Host.Outcome State Fault Refusal :=
  s.onChipLc fun lc c => if c.grd.entropyWait then c.kindleTry lc testsPass else c

/-- RST_N_ASSERT (R422). -/
def execRstNAssert (s : State) : Host.Outcome State Fault Refusal := s.onChipLc fun lc c => c.rstAssert lc

/-- RST_N_RELEASE (R423). -/
def execRstNRelease (s : State) : Host.Outcome State Fault Refusal :=
  s.onChip fun c => c.onCrp fun x => { x with rstLow := false }

/-- DEVICE_RESET_CMD (R422). -/
def execDeviceResetCmd (v : Word) (who : Who) (s : State) : Host.Outcome State Fault Refusal :=
  s.onChipLc fun lc c => c.onReg Reg.CRP_RST_CMD who.num fun c => c.resetCmd lc v.toNat who

/-- WDT_ENABLE (R424). -/
def execWdtEnable (v : Word) (s : State) : Host.Outcome State Fault Refusal :=
  s.onChip fun c => c.onReg Reg.CRP_WDT_CFG anyIni fun c => c.wdtCfgWrite v.toNat

/-- WDT_KICK (R424). -/
def execWdtKick (v : Word) (s : State) : Host.Outcome State Fault Refusal :=
  s.onChip fun c => c.onReg Reg.CRP_WDT_KICK anyIni fun c => c.wdtKick v.toNat

/-- WDT_EXPIRY (R424). -/
def execWdtExpiry (s : State) : Host.Outcome State Fault Refusal := s.onChipLc fun lc c => c.wdtExpiry lc

/-- HOLD_COMMAND (R427). -/
def execHoldCommand (s : State) : Host.Outcome State Fault Refusal :=
  s.onChipLc fun lc c => c.onReg Reg.CRP_PWR_CMD anyIni fun c => c.holdCommand lc

/-- HOLD_ENTERED (R427). -/
def execHoldEntered (s : State) : Host.Outcome State Fault Refusal := s.onChip Chip.holdEntered

/-- RUN_COMMAND (R425). -/
def execRunCommand (who : Who) (s : State) : Host.Outcome State Fault Refusal :=
  s.onChip fun c => c.onReg Reg.CRP_PWR_CMD who.num fun c => c.runCommand who

/-- RIDE_COMMAND (R425). -/
def execRideCommand (who : Who) (s : State) : Host.Outcome State Fault Refusal :=
  s.onChipLc fun lc c => c.onReg Reg.CRP_PWR_CMD who.num fun c => c.rideCommand lc who

/-- WAKE_EVENT (R425). -/
def execWakeEvent (event : Fin 19) (s : State) : Host.Outcome State Fault Refusal :=
  s.onChip fun c => c.wakeEvent event.val

/-- PFAIL_ASSERT (R428). -/
def execPfailAssert (s : State) : Host.Outcome State Fault Refusal :=
  s.onChipLc fun lc c => (c.onCrp fun x => { x with pfail := true }).rideCause lc

/-- VDD_CORE_LOW (R425). -/
def execVddCoreLow (s : State) : Host.Outcome State Fault Refusal :=
  s.onChipLc fun lc c => (c.onCrp fun x => { x with coreLow := true }).rideCause lc

/-- RIDE_FLUSH_DONE (08 R261, Table 12). -/
def execRideFlushDone (fails : List (BitVec 31)) (duds : List (BitVec 17)) (s : State) :
    Host.Outcome State Fault Refusal :=
  s.onChip fun c => c.flushDone (fails.map (·.toNat)) (duds.map (·.toNat))

/-- PFAIL_NEGATED (R429). -/
def execPfailNegated (s : State) : Host.Outcome State Fault Refusal := s.onChip Chip.pfailNegated

/-- RIDE_LIMIT (R429). -/
def execRideLimit (tmax charge : Bool) (s : State) : Host.Outcome State Fault Refusal :=
  s.onChip fun c => c.rideLimit tmax charge

/-- DESCENT_TO_DORMANT (R429). -/
def execDescentToDormant (s : State) : Host.Outcome State Fault Refusal := s.onChipSee State.descend

/-- DORMANT_WAKE (R425). -/
def execDormantWake (s : State) : Host.Outcome State Fault Refusal := s.onChip Chip.dormantWake

/-- VBKP_MEASURE (R431). -/
def execVbkpMeasure (vbkp : BitVec 9) (s : State) : Host.Outcome State Fault Refusal :=
  s.onChip fun c => c.vbkpMeasure vbkp.toNat

/-- TEMP_SAMPLE (17 R484). -/
def execTempSample (temp : BitVec 12) (s : State) : Host.Outcome State Fault Refusal :=
  s.onChip fun c => c.tempSample temp.toNat

end Sys2Proof.Machine
end

