-- ==== Sys2Proof/Machine/Clocks.lean ====
section
/-!
DEFINITION. Clock sources, PLLs, source multiplexers, forced switches, loss of XA and the trim of FRC
(14_clocks_power_reset.md R405–R415).
-/
namespace Sys2Proof.Machine

/-! ### Trim of FRC (R413–R415) -/

/-- N_exp of a reference; that of the beacon is measured with the window. -/
def nExpected (r expected : Nat) : Nat :=
  match r with
  | 0 => 200000
  | 1 => 200000000
  | 2 => 200000000
  | _ => expected

/-- Change of the code for a count: −round(e / 60 ppm), at most 16 steps. -/
def trimSteps (n nexp : Nat) : Int := clampI (-16) 16 (-roundDiv (((n : Int) - nexp) * 1000000) (60 * nexp))

/-- Whether |e| ≤ 60 ppm. -/
def trimWithin (n nexp : Nat) : Bool := decide (((n : Int) - nexp).natAbs * 1000000 ≤ 60 * nexp)

/-- e in 10 ppm units, signed and saturating, as a byte. -/
def trimByte (n nexp : Nat) : Nat := uns 8 (clampI (-128) 127 (roundDiv (((n : Int) - nexp) * 100000) nexp))

/-- TRIM_WINDOW_END. -/
def Chip.trimWindow (c : Chip) (n expected : Nat) : Chip :=
  match c.crp.trim with
  | none => c
  | some k =>
    let r := c.crp.trimRef
    let nexp := nExpected r expected
    if !c.refUsable r || nexp == 0 then c.trimNext
    else
      let fine := trimWithin n nexp
      let ends := fine || decide (7 ≤ k)
      let c := c.onCrp fun x => { x with
        code := (clampI 0 1023 ((x.code : Int) + trimSteps n nexp)).toNat, trim := if ends then none else some (k + 1) }
      let c := (c.setFl Reg.CRP_TRIM_STATUS 1 0 r).setFl Reg.CRP_TRIM_STATUS 15 8 (trimByte n nexp)
      let c := c.when ends fun c => c.bumpFl Reg.CRP_TRIM_STATUS 31 16
      c.when fine fun c => c.setBit Reg.CRP_TRIM_STATUS 2 true

/-! ### XA (R407, R411, R412) -/

/-- The PLLs of M9 lose the reference they had. -/
def Chip.refHold (c : Chip) : Chip := refPlls.foldl (fun c p => c.pllHolds p) c

/-- XA_LOST: TRIM is entered from RUN after the start. In HOLD and RIDE M9 moves too, and the state is
judged at the return. -/
def Chip.xaLost (c : Chip) : Chip :=
  if !c.crp.xaValid || c.crp.power == .dormant || c.crp.power == .off then c
  else
    let c := (c.raise Reg.CRP_STATUS 0).onCrp fun x => { x with xaValid := false }
    if c.crp.startStep ≠ 8 then c.trimLost 0
    else
      let c := (c.refHold.setMux 9 1).kilnAbort 10
      if c.crp.power ≠ .run then c.trimAgain
      else
        let c := c.onCrp fun x => { x with power := .trim }
        let c := c.trimAgain
        c.record 0xB02 (leBytes 1 (c.refPick.getD c.crp.trimRef))

/-- XA_VALID: a start that waits for it goes on; after a loss M9 returns to XA with the PLLs holding. -/
def Chip.xaBack (c : Chip) : Chip :=
  if c.crp.xaValid || decide (c.crp.startStep < 3) || c.crp.power == .dormant || c.crp.power == .off then c
  else
    let c := (c.setBit Reg.CRP_STATUS 0 false).onCrp fun x => { x with xaValid := true }
    if c.crp.startStep = 5 ∧ (c.crp.power = .run ∨ c.crp.power = .trim) then c.finishStart
    else if c.crp.startStep = 8 ∧ (c.crp.power = .trim ∨ c.crp.power = .hold) then
      let c := c.refHold.setMux 9 0
      c.trimAgain
    else c

/-- XA_START_TIMEOUT: the start ends in TRIM. -/
def Chip.xaTimeout (c : Chip) : Chip := 
  if c.crp.startStep = 5 ∧ c.crp.xaValid = false ∧ (c.crp.power = .run ∨ c.crp.power = .trim) then c.finishStart
  else c

/-- Whether a PLL has a reference that is valid: M9 on FRC ÷8, or XA; XB for PLL_D. -/
def Chip.refValid (c : Chip) (p : Nat) : Bool :=
  if p = 3 then c.crp.xbValid else c.fl (Reg.CRP_MUX_SEL 9) 1 0 == 1 || c.crp.xaValid

/-- PLL_LOCK. -/
def Chip.pllLock (c : Chip) (p : Nat) : Chip :=
  if c.bit (Reg.CRP_PLL_STATUS p) 1 && c.refValid p then (c.setPll p true false).trimLeave else c

/-! ### XB (R407) -/

/-- XB_LOST: SEAL moves to FRC ÷3 while VDD_CORE is present; tamper source 7 senses it. -/
def xbLost (x : Chip × LifeCycle) : Chip × LifeCycle :=
  let c := x.1
  if !c.crp.xbValid || c.crp.power == .off then x
  else
    let c := (c.raise Reg.CRP_STATUS 1).onCrp fun y => { y with xbValid := false }
    let c := c.when (c.crp.power != .dormant) fun c => (c.pllHolds 3).setMux 8 1
    let c := c.trimLost 1
    tamperSense 7 true (c, x.2)

/-- XB_VALID: SEAL returns to PLL_D. -/
def xbBack (x : Chip × LifeCycle) : Chip × LifeCycle :=
  let c := x.1
  if c.crp.xbValid || c.crp.power == .off then x
  else
    let c := (c.setBit Reg.CRP_STATUS 1 false).onCrp fun y => { y with xbValid := true }
    let c := c.when (c.crp.power != .dormant && decide (3 ≤ c.crp.startStep)) fun c => (c.setPll 3 true false).setMux 8 0
    tamperSense 7 false (c, x.2)

/-! ### Source multiplexers (R408–R410) -/

/-- The switch in progress of a multiplexer. -/
def Chip.switchOf (c : Chip) (m : Nat) : Option MuxSwitch := (c.crp.switches.find? fun e => e.1 == m).map (·.2)

/-- A switch ends. -/
def Chip.switchEnd (c : Chip) (m : Nat) : Chip :=
  (c.setBit (Reg.CRP_MUX_SEL m) 31 false).onCrp fun x => { x with switches := x.switches.filter fun e => e.1 != m }

/-- Whether a SEL code is ignored: it has no source, and the multiplexer has no Off (Tables 3 and 13). -/
def selIgnored (m v : Nat) : Bool := (m == 0 || m == 2 || m == 8) && decide (2 ≤ v)

/-- SEL of a multiplexer is written. -/
def Chip.selWrite (c : Chip) (m v : Nat) : Chip :=
  let old := c.fl (Reg.CRP_MUX_SEL m) 1 0
  if (c.switchOf m).isSome then c.cfgErr 11
  else if v = old || selIgnored m v then c
  else
    ((c.setMux m v).setBit (Reg.CRP_MUX_SEL m) 31 true).onCrp fun x =>
      { x with switches := x.switches ++ [(m, ⟨old, v, false, false⟩)] }

/-- MUX_SELECT: FORCED is W1C; SEL of M9 is read only, that of M8 is Seal's. -/
def Chip.muxSelect (c : Chip) (m v : Nat) (who : Who) : Chip :=
  let r := Reg.CRP_MUX_SEL m
  let c := c.when (bitOf v 30) fun c => c.setBit r 30 false
  if m = 9 then c
  else if m = 8 ∧ who.level ≠ .seal then c.noteRws who r 3 v
  else c.selWrite m (v % 4)

/-- MUX_SWITCH_DONE. -/
def Chip.muxDone (c : Chip) (m : Nat) : Chip :=
  match c.switchOf m with
  | some s => if s.forced then c else c.switchEnd m
  | none => c

/-- What a domain reset does to what a multiplexer feeds (Table 4): an Ethernet port's frame in progress
is abandoned and its link starts again; the IQ side of an Air Unit starts again. -/
def Chip.domainReset (c : Chip) (m : Nat) : Chip :=
  match m with
  | 4 | 5 => (c.ethAbort (m - 4)).onPort (m - 4) fun p => { p with sync := false }
  | 6 | 7 =>
    let u := m - 6
    let c := ((c.airAbort u).wr (Reg.AIR_IQ_FREQ u) 0).wr (Reg.AIR_IQ_SYNCERR u) 0
    c.onAir u fun a => { a with aligned := false }
  | _ => c

/-- FORCED_SWITCH: only a multiplexer with an external input can come to it. -/
def Chip.forcedSwitch (c : Chip) (m : Nat) (newSide : Bool) : Chip :=
  match c.switchOf m with
  | some s =>
    if s.forced || decide (m < 3) || decide (7 < m) then c
    else
      (c.domainReset m).onCrp fun x => { x with
        switches := x.switches.map fun e => if e.1 == m then (m, { s with forced := true, newSide := newSide }) else e
        downs := if x.downs.contains (16 + m) then x.downs else x.downs ++ [16 + m] }
  | none => c

/-- FORCED_SWITCH_RELEASE; a RIDE that waited is entered. -/
def Chip.forcedRelease (c : Chip) (m : Nat) : Chip :=
  match c.switchOf m with
  | some s =>
    if !s.forced then c
    else
      let c := (((c.switchEnd m).setBit (Reg.CRP_MUX_SEL m) 30 true).raise Reg.CRP_STATUS 3).bump Reg.CRP_FORCED_CNT
      let c := (c.cause 5).emberPost 0xB01 (leBytes 1 m ++ leBytes 1 s.old ++ leBytes 1 s.new ++ leBytes 1 (b2n s.newSide)) true false
      if c.crp.rideWaits && !(c.crp.switches.any (·.2.forced)) then
        (c.onCrp fun x => { x with rideWaits := false }).when c.canRide Chip.rideEntry
      else c
  | none => c

/-! ### Meanings -/

/-- XA_LOST (R411). -/
def execXaLost (s : State) : Host.Outcome State Fault Refusal := s.onChip Chip.xaLost

/-- XA_VALID (R412). -/
def execXaValid (s : State) : Host.Outcome State Fault Refusal := s.onChip Chip.xaBack

/-- XA_START_TIMEOUT (R412). -/
def execXaStartTimeout (s : State) : Host.Outcome State Fault Refusal := s.onChip Chip.xaTimeout

/-- XB_LOST (R407). -/
def execXbLost (s : State) : Host.Outcome State Fault Refusal := s.guarded xbLost

/-- XB_VALID (R407). -/
def execXbValid (s : State) : Host.Outcome State Fault Refusal := s.guarded xbBack

/-- PLL_LOCK (R406). -/
def execPllLock (pll : Fin 5) (s : State) : Host.Outcome State Fault Refusal := s.onChip fun c => c.pllLock pll.val

/-- MUX_SELECT (R408). -/
def execMuxSelect (mux : Fin 10) (v : Word) (who : Who) (s : State) : Host.Outcome State Fault Refusal :=
  s.onChip fun c => c.onReg (Reg.CRP_MUX_SEL mux) who.num fun c => c.muxSelect mux.val v.toNat who

/-- MUX_SWITCH_DONE (R408). -/
def execMuxSwitchDone (mux : Fin 10) (s : State) : Host.Outcome State Fault Refusal := s.onChip fun c => c.muxDone mux.val

/-- FORCED_SWITCH (R409). -/
def execForcedSwitch (mux : Fin 10) (newSide : Bool) (s : State) : Host.Outcome State Fault Refusal :=
  s.onChip fun c => c.forcedSwitch mux.val newSide

/-- FORCED_SWITCH_RELEASE (R409). -/
def execForcedSwitchRelease (mux : Fin 10) (s : State) : Host.Outcome State Fault Refusal :=
  s.onChip fun c => c.forcedRelease mux.val

/-- TRIM_START (R414). -/
def execTrimStart (s : State) : Host.Outcome State Fault Refusal := s.onChip Chip.trimStart

/-- TRIM_WINDOW_END (R414). -/
def execTrimWindowEnd (count expected : BitVec 32) (s : State) : Host.Outcome State Fault Refusal :=
  s.onChip fun c => c.trimWindow count.toNat expected.toNat

end Sys2Proof.Machine
end

