-- ==== Sys2Proof/Machine/Views.lean ====
section
/-!
DEFINITION. What every register reads as: the register file, with the fields that show state held
elsewhere laid over it (00_scope.md R8, and the register tables of the chapters).
-/
namespace Sys2Proof.Machine

/-- The index of the register at an offset within an array of `n` registers. -/
def idxOf (base stride n key : Nat) : Option Nat :=
  if base ≤ key ∧ (key - base) % stride = 0 ∧ (key - base) / stride < n then some ((key - base) / stride) else none

/-- One entry of a view: where an array of registers lies, and what register `i` of it reads as. -/
structure ViewRow where
  base : Nat
  stride : Nat
  count : Nat

/-- What the register at `key` shows when it belongs to an array. -/
def shows (r : ViewRow) (key : Nat) (f : Nat → Nat) (otherwise : Nat) : Nat :=
  match idxOf r.base r.stride r.count key with
  | some i => f i
  | none => otherwise

/-- The low and the high word of a 64-bit value, by the offset read. -/
def half (lo key v : Nat) : Nat := if key = lo then v % 2 ^ 32 else v / 2 ^ 32 % 2 ^ 32

/-- Registers that are WO, which read 0 (R8). -/
def writeOnly (key : Nat) : Bool :=
  [Reg.RING_PB_FREE, Reg.BKB_PB_FREE, Reg.BKB_PAIR_PB_FREE, Reg.BKB_PAIR_CMD, Reg.LMA_PB_FREE, Reg.LMA_PH_LOAD, Reg.LMA_RT_OFFER,
    Reg.LMA_RT_LOSS, Reg.AIR_PB_FREE 0, Reg.AIR_PB_FREE 1, Reg.CIU_KEY_ATTR, Reg.CIU_KEY_CMD, Reg.CIU_KEY_ERASE,
    Reg.CIU_SESS_INVAL, Reg.APC_HCX_FLUSH, Reg.BAL_IMG_CMD, Reg.BAL_MEMB_CMD, Reg.BAL_GRP_CMD, Reg.CRP_WDT_KICK].contains key ||
    (idxOf (Reg.CIU_KEY_LOAD 0) 4 8 key).isSome || (idxOf (Reg.FLO_OPND_POST 0) 4 4 key).isSome ||
    (idxOf (Reg.GRD_EMB_STAGE 0) 4 1024 key).isSome

/-! ### RING, BKB -/

/-- A view of RING's registers. -/
def Chip.viewRing (c : Chip) (key : Nat) : Nat :=
  if key = Reg.RING_PB_AVAIL then c.poolAvail .ring else c.rd key

/-- A view of BKB's registers. -/
def Chip.viewBkb (c : Chip) (lc : LifeCycle) (key : Nat) : Nat :=
  if key = Reg.BKB_STATUS then c.rd key + 4 * b2n (c.link 0) + 8 * b2n (c.link 1)
  else if key = Reg.BKB_PB_AVAIL then c.poolAvail .bkb
  else if key = Reg.BKB_TIM_NOW_LO then c.time.toNat % 2 ^ 32
  else if key = Reg.BKB_TIM_NOW_HI then c.tim.nowHi.toNat
  else if key = Reg.BKB_TIM_INC_LO then c.tim.inc % 2 ^ 32
  else if key = Reg.BKB_TIM_INC_HI then c.tim.inc / 2 ^ 32
  else if key = Reg.BKB_TIM_SLEW_REM then uns 32 (c.tim.slewRem.tdiv ((2 ^ 32 : Nat) : Int))
  else if key = Reg.BKB_PAIR_HEALTH then c.health lc
  else if key = Reg.BKB_PAIR_REPLAY then c.pair.held
  else c.rd key

/-! ### LMA, Air Units -/

/-- LMA_PH_DATA: the record of a destination (02 R70). -/
def PhaseRec.data (x : PhaseRec) : Nat := x.committed + 8 * x.candidate + 64 * x.run + 4096 * x.confidence

/-- A view of the LMA's registers. -/
def Chip.viewLma (c : Chip) (key : Nat) : Nat :=
  if key = Reg.LMA_PB_AVAIL then c.poolAvail .lma
  else if key = Reg.LMA_PH_DATA then (c.phaseRec (c.fl Reg.LMA_PH_INDEX 14 0)).data
  else if key = Reg.LMA_PQ_LEVEL then (c.lma.pq.map List.length).foldl (· + ·) 0
  else c.rd key

/-- A view of the Air Units' registers. -/
def Chip.viewAir (c : Chip) (key : Nat) : Nat :=
  if key = Reg.AIR_PB_AVAIL 0 then c.poolAvail .air0
  else if key = Reg.AIR_PB_AVAIL 1 then c.poolAvail .air1
  else c.rd key

/-! ### CIU, Flow Scheduler -/

/-- A view of the CIU's registers. -/
def Chip.viewCiu (c : Chip) (key : Nat) : Nat :=
  if key = Reg.CIU_SLOT_ATTR then c.attr (c.fl Reg.CIU_SLOT_SEL 14 0)
  else shows ⟨Reg.CIU_QINFL 0, 0x20, 8⟩ key (fun q => (c.ciu.inflight.filter fun r => r.queue == q).length) (c.rd key)

/-- The code of a pod's state, in the order of Table 4. -/
def PodState.code : PodState → Nat
  | .free => 0
  | .wait => 1
  | .ready => 2
  | .queued => 3
  | .run => 4
  | .done => 5

/-- FLO_POD_INFO of a pod. Slot 0 counts as filled from allocation. -/
def Pod.info (p : Pod) : Nat :=
  let filled := if p.state = .free then 0 else 1 + (p.slots.filter fun s => s.op.isSome).length
  let bound := match p.binding with | .bound _ _ => true | _ => false
  p.state.code + 2 ^ 3 * p.alloc.cls.toNat + 2 ^ 9 * filled + 2 ^ 12 * min p.holds 15 + 2 ^ 16 * p.gen.toNat + 2 ^ 24 * b2n bound

/-- Whether the oldest unbound pod cannot bind (06 R185). -/
def Chip.bindWaits (c : Chip) : Bool :=
  match c.flo.unbound with
  | [] => false
  | n :: _ =>
    match (c.pod n.toNat).cord with
    | none => true
    | some k => decide (256 ≤ ((c.cord k.toNat).next - (c.cord k.toNat).rel).toNat)

/-- FLO_CORE_STATn. -/
def Chip.coreStat (c : Chip) (n : Nat) : Nat :=
  c.load n + 16 * b2n (c.fcore n).run.isSome + 32 * b2n (c.fcore n).stalled + 64 * b2n (c.coreHeld n)

/-- A view of the Flow Scheduler's registers. -/
def Chip.viewFlo (c : Chip) (key : Nat) : Nat :=
  if key = Reg.FLO_STATUS then b2n c.flo.freeList.isEmpty + 2 * b2n c.bindWaits
  else if key = Reg.FLO_POD_USED then c.podsUsed
  else if key = Reg.FLO_TICKET then c.flo.ticket.toNat
  else if key = Reg.FLO_POD_INFO then (c.pod (c.fl Reg.FLO_POD_SEL 9 0)).info
  else if key = Reg.FLO_POD_TICKET then (c.pod (c.fl Reg.FLO_POD_SEL 9 0)).ticket.toNat
  else if key = Reg.FLO_CORD_STAT then
    let k := c.cord (c.fl Reg.FLO_CORD_SEL 11 0)
    k.rel.toNat + 2 ^ 20 * (k.next - k.rel).toNat
  else if key = Reg.FLO_CORD_AFF then
    match (c.cord (c.fl Reg.FLO_CORD_SEL 11 0)).aff with
    | some n => n.val
    | none => 31
  else shows ⟨Reg.FLO_CLASS_READY 0, 0x10, 64⟩ key (fun k => (c.readyList k).length)
    (shows ⟨Reg.FLO_CLASS_INUSE 0, 0x10, 64⟩ key (fun k => c.classUse k)
    (shows ⟨Reg.FLO_CORE_STAT 0, 0x40, 24⟩ key (fun n => c.coreStat n)
    (shows ⟨Reg.FLO_SRC_CFG 0, 4, 7⟩ key (fun s => putFld (c.rd key) 24 17 (c.allocQueue s).length) (c.rd key))))

/-! ### The Clamp -/

/-- A view of the Clamp's registers. -/
def Chip.viewClm (c : Chip) (key : Nat) : Nat :=
  if key = Reg.CLM_SEQ_LO ∨ key = Reg.CLM_SEQ_HI then half Reg.CLM_SEQ_LO key c.clm.nextSeq
  else if key = Reg.CLM_CKPT_SEQ_LO ∨ key = Reg.CLM_CKPT_SEQ_HI then half Reg.CLM_CKPT_SEQ_LO key c.clm.sck
  else if key = Reg.CLM_ARC_HEAD_LO ∨ key = Reg.CLM_ARC_HEAD_HI then half Reg.CLM_ARC_HEAD_LO key c.clm.head
  else shows ⟨Reg.CLM_NS_SIZE 0, 4, 4⟩ key (fun _ => (c.rwsValue key).toNat)
    (shows ⟨Reg.CLM_QCFG 0, 0x20, 3⟩ key (fun q => putFld (c.rd key) 9 8 ([1, 2, 0].getD q 0)) (c.rd key))

/-! ### Legal Partition (09_legal_partition.md, Tables 17–20) -/

/-- LEG_STATUS. The model does boundary processing within a step, so BUSY reads 0. -/
def State.legStatus (s : State) : Nat :=
  let g := s.leg
  let fused := s.chip.fuses.headEnd
  let cal := if g.override.isSome then 2 else b2n g.active.isSome
  b2n (g.metering fused (s.lc.state == .retired)) + 2 * b2n fused + 4 * b2n g.faulted + 8 * b2n g.clkInvalid + 16 * cal +
    64 * g.tariff + 512 * b2n g.passive.isSome + 1024 * b2n (decide (7373 ≤ g.log.length)) + 2048 * b2n g.logFull +
    8192 * b2n g.pfail

/-- A view of the Legal Partition's registers. -/
def State.viewLeg (s : State) (key : Nat) : Nat :=
  let g := s.leg
  if key = Reg.LEG_STATUS then s.legStatus
  else if key = Reg.LEG_TIME_LO then g.secs % 2 ^ 32
  else if key = Reg.LEG_TIME_HI then g.secs / 2 ^ 32 % 256 + 256 * g.frac
  else if key = Reg.LEG_SWID then g.swid.toNat
  else if key = Reg.LEG_INST_FREQ then (g.inst.getD 16 0).toNat
  else if key = Reg.LEG_CTRL then g.ctrl.toNat
  else if key = Reg.LEG_MET_CFG then g.metCfg.toNat
  else if key = Reg.LEG_CLK_CFG then g.clkCfg.toNat
  else if key = Reg.LEG_ERR then g.err.toNat
  else if key = Reg.LEG_ADJ_SMALL then g.adjSmall
  else if key = Reg.LEG_BMARK_LO ∨ key = Reg.LEG_BMARK_HI then half Reg.LEG_BMARK_LO key g.bmark
  else if key = Reg.LEG_CMD then g.cmd.toNat
  else if key = Reg.LEG_CMD_ADDR then g.cmdAddr.toNat
  else if key = Reg.LEG_CMD_STATUS then g.cmdStatus.toNat
  else if key = Reg.LEG_KEYS then g.keys.toNat
  else if key = Reg.LEG_COPY_LEVEL then g.copies.length
  else if key = Reg.LEG_COPY_DROP then g.copyDrop
  else if key = Reg.LEG_LOG_FILL then g.log.length
  else if key = Reg.LEG_LOG_SEQ then g.logSeq
  else if key = Reg.LEG_LOG_RDMARK then g.logMark
  else if key = Reg.LEG_LOG_LOST then g.logLost
  else if key = Reg.LEG_PF_CNT then g.pfCnt
  else if key = Reg.LEG_OVL_CNT then g.ovlCnt
  else if key = Reg.LEG_SWEEP_MAXT then g.sweepMax
  else match idxOf (Reg.LEG_INST_V 0) 4 16 key with
    | some i => (g.inst.getD i 0).toNat
    | none => s.chip.rd key

/-! ### Guard -/

/-- GRD_LC_STATE: the state, its flags, and RESULT. -/
def Chip.lcWord (c : Chip) (l : LifeCycle) : Nat :=
  c.rd Reg.GRD_LC_STATE + l.state.rank + 8 * b2n l.tripped + 16 * b2n l.rootKilled

/-- A view of the Ember log's registers (16 Table 8). -/
def Chip.viewEmber (c : Chip) (key : Nat) : Nat :=
  let e := c.ember
  if key = Reg.GRD_EMB_STATUS then c.rd key + b2n e.firstFull + 2 ^ 24 * min e.snapCnt 255
  else if key = Reg.GRD_EMB_SEQ then e.seq.toNat
  else if key = Reg.GRD_EMB_HEAD then e.head
  else if key = Reg.GRD_EMB_OLDEST then (e.held.head?.map (·.1)).getD e.head
  else if key = Reg.GRD_EMB_FIRSTFILL then e.firstUsed
  else if key = Reg.GRD_EMB_OPSEC then e.opsec.toNat
  else if key = Reg.GRD_EMB_PCYC then e.pcyc + 2 ^ 24 * e.sub.toNat
  else shows ⟨Reg.GRD_EMB_WINDOW 0, 4, 1024⟩ key (fun i => leAt e.window (4 * i) 4) (c.rd key)

/-- A view of the Guard's registers. -/
def Chip.viewGrd (c : Chip) (lc : LifeCycle) (key : Nat) : Nat :=
  if key = Reg.GRD_DEV_ID then c.devId
  else if key = Reg.GRD_LC_STATE then c.lcWord lc
  else if key = Reg.GRD_SERIAL_LO ∨ key = Reg.GRD_SERIAL_HI then half Reg.GRD_SERIAL_LO key c.fuses.serial.toNat
  else if key = Reg.GRD_TMP_STATUS then ((List.range 11).filter c.grd.present.contains).foldl (fun m i => m + 2 ^ i) 0
  else if key = Reg.GRD_DBG_STATE then c.dbgState
  else if key = Reg.GRD_DBG_REQ then c.grd.dbgReq.getD 0
  else if key = Reg.GRD_UPD_STATUS then c.rd key + c.upd.state
  else if key = Reg.GRD_UPD_NEXT then c.upd.next
  else match idxOf (Reg.GRD_UPD_SERIES 0) 4 8 key with
    | some i => (Tab.get (fun _ => 0) c.upd.series i).toNat
    | none => c.viewEmber key

/-! ### PCIe configuration space (11 R335, R336) -/

/-- Word `i` of the endpoint's type 0 header. -/
def Chip.pciHeader (c : Chip) (i : Fin 16) : Nat :=
  let s := c.ring.setup
  match i.val with
  | 0 => 0x81201F2D
  | 1 => 0x100000 + s.command.toNat
  | 2 => 0x11800000 + fld c.devId 11 4
  | 4 => s.bar0.toNat % 128 * 2 ^ 25 + 4
  | 5 => s.bar0.toNat / 128
  | 11 => c.ring.subsys.toNat
  | 13 => 0x40
  | _ => 0

/-! ### CRP -/

/-- CRP_PWR_STATUS.STATE. -/
def Power.code : Power → Nat
  | .trim => 1
  | .hold => 2
  | .ride => 3
  | _ => 0

/-- A view of CRP's registers. -/
def Chip.viewCrp (c : Chip) (key : Nat) : Nat :=
  let x := c.crp
  if key = Reg.CRP_PWR_STATUS then
    c.rd key + x.power.code + 256 * b2n x.pfail + 512 * b2n x.xaValid + 1024 * b2n x.xbValid + 2048 * b2n x.deferred
  else if key = Reg.CRP_CLK_GATE then if c.fuses.headEnd then c.rd key ||| 0xC else c.rd key
  else if key = Reg.CRP_TRIM_CODE then x.code + 2 ^ 16 * x.factory
  else shows ⟨Reg.CRP_KLN_COV 0, 4, 13⟩ key (fun p => c.kilnCov p)
    (shows ⟨Reg.CRP_KLN_MASK_LO 0, 8, 13⟩ key (fun p => c.kilnMask p % 2 ^ 32)
    (shows ⟨Reg.CRP_KLN_MASK_HI 0, 8, 13⟩ key (fun p => c.kilnMask p / 2 ^ 32) (c.rd key)))

/-! ### All registers -/

/-- What the register at an offset reads as; an offset that holds none reads 0 (01 R22). -/
def State.view (s : State) (key : Nat) : Word :=
  let c := s.chip
  if (regRow? key).isNone || writeOnly key then 0
  else BitVec.ofNat 32 <|
    match key / 0x100000 with
    | 0 => c.viewRing key
    | 1 => c.viewBkb s.lc key
    | 2 => c.viewLma key
    | 3 => c.viewAir key
    | 4 => c.viewCiu key
    | 5 => c.viewFlo key
    | 7 => c.viewClm key
    | 8 => s.viewLeg key
    | 10 => c.viewGrd s.lc key
    | 11 => c.viewCrp key
    | _ => c.rd key

end Sys2Proof.Machine
end

