-- ==== Sys2Proof/Machine/Writes.lean ====
section
/-!
DEFINITION. What a write that has been let through does at each register: under the access code of
each field (00_scope.md R8), and with what the register's own rule adds.
-/
namespace Sys2Proof.Machine

/-! ### The access codes (R8, R491, R492) -/

/-- What a register holds after a write: RW fields take it, RWS fields from the Seal level only,
1s clear W1C fields and set W1S fields, and all else keeps. -/
def RegRow.after (r : RegRow) (top : Bool) (old v : Word) : Word :=
  let take := BitVec.ofNat 32 r.rw ||| (if top then BitVec.ofNat 32 r.rws else 0)
  let x := (old &&& ~~~take) ||| (v &&& take)
  (x &&& ~~~(v &&& BitVec.ofNat 32 r.w1c)) ||| (v &&& BitVec.ofNat 32 r.w1s)

/-- The violation of R492 judged: whether the value written would change an RWS field, whatever else keeps
the field from changing now. -/
def Chip.judgeRws (c : Chip) (who : Who) (key v : Nat) : Chip :=
  match regRow? key with
  | none => c
  | some r => c.noteRws who key r.rws v

/-- A write under the access codes alone. -/
def Chip.codeWrite (c : Chip) (who : Who) (key v : Nat) : Chip :=
  match regRow? key with
  | none => c
  | some r => c.wr key (r.after (who.level == .seal) (c.rdW key) (BitVec.ofNat 32 v)).toNat

/-- A write under the access codes, with the violation of R492 judged. -/
def Chip.plainWrite (c : Chip) (who : Who) (key v : Nat) : Chip := (c.judgeRws who key v).codeWrite who key v

/-- A write whose fields in `mask` may be written only while `free` holds: else they keep, and a
value that would change them is an error (R491). -/
def Chip.lockedWrite (c : Chip) (who : Who) (key v mask : Nat) (free : Bool) (err : Chip → Chip) : Chip :=
  let m := BitVec.ofNat 32 mask
  let old := c.rdW key
  let x := BitVec.ofNat 32 v
  if free then c.plainWrite who key v
  else
    ((c.judgeRws who key v).codeWrite who key ((x &&& ~~~m) ||| (old &&& m)).toNat).when ((old &&& m) != (x &&& m)) err

/-- A write to a register that may be written only while `free` holds: else it is ignored with the
error (R491). -/
def Chip.guardedWrite (c : Chip) (who : Who) (key v : Nat) (free : Bool) (err : Chip → Chip) : Chip :=
  if free then c.plainWrite who key v else err (c.judgeRws who key v)

/-- The action for the register of an array at an offset, or what holds otherwise. -/
def onArr (base stride n key : Nat) (f : Nat → Chip) (otherwise : Chip) : Chip :=
  match idxOf base stride n key with
  | some i => f i
  | none => otherwise

/-! ### RING and BKB -/

/-- A ring's CFG register: ENABLE from 0 to 1 enables the ring, to 0 stops it. -/
def Chip.ringCfgWrite (c : Chip) (who : Who) (key v : Nat) (ring : RingSel) : Chip :=
  let was := c.bit key 31
  let c := c.plainWrite who key (putBit v 31 was)
  if bitOf v 31 && !was then c.ringEnable ring
  else c.when (!bitOf v 31) fun c => c.setBit key 31 false

/-- A write to RING. -/
def Chip.writeRing (c : Chip) (who : Who) (key v : Nat) : Chip :=
  if key = Reg.RING_CTRL then
    let was := c.bit key 1
    let c := c.lockedWrite who key v 2 (!c.bit key 0) fun c => c.cfgErr 0
    c.when (!was && c.bit key 1) fun c => c.pcieReset .linkDown
  else if key = Reg.RING_PB_LO ∨ key = Reg.RING_PB_HI then (c.plainWrite who key v).poolRange .ring
  else if key = Reg.RING_PB_FREE then c.pbFree .ring (v % 2048)
  else if key = Reg.RING_IOMMU_INVAL then c.iommuInval v
  else
    onArr (Reg.RING_RP_BIND 0) 0x40 64 key (fun p =>
      let idle := !c.bit (Reg.RING_RP_SQ_CFG p) 31 && !c.bit (Reg.RING_RP_CQ_CFG p) 31
      c.guardedWrite who key v idle fun c => c.cfgErr 0) <|
    onArr (Reg.RING_RP_SQ_CFG 0) 0x40 64 key (fun p => c.ringCfgWrite who key v (.sq (Fin.ofNat 64 p))) <|
    onArr (Reg.RING_RP_CQ_CFG 0) 0x40 64 key (fun p => c.ringCfgWrite who key v (.cq (Fin.ofNat 64 p))) <|
    onArr (Reg.RING_EVT_CFG 0) 0x20 8 key (fun e => c.ringCfgWrite who key v (.evt (Fin.ofNat 8 e))) <|
    onArr (Reg.RING_RP_SQ_BASE_LO 0) 0x40 64 key (fun p =>
      c.guardedWrite who key v (!c.bit (Reg.RING_RP_SQ_CFG p) 31) fun c => c.cfgErr 0) <|
    onArr (Reg.RING_RP_SQ_BASE_HI 0) 0x40 64 key (fun p =>
      c.guardedWrite who key v (!c.bit (Reg.RING_RP_SQ_CFG p) 31) fun c => c.cfgErr 0) <|
    onArr (Reg.RING_RP_CQ_BASE_LO 0) 0x40 64 key (fun p =>
      c.guardedWrite who key v (!c.bit (Reg.RING_RP_CQ_CFG p) 31) fun c => c.cfgErr 0) <|
    onArr (Reg.RING_RP_CQ_BASE_HI 0) 0x40 64 key (fun p =>
      c.guardedWrite who key v (!c.bit (Reg.RING_RP_CQ_CFG p) 31) fun c => c.cfgErr 0) <|
    onArr (Reg.MSIX_WORD 0 3) 0x10 128 key (fun n =>
      let unmasks := c.bit key 0 && !bitOf v 0
      (c.plainWrite who key v).when unmasks fun c => c.vectorUnmask n) <|
    c.plainWrite who key v

/-- A write of BKB_PAIR_CMD. -/
def Chip.pairCmdWrite (c : Chip) (v : Nat) : Chip :=
  ((c.when (bitOf v 0) Chip.takeoverCmd).when (bitOf v 1) Chip.demoteCmd).when (bitOf v 2) Chip.clearOos

/-- A write to BKB. -/
def Chip.writeBkb (c : Chip) (g : Leg) (who : Who) (key v : Nat) : Chip :=
  let err (c : Chip) : Chip := c.cfgErr 1
  if key = Reg.BKB_NODE then c.guardedWrite who key v (!c.bit Reg.FLO_CTRL 0) err
  else if key = Reg.BKB_PB_LO ∨ key = Reg.BKB_PB_HI then (c.plainWrite who key v).poolRange .bkb
  else if key = Reg.BKB_PB_FREE then c.pbFree .bkb (v % 2048)
  else if key = Reg.BKB_TIM_CTRL then c.timCtrlWrite g v
  else if key = Reg.BKB_TIM_INC_LO then c.incLoWrite v
  else if key = Reg.BKB_TIM_INC_HI then c.incWrite v
  else if key = Reg.BKB_PAIR_CFG then c.pairCfgWrite v
  else if key = Reg.BKB_PAIR_CMD then c.pairCmdWrite v
  else if key = Reg.BKB_PAIR_PB_LO ∨ key = Reg.BKB_PAIR_PB_HI then (c.plainWrite who key v).poolRange .pair
  else if key = Reg.BKB_PAIR_PB_FREE then c.pbFree .pair (v % 2048)
  else
    onArr (Reg.BKB_PORT_CFG 0) 0x20 2 key (fun p => c.portCfgWrite p v) <|
    onArr (Reg.BKB_RXQ_CFG 0) 0x20 3 key (fun _ => c.lockedWrite who key v 0xF (!c.bit key 31) err) <|
    onArr (Reg.BKB_RXQ_BASE_LO 0) 0x20 3 key (fun q => c.guardedWrite who key v (!c.bit (Reg.BKB_RXQ_CFG q) 31) err) <|
    onArr (Reg.BKB_RXQ_BASE_HI 0) 0x20 3 key (fun q => c.guardedWrite who key v (!c.bit (Reg.BKB_RXQ_CFG q) 31) err) <|
    onArr (Reg.BKB_TXQ_CFG 0 0) 0x20 8 key (fun _ => c.lockedWrite who key v 0xF (!c.bit key 31) err) <|
    onArr (Reg.BKB_TXQ_BASE_LO 0 0) 0x20 8 key (fun i =>
      c.guardedWrite who key v (!c.bit (Reg.BKB_TXQ_CFG (i / 4) (i % 4)) 31) err) <|
    onArr (Reg.BKB_TXQ_BASE_HI 0 0) 0x20 8 key (fun i =>
      c.guardedWrite who key v (!c.bit (Reg.BKB_TXQ_CFG (i / 4) (i % 4)) 31) err) <|
    onArr (Reg.BKB_CMP_CFG 0) 0x20 16 key (fun n => c.cmpCfgWrite n v) <|
    onArr (Reg.BKB_CMP_TGT_LO 0) 0x20 16 key (fun _ => c.holdLow key v) <|
    onArr (Reg.BKB_CMP_PER_LO 0) 0x20 16 key (fun _ => c.holdLow key v) <|
    onArr (Reg.BKB_CMP_TGT_HI 0) 0x20 16 key (fun n => c.cmpPairWrite n (Reg.BKB_CMP_TGT_LO n) key v) <|
    onArr (Reg.BKB_CMP_PER_HI 0) 0x20 16 key (fun n => c.cmpPairWrite n (Reg.BKB_CMP_PER_LO n) key v) <|
    c.plainWrite who key v

/-! ### LMA and Air Units -/

/-- A write of LMA_PQ_CTRL: MODE is requested; FLUSH is done at once. -/
def Chip.pqCtrlWrite (c : Chip) (v : Nat) : Chip := (c.wr Reg.LMA_PQ_CTRL (v % 2)).when (bitOf v 1) Chip.pqFlush

/-- A write to the LMA. -/
def Chip.writeLma (c : Chip) (who : Who) (key v : Nat) : Chip :=
  if key = Reg.LMA_CTRL then c.lmaCtrlWrite v
  else if key = Reg.LMA_PB_LO ∨ key = Reg.LMA_PB_HI then (c.plainWrite who key v).poolRange .lma
  else if key = Reg.LMA_PB_FREE then c.pbFree .lma (v % 2048)
  else if key = Reg.LMA_PH_CFG then (c.plainWrite who key v).refChange c.phRef
  else if key = Reg.LMA_PH_LOAD then c.phLoad v
  else if key = Reg.LMA_PQ_CTRL then c.pqCtrlWrite v
  else if key = Reg.LMA_RT_OFFER then c.rtOffer (BitVec.ofNat 32 v)
  else if key = Reg.LMA_RT_LOSS then c.rtLoss (v % 2 ^ 15)
  else
    onArr (Reg.LMA_LANE_CFG 0) 0x10 24 key (fun n => c.laneCfgWrite n v) <|
    onArr (Reg.LMA_TX_CFG 0) 4 3 key (fun n => c.txCfgWrite n v) <|
    onArr (Reg.LMA_CELL_CFG 0) 0x20 12 key (fun n => c.cellCfgWrite n v) <|
    onArr (Reg.RT_WORD 0 0) 4 131072 key (fun i => c.rtWrite (i / 4) (i % 4) v) <|
    c.plainWrite who key v

/-- A write of AIR_MAC_CTRLu. -/
def Chip.macCtrlWrite (c : Chip) (u v : Nat) : Chip :=
  let r := Reg.AIR_MAC_CTRL u
  let on := c.bit r 0
  let c := if bitOf v 1 then c.when (!c.bit r 1) fun c => c.airHalt u else c.setBit r 1 false
  if bitOf v 0 && !on then c.airEnable u
  else if !bitOf v 0 && on then c.airDisable u
  else c

/-- A write to an Air Unit. -/
def Chip.writeAir (c : Chip) (who : Who) (key v : Nat) : Chip :=
  let u := if 0x380000 ≤ key then 1 else 0
  let off := [Reg.AIR_TS_LEN u, Reg.AIR_TS_TXOFS u, Reg.AIR_TS_ACK u, Reg.AIR_EPOCH_LO u, Reg.AIR_EPOCH_HI u, Reg.AIR_TXFC u]
  if key = Reg.AIR_MAC_CFG u then c.airCfgWrite u v
  else if key = Reg.AIR_MAC_CTRL u then c.macCtrlWrite u v
  else if key ∈ off then c.guardedWrite who key v (!c.bit (Reg.AIR_MAC_CTRL u) 0) fun c => c.airCfgErr u
  else if key = Reg.AIR_PHY_CFG u then c.phyWrite u false v
  else if key = Reg.AIR_PHY_ALT u then c.phyWrite u true v
  else if key = Reg.AIR_SCR_RUN u then c.scriptRun u v
  else if key = Reg.AIR_HOP_CTRL u then c.hopCtrl u v
  else if key = Reg.AIR_PB_LO u ∨ key = Reg.AIR_PB_HI u then (c.plainWrite who key v).poolRange (airPool u)
  else if key = Reg.AIR_PB_FREE u then c.pbFree (airPool u) (v % 2048)
  else c.heldWrite u key fun c =>
    onArr (Reg.AIR_TXQ_PI u 0) 0x10 4 key (fun _ => (c.plainWrite who key v).inSlot u fun c => c.airTrack u) <|
    onArr (Reg.NB_WORD u 0 0) 4 32768 key (fun i => c.nbWrite u (i / 8) (i % 8) v) <|
    c.plainWrite who key v

/-! ### CIU, Flow Scheduler, Application Cluster -/

/-- A write of CIU_CTRL: ENABLE by R170, the rest by access code. -/
def Chip.ciuCtrlWrite (c : Chip) (who : Who) (v : Nat) : Chip :=
  let r := Reg.CIU_CTRL
  let on := c.bit r 0
  let c := c.plainWrite who r (putBit v 0 on)
  if bitOf v 0 && !on then c.ciuEnable
  else if !bitOf v 0 && on then c.ciuDisable
  else c

/-- A write to the CIU. CIU_ALARM.DET clears from the Seal level only (Table 13). -/
def Chip.writeCiu (c : Chip) (who : Who) (key v : Nat) : Chip :=
  let err (c : Chip) : Chip := c.cfgErr 4
  if key = Reg.CIU_CTRL then c.ciuCtrlWrite who v
  else if key = Reg.CIU_ALARM then c.plainWrite who key (if who.level = .seal then v else putFld v 4 0 0)
  else if key = Reg.CIU_KEY_ATTR then c.keyWindowWrite 8 (BitVec.ofNat 32 v) who.level
  else if key = Reg.CIU_KEY_CMD then c.keyLoadGo v who.level
  else if key = Reg.CIU_KEY_ERASE then c.keyErase v who.level
  else if key = Reg.CIU_SESS_INVAL then c.sessInvalWrite v
  else
    onArr (Reg.CIU_KEY_LOAD 0) 4 8 key (fun i => c.keyWindowWrite i (BitVec.ofNat 32 v) who.level) <|
    onArr (Reg.CIU_QCFG 0) 0x20 8 key (fun _ => c.lockedWrite who key v 0x6000000F (!c.bit key 31) err) <|
    onArr (Reg.CIU_QBASE_LO 0) 0x20 8 key (fun q => c.guardedWrite who key v (!c.bit (Reg.CIU_QCFG q) 31) err) <|
    onArr (Reg.CIU_QBASE_HI 0) 0x20 8 key (fun q => c.guardedWrite who key v (!c.bit (Reg.CIU_QCFG q) 31) err) <|
    c.plainWrite who key v

/-- A write of FLO_CORE_CFGn: RESET is driven by its change. -/
def Chip.coreCfgWrite (c : Chip) (who : Who) (n v : Nat) : Chip :=
  let r := Reg.FLO_CORE_CFG n
  let held := c.bit r 30
  let c := c.plainWrite who r (putBit v 30 held)
  if bitOf v 30 && !held then c.coreHold n
  else if !bitOf v 30 && held then c.coreStart n
  else c

/-- A write to the Flow Scheduler. -/
def Chip.writeFlo (c : Chip) (who : Who) (key v : Nat) : Chip :=
  onArr (Reg.FLO_CORE_CFG 0) 0x40 24 key (fun n => c.coreCfgWrite who n v) <|
  onArr (Reg.FLO_OPND_POST 0) 4 4 key (fun i =>
    if i < 3 then c.onFlo fun f => { f with post := f.post.set i (BitVec.ofNat 32 v) }
    else c.softwarePost (BitVec.ofNat 32 v)) <|
  c.plainWrite who key v

/-- A write of APC_DDR_CFG: the geometry only while ENABLE is 0. -/
def Chip.ddrCfgWrite (c : Chip) (who : Who) (v : Nat) : Chip :=
  let r := Reg.APC_DDR_CFG
  if bitOf v 31 then c.ddrEnable v
  else if c.bit r 31 then
    ((c.setBit r 30 (bitOf v 30)).when (fld v 29 27 != c.fl r 29 27) fun c => c.cfgErr 6).ddrDisable
  else c.plainWrite who r v

/-- A write to the Application Cluster. -/
def Chip.writeApc (c : Chip) (who : Who) (key v : Nat) : Chip :=
  if key = Reg.APC_CORE_RUN then c.coreRun v who
  else if key = Reg.APC_DDR_CFG then c.ddrCfgWrite who v
  else if key = Reg.APC_MREC_BASE_LO ∨ key = Reg.APC_MREC_BASE_HI then
    c.guardedWrite who key v (!c.bit Reg.APC_HCX_CTRL 0) Chip.hcxCfgErr
  else if key = Reg.APC_HCX_FLUSH then c.hcxFlush v
  else
    onArr (Reg.PIC_CLAIM 0) 8 8 key (fun x => c.claimComplete x v) <|
    c.plainWrite who key v

/-! ### Clamp and BAL -/

/-- Registers of the Clamp that may be written only while ENABLE is 0. -/
def clmLocked : List Nat :=
  [Reg.CLM_GEOM, Reg.CLM_MAP_BASE_LO, Reg.CLM_MAP_BASE_HI, Reg.CLM_BLK_BASE_LO, Reg.CLM_BLK_BASE_HI]

/-- A write to the Clamp. -/
def Chip.writeClm (c : Chip) (who : Who) (key v : Nat) : Chip :=
  if key = Reg.CLM_CTRL then c.clmCtrlWrite v who []
  else if key = Reg.CLM_MEDIA_CMD then c.mediaFormat v who []
  else if key = Reg.CLM_HK_CFG then c.hkCfgWrite v
  else if key ∈ clmLocked then c.guardedWrite who key v (!c.bit Reg.CLM_CTRL 0) fun c => c.cfgErr 7
  else c.plainWrite who key v

/-- A write of BAL_MEMB_CMD. -/
def Chip.membCmdWrite (c : Chip) (v : Nat) : Chip :=
  c.membCmd v fun c h =>
    match fld v 29 28 with
    | 0 => c.join h
    | 1 => c.leave h
    | 2 => c.exclude h true
    | _ => c.exclude h false

/-- A write to BAL. -/
def Chip.writeBal (c : Chip) (who : Who) (key v : Nat) : Chip :=
  if key = Reg.BAL_CTRL then c.balCtrlWrite v
  else if key = Reg.BAL_CFG then c.balCfgWrite v
  else if key = Reg.BAL_RPT_CI then
    let c := c.plainWrite who key v
    c.rptDrain c.bal.reports.length
  else if key = Reg.BAL_IMG_CMD then c.imageCmd v (if v % 4 = 1 then 1 else 2)
  else if key = Reg.BAL_MEMB_CMD then c.membCmdWrite v
  else if key = Reg.BAL_GRP_CMD then if c.balUp && bitOf v 16 then c.relearn (v % 4096) else c
  else
    onArr (Reg.BAL_BASE_LO 0) 4 12 key (fun _ => c.guardedWrite who key v (!c.bit Reg.BAL_CTRL 0) fun c => c.cfgErr 9) <|
    onArr (Reg.GROUP_WORD 0 0) 4 65536 key (fun i => c.groupWrite (i / 16) (i % 16) v) <|
    c.plainWrite who key v

/-! ### Legal Partition -/

/-- A write to LEG: below the Seal level it is refused (01 R29). -/
def State.writeLeg (s : State) (who : Who) (key v : Nat) : Chip × Leg :=
  let g := s.leg
  let w := BitVec.ofNat 32 v
  if who.level ≠ .seal then (s.chip.noteRefusal who.num who.level.code true (0xF0000000 + key), g)
  else if key = Reg.LEG_CTRL then (s.chip, { g with ctrl := w &&& 7 })
  else if key = Reg.LEG_MET_CFG then s.legPut who key (Leg.metCfgWrite w)
  else if key = Reg.LEG_CLK_CFG then s.legPut who key (Leg.clkCfgWrite w)
  else if key = Reg.LEG_ERR then (s.chip, { g with err := g.err &&& ~~~w })
  else if key = Reg.LEG_CMD then 
    let taken := bitOf v 31 && !bitOf g.ctrl.toNat 2
    (s.chip, { g with cmd := w &&& 0x800000FF, cmdStatus := if taken then g.cmdStatus ||| 0x80000000 else g.cmdStatus })
  else if key = Reg.LEG_CMD_ADDR then (s.chip, { g with cmdAddr := w })
  else if key = Reg.LEG_KEYS then (s.chip, { g with keys := w &&& 0x7FFF7FFF })
  else (s.chip.plainWrite who key v, g)

/-! ### Guard -/

/-- A write of GRD_EMB_CMD. -/
def Chip.emberCmdWrite (c : Chip) (lc : LifeCycle) (v : Nat) (l : Level) : Chip :=
  if !bitOf v 31 then c.wr Reg.GRD_EMB_CMD (v % 8)
  else
    let c := match v % 8 with
      | 1 => c.emberOldest
      | 2 => c.emberNext
      | 3 => c.emberFind
      | 4 => c.emberNewest
      | 5 => c.clearLast lc l
      | _ => c.readResult 2 false
    c.emberCmd (v % 8)

/-- A write of GRD_UPD_CMD; codes that name no command give RESULT 9 (13 Table 11). -/
def State.updCmdWrite (s : State) (v : Nat) : Chip :=
  if !bitOf v 31 then s.chip.wr Reg.GRD_UPD_CMD (v % 8)
  else
    let c := match v % 8 with
      | 1 => s.updateCheck
      | 2 => s.updateStart
      | 3 => s.updateActivate
      | 4 => s.chip.updateAbort
      | _ => s.chip.updResult 9
    c.updCmd (v % 8)

/-- A write of GRD_LC_CMD. -/
def lcCmdWrite (v : Nat) (who : Who) (x : Chip × LifeCycle) : Chip × LifeCycle :=
  if who.level ≠ .seal then (x.1.noteRws who Reg.GRD_LC_CMD 0x8000000F v, x.2)
  else if bitOf v 31 then lcCmd (v % 16) who x
  else (x.1.wr Reg.GRD_LC_CMD (v % 16), x.2)

/-- Registers fixed from PERSONALISED (12 Table 14, 13 Table 13). -/
def authKey (key : Nat) : Bool :=
  (idxOf (Reg.GRD_DBG_AUTH 0) 4 8 key).isSome || (idxOf (Reg.GRD_UPD_AUTH 0) 4 8 key).isSome

/-- A write of an authority hash that is fixed: it is ignored, and leaves the trace that R491 asks for. The Guard
has no CFG_ERR, so a value that would change the hash is counted, latched and recorded as R376 does it for
the RWS fields, from the Seal level too (DESIGN CHOICE, log entry 10). -/
def Chip.authFixed (c : Chip) (who : Who) (key v : Nat) : Chip :=
  c.when (c.rdW key != BitVec.ofNat 32 v) fun c => c.noteRefusal who.num who.level.code true (0xF0000000 + key)

/-- A write to the Guard. -/
def State.writeGrd (s : State) (who : Who) (key v : Nat) : Chip × LifeCycle :=
  let c := s.chip
  let lc := s.lc
  if key = Reg.GRD_LC_CMD then lcCmdWrite v who (c, lc)
  else if key = Reg.GRD_KDF_CMD then (c.kdfCmd v who, lc)
  else if key = Reg.GRD_DBG_GRANT then openAborts c (dbgGrant v who (c, lc))
  else if key = Reg.GRD_AP_CTRL then (c.planCommit v who, lc)
  else if key = Reg.GRD_EMB_CMD then (c.emberCmdWrite lc v who.level, lc)
  else if key = Reg.GRD_EMB_CURSOR then (c.moveCursor (fld v 19 4 * 16) false, lc)
  else if key = Reg.GRD_EMB_WCMD then (c.softwareRecord v who.level, lc)
  else if key = Reg.GRD_UPD_CMD then (s.updCmdWrite v, lc)
  else if authKey key && lc.state != .blank then (c.authFixed who key v, lc)
  else match idxOf (Reg.GRD_TMP_CFG 0) 4 11 key, idxOf (Reg.GRD_EMB_STAGE 0) 4 1024 key with
    | some i, _ => tmpCfgWrite i v who (c, lc)
    | _, some i => (c.stagingWrite (4 * i) (BitVec.ofNat 32 v) who.level, lc)
    | _, _ => (c.plainWrite who key v, lc)

/-! ### CRP -/

/-- ENERGY_SNAPSHOT: the shadows take the counters at one edge, with what the subsystems have drawn until
then. -/
def Chip.energySnapshot (c : Chip) : Chip :=
  if c.crp.snapping then c
  else
    let c := c.energyDraw.onCrp fun x => { x with snapping := true }
    let all := c.crp.energy
    let c := (List.range 12).foldl (fun c n => c.wr64 (Reg.CRP_NRG_CNT n) (Reg.CRP_NRG_CNT_HI n) (all.getD n 0)) c
    (c.wr64 Reg.CRP_NRG_RDG Reg.CRP_NRG_RDG_HI (all.getD 12 0)).setBit Reg.CRP_NRG_CTRL 0 true

/-- ENERGY_SNAPSHOT_DONE. -/
def Chip.energySnapshotDone (c : Chip) : Chip :=
  c.when c.crp.snapping fun c =>
    (c.setBit Reg.CRP_NRG_CTRL 0 false).onCrp fun x => { x with snapping := false }

/-- A write of CRP_NRG_CTRL: what was drawn before counting stops is counted (R33, Table 11). -/
def Chip.nrgCtrlWrite (c : Chip) (v : Nat) : Chip :=
  ((c.when (!bitOf v 8) Chip.energyDraw).setBit Reg.CRP_NRG_CTRL 8 (bitOf v 8)).when (bitOf v 0) Chip.energySnapshot

/-- A write of CRP_PWR_CMD. -/
def Chip.pwrCmdWrite (c : Chip) (lc : LifeCycle) (v : Nat) (who : Who) : Chip :=
  if !bitOf v 31 then c.setFl Reg.CRP_PWR_CMD 1 0 (v % 4)
  else match v % 4 with
    | 1 => if who.level = .host then (c.pwrCmd 1).pwrResult 2 else c.holdCommand lc
    | 2 => c.runCommand who
    | 3 => c.rideCommand lc who
    | _ => (c.pwrCmd 0).pwrResult 2

/-- A write to CRP. -/
def Chip.writeCrp (c : Chip) (lc : LifeCycle) (who : Who) (key v : Nat) : Chip :=
  if key = Reg.CRP_PWR_CMD then c.pwrCmdWrite lc v who
  else if key = Reg.CRP_RST_CMD then c.resetCmd lc v who
  else if key = Reg.CRP_BLK_RST then c.blkRstWrite v
  else if key = Reg.CRP_WDT_CFG then c.wdtCfgWrite v
  else if key = Reg.CRP_WDT_KICK then c.wdtKick v
  else if key = Reg.CRP_CLK_GATE then c.clkGateWrite v
  else if key = Reg.CRP_NRG_CTRL then c.nrgCtrlWrite v
  else if key = Reg.CRP_KLN_CTRL then c.kilnCtrlWrite v who
  else
    onArr (Reg.CRP_MUX_SEL 0) 4 10 key (fun m => c.muxSelect m v who) <|
    c.plainWrite who key v

/-! ### Every register -/

/-- A write that has reached the register at an offset of configuration space. An offset that holds no
register ignores it (01 R22). A change of CIU_ALARM moves tamper source 8 (12 Table 6). -/
def State.writeConfig (s : State) (who : Who) (key v : Nat) : State :=
  let c := s.chip
  let only (c : Chip) : State := { s with chip := c }
  if (regRow? key).isNone then s
  else match key / 0x100000 with
    | 0 => only (c.writeRing who key v)
    | 1 => only (c.writeBkb s.leg who key v)
    | 2 => only (c.writeLma who key v)
    | 3 => only (c.writeAir who key v)
    | 4 =>
      let c := c.writeCiu who key v
      let x := if key = Reg.CIU_ALARM then tamperSense 8 (c.fl Reg.CIU_ALARM 4 0 != 0) (c, s.lc) else (c, s.lc)
      s.guard x
    | 5 => only (c.writeFlo who key v)
    | 6 => only (c.writeApc who key v)
    | 7 => only (c.writeClm who key v)
    | 8 =>
      let x := s.writeLeg who key v
      { s with chip := x.1, leg := x.2 }
    | 9 => only (c.writeBal who key v)
    | 10 =>
      s.guard (s.writeGrd who key v)
    | _ => s.guard ((if key = Reg.CRP_BLK_RST then alarmEnds else id) (c.writeCrp s.lc who key v, s.lc))

/-! ### Ports of the flow cores (06 Table 8) -/

/-- A write to a port, by its offset. The run time of a pod that a PARK or FINISH ends is free here (log entry 16). -/
def Chip.writePort (c : Chip) (n off v : Nat) : Chip :=
  let x := c.fcore n
  let w := BitVec.ofNat 32 v
  if off = 0x04 then c.portExpect n v
  else if off = 0x08 then let r := c.elapsed x.run.isSome; r.2.portPark n r.1
  else if off = 0x0C then let r := c.elapsed x.run.isSome; r.2.portFinish n v r.1
  else if off = 0x1C then c.portPost n w
  else match idxOf 0x10 4 3 off, idxOf 0x30 4 4 off, idxOf 0x40 4 16 off with
    | some i, _, _ => c.setFcore n { x with post := x.post.set i w }
    | _, some i, _ => c.setFcore n { x with win := Tab.put (fun _ => 0) x.win i (w &&& 0xFFFFFF) }
    | _, _, some i => c.setFcore n { x with cpl := Tab.put (fun _ => 0) x.cpl i w }
    | _, _, _ => c

end Sys2Proof.Machine
end

