-- ==== Sys2Proof/Machine/Bus.lean ====
section
/-!
DEFINITION. Transactions on the configuration bus and the fabric: gating, the access plan, reads of
registers and memory, timeouts (01_architecture.md R17–R29; 12_guard.md R372–R376; 14 R417).
-/
namespace Sys2Proof.Machine

/-! ### Register accesses -/

/-- What a register that holds the most since it was last read holds right after a read: what stands (06 R192,
Table 15). -/
def Chip.standing (c : Chip) (key : Nat) : Nat :=
  if key = Reg.FLO_POD_HWM then c.podsUsed
  else match idxOf (Reg.FLO_CORE_QMAX 0) 0x40 24 key with
    | some n => c.load n
    | none => 0

/-- The side effect of a read: RC fields clear, and the latched low half of network time holds its high
half (R8, 10 R317). -/
def State.afterRead (s : State) (key : Nat) : State :=
  let c := s.chip
  let g := s.leg
  if key = Reg.BKB_TIM_NOW_LO then
    { s with chip := c.onTim fun t => { t with nowHi := BitVec.ofNat 32 (c.time.toNat / 2 ^ 32) } }
  else if key = Reg.LEG_ADJ_SMALL then { s with leg := { g with adjSmall := 0 } }
  else if key = Reg.LEG_COPY_DROP then { s with leg := { g with copyDrop := 0 } }
  else if key = Reg.LEG_LOG_LOST then { s with leg := { g with logLost := 0 } }
  else if key = Reg.LEG_OVL_CNT then { s with leg := { g with ovlCnt := 0 } }
  else if key = Reg.LEG_SWEEP_MAXT then { s with leg := { g with sweepMax := 0 } }
  else match regRow? key with
    | some r => if r.rc = 0 then s else
        { s with chip := c.wr key ((c.rdW key &&& ~~~(BitVec.ofNat 32 r.rc)).toNat + c.standing key) }
    | none => s

/-- A read of a register that is powered and not gated: the transaction is answered. -/
def State.readConfig (s : State) (key : Nat) : State :=
  match idxOf (Reg.PIC_CLAIM 0) 8 8 key with
  | some x => { s with chip := s.chip.interruptClaim x }
  | none =>
    if key = Reg.LMA_PQ_DATA then { s with chip := s.chip.pqRead }
    else
      let t := s.afterRead key
      { t with chip := t.chip.answer (.data (leBytes 4 (s.view key).toNat)) }

/-- A read delivered to configuration space. -/
def State.cfgRead (s : State) (ini key : Nat) : State :=
  let c := s.chip
  let zero := Resp.data [0, 0, 0, 0]
  if c.reaches key then s.readConfig key else { s with chip := (c.unreached key ini false).answer zero }

/-- A write delivered to configuration space. -/
def State.cfgWrite (s : State) (who : Who) (key v : Nat) : State :=
  s.onReg key who.num fun s => s.writeConfig who key v

/-- A read of a flow core's port (06 Table 8): WO ports read 0, PORT_ERR clears. -/
def Chip.readPort (c : Chip) (n off : Nat) : Chip :=
  let x := c.fcore n
  let word (c : Chip) (w : Word) : Chip := c.answer (.data (leBytes 4 w.toNat))
  if off = 0 then let r := c.elapsed (x.run.isNone && !x.inbox.isEmpty && !c.coreHeld n); r.2.portTake n r.1
  else if off = 0x20 then word c x.postst
  else if off = 0x80 then word (c.setFcore n { x with err := 0 }) x.err
  else match idxOf 0x30 4 4 off, idxOf 0x40 4 16 off with
    | some i, _ => word c (Tab.get (fun _ => 0) x.win i)
    | _, some i => word c (Tab.get (fun _ => 0) x.cpl i)
    | _, _ => word c 0

/-! ### Words of an access -/

/-- The 32-bit words of configuration space that an access touches, as register offsets. -/
def cfgWords (addr len : Nat) : List Nat :=
  (upFrom (addr / 4) ((addr + max len 1 - 1) / 4 + 1 - addr / 4)).map fun w => 4 * w - 0xF0000000

/-- A write of some bytes of a register: its other bytes keep their RW and RWS fields and are 0
elsewhere. -/
def Chip.mergeBytes (c : Chip) (key addr : Nat) (data : List Byte) : Nat :=
  let old : Word := match regRow? key with
    | some r => c.rdW key &&& (BitVec.ofNat 32 r.rw ||| BitVec.ofNat 32 r.rws)
    | none => 0
  leVal ((List.range 4).map fun k =>
    let a := 0xF0000000 + key + k
    if addr ≤ a ∧ a < addr + data.length then data.getD (a - addr) 0 else (leBytes 4 old.toNat).getD k 0)

/-- The bytes of the transaction's answer. -/
def Chip.answered (c : Chip) : List Byte :=
  match c.resp with
  | .data d => d
  | _ => [0, 0, 0, 0]

/-- Read successive registers; a read that stalls ends the transaction there. -/
def State.readWords (s : State) (ini : Nat) : List Nat → List Byte → State × List Byte
  | [], got => (s, got)
  | key :: rest, got =>
    let t := s.cfgRead ini key
    if t.chip.resp = .stalled then (t, got)
    else t.readWords ini rest (got ++ t.chip.answered)

/-- A read of configuration space that the plan allows. -/
def State.busCfgRead (s : State) (ini addr len : Nat) : State :=
  let x := s.readWords ini (cfgWords addr len) []
  if x.1.chip.resp = .stalled then x.1
  else { x.1 with chip := x.1.chip.answer (.data (slice x.2 (addr % 4) len)) }

/-- A write of configuration space that the plan allows. -/
def State.busCfgWrite (s : State) (who : Who) (addr : Nat) (data : List Byte) : State :=
  let t := (cfgWords addr data.length).foldl (fun s key => s.cfgWrite who key (s.chip.mergeBytes key addr data)) s
  { t with chip := t.chip.answer .written }

/-! ### Memory behind the fabric -/

/-- What the check bits show of each word that a transfer reads: the operand speaks of the first word,
stored errors of their own (11 R359). -/
def Chip.dramFinds (c : Chip) (wr : Bool) (addr len : Nat) (e : Ecc) : List (Nat × Ecc) :=
  let words := (wordsOf addr len).filter fun w => !(wr && covers addr len w)
  words.map fun w => (w, c.eccAt (8 * w) (if w = addr / 8 then e else .good))

/-- A DRAM read: a word found uncorrectable ends it with a bus error. -/
def Chip.dramRead (c : Chip) (ini addr len : Nat) (e : Ecc) : Chip :=
  let finds := c.dramFinds false addr len e
  let t := finds.foldl (fun c f => c.dramEcc (8 * f.1) ini f.2) c
  if finds.any (·.2 == .uncorrectable) then t.answer .busError else t.answer (.data (c.rdMem addr len))

/-- A DRAM write: a partial write of a word found uncorrectable completes, and the word stays bad. -/
def Chip.dramWrite (c : Chip) (ini addr : Nat) (data : List Byte) (e : Ecc) : Chip :=
  let finds := c.dramFinds true addr data.length e
  let t := finds.foldl (fun c f => c.dramEcc (8 * f.1) ini f.2) c
  let bad := (finds.filter (·.2 == .uncorrectable)).map (·.1)
  let t := t.onApc fun a => { a with poison := a.poison ++ bad.filter fun w => !a.poison.contains w }
  (t.store addr data).answer .written

/-- A read of a doorbell page (11 Table 9). -/
def Chip.doorbellRead (c : Chip) (page off : Nat) : Nat :=
  if page < 64 then
    let r := c.rpair page
    match off with
    | 0 => r.sqPi
    | 4 => r.cqCi
    | 8 => r.sqCi
    | 12 => r.cqPi
    | _ => 0
  else
    let e := c.evt (page - 64)
    match off with
    | 4 => e.ci
    | 12 => e.pi
    | _ => 0

/-- A word of the doorbell pages with the bytes of a write at `x` laid over it. -/
def Chip.doorbellMerged (c : Chip) (w x : Nat) (data : List Byte) : Nat :=
  leVal ((List.range 4).map fun k =>
    let a := 4 * w + k
    if x ≤ a ∧ a < x + data.length then data.getD (a - x) 0
    else (leBytes 4 (c.doorbellRead (w / 0x400) (w % 0x400 * 4))).getD k 0)

/-- A transaction to the doorbell pages: each word it touches is an access of its own, and the bytes of an index that
a write does not cover stay. -/
def Chip.busDoorbell (c : Chip) (wr : Bool) (who : Who) (addr len : Nat) (data : List Byte) : Chip :=
  let x := addr - 0xF1000000
  let words := upFrom (x / 4) ((x + max len 1 - 1) / 4 + 1 - x / 4)
  if c.gated 0 then
    (c.noteGatedAt 5 0 who.num addr wr).answer (if wr then .written else .data (List.replicate len 0))
  else if wr then
    (words.foldl (fun c w => c.doorbellPut (w / 0x400) (w % 0x400 * 4) (c.doorbellMerged w x data)) c).answer .written
  else
    let bytes := words.flatMap fun w => leBytes 4 (c.doorbellRead (w / 0x400) (w % 0x400 * 4))
    c.answer (.data (slice bytes (x % 4) len))

/-- A transaction to memory that the plan allows. -/
def Chip.busMemory (c : Chip) (wr : Bool) (who : Who) (addr len : Nat) (data : List Byte) (e : Ecc) : Chip :=
  if !c.memUp addr len then c.answer .busError
  else match c.gatedMemory (c.regionOf addr) with
  | some (d, b) =>
    (c.noteGatedAt d b who.num addr wr).answer (if wr then .written else .data (List.replicate len 0))
  | none =>
    if c.regionOf addr = .dram then if wr then c.dramWrite who.num addr data e else c.dramRead who.num addr len e
    else if wr then (c.store addr data).answer .written
    else c.answer (.data (c.rdMem addr len))

/-! ### BUS_ACCESS -/

/-- The level at which a transaction is judged (12 Table 4, R386; log entry 11): that of the initiator. RING, the CIU and the Clamp
have that of their ring or queue, which the command names; the debug port has none in CLOSED, Platform in SERVICE and
Seal in OPEN. The cluster's cores make none while they are held (11 R356), and the reserved numbers name no
initiator. -/
def Chip.levelOf (c : Chip) (who : Who) : Option Level :=
  match who.num with
  | 0 => if c.apc.started.isEmpty then none else some .platform
  | 1 => if c.apc.started.isEmpty then none else some .host
  | 3 => some .host
  | 4 | 5 | 6 => some who.level
  | 12 =>
    match c.grd.dbg with
    | .closed => none
    | .service => some .platform
    | .opened => some .seal
  | 13 | 14 => none
  | 15 => some .seal
  | _ => some .platform

/-- Whether a transaction lies in configuration space of LEG. -/
def inLeg (addr : Nat) : Bool := decide (0xF0800000 ≤ addr) && decide (addr < 0xF0900000)

/-- Whether a transaction is allowed: the Seal level always, LEG by R29, GRD_DEV_ID to every reader, the
rest as the plan grants (12 R372, R373). -/
def Chip.busAllows (c : Chip) (who : Who) (wr : Bool) (addr len : Nat) : Bool :=
  match who.level with
  | .seal => true
  | l =>
    if inLeg addr || inLeg (addr + max len 1 - 1) then !wr && inLeg addr && decide (addr + max len 1 ≤ 0xF0801000)
    else if !wr && decide (0xF0000000 + Reg.GRD_DEV_ID ≤ addr) && decide (addr + max len 1 ≤ 0xF0000000 + Reg.GRD_DEV_ID + 4)
      then true
    else c.planAllows who.num (l == .host) wr addr len

/-- The answer to an access that no region takes (01 R17, R22). -/
def nowhereAnswer (who : Who) : Resp := if who.ini = 3 then .unsupported else .busError

/-- The bit that AER gives an answer: 15 Completer Abort, 20 Unsupported Request. -/
def aerBit (a : Resp) : Option Nat :=
  match a with
  | .completerAbort => some 15
  | .unsupported => some 20
  | _ => none

/-- What the endpoint's error reporting keeps of an answer given over PCIe (11 R335): the first error that is not masked
with the header of its TLP, which the command does not bring (free), and a read's error, not fatal, as an advisory one
too (log entry 102). -/
def Chip.reported (c : Chip) (wr : Bool) (a : Resp) : Chip :=
  match aerBit a with
  | none => c
  | some b =>
    let x := c.ring.aer
    let first := !x.mask.getLsbD b && x.uncorr &&& ~~~x.mask == 0
    let (h, c) := if first then c.free 16 else (x.header, c)
    { c with ring := { c.ring with aer := { x with
        uncorr := x.uncorr ||| BitVec.ofNat 32 (2 ^ b), first := if first then b else x.first, header := h
        corr := if wr || x.severity.getLsbD b then x.corr else x.corr ||| 0x2000 } } }

/-- The answer to an access that no region takes. -/
def Chip.nowhere (c : Chip) (who : Who) (wr : Bool) : Chip :=
  (c.answer (nowhereAnswer who)).reported wr (nowhereAnswer who)

/-! ### The cluster's harts (11 R353–R356) -/

/-- A hart. -/
def Chip.hart (c : Chip) (n : Nat) : Hart := Tab.get (fun _ => Hart.start 0) c.apc.harts n

/-- The mode in which initiator 0 or 1 has made a transaction (12 Table 4). -/
def Hart.modeAs (h : Hart) (machine : Bool) : HartMode :=
  if machine then .machine else if h.mode = .machine then .supervisor else h.mode

/-- Number of a mode. -/
def HartMode.code : HartMode → Nat
  | .user => 0
  | .supervisor => 1
  | .machine => 3

/-- A hart takes an access-fault exception into machine mode (R354; log entry 105). -/
def Hart.accessFault (h : Hart) (machine wr : Bool) (epc tval : BitVec 64) : Hart :=
  let st := h.mstatus.toNat
  { h with
    mode := .machine, mepc := epc, mtval := tval, mcause := if wr then 7 else 5
    mstatus := BitVec.ofNat 64 (putBit (putBit (putFld st 12 11 (h.modeAs machine).code) 7 (bitOf st 3)) 3 false)
    pc := BitVec.ofNat 64 (h.mtvec.toNat / 4 * 4) }

/-- A bus error ends an access of a core: the core takes an access fault. Which of the released cores it is, and where
its program stands, the command does not bring (free). -/
def Chip.coreFault (c : Chip) (who : Who) (wr : Bool) : Chip :=
  if c.resp ≠ .busError ∨ 2 ≤ who.num then c
  else
    let (b, c) := c.free 17
    let n := c.apc.started.getD (leAt b 0 1 % c.apc.started.length) 0
    let h := (c.hart n).accessFault (who.num == 0) wr (BitVec.ofNat 64 (leAt b 1 8)) (BitVec.ofNat 64 (leAt b 9 8))
    c.onApc fun a => { a with harts := Tab.put (fun _ => Hart.start 0) a.harts n h }

/-- BUS_ACCESS, once its level is known. In DORMANT what lies behind the fabric has no power: it reads 0 and takes no
write (14 Table 10). -/
def State.busServe (s : State) (wr : Bool) (who : Who) (addr len : Nat) (data : List Byte) (e : Ecc) : State :=
  let c := s.chip
  let only (c : Chip) : State := { s with chip := c }
  if !c.busAllows who wr addr len then
    only ((c.noteRefusal who.num who.level.code wr addr).answer (if wr then .written else .data (List.replicate len 0)))
  else if !(c.regionOf addr).like (c.regionOf (addr + max len 1 - 1)) then only (c.nowhere who wr)
  else match c.regionOf addr with
    | .config => if wr then s.busCfgWrite who addr data else s.busCfgRead who.num addr len
    | .nowhere => only (c.nowhere who wr)
    | r =>
      if !c.powered 12 then only (c.answer (if wr then .written else .data (List.replicate len 0)))
      else if r = .doorbell then only (c.busDoorbell wr who addr len data)
      else only (c.busMemory wr who addr len data e)

/-- BUS_ACCESS: in OFF nothing answers, and a closed debug port reaches nothing; the Guard core is
held until kindling ends (12 R366). Over PCIe nothing comes while the link is
down, and while the function's memory space is disabled an Unsupported Request ends it. A bus error is an access fault in
a core. -/
def State.busAccess (s : State) (wr : Bool) (who : Who) (addr len : Nat) (data : List Byte) (e : Ecc) : State :=
  let c := s.chip.answer .none
  let s := { s with chip := c }
  if c.crp.power = .off ∨ (who.num = 15 ∧ c.kindling s.lc = true) then s
  else match c.levelOf who with
    | none => s
    | some l =>
      if who.num = 3 ∧ !c.pcieUp then s
      else if who.num = 3 ∧ !c.barUp then { s with chip := c.nowhere who wr }
      else
        let t := s.busServe wr { who with level := l } addr (if wr then data.length else len) data e
        { t with chip := t.chip.coreFault who wr }

/-- BUS_TIMEOUT: the read ends with a bus error, over PCIe with Completer Abort, and is recorded. -/
def Chip.busTimeout (c : Chip) (fabric : Bool) (addr : Nat) (who : Who) : Chip :=
  let c := c.when (addr == 0xF0000000 + Reg.LMA_PQ_DATA) fun c => c.onLma fun l => { l with stalled := false }
  let a : Resp := if who.ini = 3 then .completerAbort else .busError
  ((c.record 0xB11 (leBytes 1 (b2n fabric) ++ leBytes 1 who.num ++ leBytes 6 addr)).answer a).reported false a |>.coreFault who false

/-! ### The commands -/

/-- REGISTER_WRITE (R8): a write that the plan has let through. -/
def execRegisterWrite (target : RegTarget) (v : Word) (who : Who) (s : State) : Host.Outcome State Fault Refusal :=
  s.onAll fun s =>
    match target with
    | .config off => s.cfgWrite who (off.toNat / 4 * 4) v.toNat
    | .port core off =>
      if s.chip.portGated 5 then { s with chip := s.chip.noteGatedAt 1 5 who.num (0x50000000 + 0x20000 * core.val) true }
      else { s with chip := s.chip.writePort core.val off.toNat v.toNat }

/-- COUNTER_READ (R72): a read of a register, of which an RC field is then clear. -/
def execCounterRead (target : RegTarget) (s : State) : Host.Outcome State Fault Refusal :=
  s.onAll fun s =>
    match target with
    | .config off => s.cfgRead 15 (off.toNat / 4 * 4)
    | .port core off =>
      if s.chip.portGated 5 then
        { s with chip := (s.chip.noteGatedAt 1 5 2 (0x50000000 + 0x20000 * core.val) false).answer (.data [0, 0, 0, 0]) }
      else { s with chip := s.chip.readPort core.val off.toNat }

/-- BUS_ACCESS (R26). -/
def execBusAccess (write : Bool) (addr : BitVec 48) (len : BitVec 8) (data : List Byte) (who : Who) (ecc : Ecc)
    (s : State) : Host.Outcome State Fault Refusal :=
  s.onAll fun s => s.busAccess write who addr.toNat len.toNat data ecc

/-- BUS_TIMEOUT (R20). -/
def execBusTimeout (fabric : Bool) (addr : BitVec 48) (who : Who) (s : State) : Host.Outcome State Fault Refusal :=
  s.onChip fun c => c.busTimeout fabric addr.toNat who

/-- ENERGY_SNAPSHOT (R34). -/
def execEnergySnapshot (s : State) : Host.Outcome State Fault Refusal :=
  s.onChip fun c => c.onReg Reg.CRP_NRG_CTRL anyIni Chip.energySnapshot

/-- ENERGY_SNAPSHOT_DONE (R34). -/
def execEnergySnapshotDone (s : State) : Host.Outcome State Fault Refusal := s.onChip Chip.energySnapshotDone

end Sys2Proof.Machine
end

