-- ==== Sys2Proof/Machine/Dispatch.lean ====
section
/-!
DEFINITION. What each command does: one arm per row of spec/opcode_table.json, each a direct
call of that command's meaning.
-/
namespace Sys2Proof.Machine

def exec (i : Instr) (s : State) : Host.Outcome State Fault Refusal :=
  match i with
  | .registerWrite target v who => Sys2Proof.Machine.execRegisterWrite target v who s
  | .counterRead target => Sys2Proof.Machine.execCounterRead target s
  | .busAccess write addr len data who ecc => Sys2Proof.Machine.execBusAccess write addr len data who ecc s
  | .busTimeout fabric addr who => Sys2Proof.Machine.execBusTimeout fabric addr who s
  | .energySnapshot => Sys2Proof.Machine.execEnergySnapshot s
  | .energySnapshotDone => Sys2Proof.Machine.execEnergySnapshotDone s
  | .zcCrossing ref t => Sys2Proof.Machine.execZcCrossing ref t s
  | .zcLost ref => Sys2Proof.Machine.execZcLost ref s
  | .preambleDetected input band power gain ts => Sys2Proof.Machine.execPreambleDetected input band power gain ts s
  | .headerDecoded lane robust soft snr => Sys2Proof.Machine.execHeaderDecoded lane robust soft snr s
  | .frameDecoded lane soft noiseRise gsnr => Sys2Proof.Machine.execFrameDecoded lane soft noiseRise gsnr s
  | .heldFramePacked lane => Sys2Proof.Machine.execHeldFramePacked lane s
  | .frameHoldDiscard lane => Sys2Proof.Machine.execFrameHoldDiscard lane s
  | .frameStored => Sys2Proof.Machine.execFrameStored s
  | .packetBufferFree pool v => Sys2Proof.Machine.execPacketBufferFree pool v s
  | .pqDataRead => Sys2Proof.Machine.execPqDataRead s
  | .pqDataStallEnd => Sys2Proof.Machine.execPqDataStallEnd s
  | .pqFlush => Sys2Proof.Machine.execPqFlush s
  | .pqModeApply => Sys2Proof.Machine.execPqModeApply s
  | .laneCfgWrite lane v => Sys2Proof.Machine.execLaneCfgWrite lane v s
  | .laneCfgApply lane => Sys2Proof.Machine.execLaneCfgApply lane s
  | .txCfgWrite chain v => Sys2Proof.Machine.execTxCfgWrite chain v s
  | .txRequestFetch chain => Sys2Proof.Machine.execTxRequestFetch chain s
  | .txLaunch chain t => Sys2Proof.Machine.execTxLaunch chain t s
  | .blankingEnd chain => Sys2Proof.Machine.execBlankingEnd chain s
  | .txFrameEnd chain => Sys2Proof.Machine.execTxFrameEnd chain s
  | .haltTx v => Sys2Proof.Machine.execHaltTx v s
  | .txHalted chain => Sys2Proof.Machine.execTxHalted chain s
  | .phLoad v => Sys2Proof.Machine.execPhLoad v s
  | .cellCfgWrite cell v => Sys2Proof.Machine.execCellCfgWrite cell v s
  | .beaconLaunch cell t => Sys2Proof.Machine.execBeaconLaunch cell t s
  | .autoack t => Sys2Proof.Machine.execAutoack t s
  | .rtLoss v => Sys2Proof.Machine.execRtLoss v s
  | .expectationClose cell => Sys2Proof.Machine.execExpectationClose cell s
  | .noiseClear => Sys2Proof.Machine.execNoiseClear s
  | .rtEntryWrite dest word v => Sys2Proof.Machine.execRtEntryWrite dest word v s
  | .routeSweep => Sys2Proof.Machine.execRouteSweep s
  | .rtOffer v => Sys2Proof.Machine.execRtOffer v s
  | .standbyBeaconWatch cell t => Sys2Proof.Machine.execStandbyBeaconWatch cell t s
  | .iqAlignment unit => Sys2Proof.Machine.execIqAlignment unit s
  | .iqAlignmentLoss unit => Sys2Proof.Machine.execIqAlignmentLoss unit s
  | .iqFreqMeasure unit khz => Sys2Proof.Machine.execIqFreqMeasure unit khz s
  | .phyCfgWrite unit alt v => Sys2Proof.Machine.execPhyCfgWrite unit alt v s
  | .airEnable unit => Sys2Proof.Machine.execAirEnable unit s
  | .airDisable unit => Sys2Proof.Machine.execAirDisable unit s
  | .scriptRun unit v => Sys2Proof.Machine.execScriptRun unit v s
  | .scriptEnd unit us miso irq => Sys2Proof.Machine.execScriptEnd unit us miso irq s
  | .airSlotStart unit t => Sys2Proof.Machine.execAirSlotStart unit t s
  | .hopCtrlSwap unit v => Sys2Proof.Machine.execHopCtrlSwap unit v s
  | .airTxLaunch unit => Sys2Proof.Machine.execAirTxLaunch unit s
  | .airFrameReceived unit alt modeSwitch t psdu rssi snr => Sys2Proof.Machine.execAirFrameReceived unit alt modeSwitch t psdu rssi snr s
  | .airAckSend unit => Sys2Proof.Machine.execAirAckSend unit s
  | .airAckReceived unit dsn corr t => Sys2Proof.Machine.execAirAckReceived unit dsn corr t s
  | .airAckTimeout unit => Sys2Proof.Machine.execAirAckTimeout unit s
  | .airTxExpire unit q idx => Sys2Proof.Machine.execAirTxExpire unit q idx s
  | .airRxWindowClose unit => Sys2Proof.Machine.execAirRxWindowClose unit s
  | .rsyncDwellExpiry unit => Sys2Proof.Machine.execRsyncDwellExpiry unit s
  | .resyncLimit unit => Sys2Proof.Machine.execResyncLimit unit s
  | .searchLimit unit nbr => Sys2Proof.Machine.execSearchLimit unit nbr s
  | .dwellBucketBoundary unit t => Sys2Proof.Machine.execDwellBucketBoundary unit t s
  | .hcxLookup => Sys2Proof.Machine.execHcxLookup s
  | .hcxFetchDone way => Sys2Proof.Machine.execHcxFetchDone way s
  | .hcxWritebackDone way => Sys2Proof.Machine.execHcxWritebackDone way s
  | .hcxFlush v => Sys2Proof.Machine.execHcxFlush v s
  | .hcxFlushDone => Sys2Proof.Machine.execHcxFlushDone s
  | .keyWindowWrite idx v who => Sys2Proof.Machine.execKeyWindowWrite idx v who s
  | .keyLoadGo v who => Sys2Proof.Machine.execKeyLoadGo v who s
  | .keyLoadApply => Sys2Proof.Machine.execKeyLoadApply s
  | .keyWindowTimeout => Sys2Proof.Machine.execKeyWindowTimeout s
  | .keyErase v who => Sys2Proof.Machine.execKeyErase v who s
  | .sessionLookup => Sys2Proof.Machine.execSessionLookup s
  | .sessionUnwrapDone pod => Sys2Proof.Machine.execSessionUnwrapDone pod s
  | .sessInval v => Sys2Proof.Machine.execSessInval v s
  | .ciuRequestAccept => Sys2Proof.Machine.execCiuRequestAccept s
  | .aesEcbEncrypt q idx lane busy => Sys2Proof.Machine.execAesEcbEncrypt q idx lane busy s
  | .aesEcbDecrypt q idx lane busy => Sys2Proof.Machine.execAesEcbDecrypt q idx lane busy s
  | .aesCbcEncrypt q idx lane busy => Sys2Proof.Machine.execAesCbcEncrypt q idx lane busy s
  | .aesCbcDecrypt q idx lane busy => Sys2Proof.Machine.execAesCbcDecrypt q idx lane busy s
  | .aesCtr q idx lane busy => Sys2Proof.Machine.execAesCtr q idx lane busy s
  | .aesGcmEncrypt q idx lane busy => Sys2Proof.Machine.execAesGcmEncrypt q idx lane busy s
  | .aesGcmDecrypt q idx lane busy => Sys2Proof.Machine.execAesGcmDecrypt q idx lane busy s
  | .aesCcmEncrypt q idx lane busy => Sys2Proof.Machine.execAesCcmEncrypt q idx lane busy s
  | .aesCcmDecrypt q idx lane busy => Sys2Proof.Machine.execAesCcmDecrypt q idx lane busy s
  | .aesCmacGenerate q idx lane busy => Sys2Proof.Machine.execAesCmacGenerate q idx lane busy s
  | .aesCmacVerify q idx lane busy => Sys2Proof.Machine.execAesCmacVerify q idx lane busy s
  | .sha256 q idx busy => Sys2Proof.Machine.execSha256 q idx busy s
  | .sha384 q idx busy => Sys2Proof.Machine.execSha384 q idx busy s
  | .hmacSha256 q idx busy => Sys2Proof.Machine.execHmacSha256 q idx busy s
  | .hmacSha384 q idx busy => Sys2Proof.Machine.execHmacSha384 q idx busy s
  | .keyWrap q idx lane busy => Sys2Proof.Machine.execKeyWrap q idx lane busy s
  | .keyUnwrap q idx lane busy => Sys2Proof.Machine.execKeyUnwrap q idx lane busy s
  | .dlmsReceive q idx lane busy => Sys2Proof.Machine.execDlmsReceive q idx lane busy s
  | .dlmsTransmit q idx lane busy => Sys2Proof.Machine.execDlmsTransmit q idx lane busy s
  | .counterModeDerivation q idx busy => Sys2Proof.Machine.execCounterModeDerivation q idx busy s
  | .singleStepDerivation q idx busy => Sys2Proof.Machine.execSingleStepDerivation q idx busy s
  | .ecdsaSign q idx busy => Sys2Proof.Machine.execEcdsaSign q idx busy s
  | .ecdsaVerify q idx busy => Sys2Proof.Machine.execEcdsaVerify q idx busy s
  | .ecdh q idx busy => Sys2Proof.Machine.execEcdh q idx busy s
  | .keyPairGeneration q idx busy => Sys2Proof.Machine.execKeyPairGeneration q idx busy s
  | .drbgOutput q idx => Sys2Proof.Machine.execDrbgOutput q idx s
  | .randomKey q idx => Sys2Proof.Machine.execRandomKey q idx s
  | .ciuAlarm det => Sys2Proof.Machine.execCiuAlarm det s
  | .bulkClearDone => Sys2Proof.Machine.execBulkClearDone s
  | .ciuEnable => Sys2Proof.Machine.execCiuEnable s
  | .ciuDisable => Sys2Proof.Machine.execCiuDisable s
  | .reseed pass => Sys2Proof.Machine.execReseed pass s
  | .entropyHealthFailure adaptive => Sys2Proof.Machine.execEntropyHealthFailure adaptive s
  | .podAllocate => Sys2Proof.Machine.execPodAllocate s
  | .podOperandPost pod kind status value => Sys2Proof.Machine.execPodOperandPost pod kind status value s
  | .softwareOperandPost v => Sys2Proof.Machine.execSoftwareOperandPost v s
  | .podTimeout pod => Sys2Proof.Machine.execPodTimeout pod s
  | .cordBind => Sys2Proof.Machine.execCordBind s
  | .podDispatch => Sys2Proof.Machine.execPodDispatch s
  | .podRelease => Sys2Proof.Machine.execPodRelease s
  | .portTake core waited => Sys2Proof.Machine.execPortTake core waited s
  | .portTakeResume core waited idle => Sys2Proof.Machine.execPortTakeResume core waited idle s
  | .portExpect core v => Sys2Proof.Machine.execPortExpect core v s
  | .portPark core ran => Sys2Proof.Machine.execPortPark core ran s
  | .portFinish core v ran => Sys2Proof.Machine.execPortFinish core v ran s
  | .portPost core v => Sys2Proof.Machine.execPortPost core v s
  | .coreReset core ran idle => Sys2Proof.Machine.execCoreReset core ran idle s
  | .coreStart core => Sys2Proof.Machine.execCoreStart core s
  | .fmtLookup => Sys2Proof.Machine.execFmtLookup s
  | .balRequestAccept => Sys2Proof.Machine.execBalRequestAccept s
  | .balRequestProcess idx => Sys2Proof.Machine.execBalRequestProcess idx s
  | .formatImageLoad v => Sys2Proof.Machine.execFormatImageLoad v s
  | .curveImageLoad v => Sys2Proof.Machine.execCurveImageLoad v s
  | .balImageApply => Sys2Proof.Machine.execBalImageApply s
  | .join v => Sys2Proof.Machine.execJoin v s
  | .leave v => Sys2Proof.Machine.execLeave v s
  | .exclude v => Sys2Proof.Machine.execExclude v s
  | .include v => Sys2Proof.Machine.execInclude v s
  | .phaseNotice => Sys2Proof.Machine.execPhaseNotice s
  | .intervalClose us => Sys2Proof.Machine.execIntervalClose us s
  | .dayClose => Sys2Proof.Machine.execDayClose s
  | .groupRelearn v => Sys2Proof.Machine.execGroupRelearn v s
  | .clmEnable v who found => Sys2Proof.Machine.execClmEnable v who found s
  | .clmRebuildDone ms found duds => Sys2Proof.Machine.execClmRebuildDone ms found duds s
  | .fullScanDone ms found duds => Sys2Proof.Machine.execFullScanDone ms found duds s
  | .clmDisable v who => Sys2Proof.Machine.execClmDisable v who s
  | .archiveBatch => Sys2Proof.Machine.execArchiveBatch s
  | .archiveBatchAccepted => Sys2Proof.Machine.execArchiveBatchAccepted s
  | .clmRead queue => Sys2Proof.Machine.execClmRead queue s
  | .clmWrite queue => Sys2Proof.Machine.execClmWrite queue s
  | .clmFlushCommand queue => Sys2Proof.Machine.execClmFlushCommand queue s
  | .nsformat queue => Sys2Proof.Machine.execNsformat queue s
  | .rawread queue => Sys2Proof.Machine.execRawread queue s
  | .clmCommandComplete => Sys2Proof.Machine.execClmCommandComplete s
  | .pageProgramDone duds => Sys2Proof.Machine.execPageProgramDone duds s
  | .rickVerified found => Sys2Proof.Machine.execRickVerified found s
  | .pageReadDone codewords => Sys2Proof.Machine.execPageReadDone codewords s
  | .programFailure parity sys duds => Sys2Proof.Machine.execProgramFailure parity sys duds s
  | .blockEraseDone failed => Sys2Proof.Machine.execBlockEraseDone failed s
  | .patrolRead found duds => Sys2Proof.Machine.execPatrolRead found duds s
  | .checkpointDue => Sys2Proof.Machine.execCheckpointDue s
  | .ckptNow v who => Sys2Proof.Machine.execCkptNow v who s
  | .checkpointComplete duds => Sys2Proof.Machine.execCheckpointComplete duds s
  | .ctrlFlush v who => Sys2Proof.Machine.execCtrlFlush v who s
  | .rideFlushDone fails duds => Sys2Proof.Machine.execRideFlushDone fails duds s
  | .mediaFormat v who duds => Sys2Proof.Machine.execMediaFormat v who duds s
  | .legalSecondEdge m => Sys2Proof.Machine.execLegalSecondEdge m s
  | .legalRegisterCommit => Sys2Proof.Machine.execLegalRegisterCommit s
  | .prepaymentSweep us => Sys2Proof.Machine.execPrepaymentSweep us s
  | .powerFailClose m us => Sys2Proof.Machine.execPowerFailClose m us s
  | .metFaultStart => Sys2Proof.Machine.execMetFaultStart s
  | .metFaultEnd => Sys2Proof.Machine.execMetFaultEnd s
  | .metConfigApply => Sys2Proof.Machine.execMetConfigApply s
  | .legMetCfgWrite v who => Sys2Proof.Machine.execLegMetCfgWrite v who s
  | .legClkCfgWrite v who => Sys2Proof.Machine.execLegClkCfgWrite v who s
  | .readRegs rqid => Sys2Proof.Machine.execReadRegs rqid s
  | .readSnap rqid num => Sys2Proof.Machine.execReadSnap rqid num s
  | .logRead rqid first count => Sys2Proof.Machine.execLogRead rqid first count s
  | .readAccount rqid slot => Sys2Proof.Machine.execReadAccount rqid slot s
  | .readClock rqid => Sys2Proof.Machine.execReadClock rqid s
  | .setClock rqid time tag => Sys2Proof.Machine.execSetClock rqid time tag s
  | .adjClock rqid delta tag => Sys2Proof.Machine.execAdjClock rqid delta tag s
  | .calLoad rqid body tag => Sys2Proof.Machine.execCalLoad rqid body tag s
  | .calActivate rqid time tag => Sys2Proof.Machine.execCalActivate rqid time tag s
  | .override rqid cancel tariff endTime tag => Sys2Proof.Machine.execOverride rqid cancel tariff endTime tag s
  | .billClose rqid tag => Sys2Proof.Machine.execBillClose rqid tag s
  | .metConfig rqid v tag => Sys2Proof.Machine.execMetConfig rqid v tag s
  | .calibrate rqid data calenLow tag => Sys2Proof.Machine.execCalibrate rqid data calenLow tag s
  | .pricePlan rqid num body tag => Sys2Proof.Machine.execPricePlan rqid num body tag s
  | .friendlyCal rqid num body tag => Sys2Proof.Machine.execFriendlyCal rqid num body tag s
  | .logArchive rqid seq tag => Sys2Proof.Machine.execLogArchive rqid seq tag s
  | .accCreate rqid slot handle plan friendly flags ecLimit lowTh => Sys2Proof.Machine.execAccCreate rqid slot handle plan friendly flags ecLimit lowTh s
  | .accDelete rqid slot => Sys2Proof.Machine.execAccDelete rqid slot s
  | .topup rqid slot amount seq tag => Sys2Proof.Machine.execTopup rqid slot amount seq tag s
  | .ecOn rqid slot tag => Sys2Proof.Machine.execEcOn rqid slot tag s
  | .charge rqid slot endMin length energy => Sys2Proof.Machine.execCharge rqid slot endMin length energy s
  | .accSet rqid slot plan friendly flags ecLimit lowTh => Sys2Proof.Machine.execAccSet rqid slot plan friendly flags ecLimit lowTh s
  | .legalEngineStart regsGood badAccounts => Sys2Proof.Machine.execLegalEngineStart regsGood badAccounts s
  | .ethFrameReceived port frame fcsGood phase => Sys2Proof.Machine.execEthFrameReceived port frame fcsGood phase s
  | .blockIngest => Sys2Proof.Machine.execBlockIngest s
  | .blockEntryUnpack => Sys2Proof.Machine.execBlockEntryUnpack s
  | .pauseRepeat => Sys2Proof.Machine.execPauseRepeat s
  | .ethTransmitStart port phase => Sys2Proof.Machine.execEthTransmitStart port phase s
  | .ethTransmitDone port => Sys2Proof.Machine.execEthTransmitDone port s
  | .ethLinkChange port sync speed => Sys2Proof.Machine.execEthLinkChange port sync speed s
  | .timIncWrite v => Sys2Proof.Machine.execTimIncWrite v s
  | .timStep v => Sys2Proof.Machine.execTimStep v s
  | .slewGo v => Sys2Proof.Machine.execSlewGo v s
  | .slewComplete => Sys2Proof.Machine.execSlewComplete s
  | .timStateWrite v => Sys2Proof.Machine.execTimStateWrite v s
  | .utcOfsApply => Sys2Proof.Machine.execUtcOfsApply s
  | .comparatorFire cmp => Sys2Proof.Machine.execComparatorFire cmp s
  | .pulseEnd out => Sys2Proof.Machine.execPulseEnd out s
  | .comparatorEnable cmp v => Sys2Proof.Machine.execComparatorEnable cmp v s
  | .comparatorTgtWrite cmp v => Sys2Proof.Machine.execComparatorTgtWrite cmp v s
  | .comparatorPerWrite cmp v => Sys2Proof.Machine.execComparatorPerWrite cmp v s
  | .timInEdge pin time => Sys2Proof.Machine.execTimInEdge pin time s
  | .pcieReset cause => Sys2Proof.Machine.execPcieReset cause s
  | .pcieLinkUp speed width setup => Sys2Proof.Machine.execPcieLinkUp speed width setup s
  | .doorbellWrite page offset v who => Sys2Proof.Machine.execDoorbellWrite page offset v who s
  | .descriptorFetch => Sys2Proof.Machine.execDescriptorFetch s
  | .lglRequest => Sys2Proof.Machine.execLglRequest s
  | .completionWrite => Sys2Proof.Machine.execCompletionWrite s
  | .interruptTimeout ring => Sys2Proof.Machine.execInterruptTimeout ring s
  | .msixVectorUnmask vector => Sys2Proof.Machine.execMsixVectorUnmask vector s
  | .noticeWrite => Sys2Proof.Machine.execNoticeWrite s
  | .blnReportDeliver => Sys2Proof.Machine.execBlnReportDeliver s
  | .iommuInval v => Sys2Proof.Machine.execIommuInval v s
  | .iommuInvalDone => Sys2Proof.Machine.execIommuInvalDone s
  | .ringEnable ring => Sys2Proof.Machine.execRingEnable ring s
  | .apcCoreRun v who => Sys2Proof.Machine.execApcCoreRun v who s
  | .interruptClaim hart smode => Sys2Proof.Machine.execInterruptClaim hart smode s
  | .claimComplete hart smode v => Sys2Proof.Machine.execClaimComplete hart smode v s
  | .ddrEnable v => Sys2Proof.Machine.execDdrEnable v s
  | .ddrReady trained => Sys2Proof.Machine.execDdrReady trained s
  | .ddrDisable => Sys2Proof.Machine.execDdrDisable s
  | .patrolScrub word ecc => Sys2Proof.Machine.execPatrolScrub word ecc s
  | .guardStart => Sys2Proof.Machine.execGuardStart s
  | .kindling testsPass => Sys2Proof.Machine.execKindling testsPass s
  | .kindlingEntropyRetry testsPass => Sys2Proof.Machine.execKindlingEntropyRetry testsPass s
  | .personalise who => Sys2Proof.Machine.execPersonalise who s
  | .seal who => Sys2Proof.Machine.execSeal who s
  | .retire who => Sys2Proof.Machine.execRetire who s
  | .clearTrip who => Sys2Proof.Machine.execClearTrip who s
  | .keyDerivation v who => Sys2Proof.Machine.execKeyDerivation v who s
  | .keyDerivationDone => Sys2Proof.Machine.execKeyDerivationDone s
  | .accessPlanCommit v who => Sys2Proof.Machine.execAccessPlanCommit v who s
  | .tamperCondition src => Sys2Proof.Machine.execTamperCondition src s
  | .tamperConditionEnd src => Sys2Proof.Machine.execTamperConditionEnd src s
  | .tamperCfgWrite src v who => Sys2Proof.Machine.execTamperCfgWrite src v who s
  | .idcode => Sys2Proof.Machine.execIdcode s
  | .bypass tdi => Sys2Proof.Machine.execBypass tdi s
  | .challenge => Sys2Proof.Machine.execChallenge s
  | .respond req sig fresh => Sys2Proof.Machine.execRespond req sig fresh s
  | .dstatus => Sys2Proof.Machine.execDstatus s
  | .debugBackoffEnd => Sys2Proof.Machine.execDebugBackoffEnd s
  | .debugGrant v who => Sys2Proof.Machine.execDebugGrant v who s
  | .debugGrantExpiry => Sys2Proof.Machine.execDebugGrantExpiry s
  | .updateCheck => Sys2Proof.Machine.execUpdateCheck s
  | .updateStart => Sys2Proof.Machine.execUpdateStart s
  | .updateActivate => Sys2Proof.Machine.execUpdateActivate s
  | .updateAbort => Sys2Proof.Machine.execUpdateAbort s
  | .chainHeaderPiece frame => Sys2Proof.Machine.execChainHeaderPiece frame s
  | .chainBodyPiece frame => Sys2Proof.Machine.execChainBodyPiece frame s
  | .chainRequest frame => Sys2Proof.Machine.execChainRequest frame s
  | .chainHave frame => Sys2Proof.Machine.execChainHave frame s
  | .chunkCopyDone status => Sys2Proof.Machine.execChunkCopyDone status s
  | .copyResume => Sys2Proof.Machine.execCopyResume s
  | .imageLoad => Sys2Proof.Machine.execImageLoad s
  | .xaLost => Sys2Proof.Machine.execXaLost s
  | .xaValid => Sys2Proof.Machine.execXaValid s
  | .xbLost => Sys2Proof.Machine.execXbLost s
  | .xbValid => Sys2Proof.Machine.execXbValid s
  | .pllLock pll => Sys2Proof.Machine.execPllLock pll s
  | .muxSelect mux v who => Sys2Proof.Machine.execMuxSelect mux v who s
  | .muxSwitchDone mux => Sys2Proof.Machine.execMuxSwitchDone mux s
  | .forcedSwitch mux newSide => Sys2Proof.Machine.execForcedSwitch mux newSide s
  | .forcedSwitchRelease mux => Sys2Proof.Machine.execForcedSwitchRelease mux s
  | .trimStart => Sys2Proof.Machine.execTrimStart s
  | .trimWindowEnd count expected => Sys2Proof.Machine.execTrimWindowEnd count expected s
  | .clockGateWrite v => Sys2Proof.Machine.execClockGateWrite v s
  | .gateClose block => Sys2Proof.Machine.execGateClose block s
  | .blockResetWrite v => Sys2Proof.Machine.execBlockResetWrite v s
  | .dcqRehandshake block => Sys2Proof.Machine.execDcqRehandshake block s
  | .powerOnReset => Sys2Proof.Machine.execPowerOnReset s
  | .corePowerOn => Sys2Proof.Machine.execCorePowerOn s
  | .rstNAssert => Sys2Proof.Machine.execRstNAssert s
  | .rstNRelease => Sys2Proof.Machine.execRstNRelease s
  | .deviceResetCmd v who => Sys2Proof.Machine.execDeviceResetCmd v who s
  | .wdtEnable v => Sys2Proof.Machine.execWdtEnable v s
  | .wdtKick v => Sys2Proof.Machine.execWdtKick v s
  | .wdtExpiry => Sys2Proof.Machine.execWdtExpiry s
  | .holdCommand => Sys2Proof.Machine.execHoldCommand s
  | .holdEntered => Sys2Proof.Machine.execHoldEntered s
  | .runCommand who => Sys2Proof.Machine.execRunCommand who s
  | .rideCommand who => Sys2Proof.Machine.execRideCommand who s
  | .wakeEvent event => Sys2Proof.Machine.execWakeEvent event s
  | .pfailAssert => Sys2Proof.Machine.execPfailAssert s
  | .vddCoreLow => Sys2Proof.Machine.execVddCoreLow s
  | .pfailNegated => Sys2Proof.Machine.execPfailNegated s
  | .rideLimit tmax charge => Sys2Proof.Machine.execRideLimit tmax charge s
  | .descentToDormant => Sys2Proof.Machine.execDescentToDormant s
  | .dormantWake => Sys2Proof.Machine.execDormantWake s
  | .vddSealLoss => Sys2Proof.Machine.execVddSealLoss s
  | .vbkpMeasure vbkp => Sys2Proof.Machine.execVbkpMeasure vbkp s
  | .tempSample temp => Sys2Proof.Machine.execTempSample temp s
  | .kilnBoot v who => Sys2Proof.Machine.execKilnBoot v who s
  | .kilnSlice v who => Sys2Proof.Machine.execKilnSlice v who s
  | .kilnClockCheckEnd count mv => Sys2Proof.Machine.execKilnClockCheckEnd count mv s
  | .kilnSegmentEnd part misr => Sys2Proof.Machine.execKilnSegmentEnd part misr s
  | .kilnVddSample mv => Sys2Proof.Machine.execKilnVddSample mv s
  | .kilnRunEnd us => Sys2Proof.Machine.execKilnRunEnd us s
  | .heartbeatSend => Sys2Proof.Machine.execHeartbeatSend s
  | .heartbeatFrame frame => Sys2Proof.Machine.execHeartbeatFrame frame s
  | .orderFrame frame => Sys2Proof.Machine.execOrderFrame frame s
  | .takeoverFrame frame => Sys2Proof.Machine.execTakeoverFrame frame s
  | .dropFrame frame => Sys2Proof.Machine.execDropFrame frame s
  | .pairLinkUp frame => Sys2Proof.Machine.execPairLinkUp frame s
  | .pairLinkLost => Sys2Proof.Machine.execPairLinkLost s
  | .orderResend => Sys2Proof.Machine.execOrderResend s
  | .replayLagExpiry => Sys2Proof.Machine.execReplayLagExpiry s
  | .muteDelayExpiry => Sys2Proof.Machine.execMuteDelayExpiry s
  | .reclaimExpiry => Sys2Proof.Machine.execReclaimExpiry s
  | .pairCmdTakeover => Sys2Proof.Machine.execPairCmdTakeover s
  | .pairCmdDemote => Sys2Proof.Machine.execPairCmdDemote s
  | .clearOos => Sys2Proof.Machine.execClearOos s
  | .pairCfgWrite v => Sys2Proof.Machine.execPairCfgWrite v s
  | .emberRecordCommit => Sys2Proof.Machine.execEmberRecordCommit s
  | .emberSnapshot => Sys2Proof.Machine.execEmberSnapshot s
  | .emberDropReport => Sys2Proof.Machine.execEmberDropReport s
  | .timeMark => Sys2Proof.Machine.execTimeMark s
  | .emberTimeCommit => Sys2Proof.Machine.execEmberTimeCommit s
  | .emberStagingWrite offset v who => Sys2Proof.Machine.execEmberStagingWrite offset v who s
  | .emberSoftwareWrite v who => Sys2Proof.Machine.execEmberSoftwareWrite v who s
  | .oldest => Sys2Proof.Machine.execOldest s
  | .next => Sys2Proof.Machine.execNext s
  | .find => Sys2Proof.Machine.execFind s
  | .newest => Sys2Proof.Machine.execNewest s
  | .clearLast who => Sys2Proof.Machine.execClearLast who s
  | .cursorWrite v => Sys2Proof.Machine.execCursorWrite v s
  | .airHaltTx unit => Sys2Proof.Machine.execAirHaltTx unit s
  | .pairAlignmentLoss => Sys2Proof.Machine.execPairAlignmentLoss s
  | .xaStartTimeout => Sys2Proof.Machine.execXaStartTimeout s

end Sys2Proof.Machine
end

