-- ==== Sys2Proof/Machine/Time.lean ====
section
/-!
DEFINITION. What passes when no command waits: 1/256 s of every clock that runs (DESIGN CHOICE, log
entry 61).  Commands themselves take no time.
-/
namespace Sys2Proof.Machine

/-- The count of drops that the first second edge hands to the writer (16 R462). -/
def Ember.dropsPassed (e : Ember) : Option (Nat × Nat) :=
  if e.dropsNow = 0 then e.dropsDue
  else match e.dropsDue with
    | some (n, t) => some (n + e.dropsNow, t)
    | none => some (e.dropsNow, e.dropsTyp)

/-- Operating time moves by 1/256 s; a new second begins with new counts (16 R460, R462). -/
def Ember.tick (e : Ember) : Ember :=
  if e.sub = 255 then
    { e with sub := 0, opsec := e.opsec + 1, thisSecond := 0, dropsNow := 0, dropsDue := e.dropsPassed }
  else { e with sub := e.sub + 1 }

/-- The fraction of the legal clock moves by 1/256 s; its second edges are commands of their own
(09 R274, R279). -/
def Leg.tick (g : Leg) : Leg := { g with frac := min 32767 (g.frac + 128) }

/-- TIM cycles of 2 ns in 1/256 s. -/
def tickCycles : Nat := 1953125

/-- The cores' timer moves by 1/256 s, which is 3,906.25 µs (11 R353). -/
def Apc.tick (a : Apc) : Apc := { a with mtime := (a.mtime + 15625) % 2 ^ 66 }

/-- What an idle step does: OFF stops every clock, DORMANT all but those of the SEAL region
(14 Table 10). -/
def State.idle (s : State) : State :=
  if s.chip.crp.power = .off then s
  else
    let c := s.chip.onEmber Ember.tick
    let c := c.when (domainRuns c.crp.power 5) fun c => c.onApc Apc.tick
    { s with chip := c.when (domainRuns c.crp.power 10) (fun c => c.timCycles tickCycles), leg := s.leg.tick }

end Sys2Proof.Machine
end

