-- ==== Sys2Proof/Safety.lean ====
section
/-!
DEFINITION. What holds of every state that a run can reach, and the terms in which claims say how a
command ends and what it leaves alone.
-/
namespace Sys2Proof.Machine

/-- The four copies in eMRAM agree with the life cycle in force, and every CRC checks
(12_guard.md R363). -/
def LifeCycle.Sound (l : LifeCycle) : Prop :=
  l.copies = List.replicate 4 ⟨l.state, l.tripped, l.rootKilled, true⟩

/-- Memory and register file list their contents in the one canonical form. -/
def Chip.Tidy (c : Chip) : Prop := Memory.wf c.mem = true ∧ Tab.wf regReset c.regs = true

/-- A state in which the life cycle is sound. -/
def State.Inv (s : State) : Prop := s.lc.Sound

/-- The life cycle never moves back, the root secret never comes back, and while it is gone TRIPPED stays
(12_guard.md R362, Table 1). -/
def State.Onward (s t : State) : Prop :=
  s.lc.state.rank ≤ t.lc.state.rank ∧ (s.lc.rootKilled = true → t.lc.rootKilled = true) ∧
  (s.lc.rootKilled = true → s.lc.tripped = true → t.lc.tripped = true)

/-- A run is safe over a step: it goes on, with the life cycle sound and not moved back. -/
def State.SafeStep (s : State) : Prop := ∃ t, step s = .next t ∧ t.Inv ∧ s.Onward t

/-- The command completes: it ends in a next state, of which `P` holds. -/
def Runs (i : Instr) (s : State) (P : State → Prop) : Prop := ∃ t, exec i s = .next t ∧ P t

/-- Between `s` and `t` nothing changed but what `f` writes over the chip of `s`, and of the register file
nothing but the registers that `may` admits. -/
def State.OnlyIn (s t : State) (may : Nat → Bool) (f : Chip → Chip) : Prop :=
  t = { s with chip := f s.chip } ∧ ∀ r, may r = false → t.chip.rdW r = s.chip.rdW r

/-- As `OnlyIn`, the registers that may change given as a list. -/
def State.Only (s t : State) (rs : List Nat) (f : Chip → Chip) : Prop := s.OnlyIn t rs.contains f

/-- Registers that a record posted to the Ember log may change: those of a drop (16_ember_log.md R462). -/
def recordRegs : List Nat := [Reg.GRD_EMB_DROP, Reg.GRD_EMB_STATUS, Reg.PIC_PEND 4]

/-- Counts of gated accesses to the ports behind the fabric (14_clocks_power_reset.md R417). -/
def portRegs : List Nat := [Reg.CRP_GATED_CNT 1, Reg.CRP_GATED_CNT 3, Reg.CRP_GATED_CNT 6]

/-- Registers that a transfer by a block may change: those of a refusal (12_guard.md R376), of a gated port, of a DRAM
error (11_host_rings_and_cluster.md R359) and of the records of these. -/
def transferRegs : List Nat :=
  recordRegs ++ [Reg.GRD_AP_VIOL, Reg.GRD_STATUS, Reg.GRD_AP_VINFO, Reg.GRD_AP_VADDR_LO, Reg.GRD_AP_VADDR_HI,
    Reg.APC_DDR_UE, Reg.APC_DDR_UE_ADDR_LO, Reg.APC_DDR_UE_ADDR_HI, Reg.APC_DDR_CE, Reg.APC_DDR_CE_ADDR_LO,
    Reg.APC_DDR_CE_ADDR_HI] ++ portRegs

/-- The chip `c` with what transfers may meet as `t` has it: records, the DRAM errors found, and the gated ports of which
a record has been made. -/
def Chip.met (c t : Chip) : Chip :=
  { c with ember := t.ember, apc := t.apc, crp := { c.crp with noted := t.crp.noted } }

/-- The request in progress with operation `op` at entry `idx` of queue `q` (05_sessions_and_cipher.md R154). -/
def Chip.jobAt (c : Chip) (op q idx : Nat) : Option CiuReq :=
  c.ciu.inflight.find? fun r => r.queue == q && r.idx == idx && r.fields.op == op

/-- Address of a request's entry. -/
def Chip.jobEntry (c : Chip) (r : CiuReq) : Nat := c.queueEntry r.queue r.idx

/-- Whether the inbox entry that shows pod `p` to its core lies apart from the `n` bytes at `a`
(06_flow_scheduler.md Table 7). -/
def Chip.podApart (c : Chip) (p a n : Nat) : Bool :=
  match c.podEntry p with
  | some e => decide (a + n ≤ inboxAddr (c.pod p).core e) || decide (inboxAddr (c.pod p).core e + 128 ≤ a)
  | none => true

/-- Whether `n` bytes at `a` lie outside the store of hot contexts (05_sessions_and_cipher.md R139). -/
def storeApart (a n : Nat) : Bool := decide (a + n ≤ 0x40000000) || decide (0x40400000 ≤ a)

/-- Whether a request of the CIU's own queues can end with `n` bytes of output: nothing holds it back, the
memory `ins` that it reads can be read, and its output and its entry, which lie
apart from each other, from the inbox entry of a pod that the request names and, where it names a session, from the
hot contexts, can be written. -/
def Chip.jobCan (c : Chip) (r : CiuReq) (ins : List (Nat × Nat)) (n : Nat) : Bool :=
  let host := c.queueLevel r.queue == 0
  let a := c.jobEntry r
  r.owner.isNone && c.reqMayRun r && !c.gated 4 && ins.all (fun i => c.judge 5 host false i.1 i.2 == .ok) &&
    c.judge 5 host true r.fields.dst n == .ok && c.judge 5 host true a 64 == .ok &&
    (decide (r.fields.dst + n ≤ a) || decide (a + 64 ≤ r.fields.dst)) &&
    (!r.ctx || storeApart a 64) &&
    (!bitOf r.fields.flags 2 || c.podApart r.fields.pod r.fields.dst n && c.podApart r.fields.pod a 64)

/-- What the completion of a request leaves in memory: its STATUS, its output at DST, and elsewhere what was
there, but for the flow cores' memories, where a pod's operand may be shown, and the hot context that counts a
rejection of a request with CTX = 1 (05_sessions_and_cipher.md R158). -/
def Chip.jobDone (c t : Chip) (r : CiuReq) (status : Nat) (out : List Byte) : Prop :=
  t.rdb (c.jobEntry r + 56) = BitVec.ofNat 8 status ∧ t.rdMem r.fields.dst out.length = out ∧
  (∀ x, (x < r.fields.dst ∨ r.fields.dst + out.length ≤ x) → (x < c.jobEntry r + 55 ∨ c.jobEntry r + 64 ≤ x) →
    (x < 0x50000000 ∨ 0x50300000 ≤ x) → ([2, 3, 0x0A, 0x0C].contains status = true → r.ctx = true → storeApart x 1 = true) →
    t.rdb x = c.rdb x) ∧
  t.ciu.inflight = c.ciu.inflight.erase r

end Sys2Proof.Machine

/-- Commands that reach the legal partition: its own, transactions, the return and loss of its supply
(01_architecture.md R29), and those that may trip the device or end a trip, which it sees (12_guard.md R378). -/
def Sys2Proof.Instr.reachesLegal : Sys2Proof.Instr → Bool
  | .registerWrite _ _ _ | .counterRead _ | .busAccess _ _ _ _ _ _ | .powerOnReset | .vddSealLoss
  | .intervalClose _ | .legalEngineStart _ _ | .lglRequest | .legalSecondEdge _ | .legalRegisterCommit
  | .prepaymentSweep _ | .powerFailClose _ _ | .metFaultStart | .metFaultEnd | .metConfigApply
  | .calibrate _ _ _ _ | .legMetCfgWrite _ _ | .legClkCfgWrite _ _ | .readRegs _ | .readSnap _ _
  | .logRead _ _ _ | .readAccount _ _ | .readClock _ | .setClock _ _ _ | .adjClock _ _ _ | .calLoad _ _ _
  | .calActivate _ _ _ | .override _ _ _ _ _ | .billClose _ _ | .metConfig _ _ _ | .pricePlan _ _ _ _
  | .friendlyCal _ _ _ _ | .logArchive _ _ _ | .accCreate _ _ _ _ _ _ _ _ | .accDelete _ _
  | .topup _ _ _ _ _ | .ecOn _ _ _ | .charge _ _ _ _ _ | .accSet _ _ _ _ _ _ _
  | .ciuAlarm _ | .guardStart | .retire _ | .clearTrip _ | .tamperCondition _ | .tamperCfgWrite _ _ _
  | .respond _ _ _ | .debugGrant _ _ | .xbLost => true
  | _ => false

/-- Commands that reach the life cycle: its own, those of tamper sources and debug, and transactions (12_guard.md
Table 1, R377). -/
def Sys2Proof.Instr.reachesLifeCycle : Sys2Proof.Instr → Bool
  | .registerWrite _ _ _ | .busAccess _ _ _ _ _ _ | .powerOnReset | .ciuAlarm _ | .guardStart | .personalise _
  | .seal _ | .retire _ | .clearTrip _ | .tamperCondition _ | .tamperCfgWrite _ _ _
  | .respond _ _ _ | .debugGrant _ _ | .xbLost => true
  | _ => false

/-- Whether a command is a transaction of many words. -/
def Sys2Proof.Instr.isBusAccess : Sys2Proof.Instr → Bool
  | .busAccess _ _ _ _ _ _ => true
  | _ => false

namespace Sys2Proof.Machine

/-! ### 00_scope.md, 01_architecture.md -/

/-- Registers whose write has no effect but that of their access codes: those of the application cluster's block
that no rule of 11_host_rings_and_cluster.md gives another. -/
def plainApc (key : Nat) : Bool :=
  key / 0x100000 == 6 && (idxOf (Reg.PIC_CLAIM 0) 8 8 key).isNone &&
  !([Reg.APC_CORE_RUN, Reg.APC_DDR_CFG, Reg.APC_MREC_BASE_LO, Reg.APC_MREC_BASE_HI, Reg.APC_HCX_FLUSH].contains key)

/-- Whether an initiator makes a transaction at a level: it has that level, it is not held, and its way to the fabric is
open (12_guard.md Table 4, R366, R386; 11_host_rings_and_cluster.md R335, R336, R356). -/
def State.busReaches (s : State) (w : Who) (l : Level) : Bool :=
  s.chip.crp.power != .off && s.chip.levelOf w == some l && (w.num != 15 || !s.chip.kindling s.lc) &&
  (w.num != 3 || s.chip.pcieUp && s.chip.barUp)

/-- A core that met a bus error has taken an access fault, a load's or a store's, into machine mode; no core otherwise has
(11_host_rings_and_cluster.md R354). -/
def State.Faulted (s t : State) (w : Who) (wr : Bool) : Prop :=
  if 2 ≤ w.num then t.chip.apc.harts = s.chip.apc.harts
  else ∃ n, (s.chip.apc.started = [] ∨ n ∈ s.chip.apc.started) ∧ (t.chip.hart n).mode = .machine ∧
    (t.chip.hart n).mcause = (if wr then 7 else 5) ∧
    (t.chip.hart n).pc = BitVec.ofNat 64 ((s.chip.hart n).mtvec.toNat / 4 * 4) ∧
    ∀ m, m ≠ n → t.chip.hart m = s.chip.hart m

/-- Registers of the energy counters' shadows (R33). -/
def shadowRegs : List Nat :=
  [Reg.CRP_NRG_CTRL, Reg.CRP_NRG_RDG, Reg.CRP_NRG_RDG_HI] ++
    (List.range 12).flatMap fun n => [Reg.CRP_NRG_CNT n, Reg.CRP_NRG_CNT_HI n]

/-- One record has joined the intake of the Ember log (16_ember_log.md R461). -/
def State.Posted (s t : State) (typ : Nat) (payload : List Byte) : Prop :=
  (t.chip.ember.intake.map fun x => (x.typ, x.payload)) =
    (s.chip.ember.intake.map fun x => (x.typ, x.payload)) ++ [(typ, payload)]

/-! ### 04_air_units.md -/

/-- Registers and tables of an Air Unit (R105): its window of 512 KiB. -/
def Chip.airRegs (u : Nat) (r : Nat) : Bool := decide (0x300000 + u * 0x80000 ≤ r) && decide (r < 0x380000 + u * 0x80000)

/-- Whether a slot's work puts a frame on the air: a request's or an Enhanced Beacon (R118, R120). -/
def AirWork.sends : AirWork → Bool
  | .send _ _ _ _ | .beacon _ => true
  | _ => false

/-- The PHY selection that a frame came with (R114). -/
def Chip.airPhy (c : Chip) (u : Nat) (alt : Bool) : Nat := c.rd (if alt then Reg.AIR_PHY_ALT u else Reg.AIR_PHY_CFG u)

/-- A unit takes a frame of PSDU `psdu` and MAC frame `p`: it listens, the FCS is good, and the frame is for this unit or
broadcast (R109, R116, R123). -/
def Chip.airTakes (c : Chip) (u : Nat) (alt : Bool) (τ : BitVec 64) (psdu p : List Byte) : Bool :=
  let h := macHdr p
  c.airOn u && c.iqPresent u && (c.airUnit u).aligned && c.bit (Reg.AIR_IQ_CFG u) 0 && (!alt || c.bit (Reg.AIR_PHY_ALT u) 31) &&
    (c.airListens u (τ.toNat - c.fl (Reg.AIR_IQ_COMP u) 15 0 - leadTime (c.airPhy u alt))).isSome &&
    psdu.take (psdu.length - fcsLen (c.airPhy u alt)) == p && psdu == withFcs (c.airPhy u alt) p && p != [] &&
    decide (psdu.length ≤ 2047) && h.version == 2 && [0, 1, 3].contains h.typ && decide (h.len ≤ p.length) &&
    (h.dst == [] || (h.dst.length == 2 && leVal h.dst == 0xFFFF) ||
      (h.dst.length == 8 && leVal h.dst == c.rd64 (Reg.AIR_EUI_LO u) (Reg.AIR_EUI_HI u)))

/-- A secured frame from neighbour `i` is a replay (Table 10, order 5). -/
def Chip.airReplayed (c : Chip) (u i : Nat) (h : MacHdr) : Bool :=
  c.nb u i 2 22 22 == 1 && h.fc.any fun f => decide (f < c.rd (Reg.NB_WORD u i 3)) ||
    (f == c.rd (Reg.NB_WORD u i 3) && !(h.dsn.all fun d => d == c.nb u i 2 31 24)) || f == 0xFFFFFFFF

/-- A beacon expected of neighbour `i` in cell `k`, the slot's, has not been heard when its window closes (R131). -/
def Chip.missesBeacon (c : Chip) (u k i : Nat) : Bool :=
  let d := c.inForce u
  (c.airUnit u).slot.any fun x => x.work == .listen k i && !x.heard && d.airOn u && i != 0xFFF && d.cell u k 30 30 == 1 &&
    d.nbTsrc u i && d.nbValid u i

/-! ### 07_validation_and_balance.md -/

/-- The group table of BAL (R214, R231). -/
def Chip.groupRegs (r : Nat) : Bool := decide (Reg.GROUP_WORD 0 0 ≤ r) && decide (r < Reg.GROUP_WORD 0 0 + 0x40000)

/-- Registers that a report of BAL may change (R229). -/
def reportRegs : List Nat := [Reg.BAL_RPT_PI, Reg.BAL_RPT_DROP, Reg.BAL_STATUS, Reg.PIC_PEND 4]

/-- The membership entries that moving a handle may touch: its own and those of its group's list (R214). -/
def Chip.linked (c : Chip) (h : Nat) : List Nat := h :: ((c.groupOf h).map c.memberList).getD []

/-! ### 08_clamp_media.md -/

/-- Registers that work on the media may change: status, counts and wear (R249–R255), and those of transfers, among them
the Host-level ones of RING's commands (11 R352). -/
def mediaRegs : List Nat :=
  [Reg.CLM_STATUS, Reg.CLM_ERASES, Reg.CLM_ERASEF, Reg.CLM_PROGF, Reg.CLM_EC_MIN, Reg.CLM_EC_MAX, Reg.CLM_WR_PAGES,
    Reg.CLM_RD_PAGES, Reg.CLM_RETIRED, Reg.CLM_LOST, Reg.CLM_GC_PAGES, Reg.CLM_WL_PAGES, Reg.CLM_PAR_REBUILD, Reg.CLM_SOFT,
    Reg.CLM_UNCORR, Reg.CLM_WB_WAIT, Reg.RING_STATUS, Reg.RING_IOMMU_MISS, Reg.RING_IOMMU_FLTCNT, Reg.RING_IOMMU_FLT_INFO,
    Reg.RING_IOMMU_FLT_ADDR_LO, Reg.RING_IOMMU_FLT_ADDR_HI] ++ transferRegs

/-- Between `s` and `t` nothing changed but the Clamp, its media and memory, the records and registers of that work, the
translations that the Host-level transfers of RING's commands leave in the IOMMU's cache, the spans of time that
nothing gives the model, and the registers `rs`. -/
def State.Clamped (s t : State) (rs : List Nat) : Prop :=
  s.Only t (rs ++ mediaRegs) fun c => { c.met t.chip with
    regs := t.chip.regs, mem := t.chip.mem, nand := t.chip.nand, clm := t.chip.clm
    ring := { c.ring with cache := t.chip.ring.cache }, freeCtr := t.chip.freeCtr }

/-! ### 09_legal_partition.md -/

/-- Outside the engine nothing changed but the notices it posted, the pending bit of its summary, and, where RING is gated and
its notices are lost, the count and the record of that (14 R417). -/
def State.LegalOnly (s t : State) : Prop :=
  t = { s with leg := t.leg, chip := { s.chip with
    regs := t.chip.regs, ember := t.chip.ember, crp := { s.chip.crp with noted := t.chip.crp.noted }
    ring := { s.chip.ring with posted := t.chip.ring.posted } } } ∧
  (∀ r, (Reg.CRP_GATED_CNT 3 :: recordRegs).contains r = false → t.chip.rdW r = s.chip.rdW r) ∧
  (s.chip.portGated 0 = false → t.chip.ember = s.chip.ember ∧ t.chip.crp = s.chip.crp ∧
    ∀ r, [Reg.PIC_PEND 4].contains r = false → t.chip.rdW r = s.chip.rdW r)

/-- The engine ends as `l`: its notices are passed on in the order posted, unless RING is gated, and outside the engine nothing
else changed but, where LEG_ERR changed, the pending bit of its summary. -/
def State.LegalTo (s t : State) (l : Leg) : Prop :=
  t.leg = { l with notices := [] } ∧ s.LegalOnly t ∧
  t.chip.ring.posted = s.chip.ring.posted ++
    (if s.chip.portGated 0 then [] else l.notices.map fun n => ⟨n.1, s.chip.time, padTo 48 n.2⟩) ∧
  (l.notices = [] ∨ s.chip.portGated 0 = false → t.chip.ember = s.chip.ember ∧ t.chip.crp = s.chip.crp ∧
    (l.err = s.leg.err → t.chip.regs = s.chip.regs) ∧
    ∀ r, [Reg.PIC_PEND 4].contains r = false → t.chip.rdW r = s.chip.rdW r)

/-- The engine answers a request of a code with a result and data, and ends as `l` but for its command registers. -/
def State.Replied (s t : State) (code result : Nat) (rqid : Word) (data : List Byte) (l : Leg) : Prop :=
  s.LegalTo t { l with
    cmd := BitVec.ofNat 32 code, cmdStatus := BitVec.ofNat 32 result, reply := legalReply code result rqid data }

/-- The engine takes a request and none of the checks common to its class stops it (R299, R301, R302). -/
def State.admits (s : State) (g : Leg) (kind : ReqKind) (code : Nat) (req : List Byte) : Bool :=
  s.legalServed g && s.legalGate g ⟨code, kind, fun g _ _ _ => g.done⟩ req == 0

/-! ### 11_host_rings_and_cluster.md -/

/-- Registers that a translation may change (R352). -/
def iommuRegs : List Nat :=
  [Reg.RING_STATUS, Reg.RING_IOMMU_FLTCNT, Reg.RING_IOMMU_FLT_INFO, Reg.RING_IOMMU_FLT_ADDR_LO, Reg.RING_IOMMU_FLT_ADDR_HI,
    Reg.RING_IOMMU_MISS]

/-- Pending bits that an interrupt of RING may set (R349). -/
def signalRegs : List Nat :=
  (List.range 4).map Reg.PIC_PEND ++ (List.range 4).map Reg.MSIX_PEND

/-- The address that an access at a level, in a domain, reaches (R338, R351). -/
def Chip.ringAddr (c : Chip) (host : Bool) (dom : Nat) (wr : Bool) (x : Nat) : Option Nat :=
  if host then (c.iova dom wr x).1 else some x

/-- Whether vectors are sent as messages, this one is not masked, and the endpoint may write to host memory (R349). -/
def Chip.sends (c : Chip) (v : Nat) : Bool :=
  !c.bit Reg.RING_CTRL 1 && c.ring.setup.msix && !c.bit (Reg.MSIX_WORD v 3) 0 && c.hostUp

/-- Where the next entry of a completion ring goes. -/
def Chip.cqAddr (c : Chip) (p : Nat) : Option Nat :=
  c.ringAddr (c.pairHost p) (c.pairDomain p) true
    (c.ringBase (Reg.RING_RP_CQ_BASE_LO p) (Reg.RING_RP_CQ_BASE_HI p) + 64 * (c.rpair p).cqPi)

/-- Where the next entry of an event ring goes. -/
def Chip.evtAddr (c : Chip) (e : Nat) : Option Nat :=
  c.ringAddr (!c.bit (Reg.RING_EVT_CFG e) 30) (c.fl (Reg.RING_EVT_CFG e) 26 23) true
    (c.ringBase (Reg.RING_EVT_BASE_LO e) (Reg.RING_EVT_BASE_HI e) + 64 * (c.evt e).pi)

/-! ### 12_guard.md -/

/-- Registers that the tamper line's assertion may change (R168, R371, R377). -/
def lineRegs : List Nat :=
  [Reg.GRD_STATUS, Reg.CIU_ALARM, Reg.CIU_CTRL, Reg.CIU_STATUS, Reg.CIU_KEY_STATUS, Reg.GRD_KDF_STATUS, Reg.GRD_KDF_CMD]

/-- The RESULT that Table 3 gives a derivation, in its order 6, 2, 3, 4, 5 (R371). -/
def Chip.kdfVerdict (c : Chip) (slot alg : Nat) : Nat :=
  if c.bit Reg.CIU_ALARM 5 = true ∨ c.bit Reg.CIU_CTRL 0 = false ∨
      !(c.crp.power == .run || c.crp.power == .trim || c.crp.power == .hold) then 6
  else if 8192 ≤ slot then 2
  else if alg = 0 ∨ alg = 10 ∨ 11 < alg ∨ (alg = 9 ∧ slot % 2 = 1) then 3
  else if c.grd.root = none then 4
  else if attrLock (c.attr slot) = true ∨ (alg = 9 ∧ attrLock (c.attr (slot + 1)) = true) then 5
  else 1

/-- Registers that the legal engine's notices may change where RING is gated (14 R417). -/
def noticeRegs : List Nat := Reg.CRP_GATED_CNT 3 :: recordRegs

/-- A trip, or its end, is seen by the legal engine at once, and nothing else is (R378). -/
def State.TripSeen (s t : State) : Prop :=
  t.leg = (if t.lc.tripped = s.lc.tripped then s.leg else { s.leg.observe t.lc.tripped with notices := [] }) ∧
  (t.lc.tripped = s.lc.tripped → t.chip.ring = s.chip.ring)

/-- The life cycle is `l`, in force and in its four copies (R363). -/
def LifeCycle.Set (l : LifeCycle) (state : LcState) (tripped rootKilled : Bool) : Prop :=
  l = ⟨state, tripped, rootKilled, List.replicate 4 ⟨state, tripped, rootKilled, true⟩⟩

/-- The conditions that the chip itself holds for the sources that it senses (Table 6). -/
def Chip.senses (c : Chip) (src : Nat) : Prop :=
  (src = 8 → c.fl Reg.CIU_ALARM 4 0 ≠ 0) ∧ (src = 9 → 8 ≤ c.grd.refusals)

/-- An occurrence of a source takes the action given in full (R377, R378). -/
def State.Acted (s t : State) (src act : Nat) (kill : Bool) : Prop :=
  t.chip.rd (Reg.GRD_TMP_CNT src) = satInc (s.chip.rd (Reg.GRD_TMP_CNT src)) ∧ t.chip.bit Reg.GRD_TMP_LATCH src = true ∧
  (2 ≤ act → t.chip.bit Reg.CIU_ALARM 5 = true ∧
    (s.chip.bit Reg.CIU_ALARM 5 = false → s.chip.ciu.erasing = none → t.chip.ciu.masks = [] ∧ t.chip.ciu.erasing.isSome = true)) ∧
  (if act = 3 then
    t.lc.Set s.lc.state true (s.lc.rootKilled || kill) ∧ (s.lc.state ≠ .retired → t.chip.grd.dbg = .closed) ∧
    (kill = true → t.chip.grd.root = none ∧ t.chip.grd.wrapped = [[], []])
  else t.lc = s.lc ∧ t.chip.grd.root = s.chip.grd.root ∧ t.chip.grd.dbg = s.chip.grd.dbg)

/-! ### 13_update_and_tinder.md -/

/-- Address of the table image to be judged (Table 11). -/
def Chip.tableAddr (c : Chip) : Nat := c.rd Reg.GRD_UPD_TBL_ADDR_LO + c.fl Reg.GRD_UPD_TBL_ADDR_HI 15 0 * 2 ^ 32

/-- Registers that a verdict on an image may change (R393, Table 11). -/
def updateRegs : List Nat := [Reg.GRD_UPD_CMD, Reg.GRD_UPD_STATUS, Reg.GRD_UPD_REFCNT] ++ recordRegs

/-- A refusal with a RESULT: reported and counted (R393). -/
def State.Refused (s t : State) (r : Nat) : Prop :=
  t.chip.fl Reg.GRD_UPD_STATUS 11 8 = r ∧ t.chip.rd Reg.GRD_UPD_REFCNT = satInc (s.chip.rd Reg.GRD_UPD_REFCNT) ∧
  t.chip.upd = s.chip.upd

/-- REFUSE shows the conditions of Table 6 that hold (R394). -/
def State.ShowsRefusals (s t : State) : Prop :=
  t.chip.bit Reg.GRD_UPD_STATUS 16 = decide (s.chip.fl Reg.CRP_BKP_STATUS 22 16 < 80) ∧
  t.chip.bit Reg.GRD_UPD_STATUS 17 = s.chip.bit Reg.GRD_UPD_CTRL 0 ∧
  t.chip.bit Reg.GRD_UPD_STATUS 18 =
    (s.chip.bit Reg.GRD_TMP_CTRL 2 && s.chip.grd.present.contains (s.chip.fl Reg.GRD_TMP_CTRL 1 0)) ∧
  t.chip.bit Reg.GRD_UPD_STATUS 19 = (s.chip.crp.power == .ride) ∧ t.chip.bit Reg.GRD_UPD_STATUS 20 = s.leg.boundaryNear ∧
  t.chip.bit Reg.GRD_UPD_STATUS 21 = s.chip.bit Reg.BKB_PAIR_STATUS 9 ∧ t.chip.bit Reg.GRD_UPD_STATUS 22 = s.lc.tripped

/-- Payload of a chain frame (Table 8). -/
def framePayload (f : List Byte) : List Byte := slice f 20 (leAt f 16 2)

/-- The registers of queue 1's indexes and of the ports' counts of frames sent (R397, R402). -/
def chainRegs : List Nat := [Reg.CLM_QPI 1, Reg.CLM_QCI 1, Reg.BKB_RXQ_CI 2, Reg.BKB_TX_OK 0, Reg.BKB_TX_OK 1]

/-- Between `s` and `t` nothing changed but Tinder's own state, what its commands to the Clamp's queue 1 do at once and
meet, what the ports have sent, and the registers `rs` (R397, R402). -/
def State.Tindered (s t : State) (rs : List Nat) : Prop :=
  s.Only t (rs ++ chainRegs ++ mediaRegs) fun c => { c.met t.chip with
    regs := t.chip.regs, mem := t.chip.mem, clm := t.chip.clm, upd := t.chip.upd, freeCtr := t.chip.freeCtr
    bkb := { c.bkb with ports := t.chip.bkb.ports } }

/-- Whether the Clamp takes Tinder's READ of staged chunk `k`, and does not turn it away (R397). -/
def Chip.stagedComes (c : Chip) (k : Nat) : Bool :=
  let r := c.tinderCmd 1 3 0 (c.updStage + 16 * k) 16
  c.tinderTakes r && c.cmdJudge r == 0

/-- How the copy of chunk NEXT begins, from the chip `c` to `d`: where the Clamp gives the chunk, one that does not match
CHASH moves the state to LOADER, and one that does is given to IMAGE by a WRITE with SYNC, once the Clamp takes it
(R397). -/
def Chip.CopyBegun (c d : Chip) (m : Manifest) : Prop :=
  c.upd.pending = some m → c.copying m = true → c.upd.write = none → ∀ k, k = c.upd.next →
    if c.stagedComes k = false then d.upd = c.upd ∧ d.clm = c.clm
    else if sha256 (c.stagedChunk k) ≠ m.chash.getD k [] then
      d.upd.state = 5 ∧ d.upd.next = k ∧ d.upd.write = none ∧ d.upd.verified = c.upd.verified.filter (· != k)
    else ∀ e, e = (c.readStaged k).2 → ∀ w, w = e.tinderCmd 2 1 2 (16 * k) 16 →
      d.upd.state = c.upd.state ∧ d.upd.next = k ∧
      if e.tinderTakes w = true then
        d.upd.write = some (w.n, 0) ∧ d.clm = (e.tinderWrite 1 2 (16 * k) (c.stagedChunk k)).clm
      else d.upd.write = none ∧ d.clm = e.clm

/-- Each port that runs has sent these chain frames in order, the last now first in its list (R402). -/
def Chip.SentOn (c d : Chip) (fs : List ChainFrame) : Prop :=
  ∀ p : Fin 2, (d.port p).sent =
    (if c.portUp p && c.link p then (fs.map (c.chainFrame p)).reverse else []) ++ (c.port p).sent

/-- Bytes that a node sends to another in pieces of 1,024 (R402). -/
def chainPieces (typ dest : Nat) (series : Word) (kind chunk off : Nat) (data : List Byte) : List ChainFrame :=
  (pieces 1024 data).zipIdx.map fun p => ⟨typ, dest, series, kind, chunk, off + 1024 * p.2, p.1⟩

/-- Whether an address lies outside the entries of the Clamp's queue 1 (08_clamp_media.md Table 8). -/
def Chip.queueApart (c : Chip) (x : Nat) : Prop := x < c.clmqAddr 1 0 ∨ c.clmqAddr 1 (c.clmqSize 1) ≤ x

/-- What has come of the image that a piece belongs to, with the piece's bytes put in (R403). -/
def Chip.arrivedWith (c : Chip) (f : List Byte) : List (Nat × Byte) :=
  putBytes (((c.upd.arriving.find? fun a => a.kind == leAt f 8 1 && a.series == BitVec.ofNat 32 (leAt f 4 4)).map (·.got)).getD [])
    (leAt f 12 4) (framePayload f)

/-- Whether these bytes, by offset, are an image complete. -/
def imageWhole (got : List (Nat × Byte)) : Bool :=
  decide (64 ≤ got.length) && got.map (·.1) == List.range (imageLen (leAt (got.map (·.2)) 8 4))

/-- What has come of a chunk that a piece belongs to, with the piece's bytes put in. -/
def Chip.chunkWith (c : Chip) (f : List Byte) : List (Nat × Byte) :=
  putBytes (if c.upd.pieceChunk = leAt f 10 2 then c.upd.pieces else []) (leAt f 12 4) (framePayload f)

/-- What a load or an activation leaves once its chunks, read as `got` up to the chip `d`, pass their check: the loads in
memory, APC_BOOT_VEC at ENTRY, the flow cores in reset and the cluster's cores released (R399). -/
def Chip.Loaded (s d t : Chip) (m : Manifest) (got : List (Nat × List Byte)) : Prop :=
  t.rd64 Reg.APC_BOOT_VEC_LO Reg.APC_BOOT_VEC_HI = m.entry.toNat ∧ t.rd Reg.APC_CORE_RUN = 15 ∧
  t.apc.started = [0, 1, 2, 3] ∧ (∀ n : Fin 4, t.hart n = Hart.start t.bootVec) ∧
  (∀ n : Fin 24, t.bit (Reg.FLO_CORE_CFG n) 30 = true) ∧
  (∀ l rest, m.loads = l :: rest → rest = [] → ∀ b, b = imageBytes got l.1 l.2.1 → (d.reach true l.2.2 b.length).done = true →
    t.rdMem l.2.2 b.length = b) ∧
  (∀ x, (∀ l ∈ m.loads, (x < l.2.2 ∨ l.2.2 + l.2.1 ≤ x)) → s.queueApart x → t.rdb x = s.rdb x)

/-! ### 14_clocks_power_reset.md -/

/-- What a device reset and a core power-on keep besides the legal partition and the life cycle (R422). -/
def Chip.Retains (c d : Chip) : Prop :=
  (∀ (r : Fin 64) (n : Fin 8), d.rdW (Reg.AP_ACTIVE r n) = c.rdW (Reg.AP_ACTIVE r n)) ∧
  (∀ i : Fin 11, d.rdW (Reg.GRD_TMP_CFG i) = c.rdW (Reg.GRD_TMP_CFG i)) ∧
  d.crp.code = c.crp.code ∧ d.ember.first = c.ember.first ∧ d.ember.last = c.ember.last ∧ d.ember.snaps = c.ember.snaps ∧
  d.grd.wrapped = c.grd.wrapped ∧ d.grd.kindled = c.grd.kindled ∧ d.nand = c.nand ∧ d.fuses = c.fuses

/-- What a device reset leaves of the chip but for the cause bits (R422, R423). -/
def Chip.Restarted (c d : Chip) (kept : Bool) : Prop :=
  c.Retains d ∧ d.tim = c.tim ∧ d.crp.energy = c.crp.energy ∧ d.crp.startStep = 3 ∧
  d.crp.power = (if c.crp.xaValid then .run else .trim) ∧ d.crp.keptDram = kept ∧ d.apc.ddrSelfRefresh = kept ∧
  d.bit Reg.APC_DDR_STATUS 0 = false ∧ d.grd.root = none ∧ d.grd.dbg = .closed ∧ d.mem = c.mem

/-- A RIDE sequence has begun (Table 12). -/
def State.Rides (s t : State) : Prop :=
  t.chip.crp.power = .ride ∧ t.chip.crp.flushed = (s.chip.crp.power == .hold) ∧ t.chip.crp.holdEntry = false ∧
  t.chip.grd.dbg = .closed ∧ t.chip.grd.kdf = none ∧ t.chip.ciu.masks = [] ∧
  t.chip.bit Reg.CIU_CTRL 0 = (if s.chip.ciu.erasing = none ∨ s.chip.ciu.masks ≠ [] then false else s.chip.bit Reg.CIU_CTRL 0) ∧
  t.chip.bit Reg.APC_DDR_STATUS 0 = false ∧ t.chip.upd.paused = true ∧ (∀ n : Fin 3, (t.chip.chain n).tx = none) ∧
  (∀ p : Fin 2, (t.chip.port p).tx = none) ∧ t.chip.clm.batches = [] ∧ t.chip.bal.out = [] ∧
  (∀ b, t.chip.clm.rideErase = some b → s.chip.clm.erasing.contains b = true) ∧
  (∀ r, t.chip.kiln.run = some r → r.stop.isSome = true) ∧
  (s.chip.crp.power = .hold → t.chip.bit Reg.CLM_STATUS 11 = true) ∧ t.lc = s.lc ∧ t.leg = s.leg

/-! ### 15_selftest_and_pairing.md -/

/-- A run is what a write of CRP_KLN_CTRL asks for (R439, R440). -/
def kilnRunOf (boot : Bool) (parts : List Nat) (first count : Nat) : KilnRun :=
  ⟨boot, parts, false, [], first, count, [], none⟩

/-- A Kiln run ends or is refused with a RESULT (Table 2). -/
def Chip.kilnShows (c : Chip) (r : Nat) : Prop :=
  c.fl Reg.CRP_KLN_STATUS 27 24 = r ∧ c.bit Reg.CRP_KLN_STATUS 31 = false ∧ c.bit Reg.CRP_KLN_CTRL 31 = false

/-- Registers of the Kiln's control and status. -/
def kilnRegs : List Nat := [Reg.CRP_KLN_CTRL, Reg.CRP_KLN_STATUS, Reg.CRP_STATUS, Reg.PIC_PEND 4]

/-- The frame this side sends now (Table 4). -/
def Chip.ownFrame (c : Chip) (typ lseq : Nat) (payload : List Byte) : PairFrame :=
  ⟨typ, c.pairState, lseq, c.pair.rxSeq, c.epoch, c.fl Reg.BKB_NODE 11 0, payload⟩

/-- Muted: halted, and no role that transmits (R453). -/
def Chip.isMuted (c : Chip) : Prop :=
  c.bit Reg.LMA_CTRL 1 = true ∧ c.fl Reg.LMA_NET_CTRL 1 0 = 0 ∧
  ∀ u : Fin 2, c.bit (Reg.AIR_MAC_CTRL u) 1 = true ∧ c.fl (Reg.AIR_MAC_CFG u) 1 0 = if c.bit (Reg.AIR_MAC_CFG u) 2 then 0 else 2

/-- A standby has taken over (R452). -/
def State.TookOver (s t : State) (seen : Nat) (up : Bool) : Prop :=
  t.chip.pairState = (if up then 1 else 6) ∧ t.chip.bit Reg.BKB_PAIR_STATUS seen = true ∧ t.chip.epoch = (s.chip.epoch + 1) % 65536 ∧
  t.chip.fl Reg.LMA_NET_CTRL 1 0 = 1 ∧ (∀ u : Fin 2, t.chip.fl (Reg.AIR_MAC_CFG u) 1 0 ≠ 2) ∧
  t.chip.rd Reg.BKB_PAIR_TAKEOVERS = satInc (s.chip.rd Reg.BKB_PAIR_TAKEOVERS) ∧ t.chip.pair.queue = s.chip.pair.queue

/-- A good frame from a partner that neither outranks this side nor is isolated (R445, R453). -/
def Chip.hears (c : Chip) (f : List Byte) : Prop :=
  c.pairRuns = true ∧ c.pair.aligned = true ∧ pairFrameGood f = true ∧ c.outranked f = false ∧ leAt f 1 1 ≠ 4 ∧
  (c.pairState = 4 → leAt f 1 1 ≠ 2)

/-! ### 16_ember_log.md -/

/-- A record of the last area lies wholly outside the `n` bytes at `p`. -/
def recordApart (x : Nat × EmbRec) (p n : Nat) : Bool :=
  decide (x.1 + x.2.size ≤ p) || decide (p + n ≤ x.1)

/-- The window shows a record from a position that the cursor names (R468). -/
def State.Loaded (s t : State) (p : Nat) (b : List Byte) (gap : Bool) : Prop :=
  t.chip.fl Reg.GRD_EMB_CURSOR 19 4 = p / 16 ∧ t.chip.ember.window = padTo 4096 b ∧
  t.chip.fl Reg.GRD_EMB_RSTAT 2 0 = 1 ∧ t.chip.bit Reg.GRD_EMB_RSTAT 3 = false ∧ t.chip.bit Reg.GRD_EMB_RSTAT 4 = gap ∧
  t.chip.ember = { s.chip.ember with window := t.chip.ember.window, loadedAt := some p }

/-- A command ends with a RESULT and loads nothing; the cursor stays (R468). -/
def State.Ended (s t : State) (result : Nat) : Prop :=
  t.chip.fl Reg.GRD_EMB_RSTAT 2 0 = result ∧ t.chip.rdW Reg.GRD_EMB_CURSOR = s.chip.rdW Reg.GRD_EMB_CURSOR ∧
  t.chip.ember = s.chip.ember

/-- Only the registers of the log's reader and its window changed. -/
def State.OnlyRead (s t : State) : Prop :=
  s.Only t [Reg.GRD_EMB_CMD, Reg.GRD_EMB_CURSOR, Reg.GRD_EMB_RSTAT] fun c => { c with
    regs := t.chip.regs, ember := { c.ember with window := t.chip.ember.window, loadedAt := t.chip.ember.loadedAt } }

/-- A record that the last area holds, alone at its place, which a cursor can name. -/
def Ember.places (e : Ember) (x : Nat × EmbRec) : Bool :=
  x.1 % 16 == 0 && decide (0x20000 ≤ x.1) && decide (x.1 < 0xFC000) && e.last.find? (fun y => y.1 == x.1) == some x

end Sys2Proof.Machine
end

