-- ==== Sys2Proof/Certificates/Slice0/Obligations.lean ====
section
/-!
DEFINITION. The obligations: what the model is held to, chapter by chapter of the specification.
-/
open Sys2Proof Sys2Proof.Machine

/-! ### 00_scope.md, 01_architecture.md -/

/-- R8, R17, R19, R20, R34, R72, R354, R491, R492. A write acts on each bit by its access code; a read of a counter
answers its value and clears it; memory takes what is
written and answers what it holds; an address that no region takes, and the outbound window without its link, end with a
bus error, at which a core takes an access fault; a timeout is answered and recorded; a snapshot gives every shadow the
counter's value of one instant. Which bits of AER show an answer over PCIe (log entry 102), and which core it is that takes
the fault (log entry 105), are the model's own. -/
def Obligations.BusAccessesAreJudged : Prop :=
  (∀ (s : State) (off : BitVec 24) (v : Word) (w : Who), s.chip.powered 6 = true → off.toNat % 4 = 0 →
    s.chip.gatedIn off.toNat = none → plainApc off.toNat = true → ∀ row, regRow? off.toNat = some row →
    Runs (.registerWrite (.config off) v w) s fun t =>
      (∀ b : Fin 32, (t.chip.rdW off.toNat).getLsbD b =
        (((if bitOf row.rw b || (bitOf row.rws b && w.level == .seal) then v.getLsbD b else (s.chip.rdW off.toNat).getLsbD b) &&
          !(bitOf row.w1c b && v.getLsbD b)) || (bitOf row.w1s b && v.getLsbD b))) ∧
      (w.level = .seal ∨ row.rws = 0 → s.Only t [off.toNat] fun c => { c with regs := t.chip.regs }) ∧
      s.Only t (off.toNat :: transferRegs) fun c => { c with regs := t.chip.regs, ember := t.chip.ember }) ∧
  (∀ (s : State) (off : BitVec 24), s.chip.powered (off.toNat / 0x100000) = true → off.toNat % 4 = 0 →
    s.chip.gatedIn off.toNat = none → off.toNat / 0x100000 ≠ 8 → idxOf (Reg.PIC_CLAIM 0) 8 8 off.toNat = none →
    ∀ row, regRow? off.toNat = some row → row.rc ≠ 0 →
    Runs (.counterRead (.config off)) s fun t =>
      t.chip.resp = .data (leBytes 4 (s.view off.toNat).toNat) ∧
      t.chip.rdW off.toNat =
        BitVec.ofNat 32 ((s.chip.rdW off.toNat &&& ~~~(BitVec.ofNat 32 row.rc)).toNat + s.chip.standing off.toNat) ∧
      s.Only t [off.toNat] fun c => { c with regs := t.chip.regs, resp := t.chip.resp }) ∧
  (∀ (s : State) (n : Fin 24), s.chip.portGated 5 = false →
    Runs (.counterRead (.port n 0x80)) s fun t =>
      t.chip.resp = .data (leBytes 4 (s.chip.fcore n).err.toNat) ∧ (t.chip.fcore n).err = 0 ∧
      t.chip.regs = s.chip.regs ∧ t.chip.mem = s.chip.mem ∧ t.lc = s.lc ∧ t.leg = s.leg) ∧
  (∀ (s : State) (a : BitVec 48) (n : BitVec 8) (d : List Byte) (w : Who) (e : Ecc),
    s.busReaches w .seal = true → d ≠ [] → s.chip.gatedMemory .packetBuffer = none → 0x60000000 ≤ a.toNat → a.toNat + d.length ≤ 0x60200000 →
    Runs (.busAccess true a n d w e) s fun t =>
      t.chip.resp = .written ∧ t.chip.rdMem a.toNat d.length = d ∧
      (∀ x, x < a.toNat ∨ a.toNat + d.length ≤ x → t.chip.rdb x = s.chip.rdb x) ∧
      t = { s with chip := { s.chip with
        mem := t.chip.mem, resp := .written, apc := { s.chip.apc with poison := t.chip.apc.poison } } }) ∧
  (∀ (s : State) (a : BitVec 48) (n : BitVec 8) (d : List Byte) (w : Who) (e : Ecc),
    s.busReaches w .seal = true → n ≠ 0 → s.chip.gatedMemory .packetBuffer = none → 0x60000000 ≤ a.toNat → a.toNat + n.toNat ≤ 0x60200000 →
    Runs (.busAccess false a n d w e) s fun t =>
      t = { s with chip := { s.chip with resp := .data (s.chip.rdMem a.toNat n.toNat) } }) ∧
  (∀ (s : State) (a : BitVec 48) (n : BitVec 8) (d : List Byte) (w : Who) (e : Ecc),
    ∀ l, s.busReaches w l = true → s.chip.busAllows { w with level := l } false a.toNat n.toNat = true →
    n ≠ 0 → s.chip.regionOf a.toNat = .nowhere → s.chip.regionOf (a.toNat + n.toNat - 1) = .nowhere →
    Runs (.busAccess false a n d w e) s fun t =>
      t.chip.resp = (if w.ini = 3 then .unsupported else .busError) ∧ s.Faulted t w false ∧
      (if w.ini = 3 then t.chip.ring.aer.uncorr = s.chip.ring.aer.uncorr ||| 0x100000 else t.chip.ring = s.chip.ring) ∧
      s.Only t [] fun c => { c with resp := t.chip.resp, freeCtr := t.chip.freeCtr, ring := { c.ring with aer := t.chip.ring.aer },
                                    apc := { c.apc with harts := t.chip.apc.harts } }) ∧
  (∀ (s : State) (a : BitVec 48) (n : BitVec 8) (d : List Byte) (w : Who) (e : Ecc),
    s.busReaches w .seal = true → s.chip.powered 12 = true → n ≠ 0 → 0x800000000000 ≤ a.toNat →
    a.toNat + n.toNat ≤ 0x1000000000000 → s.chip.hostUp = false →
    Runs (.busAccess false a n d w e) s fun t => t = { s with chip := { s.chip with resp := .busError } }) ∧
  (∀ (s : State) (fabric : Bool) (a : BitVec 48) (w : Who),
    Runs (.busTimeout fabric a w) s fun t =>
      t.chip.resp = (if w.ini = 3 then .completerAbort else .busError) ∧ s.Faulted t w false ∧
      (if w.ini = 3 then t.chip.ring.aer.uncorr = s.chip.ring.aer.uncorr ||| 0x8000 else t.chip.ring = s.chip.ring) ∧
      (s.chip.emberRoom 0xB11 false = true →
        s.Posted t 0xB11 (leBytes 1 (b2n fabric) ++ leBytes 1 w.num ++ leBytes 6 a.toNat)) ∧
      s.Only t recordRegs fun c => { c with
        regs := t.chip.regs, ember := t.chip.ember, resp := t.chip.resp, lma := t.chip.lma, freeCtr := t.chip.freeCtr
        ring := { c.ring with aer := t.chip.ring.aer }, apc := { c.apc with harts := t.chip.apc.harts } }) ∧
  (∀ (s : State),
    s.chip.reaches Reg.CRP_NRG_CTRL = true →
    Runs .energySnapshot s fun t =>
      if s.chip.crp.snapping then t = s
      else
        t.chip.crp.snapping = true ∧ t.chip.bit Reg.CRP_NRG_CTRL 0 = true ∧
        (∀ n : Fin 12, t.chip.rd64 (Reg.CRP_NRG_CNT n) (Reg.CRP_NRG_CNT_HI n) = t.chip.crp.energy.getD n 0) ∧
        (s.chip.crp.energy.getD 12 0 < 2 ^ 64 →
          t.chip.rd64 Reg.CRP_NRG_RDG Reg.CRP_NRG_RDG_HI = s.chip.crp.energy.getD 12 0) ∧
        s.Only t shadowRegs fun c => { c with regs := t.chip.regs, freeCtr := t.chip.freeCtr, crp := { c.crp with
          energy := t.chip.crp.energy, snapping := true } }) ∧
  (∀ (s : State), s.chip.crp.snapping = true →
    Runs .energySnapshotDone s fun t =>
      t.chip.bit Reg.CRP_NRG_CTRL 0 = false ∧
      s.Only t [Reg.CRP_NRG_CTRL] fun c => { c with regs := t.chip.regs, crp := { c.crp with snapping := false } })

/-- R27. A transaction that the access plan refuses has no effect: a refused read returns zero, a refused write is dropped, the
Guard counts the violation and writes an Ember record, and no bus error is raised. -/
def Obligations.RefusedTransactionsHaveNoEffect : Prop :=
  (∀ (s : State) (wr : Bool) (a : BitVec 48) (n : BitVec 8) (d : List Byte) (w : Who) (e : Ecc),
    ∀ l, s.busReaches w l = true →
    s.chip.busAllows { w with level := l } wr a.toNat (if wr then d.length else n.toNat) = false →
    Runs (.busAccess wr a n d w e) s fun t =>
      t.chip.resp = (if wr then .written else .data (List.replicate n.toNat 0)) ∧
      t.chip.rd Reg.GRD_AP_VIOL = satInc (s.chip.rd Reg.GRD_AP_VIOL) ∧ t.chip.bit Reg.GRD_STATUS 6 = true ∧
      (s.chip.emberRoom 0xA05 false = true →
        s.Posted t 0xA05 (leBytes 1 w.num ++ leBytes 1 l.code ++ leBytes 1 (b2n wr) ++ leBytes 6 a.toNat)) ∧
      s.Only t transferRegs fun c => { c with regs := t.chip.regs, ember := t.chip.ember, resp := t.chip.resp })

/-! ### 02_line_modem_array.md -/

/-- R37, R39, R45–R51, R53–R57. A crossing is kept less LMA_ZC_COMP and moves the mean period of the selected reference, a lost
reference comes back at the second crossing in succession, and a loss sets ZC_LOST and forgets the reference; a preamble that
may capture goes to the lowest-numbered enabled idle lane of its input and band, setting the gain of an input on which no frame
is in progress, or is counted as missed; a good header of the lane's own network starts the payload; a payload is decoded and
counted by what the decode gives, and handed on, or held where the queue has no place for it; a configuration takes effect on
an idle lane and waits on a busy one; while the LMA is gated nothing of this happens. How the slots' values are combined and the
inner code decoded is the model's choice (log entry 91), and so is that a lane with a configuration waiting is passed over, that
a preamble which capture refuses is counted nowhere, and what LMA_ZC_PERIOD shows of a few periods (log entry 92). -/
def Obligations.LanesReceiveFrames : Prop :=
  (∀ (s : State) (ref : Fin 3) (τ : BitVec 64), s.chip.lmaUp = true →
    Runs (.zcCrossing ref τ) s fun t =>
      (t.chip.zcRef ref).last = some (τ - BitVec.ofNat 64 (s.chip.fl (Reg.LMA_ZC_COMP ref) 15 0)) ∧
      (t.chip.zcRef ref).lost = ((s.chip.zcRef ref).lost && decide ((s.chip.zcRef ref).regained = 0)) ∧
      (s.chip.phRef = ref → (t.chip.zcRef ref).periods ≠ [] →
        t.chip.rd Reg.LMA_ZC_PERIOD = meanOf (t.chip.zcRef ref).periods / 10 % 2 ^ 24) ∧
      (((s.chip.zcRef ref).lost = true ∧ (t.chip.zcRef ref).lost = false) → t.chip.bit Reg.LMA_STATUS ref = false) ∧
      s.Only t [Reg.LMA_STATUS, Reg.LMA_ZC_PERIOD] fun c => { c with regs := t.chip.regs, lma := t.chip.lma }) ∧
  (∀ (s : State) (ref : Fin 3), s.chip.lmaUp = true →
    Runs (.zcLost ref) s fun t =>
      t.chip.zcRef ref = ⟨none, true, 0, []⟩ ∧ t.chip.bit Reg.LMA_STATUS ref = true ∧
      s.Only t [Reg.LMA_STATUS, Reg.PIC_PEND 4] fun c => { c with regs := t.chip.regs, lma := t.chip.lma }) ∧
  (∀ (s : State) (input band : Fin 4) (power : BitVec 16) (gain : Fin 8) (ts : BitVec 64),
    (s.chip.lmaUp && s.chip.bit Reg.LMA_CTRL 0 && s.chip.bit (Reg.LMA_IN_CFG input) 0 &&
      !s.chip.blanked input band) = true →
    Runs (.preambleDetected input band power gain ts) s fun t =>
      (if (s.chip.powerOn input band).all (fun p => decide (p + 4 * (s.chip.fl Reg.LMA_DET_CFG 15 8 : Nat) ≤ power.toInt)) then
        (s.chip.bit (Reg.LMA_IN_CFG input) 1 = true → s.chip.inputBusy input = false → t.chip.inputGain input = gain) ∧
        (∀ n, s.chip.freeLane input band = some n →
          (t.chip.lane n).phase = .header ∧ (t.chip.lane n).power = power ∧ (t.chip.lane n).ts = ts) ∧
        (s.chip.freeLane input band = none →
          t.chip.rd (Reg.LMA_DET_MISS (input * 4 + band)) = satInc (s.chip.rd (Reg.LMA_DET_MISS (input * 4 + band))))
      else t = s) ∧
      s.Only t (Reg.LMA_DET_MISS (input * 4 + band) :: ((s.chip.freeLane input band).map Reg.LMA_LANE_STAT).toList)
        fun c => { c with regs := t.chip.regs, lma := t.chip.lma }) ∧
  (∀ (s : State) (n : Fin 24) (robust : Bool) (soft : List Int) (snr : BitVec 8),
    s.chip.lmaUp = true → (s.chip.lane n).phase = .header →
    Runs (.headerDecoded n robust soft snr) s fun t =>
      (let cfg := (s.chip.lane n).cfg.toNat
       let b := rxHeader (cfgBand cfg) robust soft
       let h := tlHeader b
       if headerFails (cfgBand cfg) robust b then
         (t.chip.lane n).phase = .idle ∧ t.chip.rd (Reg.LMA_LANE_HCSF n) = satInc (s.chip.rd (Reg.LMA_LANE_HCSF n))
       else if (h.snid ^^^ fld cfg 23 16) &&& fld cfg 15 8 = 0 then
         (t.chip.lane n).phase = .payload ∧ (t.chip.lane n).hdr = h ∧
         (t.chip.lane n).margin = marginOf snr (modeIndex h.mod h.rep)
       else (t.chip.lane n).phase = .idle ∧ t.chip.rd (Reg.LMA_LANE_ABAN n) = satInc (s.chip.rd (Reg.LMA_LANE_ABAN n))) ∧
      s.Only t [Reg.LMA_LANE_HCSF n, Reg.LMA_LANE_ABAN n, Reg.LMA_LANE_SNR n, Reg.LMA_LANE_STAT n]
        fun c => { c with regs := t.chip.regs, lma := t.chip.lma, freeCtr := t.chip.freeCtr }) ∧
  (∀ (s : State) (n : Fin 24) (soft : List Int) (rise : BitVec 16) (gsnr : List Byte),
    s.chip.lmaUp = true → (s.chip.lane n).phase = .payload →
    Runs (.frameDecoded n soft rise gsnr) s fun t =>
      (let ok := ((s.chip.lane n).decoded soft).isSome
       let r := if ok then Reg.LMA_LANE_OK n else Reg.LMA_LANE_RSF n
       t.chip.rd r = satInc (s.chip.rd r) ∧
       ((t.chip.lane n).phase = .idle ∨ ((t.chip.lane n).phase = .held ∧
         (t.chip.lane n).frame.any (fun f => decide (f.payload = (s.chip.lane n).payload soft ∧ f.rawFail = !ok)) = true)) ∧
       (ok = false → bitOf (s.chip.lane n).cfg.toNat 1 = false → (t.chip.lane n).phase = .idle ∧ t.chip.mem = s.chip.mem) ∧
       (s.chip.lma.direct = false → (s.chip.portGated 5 || s.chip.allocRoom 0) = true → ∀ slot, s.chip.poolFind .lma 1 = some slot →
         (t.chip.lane n).phase = .idle) ∧
       ((ok || bitOf (s.chip.lane n).cfg.toNat 1) = true → s.chip.lma.direct = false → s.chip.poolFind .lma 1 = none →
         (t.chip.lane n).phase = .held)) ∧
      (∀ a, a < 0x60000000 ∨ 0x60200000 ≤ a → t.chip.rdb a = s.chip.rdb a) ∧
      t.lc = s.lc ∧ t.leg = s.leg ∧ t.chip.nand = s.chip.nand) ∧
  (∀ (s : State) (n : Fin 24), s.chip.lmaUp = true → (s.chip.lane n).phase = .held →
    ∀ f, (s.chip.lane n).frame = some f → s.chip.lma.direct = false → ∀ slot, s.chip.poolFind .lma 1 = some slot →
    (s.chip.portGated 5 || s.chip.allocRoom 0) = true →
    s.chip.judge 8 false true (slotAddr slot) (f.record.length + f.payload.length) = .ok →
    Runs (.heldFramePacked n) s fun t =>
      (t.chip.lane n).phase = .idle ∧
      t.chip.rdMem (slotAddr slot) (f.record.length + f.payload.length) = f.record ++ f.payload ∧
      (∀ a, a < slotAddr slot ∨ slotAddr slot + (f.record.length + f.payload.length) ≤ a → t.chip.rdb a = s.chip.rdb a) ∧
      s.Only t (Reg.LMA_LANE_STAT n :: transferRegs)
        fun c => { c.met t.chip with regs := t.chip.regs, lma := t.chip.lma, mem := t.chip.mem, pools := t.chip.pools }) ∧
  (∀ (s : State) (n : Fin 24), s.chip.lmaUp = true → (s.chip.lane n).phase = .held →
    Runs (.frameHoldDiscard n) s fun t =>
      (t.chip.lane n).phase = .idle ∧ t.chip.rd Reg.LMA_PQ_DROP = satInc (s.chip.rd Reg.LMA_PQ_DROP) ∧
      s.Only t [Reg.LMA_PQ_DROP, Reg.LMA_LANE_STAT n] fun c => { c with regs := t.chip.regs, lma := t.chip.lma }) ∧
  (∀ (s : State) (n : Fin 24) (v : Word), s.chip.reaches (Reg.LMA_LANE_CFG n) = true →
    Runs (.laneCfgWrite n v) s fun t =>
      t.chip.rdW (Reg.LMA_LANE_CFG n) = v &&& 0x8FFFFF06#32 ∧
      (if (s.chip.lane n).phase = .idle then
         (t.chip.lane n).cfg = v &&& 0x8FFFFF06#32 ∧ (t.chip.lane n).pending = false
       else (t.chip.lane n).cfg = (s.chip.lane n).cfg ∧ (t.chip.lane n).pending = true) ∧
      s.Only t [Reg.LMA_LANE_CFG n, Reg.LMA_LANE_STAT n] fun c => { c with regs := t.chip.regs, lma := t.chip.lma }) ∧
  (∀ (s : State) (n : Fin 24), s.chip.lmaUp = true → (s.chip.lane n).phase = .idle →
    Runs (.laneCfgApply n) s fun t =>
      (t.chip.lane n).cfg = s.chip.rdW (Reg.LMA_LANE_CFG n) ∧ (t.chip.lane n).pending = false ∧
      s.Only t [Reg.LMA_LANE_STAT n] fun c => { c with regs := t.chip.regs, lma := t.chip.lma }) ∧
  (∀ (s : State) (n : Fin 24) (ref : Fin 3) (τ : BitVec 64), s.chip.lmaUp = false →
    Runs (.zcCrossing ref τ) s (· = s) ∧ Runs (.zcLost ref) s (· = s) ∧ Runs (.heldFramePacked n) s (· = s) ∧
    Runs (.frameHoldDiscard n) s (· = s) ∧ Runs (.laneCfgApply n) s (· = s))

/-- R65, R66, R490. A stored frame's operand is posted to the Flow Scheduler; PB_FREE returns a run to its pool or
sets FREE_ERR; in direct mode a read returns the next word, stalls on an empty queue and is completed when a word
comes; a flush counts every frame; a change of mode takes effect. That a frame of which a part has been read counts as one, and
that the frames in the queue stay through a change of mode, is the model's choice (log entry 92). -/
def Obligations.PackingQueueServes : Prop :=
  (∀ (s : State) (a : AllocOp) (rest : List AllocOp), s.chip.lma.storing = a :: rest →
    s.chip.lmaClocked = true → s.chip.portGated 5 = false → s.chip.allocRoom 0 = true → s.chip.pairState ≠ 2 →
    Runs .frameStored s fun t =>
      t.chip.lma.storing = rest ∧ t.chip.allocQueue a.src.toNat = s.chip.allocQueue a.src.toNat ++ [a] ∧
      s.Only t [] fun c => { c with lma := t.chip.lma, flo := t.chip.flo }) ∧
  (∀ (s : State) (p : Pool) (v : Word), s.chip.reaches p.freeReg = true →
    Runs (.packetBufferFree p v) s fun t =>
      (if s.chip.isRun p (v.toNat % 2048) then
        (t.chip.pool p).runs = (s.chip.pool p).runs.filter (fun r => r.1 != v.toNat % 2048) ∧
        s.Only t [] fun c => { c with pools := t.chip.pools }
      else
        (p = .lma → t.chip.bit Reg.LMA_STATUS 9 = true) ∧
        (p = .air0 → t.chip.bit (Reg.AIR_STATUS 0) 5 = true) ∧
        (p = .air1 → t.chip.bit (Reg.AIR_STATUS 1) 5 = true) ∧
        s.Only t [Reg.LMA_STATUS, Reg.AIR_STATUS 0, Reg.AIR_STATUS 1, Reg.PIC_PEND 4]
          fun c => { c with regs := t.chip.regs })) ∧
  (∀ (s : State), s.chip.reaches Reg.LMA_PQ_DATA = true → s.chip.lma.direct = true →
    Runs .pqDataRead s fun t =>
      (s.chip.lma.pq = [] → t.chip.resp = .stalled ∧ t.chip.lma.stalled = true) ∧
      (∀ w ws rest, s.chip.lma.pq = (w :: ws) :: rest →
        t.chip.resp = .data (leBytes 4 w.toNat) ∧ t.chip.lma.pq.flatten = ws ++ rest.flatten) ∧
      s.Only t [] fun c => { c with lma := t.chip.lma, resp := t.chip.resp }) ∧
  (∀ (s : State), s.chip.reaches Reg.LMA_PQ_DATA = true → s.chip.lma.direct = false →
    Runs .pqDataRead s fun t => t = { s with chip := { s.chip with resp := .data [0, 0, 0, 0] } }) ∧
  (∀ (s : State), s.chip.lmaUp = true → s.chip.lma.stalled = true → ∀ w ws rest, s.chip.lma.pq = (w :: ws) :: rest →
    Runs .pqDataStallEnd s fun t =>
      t.chip.resp = .data (leBytes 4 w.toNat) ∧ t.chip.lma.stalled = false ∧ t.chip.lma.pq.flatten = ws ++ rest.flatten ∧
      s.Only t [] fun c => { c with lma := t.chip.lma, resp := t.chip.resp }) ∧
  (∀ (s : State), s.chip.reaches Reg.LMA_PQ_CTRL = true → s.chip.lma.direct = true →
    Runs .pqFlush s fun t =>
      t.chip.lma.pq = [] ∧ t.chip.rd Reg.LMA_PQ_DROP = satAdd (s.chip.rd Reg.LMA_PQ_DROP) s.chip.lma.pq.length ∧
      s.Only t [Reg.LMA_PQ_DROP] fun c => { c with regs := t.chip.regs, lma := t.chip.lma }) ∧
  (∀ (s : State), s.chip.lmaUp = true →
    Runs .pqModeApply s fun t =>
      t = { s with chip := { s.chip with lma := { s.chip.lma with direct := s.chip.bit Reg.LMA_PQ_CTRL 0 } } })

/-- R40–R50, R60–R63, R71. A chain's configuration is refused the input of another; the request it reaches is judged and,
when good, held for its launch; at the launch ZCO is filled, the header and the symbols are formed and the detectors are
blanked, and a launch more than 50 µs late completes the request LATE; the end of the frame completes the request; HALT_TX
completes it with status 5; a crossing accepted before the first sample of REF is the one ZCO counts from; PH_LOAD restores or
clears a relation. That a launch is still made up to 50 µs after LAUNCH_AT, and what PH_LOAD leaves of a record, are the model's
choices (log entry 92). -/
def Obligations.ChainsTransmitRequests : Prop :=
  (∀ (s : State) (n : Fin 3) (v : Word), s.chip.reaches (Reg.LMA_TX_CFG n) = true →
    Runs (.txCfgWrite n v) s fun t =>
      (if bitOf v.toNat 31 && (List.range 3).any (fun m => m != n.val && s.chip.bit (Reg.LMA_TX_CFG m) 31 &&
          s.chip.fl (Reg.LMA_TX_CFG m) 30 29 == fld v.toNat 30 29)
       then t.chip.rdW (Reg.LMA_TX_CFG n) = v &&& 0x7C1FF000#32 ∧ t.chip.bit Reg.LMA_STATUS 8 = true
       else t.chip.rdW (Reg.LMA_TX_CFG n) = v &&& 0xFC1FF000#32) ∧
      (∀ k : Fin 12, t.chip.bit (Reg.LMA_CELL_STAT k) 17 =
        (s.chip.cellOn k && (t.chip.chainOf (s.chip.cellInput k)).isNone)) ∧
      s.Only t ([Reg.LMA_TX_CFG n, Reg.LMA_STATUS, Reg.PIC_PEND 4] ++ (List.range 12).map Reg.LMA_CELL_STAT)
        fun c => { c with regs := t.chip.regs }) ∧
  (∀ (s : State) (n : Fin 3), (s.chip.lmaUp && s.chip.working && (s.chip.chain n).tx.isNone) = true →
    s.chip.fl (Reg.LMA_TXQ_PI n) 5 0 ≠ s.chip.fl (Reg.LMA_TXQ_CI n) 5 0 →
    (s.chip.bit Reg.LMA_CTRL 0 && !s.chip.bit Reg.LMA_CTRL 1 && s.chip.bit (Reg.LMA_TX_CFG n) 31) = true →
    s.chip.judge 8 false false (s.chip.txqAddr n) 32 = .ok →
    ∀ r, r = s.chip.rdMem (s.chip.txqAddr n) 32 → requestInvalid r = false →
    (leAt r 0 8 = 0 ∨ s.chip.time.toNat ≤ leAt r 0 8 + 50000) →
    s.chip.beaconHolds (s.chip.fl (Reg.LMA_TX_CFG n) 30 29) (if leAt r 0 8 = 0 then s.chip.time.toNat else leAt r 0 8)
      (airtime (fld (leAt r 18 1) 5 4) (fld (leAt r 18 1) 1 0) (fld (leAt r 18 1) 3 2) (leAt r 20 2) (leAt r 16 2 % 1024)) = false →
    Runs (.txRequestFetch n) s fun t =>
      (∃ x, (t.chip.chain n).tx = some x ∧ x.kind = .request ∧ x.sentAt = none ∧
        x.gmask = leAt r 20 2 ∧ x.launchAt.toNat = leAt r 0 8) ∧ t.chip.mem = s.chip.mem ∧
      s.Only t transferRegs fun c => { c.met t.chip with regs := t.chip.regs, lma := t.chip.lma }) ∧
  (∀ (s : State) (n : Fin 3) (τ : BitVec 64), (s.chip.lineTxOn && s.chip.bit (Reg.LMA_TX_CFG n) 31) = true →
    ∀ x, (s.chip.chain n).tx = some x → x.sentAt = none →
    s.chip.beaconHolds (s.chip.fl (Reg.LMA_TX_CFG n) 30 29) τ.toNat
      (airtime x.band (x.mode % 4) (x.mode / 4) x.gmask x.payload.length) = false →
    (x.launchAt = 0 ∨ (x.launchAt.toNat ≤ τ.toNat + 100 ∧ τ.toNat ≤ x.launchAt.toNat + 50000)) →
    Runs (.txLaunch n τ) s fun t =>
      (let zco := s.chip.zcOffset (refOf (s.chip.fl (Reg.LMA_TX_CFG n) 28 27)) (τ + 640000)
       ∃ y, (t.chip.chain n).tx = some y ∧ y.sentAt = some τ ∧ y.payload = x.payload ∧ y.zco = zco ∧
        y.header = BitVec.ofNat 80 (x.head zco).bits ∧ y.wave = frameWave x.band (x.head zco) x.payload) ∧
      (∀ b : Fin 4, t.chip.blanked (s.chip.fl (Reg.LMA_TX_CFG n) 30 29) (if s.chip.bit (Reg.LMA_TX_CFG n) 26 then x.band else b) = true) ∧
      s.OnlyIn t (fun r => (List.range 24).any fun m => r == Reg.LMA_LANE_STAT m || r == Reg.LMA_LANE_ABAN m)
        fun c => { c with regs := t.chip.regs, lma := t.chip.lma, freeCtr := t.chip.freeCtr }) ∧
  (∀ (s : State) (n : Fin 3), s.chip.lmaUp = true →
    Runs (.blankingEnd n) s fun t =>
      (let kept := if (s.chip.chain n).tx.any fun x => x.sentAt.isSome then 1 else 0
       t.chip.chain n = { s.chip.chain n with
        blank := if (s.chip.chain n).blank.length ≤ kept then (s.chip.chain n).blank else (s.chip.chain n).blank.drop 1 }) ∧
      (∀ m : Fin 3, m ≠ n → t.chip.chain m = s.chip.chain m) ∧
      s.Only t [] fun c => { c with lma := t.chip.lma }) ∧
  (∀ (s : State) (ref n : Fin 3) (τ : BitVec 64), s.chip.lmaUp = true → s.chip.chainRef n = ref →
    ∀ x, (s.chip.chain n).tx = some x → ∀ t₀, x.sentAt = some t₀ →
    ∀ z, z = τ - BitVec.ofNat 64 (s.chip.fl (Reg.LMA_ZC_COMP ref) 15 0) → t₀.toNat ≤ z.toNat → z.toNat ≤ t₀.toNat + 640000 →
    Runs (.zcCrossing ref τ) s fun t =>
      ∃ y, (t.chip.chain n).tx = some y ∧ y.sentAt = some t₀ ∧ y.payload = x.payload ∧
        y.zco = t.chip.zcOffset ref (t₀ + 640000) ∧ y.header = BitVec.ofNat 80 (x.head y.zco).bits ∧
        y.wave = frameWave x.band (x.head y.zco) x.payload) ∧
  (∀ (s : State) (n : Fin 3), s.chip.lmaUp = true → ∀ x, (s.chip.chain n).tx = some x → ∀ τ, x.sentAt = some τ →
    Runs (.txFrameEnd n) s fun t =>
      (t.chip.chain n).tx = none ∧ (t.chip.chain n).last = some x ∧
      (x.kind = .request →
        t.chip.rd (Reg.LMA_TXQ_CI n) = (s.chip.fl (Reg.LMA_TXQ_CI n) 5 0 + 1) % 64 ∧
        (s.chip.judge 8 false true (s.chip.txqAddr n + 24) 8 = .ok →
          t.chip.rdMem (s.chip.txqAddr n + 24) 8 = leBytes 4 1 ++ leBytes 4 τ.toNat)) ∧
      (∀ a, a < s.chip.txqAddr n + 24 ∨ s.chip.txqAddr n + 32 ≤ a → t.chip.rdb a = s.chip.rdb a) ∧
      s.Only t (Reg.LMA_TXQ_CI n :: transferRegs)
        fun c => { c.met t.chip with regs := t.chip.regs, lma := t.chip.lma, mem := t.chip.mem }) ∧
  (∀ (s : State) (v : Word), s.chip.reaches Reg.LMA_CTRL = true →
    Runs (.haltTx v) s fun t =>
      t.chip.rd Reg.LMA_CTRL = v.toNat % 4 ∧ s.Only t [Reg.LMA_CTRL] fun c => { c with regs := t.chip.regs }) ∧
  (∀ (s : State) (n : Fin 3), s.chip.lmaUp = true → s.chip.bit Reg.LMA_CTRL 1 = true →
    ∀ x, (s.chip.chain n).tx = some x → ∀ τ, x.sentAt = some τ →
    Runs (.txHalted n) s fun t =>
      (t.chip.chain n).tx = none ∧
      (x.kind = .request → s.chip.judge 8 false true (s.chip.txqAddr n + 24) 8 = .ok →
        t.chip.rdMem (s.chip.txqAddr n + 24) 8 = leBytes 4 5 ++ leBytes 4 τ.toNat) ∧
      (∀ a, a < s.chip.txqAddr n + 24 ∨ s.chip.txqAddr n + 32 ≤ a → t.chip.rdb a = s.chip.rdb a) ∧
      s.Only t (Reg.LMA_TXQ_CI n :: transferRegs)
        fun c => { c.met t.chip with regs := t.chip.regs, lma := t.chip.lma, mem := t.chip.mem }) ∧
  (∀ (s : State) (v : Word), s.chip.reaches Reg.LMA_PH_LOAD = true →
    Runs (.phLoad v) s fun t =>
      (let d := v.toNat % 2 ^ 15
       let r := fld v.toNat 18 16
       (r = 7 → t.chip.phaseRec d = PhaseRec.initial) ∧
       (r < 6 → t.chip.phaseRec d = { s.chip.phaseRec d with committed := r, window := [] }) ∧
       (r = 6 → t.chip.phaseRec d = s.chip.phaseRec d) ∧
       (∀ d', d' ≠ d → t.chip.phaseRec d' = s.chip.phaseRec d')) ∧
      t.chip.lma.notices = s.chip.lma.notices ∧ s.Only t [] fun c => { c with lma := t.chip.lma }) ∧
  (∀ (s : State) (n : Fin 3) (τ : BitVec 64), (s.chip.lineTxOn && s.chip.bit (Reg.LMA_TX_CFG n) 31) = true →
    ∀ x, (s.chip.chain n).tx = some x → x.sentAt = none → x.launchAt ≠ 0 → x.launchAt.toNat + 50000 < τ.toNat →
    Runs (.txLaunch n τ) s fun t =>
      (t.chip.chain n).tx = none ∧ t.chip.rd (Reg.LMA_TXQ_CI n) = (s.chip.fl (Reg.LMA_TXQ_CI n) 5 0 + 1) % 64 ∧
      (s.chip.judge 8 false true (s.chip.txqAddr n + 24) 8 = .ok →
        t.chip.rdMem (s.chip.txqAddr n + 24) 8 = leBytes 4 2 ++ leBytes 4 0) ∧
      (∀ a, a < s.chip.txqAddr n + 24 ∨ s.chip.txqAddr n + 32 ≤ a → t.chip.rdb a = s.chip.rdb a) ∧
      s.Only t (Reg.LMA_TXQ_CI n :: transferRegs)
        fun c => { c.met t.chip with regs := t.chip.regs, lma := t.chip.lma, mem := t.chip.mem })

/-! ### 03_line_network.md -/

/-- R73, R74, R78, R79, R80, R89, R100, R102. A second cell on an input and band stays disabled with CFG_ERR; at its time a cell's
beacon starts on the chain of its input with the BSN computed, or is counted as skipped; an acknowledgement due is sent on
the chain of its cell where that can start it, and else counted as skipped; one that AUTOACK, the role or an unreachable
destination no longer lets go is dropped, and counted nowhere (the model's choice, log entry 93). That a change of a cell which
neither sends nor expects beacons is in force at once is an inference (log entry 89). -/
def Obligations.CellsSendBeaconsAndAcks : Prop :=
  (∀ (s : State) (k : Fin 12) (v : Word), s.chip.reaches (Reg.LMA_CELL_CFG k) = true →
    Runs (.cellCfgWrite k v) s fun t =>
      (if bitOf v.toNat 31 && (List.range 12).any (fun j => j != k.val && s.chip.cellOn j &&
          s.chip.cellInput j == cfgInput v.toNat && s.chip.cellBand j == cfgBand v.toNat)
       then t.chip.cellOn k = false ∧ t.chip.bit Reg.LMA_STATUS 8 = true
       else t.chip.rdW (Reg.LMA_CELL_CFG k) = v &&& 0x8FFF7C00#32) ∧
      (s.chip.fl Reg.LMA_NET_CTRL 1 0 = 0 → t.chip.cellCfg k = t.chip.rd (Reg.LMA_CELL_CFG k)) ∧
      (∀ j : Fin 12, t.chip.bit (Reg.LMA_CELL_STAT j) 17 =
        (t.chip.cellOn j && (s.chip.chainOf (t.chip.cellInput j)).isNone)) ∧
      s.Only t ([Reg.LMA_CELL_CFG k, Reg.LMA_STATUS, Reg.PIC_PEND 4] ++ (List.range 12).map Reg.LMA_CELL_STAT) fun c => { c with
        regs := t.chip.regs, lma := { c.lma with cells := t.chip.lma.cells } }) ∧
  (∀ (s : State) (k : Fin 12) (τ : BitVec 64), (s.chip.lineTxOn && s.chip.cellOn k) = true →
    s.chip.fl Reg.LMA_NET_CTRL 1 0 = 1 → s.chip.beaconDue k τ.toNat = true → s.chip.time.toNat ≤ τ.toNat →
    Runs (.beaconLaunch k τ) s fun t =>
      t.chip.fl (Reg.LMA_CELL_STAT k) 15 0 = s.chip.bsnAt k τ.toNat % 2 ^ 16 ∧
      t.chip.bit (Reg.LMA_CELL_STAT k) 16 = decide (s.chip.setExp k < s.chip.minExp k) ∧
      (s.chip.chainOf (s.chip.cellInput k) = none → t.chip.bit (Reg.LMA_CELL_STAT k) 17 = true ∧
        t.chip.rd (Reg.LMA_CELL_SKIP k) = satInc (s.chip.rd (Reg.LMA_CELL_SKIP k))) ∧
      (∀ n, s.chip.chainOf (s.chip.cellInput k) = some n →
        if (s.chip.chain n).tx.any fun x => x.sentAt.isSome then
          t.chip.rd (Reg.LMA_CELL_SKIP k) = satInc (s.chip.rd (Reg.LMA_CELL_SKIP k))
        else (t.chip.chain n).tx.any (fun x => decide (x.kind = .beacon k ∧ x.sentAt = some τ)) = true) ∧
      s.OnlyIn t (fun r => r == Reg.LMA_CELL_STAT k || r == Reg.LMA_CELL_SKIP k ||
          (List.range 24).any fun m => r == Reg.LMA_LANE_STAT m || r == Reg.LMA_LANE_ABAN m)
        fun c => { c with regs := t.chip.regs, lma := t.chip.lma, freeCtr := t.chip.freeCtr }) ∧
  (∀ (s : State) (k : Fin 12) (τ : BitVec 64), τ.toNat < s.chip.time.toNat → Runs (.beaconLaunch k τ) s (· = s)) ∧
  (∀ (s : State) (τ : BitVec 64), s.chip.lmaUp = true → ∀ a rest, s.chip.lma.acks = a :: rest → s.chip.ackWanted a.dest = true →
    Runs (.autoack τ) s fun t =>
      t.chip.lma.acks = rest ∧
      (match s.chip.chainOf (cfgInput (s.chip.cellCfg a.cell)) with
        | none => t.chip.rd Reg.LMA_NET_ACKSKIP = satInc (s.chip.rd Reg.LMA_NET_ACKSKIP)
        | some n =>
          if s.chip.chainFree n (cfgInput (s.chip.cellCfg a.cell)) τ.toNat (s.chip.ackFrame a τ) then
            (t.chip.chain n).tx.any (fun x => decide (x.kind = .ack ∧ x.sentAt = some τ ∧ x.payload = a.payload ∧
              x.snid = fld (s.chip.cellCfg a.cell) 23 16 ∧ x.gmask = (s.chip.ackFrame a τ).gmask ∧
              x.mode = (s.chip.ackFrame a τ).mode)) = true
          else t.chip.rd Reg.LMA_NET_ACKSKIP = satInc (s.chip.rd Reg.LMA_NET_ACKSKIP)) ∧
      s.OnlyIn t (fun r => r == Reg.LMA_NET_ACKSKIP ||
          (List.range 24).any fun m => r == Reg.LMA_LANE_STAT m || r == Reg.LMA_LANE_ABAN m)
        fun c => { c with regs := t.chip.regs, lma := t.chip.lma, freeCtr := t.chip.freeCtr }) ∧
  (∀ (s : State) (τ : BitVec 64), s.chip.lmaUp = true → ∀ a rest, s.chip.lma.acks = a :: rest → s.chip.ackWanted a.dest = false →
    Runs (.autoack τ) s fun t => t = { s with chip := { s.chip with lma := { s.chip.lma with acks := rest } } })

/-- R80, R94, R95, R99–R103. A loss raises LOSS, clears SUCC and, where LOSS changes, starts a sweep; a window closes; NOISE is
cleared in every entry; a write of an entry is refused where it would make the parent the entry itself or some HOPS exceed 15,
and else starts a sweep when a route field changes; the sweep ends and judges the waiting offers in order, until one starts a
sweep again; an offer is judged with the link written before it; a standby counts the beacons it does not hear, and shows where
the minimum interval stands in. What makes a write exceed the limit, and that of several offers each waits in its turn, is the
model's reading (log entry 93). -/
def Obligations.RoutingTableFollowsTheRules : Prop :=
  (∀ (s : State) (v : Word), s.chip.reaches Reg.LMA_RT_LOSS = true → (s.chip.rtValid (v.toNat % 2 ^ 15) && s.chip.rtDirect (v.toNat % 2 ^ 15)) = true →
    Runs (.rtLoss v) s fun t =>
      (let d := v.toNat % 2 ^ 15
       t.chip.rt d 2 21 19 = min 7 (s.chip.rt d 2 21 19 + 1) ∧ t.chip.rt d 2 26 24 = 0 ∧
       (s.chip.rt d 2 21 19 = 3 → t.chip.rt d 1 28 28 = 0) ∧
       t.chip.bit Reg.LMA_NET_STATUS 0 = (s.chip.bit Reg.LMA_NET_STATUS 0 || s.chip.rt d 2 21 19 != 7)) ∧
      s.Only t [Reg.RT_WORD (v.toNat % 2 ^ 15) 1, Reg.RT_WORD (v.toNat % 2 ^ 15) 2, Reg.LMA_NET_STATUS]
        fun c => { c with regs := t.chip.regs }) ∧
  (∀ (s : State) (k : Fin 12), s.chip.lmaUp = true →
    Runs (.expectationClose k) s fun t =>
      t.chip.lineCell k = { s.chip.lineCell k with expect := none } ∧
      s.Only t [] fun c => { c with lma := t.chip.lma }) ∧
  (∀ (s : State), s.chip.lmaUp = true →
    Runs .noiseClear s fun t =>
      (∀ d : BitVec 15, t.chip.rt d.toNat 2 23 22 = 0 ∧ t.chip.rt d.toNat 2 21 0 = s.chip.rt d.toNat 2 21 0 ∧
        t.chip.rt d.toNat 2 26 24 = s.chip.rt d.toNat 2 26 24) ∧
      s.OnlyIn t (fun r => decide (0x280000 ≤ r) && decide (r < 0x300000) && r % 16 == 8)
        fun c => { c with regs := t.chip.regs }) ∧
  (∀ (s : State) (d : BitVec 15) (v : Word), s.chip.reaches (Reg.RT_WORD d.toNat 0) = true →
    Runs (.rtEntryWrite d 0 v) s fun t =>
      (if s.chip.rtRefused d.toNat v.toNat = true
       then t.chip.bit Reg.LMA_NET_STATUS 2 = true ∧ t.chip.rdW (Reg.RT_WORD d.toNat 0) = s.chip.rdW (Reg.RT_WORD d.toNat 0)
       else t.chip.rt d.toNat 0 15 0 = fld v.toNat 15 0 ∧ t.chip.rt d.toNat 0 31 31 = fld v.toNat 31 31 ∧
         t.chip.rt d.toNat 0 30 16 = s.chip.rt d.toNat 0 30 16 ∧
         (t.chip.rdW (Reg.RT_WORD d.toNat 0) ≠ s.chip.rdW (Reg.RT_WORD d.toNat 0) → t.chip.bit Reg.LMA_NET_STATUS 0 = true)) ∧
      s.Only t [Reg.RT_WORD d.toNat 0, Reg.LMA_NET_STATUS, Reg.PIC_PEND 4] fun c => { c with regs := t.chip.regs }) ∧
  (∀ (s : State) (d : BitVec 15) (w : Fin 4) (v : Word), w ≠ 0 → s.chip.reaches (Reg.RT_WORD d.toNat w) = true →
    Runs (.rtEntryWrite d w v) s fun t =>
      t.chip.rt d.toNat w 7 0 = fld v.toNat 7 0 ∧
      (w = 2 → t.chip.rt d.toNat 2 21 19 = fld v.toNat 21 19) ∧
      s.Only t [Reg.RT_WORD d.toNat w, Reg.LMA_NET_STATUS] fun c => { c with regs := t.chip.regs }) ∧
  (∀ (s : State), s.chip.lmaUp = true → s.chip.bit Reg.LMA_NET_STATUS 0 = true →
    Runs .routeSweep s fun t =>
      (∃ k, t.chip.lma.offers = s.chip.lma.offers.drop k ∧ (s.chip.lma.offers ≠ [] → 0 < k)) ∧
      (t.chip.lma.offers ≠ [] → t.chip.bit Reg.LMA_NET_STATUS 0 = true ∧ t.chip.bit Reg.LMA_RT_RESULT 31 = true) ∧
      (s.chip.lma.offers = [] → t.chip.bit Reg.LMA_NET_STATUS 0 = false) ∧
      s.OnlyIn t (fun r => r == Reg.LMA_NET_STATUS || r == Reg.LMA_RT_RESULT || (decide (0x280000 ≤ r) && decide (r < 0x300000)))
        fun c => { c with regs := t.chip.regs, lma := t.chip.lma }) ∧
  (∀ (s : State) (v : Word), s.chip.reaches Reg.LMA_RT_OFFER = true → s.chip.bit Reg.LMA_NET_STATUS 0 = false →
    Runs (.rtOffer v) s fun t =>
      (let d := v.toNat % 2 ^ 15
       let lk := s.chip.rd Reg.LMA_RT_OFFER_LINK
       t.chip.rd Reg.LMA_RT_RESULT = s.chip.offerResult v.toNat lk ∧
       (s.chip.offerResult v.toNat lk = 0 →
         t.chip.rt d 0 14 0 = fld v.toNat 30 16 ∧ t.chip.rt d 0 31 31 = fld v.toNat 31 31 ∧
         t.chip.rt d 1 7 0 = fld lk 7 0 ∧ t.chip.rt d 2 21 19 = fld lk 10 8 ∧
         t.chip.bit Reg.LMA_NET_STATUS 0 =
           (List.range 3).any fun w => t.chip.rdW (Reg.RT_WORD d w) != s.chip.rdW (Reg.RT_WORD d w)) ∧
       (s.chip.offerResult v.toNat lk ≠ 0 → s.Only t [Reg.LMA_RT_RESULT] fun c => { c with regs := t.chip.regs }) ∧
       s.Only t [Reg.LMA_RT_RESULT, Reg.LMA_NET_STATUS, Reg.RT_WORD d 0, Reg.RT_WORD d 1, Reg.RT_WORD d 2]
         fun c => { c with regs := t.chip.regs })) ∧
  (∀ (s : State) (v : Word), s.chip.reaches Reg.LMA_RT_OFFER = true → s.chip.bit Reg.LMA_NET_STATUS 0 = true →
    Runs (.rtOffer v) s fun t =>
      t.chip.lma.offers = s.chip.lma.offers ++ [(v, s.chip.rdW Reg.LMA_RT_OFFER_LINK)] ∧ t.chip.bit Reg.LMA_RT_RESULT 31 = true ∧
      s.Only t [Reg.LMA_RT_RESULT] fun c => { c with regs := t.chip.regs, lma := t.chip.lma }) ∧
  (∀ (s : State) (k : Fin 12) (τ : BitVec 64), (s.chip.lmaUp && s.chip.cellOn k) = true →
    s.chip.fl Reg.LMA_NET_CTRL 1 0 = 2 → s.chip.beaconDue k τ.toNat = true → s.chip.beaconSent k τ.toNat = true →
    Runs (.standbyBeaconWatch k τ) s fun t =>
      (t.chip.lineCell k).heard = none ∧
      t.chip.bit (Reg.LMA_CELL_STAT k) 16 = decide (s.chip.setExp k < s.chip.minExp k) ∧
      (if (s.chip.lineCell k).heard.any fun h => h.1 == s.chip.bsnAt k τ.toNat &&
          decide (τ.toNat + 590000 ≤ h.2.toNat) && decide (h.2.toNat ≤ τ.toNat + 690000)
       then t.chip.rd (Reg.LMA_CELL_MISS k) = 0
       else t.chip.rd (Reg.LMA_CELL_MISS k) = min 3 (s.chip.fl (Reg.LMA_CELL_MISS k) 1 0 + 1) ∧
         (t.chip.rd (Reg.LMA_CELL_MISS k) = 3 → t.chip.bit Reg.LMA_NET_STATUS 1 = true)) ∧
      t.lc = s.lc ∧ t.leg = s.leg ∧ t.chip.mem = s.chip.mem ∧ t.chip.nand = s.chip.nand)

/-! ### 04_air_units.md -/

/-- R107, R108, R111–R113, R117. Alignment, its loss and the clock measurement, each loss counted; a PHY selection that
the clock carries is taken, in a slot from the next one on (what R136 asks; log entry 94), another sets CFG_ERR; ENABLE
runs INIT, disabling runs SLEEP; a script runs and ends, and one in error abandons the slot; a hopping list that is
refused sets CFG_ERR, another waits for its slot. That vectors 6 and 7, a busy engine, and a list of a length that Table 5 does
not admit set CFG_ERR, and what becomes of the scripts of a slot that ends, is the model's reading (log entry 71). -/
def Obligations.AirUnitsAreConfigured : Prop :=
  (∀ (s : State) (u : Fin 2), (s.chip.airUp && s.chip.bit (Reg.AIR_IQ_CFG u) 0 && s.chip.iqPresent u) = true →
    Runs (.iqAlignment u) s fun t =>
      t.chip.airUnit u = { s.chip.airUnit u with aligned := true } ∧ s.Only t [] fun c => { c with air := t.chip.air }) ∧
  (∀ (s : State) (u : Fin 2), (s.chip.airUnit u).aligned = true →
    Runs (.iqAlignmentLoss u) s fun t =>
      t.chip.airUnit u = { s.chip.airUnit u with aligned := false } ∧
      t.chip.rd (Reg.AIR_IQ_SYNCERR u) = satInc (s.chip.rd (Reg.AIR_IQ_SYNCERR u)) ∧
      s.Only t [Reg.AIR_IQ_SYNCERR u] fun c => { c with regs := t.chip.regs, air := t.chip.air }) ∧
  (∀ (s : State) (u : Fin 2) (khz : BitVec 16), s.chip.airUp = true →
    Runs (.iqFreqMeasure u khz) s fun t =>
      t.chip.rd (Reg.AIR_IQ_FREQ u) = khz.toNat ∧
      t.chip.airUnit u = { s.chip.airUnit u with aligned := (s.chip.airUnit u).aligned && decide (khz ≠ 0) } ∧
      t.chip.rd (Reg.AIR_IQ_SYNCERR u) = (if (s.chip.airUnit u).aligned ∧ khz = 0
        then satInc (s.chip.rd (Reg.AIR_IQ_SYNCERR u)) else s.chip.rd (Reg.AIR_IQ_SYNCERR u)) ∧
      s.Only t [Reg.AIR_IQ_FREQ u, Reg.AIR_IQ_SYNCERR u] fun c => { c with regs := t.chip.regs, air := t.chip.air }) ∧
  (∀ (s : State) (u : Fin 2) (alt : Bool) (v : Word), ∀ r, r = (if alt then Reg.AIR_PHY_ALT u else Reg.AIR_PHY_CFG u) →
    s.chip.reaches r = true →
    Runs (.phyCfgWrite u alt v) s fun t =>
      (if s.chip.phyFits u v.toNat then
         t.chip.rdW r = v &&& (if alt then 0x803F7FFF#32 else 0x003F7FFF#32) ∧
         ((s.chip.airUnit u).slot.isSome = true → (t.chip.inForce u).rdW r = (s.chip.inForce u).rdW r) ∧
         t.chip.airUnit u = { s.chip.airUnit u with held := (t.chip.airUnit u).held } ∧
         s.Only t [r] fun c => { c with regs := t.chip.regs, air := t.chip.air }
       else t.chip.bit (Reg.AIR_STATUS u) 0 = true ∧
         s.Only t [Reg.AIR_STATUS u, Reg.PIC_PEND 4] fun c => { c with regs := t.chip.regs })) ∧
  (∀ (s : State) (u : Fin 2), s.chip.reaches (Reg.AIR_MAC_CTRL u) = true →
    s.chip.bit (Reg.AIR_MAC_CTRL u) 0 = false →
    (s.chip.phyFits u (s.chip.rd (Reg.AIR_PHY_CFG u)) && s.chip.phyFits u (s.chip.rd (Reg.AIR_PHY_ALT u)) &&
      !s.chip.poolsOverlap (airPool u) .lma && !s.chip.poolsOverlap .air0 .air1) = true →
    Runs (.airEnable u) s fun t =>
      t.chip.bit (Reg.AIR_MAC_CTRL u) 0 = true ∧ (0, .own) ∈ (t.chip.airUnit u).scripts ∧
      s.Only t [Reg.AIR_MAC_CTRL u] fun c => { c with regs := t.chip.regs, air := t.chip.air }) ∧
  (∀ (s : State) (u : Fin 2), s.chip.reaches (Reg.AIR_MAC_CTRL u) = true → s.chip.bit (Reg.AIR_MAC_CTRL u) 0 = true →
    Runs (.airDisable u) s fun t =>
      t.chip.bit (Reg.AIR_MAC_CTRL u) 0 = false ∧ (t.chip.airUnit u).scripts.getLast? = some (1, .own) ∧
      (t.chip.airUnit u).slot = none ∧ (t.chip.airUnit u).ack = none ∧ (t.chip.airUnit u).anchor = none ∧
      (t.chip.airUnit u).held = [] ∧ t.chip.airResync u = false ∧
      (s.chip.fl Reg.CRP_TRIM_CFG 5 5 ≠ u → t.chip.crp.trim = s.chip.crp.trim ∧ t.chip.crp.trimRef = s.chip.crp.trimRef) ∧
      s.OnlyIn t (fun r => Chip.airRegs u r || transferRegs.contains r) fun c => { c.met t.chip with
        regs := t.chip.regs, air := t.chip.air, mem := t.chip.mem, crp := { c.crp with
          noted := t.chip.crp.noted, trim := t.chip.crp.trim, trimRef := t.chip.crp.trimRef } }) ∧
  (∀ (s : State) (u : Fin 2) (v : Word), s.chip.reaches (Reg.AIR_SCR_RUN u) = true →
    Runs (.scriptRun u v) s fun t =>
      (if (!s.chip.bit (Reg.AIR_MAC_CTRL u) 0 && (s.chip.airUnit u).scripts == [] && decide (v.toNat % 8 ≤ 5)) = true then
         t.chip.bit (Reg.AIR_SCR_RUN u) 31 = true ∧ (t.chip.airUnit u).scripts = [(v.toNat % 8, .own)] ∧
         s.Only t [Reg.AIR_SCR_RUN u] fun c => { c with regs := t.chip.regs, air := t.chip.air }
       else t.chip.bit (Reg.AIR_STATUS u) 0 = true ∧
         s.Only t [Reg.AIR_STATUS u, Reg.PIC_PEND 4] fun c => { c with regs := t.chip.regs })) ∧
  (∀ (s : State) (u : Fin 2) (us : BitVec 32) (miso : List Byte) (irq : List (BitVec 24)),
    ∀ e rest, (s.chip.airUnit u).scripts = e :: rest → ∀ c, c = s.chip.inForce u →
    ∀ r, r = c.scriptWords u ((s.chip.airUnit u).slot.elim 0 AirSlot.chan) 257 (c.fl (Reg.AIR_SCR_VEC u e.1) 7 0) false
      miso irq [] none →
    Runs (.scriptEnd u us miso irq) s fun t =>
      (t.chip.airUnit u).spi = r.1 ∧ t.chip.bit (Reg.AIR_SCR_RUN u) 31 = false ∧
      (∀ v, r.2.1 = some v → t.chip.rd (Reg.AIR_SCR_RD u) = v % 2 ^ 32) ∧
      (r.2.2 = false → (t.chip.airUnit u).scripts = rest) ∧
      (r.2.2 = true → t.chip.bit (Reg.AIR_STATUS u) 1 = true ∧
        (t.chip.airUnit u).scripts = rest.filter fun x => x.2 != .slot) ∧
      (∀ us', e.2 = .past us' → (t.chip.airUnit u).slot = (s.chip.airUnit u).slot) ∧
      (r.2.2 = true → (∀ us', e.2 ≠ .past us') → (t.chip.airUnit u).slot = (s.chip.airUnit u).slot.map AirSlot.abandoned) ∧
      s.Only t [Reg.AIR_SCR_RD u, Reg.AIR_SCR_RUN u, Reg.AIR_SCR_MAXT u, Reg.AIR_SCR_LATE u, Reg.AIR_STATUS u, Reg.PIC_PEND 4]
        fun c => { c with regs := t.chip.regs, air := t.chip.air }) ∧
  (∀ (s : State) (u : Fin 2) (v : Word), s.chip.reaches (Reg.AIR_HOP_CTRL u) = true →
    ∀ len, len = v.toNat % 256 →
    ∀ pending, pending = (bitOf v.toNat 31 || s.chip.bit (Reg.AIR_HOP_CTRL u) 31) →
    Runs (.hopCtrlSwap u v) s fun t =>
      t.chip.fl (Reg.AIR_HOP_CTRL u) 7 0 = len ∧
      ((pending && s.chip.hopRefused u len) = true →
        t.chip.bit (Reg.AIR_STATUS u) 0 = true ∧ t.chip.bit (Reg.AIR_HOP_CTRL u) 31 = false) ∧
      ((pending && s.chip.hopRefused u len) = false →
        t.chip.bit (Reg.AIR_HOP_CTRL u) 31 = pending ∧ t.chip.rdW (Reg.AIR_STATUS u) = s.chip.rdW (Reg.AIR_STATUS u)) ∧
      s.Only t [Reg.AIR_HOP_CTRL u, Reg.AIR_STATUS u, Reg.PIC_PEND 4] fun c => { c with regs := t.chip.regs })

/-- R112, R115, R116, R119–R126. At a slot boundary the ASN is the slot's and the slot begins, or a ROLE of 0 ends the
schedule; the request or the Enhanced Beacon of a slot goes on the air with its FCS, or the slot is late; a frame heard is
judged as Table 10 has it, in its order: an unknown source, a replay, a frame that fails to authenticate, a duplicate, which is
acknowledged and not delivered, and one accepted, in clear or secured; an acknowledgement due is sent or skipped; one received
in its window completes its request with status 1, one missed ends the wait, and a request past its time completes with
status 6. The registers are those in force in the slot (R136; log entry 94). -/
def Obligations.AirSlotsCarryFrames : Prop :=
  (∀ (s : State) (u : Fin 2) (τ : BitVec 64), (s.chip.airOn u && !s.chip.airUnsynced u && !s.chip.airResync u) = true →
    (s.chip.airRadio u = true ∨ s.chip.time.toNat ≤ τ.toNat) → ∀ asn, s.chip.asnAt u τ.toNat = some asn →
    Runs (.airSlotStart u τ) s fun t =>
      t.chip.rd64 (Reg.AIR_ASN_LO u) (Reg.AIR_ASN_HI u) = asn ∧
      ((t.chip.airUnit u).slot.any fun x => x.asn == asn && x.start == τ && !x.ready && !x.launched && x.deaf == !t.chip.iqPresent u) = true ∧ (t.chip.airUnit u).held = [] ∧
      t.chip.mem = s.chip.mem ∧
      s.OnlyIn t (fun r => Chip.airRegs u r || transferRegs.contains r)
        fun c => { c.met t.chip with regs := t.chip.regs, air := t.chip.air, ring := t.chip.ring }) ∧
  (∀ (s : State) (u : Fin 2) (τ : BitVec 64), s.chip.airRuns u = true → s.chip.airRole u = 0 →
    (s.chip.airRadio u = true ∨ s.chip.time.toNat ≤ τ.toNat) → (s.chip.asnAt u τ.toNat).isSome = true →
    Runs (.airSlotStart u τ) s fun t =>
      (t.chip.airUnit u).slot = none ∧ (t.chip.airUnit u).held = [] ∧
      s.Only t [Reg.AIR_SCR_LATE u] fun c => { c with regs := t.chip.regs, air := t.chip.air }) ∧
  (∀ (s : State) (u : Fin 2), ∀ x, (s.chip.airUnit u).slot = some x → ∀ c, c = s.chip.inForce u →
    (!x.launched && !x.deaf && x.ready && c.airMaySend u && c.iqPresent u) = true → ∀ i, x.work = .beacon i →
    ∀ f, f = c.ebFrame u x.asn → ∀ h, h = macHdr f → ∀ sec, sec = c.bit (Reg.AIR_EB_CFG u) 16 →
    0 < c.fl (Reg.AIR_EB_CFG u) 7 0 →
    (!sec || (h.secured && h.supported && c.rd (Reg.AIR_TXFC u) != 0xFFFFFFFF)) = true →
    ∀ key, key = c.airKey (c.airKeySlot u 0xFFF h) true → (!sec || key.isSome) = true →
    c.dwellOk u x.chan (airUs (c.rd (Reg.AIR_PHY_CFG u))
      (f.length + (if sec then micLen h.level else 0) + fcsLen (c.rd (Reg.AIR_PHY_CFG u)))) = true →
    Runs (.airTxLaunch u) s fun t =>
      (t.chip.airUnit u).sent = withFcs (c.rd (Reg.AIR_PHY_CFG u)) (if sec
        then airSeal (key.getD []) (c.rd64 (Reg.AIR_EUI_LO u) (Reg.AIR_EUI_HI u)) (c.rd (Reg.AIR_TXFC u)) h.len h f else f) ∧
      ((t.chip.airUnit u).slot.any fun y => y.launched) = true ∧
      t.chip.rd (Reg.AIR_TXFC u) = c.rd (Reg.AIR_TXFC u) + b2n sec ∧
      s.Only t [Reg.AIR_TXFC u] fun c => { c with regs := t.chip.regs, air := t.chip.air, ciu := { c.ciu with airKeys := t.chip.ciu.airKeys } }) ∧
  (∀ (s : State) (u : Fin 2), ∀ x, (s.chip.airUnit u).slot = some x → ∀ c, c = s.chip.inForce u →
    (!x.launched && !x.deaf && !x.ready && c.airMaySend u && c.iqPresent u) = true →
    x.work.sends = true →
    Runs (.airTxLaunch u) s fun t =>
      t.chip.rd (Reg.AIR_SCR_LATE u) = satInc (s.chip.rd (Reg.AIR_SCR_LATE u)) ∧
      t.chip.airUnit u = { s.chip.airUnit u with slot := some { x with work := .idle } } ∧
      s.Only t [Reg.AIR_SCR_LATE u] fun c => { c with regs := t.chip.regs, air := t.chip.air }) ∧
  (∀ (s : State) (u : Fin 2) (alt ms : Bool) (τ : BitVec 64) (psdu : List Byte) (rssi snr : Byte), ∀ c, c = s.chip.inForce u →
    (c.airOn u && c.iqPresent u && (c.airUnit u).aligned && c.bit (Reg.AIR_IQ_CFG u) 0 && (!alt || c.bit (Reg.AIR_PHY_ALT u) 31)) = true →
    ∀ phy, phy = c.rd (if alt then Reg.AIR_PHY_ALT u else Reg.AIR_PHY_CFG u) →
    (c.airListens u (τ.toNat - c.fl (Reg.AIR_IQ_COMP u) 15 0 - leadTime phy)).isSome = true →
    (ms = true ∨ psdu ≠ withFcs phy (psdu.take (psdu.length - fcsLen phy))) →
    Runs (.airFrameReceived u alt ms τ psdu rssi snr) s fun t =>
      (let r := if ms then Reg.AIR_MODESW u else Reg.AIR_FCSF u
       t.chip.rd r = satInc (s.chip.rd r) ∧ s.Only t [r] fun c => { c with regs := t.chip.regs })) ∧
  (∀ (s : State) (u : Fin 2) (alt : Bool) (τ : BitVec 64) (psdu : List Byte) (rssi snr : Byte), ∀ c, c = s.chip.inForce u →
    ∀ p, c.airTakes u alt τ psdu p = true → ∀ h, h = macHdr p → c.nbOf u h.src = none → (h.secured = true ∨ c.bit (Reg.AIR_MAC_CFG u) 3 = false) →
    Runs (.airFrameReceived u alt false τ psdu rssi snr) s fun t =>
      t.chip.rd (Reg.AIR_UNKNOWN u) = satInc (s.chip.rd (Reg.AIR_UNKNOWN u)) ∧
      s.Only t [Reg.AIR_UNKNOWN u] fun c => { c with regs := t.chip.regs }) ∧
  (∀ (s : State) (u : Fin 2) (alt : Bool) (τ : BitVec 64) (psdu : List Byte) (rssi snr : Byte), ∀ c, c = s.chip.inForce u →
    ∀ p, c.airTakes u alt τ psdu p = true → ∀ h, h = macHdr p → c.nbOf u h.src = none → h.secured = false → c.bit (Reg.AIR_MAC_CFG u) 3 = true →
    (h.typ = 1 ∨ h.typ = 3) → (c.portGated 5 || c.allocRoom (1 + u)) = true →
    ∀ slot, c.poolFind (airPool u) ((64 + p.length + 1023) / 1024) = some slot →
    c.judge 9 false true (slotAddr slot) (64 + p.length) = .ok →
    Runs (.airFrameReceived u alt false τ psdu rssi snr) s fun t =>
      t.chip.rdMem (slotAddr slot + 64) p.length = p ∧ t.chip.rdb (slotAddr slot + 11) = 8 ∧
      t.chip.slotFree (airPool u) slot = false ∧ t.chip.air = s.chip.air ∧
      (∀ (i : BitVec 12) (w : Fin 8), t.chip.rdW (Reg.NB_WORD u i.toNat w) = s.chip.rdW (Reg.NB_WORD u i.toNat w)) ∧
      (∀ a, a < slotAddr slot ∨ slotAddr slot + 64 + p.length ≤ a → t.chip.rdb a = s.chip.rdb a)) ∧
  (∀ (s : State) (u : Fin 2) (alt : Bool) (τ : BitVec 64) (psdu : List Byte) (rssi snr : Byte), ∀ c, c = s.chip.inForce u →
    ∀ p, c.airTakes u alt τ psdu p = true → ∀ h, h = macHdr p → ∀ i, c.nbOf u h.src = some i → h.secured = true →
    c.nb u i 2 22 22 = 1 → ∀ f, h.fc = some f →
    (f < c.rd (Reg.NB_WORD u i 3) ∨ f = c.rd (Reg.NB_WORD u i 3) ∧ (∃ d, h.dsn = some d ∧ d ≠ c.nb u i 2 31 24) ∨ f = 0xFFFFFFFF) →
    Runs (.airFrameReceived u alt false τ psdu rssi snr) s fun t =>
      t.chip.rd (Reg.AIR_REPLAY u) = satInc (s.chip.rd (Reg.AIR_REPLAY u)) ∧
      s.Only t [Reg.AIR_REPLAY u] fun c => { c with regs := t.chip.regs }) ∧
  (∀ (s : State) (u : Fin 2) (alt : Bool) (τ : BitVec 64) (psdu : List Byte) (rssi snr : Byte), ∀ c, c = s.chip.inForce u →
    ∀ p, c.airTakes u alt τ psdu p = true → ∀ h, h = macHdr p → ∀ i, c.nbOf u h.src = some i → h.secured = true →
    c.airReplayed u i h = false →
    (h.supported = false ∨ ∀ key, c.airKey (c.airKeySlot u i h) false = some key → airOpen key (c.nbEui u i) h p = none) →
    Runs (.airFrameReceived u alt false τ psdu rssi snr) s fun t =>
      t.chip.rd (Reg.AIR_SECF u) = satInc (s.chip.rd (Reg.AIR_SECF u)) ∧
      s.Only t [Reg.AIR_SECF u] fun c => { c with regs := t.chip.regs }) ∧
  (∀ (s : State) (u : Fin 2) (alt : Bool) (τ : BitVec 64) (psdu : List Byte) (rssi snr : Byte), ∀ c, c = s.chip.inForce u →
    ∀ p, c.airTakes u alt τ psdu p = true → ∀ h, h = macHdr p → ∀ i, c.nbOf u h.src = some i →
    ∀ d, h.dsn = some d → d = c.nb u i 2 31 24 →
    (if h.secured then h.fc = some (c.rd (Reg.NB_WORD u i 3)) ∧ c.airReplayed u i h = false ∧ h.supported = true ∧
       ∃ key, c.airKey (c.airKeySlot u i h) false = some key ∧ (airOpen key (c.nbEui u i) h p).isSome = true
     else c.nb u i 2 21 21 = 1) →
    ∀ k, c.airListens u (τ.toNat - c.fl (Reg.AIR_IQ_COMP u) 15 0 - leadTime (c.airPhy u alt)) = some k →
    Runs (.airFrameReceived u alt false τ psdu rssi snr) s fun t =>
      t.chip.rd (Reg.AIR_DUP u) = satInc (s.chip.rd (Reg.AIR_DUP u)) ∧
      t.chip.airUnit u =
        { s.chip.airUnit u with ack := if h.ackReq then some ⟨enhAck h d k.2.2, k.1⟩ else (s.chip.airUnit u).ack } ∧
      s.Only t [Reg.AIR_DUP u] fun c => { c with
        regs := t.chip.regs, air := t.chip.air, ciu := { c.ciu with airKeys := t.chip.ciu.airKeys } }) ∧
  (∀ (s : State) (u : Fin 2) (alt : Bool) (τ : BitVec 64) (psdu : List Byte) (rssi snr : Byte), ∀ c, c = s.chip.inForce u →
    ∀ p, c.airTakes u alt τ psdu p = true → ∀ h, h = macHdr p → (h.typ = 1 ∨ h.typ = 3) →
    ∀ i, c.nbOf u h.src = some i → (c.nbPeer u i = false ∨ c.pairState ≠ 5) →
    ∀ b, (if h.secured then c.airReplayed u i h = false ∧ h.supported = true ∧
        (h.fc ≠ some (c.rd (Reg.NB_WORD u i 3)) ∨ ∃ d, h.dsn = some d ∧ d ≠ c.nb u i 2 31 24) ∧
        ∃ key, c.airKey (c.airKeySlot u i h) false = some key ∧ airOpen key (c.nbEui u i) h p = some b
      else b = p.drop h.len ∧ (c.nb u i 2 21 21 = 0 ∨ h.dsn ≠ some (c.nb u i 2 31 24))) →
    ∀ d, d = p.take h.len ++ b → (c.portGated 5 || c.allocRoom (1 + u)) = true →
    ∀ slot, c.poolFind (airPool u) ((64 + d.length + 1023) / 1024) = some slot →
    c.judge 9 false true (slotAddr slot) (64 + d.length) = .ok →
    Runs (.airFrameReceived u alt false τ psdu rssi snr) s fun t =>
      t.chip.rdMem (slotAddr slot + 64) d.length = d ∧ t.chip.slotFree (airPool u) slot = false ∧
      (∀ n, h.dsn = some n → t.chip.nb u i 2 31 24 = n % 256) ∧ (∀ f, h.fc = some f → t.chip.rd (Reg.NB_WORD u i 3) = f % 2 ^ 32) ∧
      t.chip.nb u i 2 22 21 = 3 ∧ t.chip.nbState u i = 1 ∧
      (h.ackReq = true → (t.chip.airUnit u).ack.isSome = true) ∧
      (∀ a, a < slotAddr slot ∨ slotAddr slot + 64 + d.length ≤ a → t.chip.rdb a = s.chip.rdb a)) ∧
  (∀ (s : State) (u : Fin 2), ∀ k, (s.chip.airUnit u).ack = some k → ∀ c, c = s.chip.inForce u →
    (c.airMaySend u && c.iqPresent u) = true →
    ∀ phy, phy = c.rd (Reg.AIR_PHY_CFG u) →
    Runs (.airAckSend u) s fun t =>
      (t.chip.airUnit u).ack = none ∧
      (if c.dwellOk u k.chan (airUs phy (k.frame.length + fcsLen phy)) then
         (t.chip.airUnit u).sent = withFcs phy k.frame ∧ s.Only t [] fun c => { c with regs := t.chip.regs, air := t.chip.air }
       else
         t.chip.airUnit u = { s.chip.airUnit u with ack := none } ∧
         t.chip.rd (Reg.AIR_DWELL_ACKSKIP u) = satInc (s.chip.rd (Reg.AIR_DWELL_ACKSKIP u)) ∧
         s.Only t [Reg.AIR_DWELL_ACKSKIP u] fun c => { c with regs := t.chip.regs, air := t.chip.air })) ∧
  (∀ (s : State) (u : Fin 2) (dsn : Byte) (corr : BitVec 16) (τ : BitVec 64), ∀ c, c = s.chip.inForce u → ∀ w, (s.chip.airUnit u).wait = some w →
    (w.dsn.all fun d => d == dsn.toNat) = true → c.ackInWindow u τ.toNat w = true →
    ∀ r, ((s.chip.airUnit u).reqs.find? fun r => r.q == w.q && r.idx == w.idx) = some r →
    Runs (.airAckReceived u dsn corr τ) s fun t =>
      (t.chip.airUnit u).wait = none ∧
      ((t.chip.airUnit u).reqs.all fun x => !(x.q == w.q && x.idx == w.idx)) = true ∧
      (c.judge 9 false true (c.airEntry u w.q w.idx + 24) 8 = .ok →
        t.chip.rdMem (c.airEntry u w.q w.idx + 24) 2 = leBytes 1 1 ++ leBytes 1 r.tries) ∧
      (∀ a, a < c.airEntry u w.q w.idx + 24 ∨ c.airEntry u w.q w.idx + 32 ≤ a → t.chip.rdb a = s.chip.rdb a) ∧
      s.OnlyIn t (fun a => a == Reg.AIR_TCORR u || a == Reg.AIR_TXQ_CI u w.q || transferRegs.contains a)
        fun c => { c.met t.chip with regs := t.chip.regs, air := t.chip.air, mem := t.chip.mem }) ∧
  (∀ (s : State) (u : Fin 2), ∀ c, c = s.chip.inForce u → ∀ w, (s.chip.airUnit u).wait = some w →
    Runs (.airAckTimeout u) s fun t =>
      (t.chip.airUnit u).wait = none ∧
      (∀ r, ((s.chip.airUnit u).reqs.find? fun r => r.q == w.q && r.idx == w.idx) = some r → r.tries ≤ r.retries →
        t.chip.mem = s.chip.mem ∧ ∀ a, t.chip.rdW a = s.chip.rdW a) ∧
      (∀ r, ((s.chip.airUnit u).reqs.find? fun r => r.q == w.q && r.idx == w.idx) = some r → r.retries < r.tries →
        c.judge 9 false true (c.airEntry u w.q w.idx + 24) 8 = .ok →
        t.chip.rdMem (c.airEntry u w.q w.idx + 24) 2 = leBytes 1 2 ++ leBytes 1 r.tries) ∧
      (∀ a, a < c.airEntry u w.q w.idx + 24 ∨ c.airEntry u w.q w.idx + 32 ≤ a → t.chip.rdb a = s.chip.rdb a) ∧
      s.OnlyIn t (fun a => a == Reg.AIR_TXQ_CI u w.q || transferRegs.contains a)
        fun c => { c.met t.chip with regs := t.chip.regs, air := t.chip.air, mem := t.chip.mem, freeCtr := t.chip.freeCtr }) ∧
  (∀ (s : State) (u : Fin 2) (q : Fin 4) (idx : Fin 64), ∀ c, c = s.chip.inForce u →
    ∀ r, ((s.chip.airUnit u).reqs.find? fun r => r.q == q.val && r.idx == idx.val) = some r →
    ∀ since, r.since = some since → since.toNat + c.rd (Reg.AIR_TXQ_EXPIRE u) * 1000000 ≤ s.chip.time.toNat →
    Runs (.airTxExpire u q idx) s fun t =>
      ((t.chip.airUnit u).reqs.all fun x => !(x.q == q.val && x.idx == idx.val)) = true ∧
      (c.judge 9 false true (c.airEntry u q idx + 24) 8 = .ok →
        t.chip.rdMem (c.airEntry u q idx + 24) 2 = leBytes 1 6 ++ leBytes 1 r.tries) ∧
      (∀ a, a < c.airEntry u q idx + 24 ∨ c.airEntry u q idx + 32 ≤ a → t.chip.rdb a = s.chip.rdb a) ∧
      s.OnlyIn t (fun a => a == Reg.AIR_TXQ_CI u q || transferRegs.contains a)
        fun c => { c.met t.chip with regs := t.chip.regs, air := t.chip.air, mem := t.chip.mem }) ∧
  (∀ (s : State) (u : Fin 2), ∀ x, (s.chip.airUnit u).slot = some x → ∀ c, c = s.chip.inForce u →
    (!x.launched && !x.deaf && x.ready && c.airMaySend u && c.iqPresent u) = true →
    ∀ q idx i n, x.work = .send q idx i n →
    ∀ r, ((s.chip.airUnit u).reqs.find? fun r => r.q == q && r.idx == idx) = some r →
    ∀ d, d = c.dmaRead 9 false r.buf r.len → ∀ h, h = macHdr d.2.1 →
    c.reqInvalid u r h d.1 = false → r.secure = false → c.dwellOk u x.chan (c.reqUs u r) = true →
    ∀ phy, phy = c.rd (if r.alt then Reg.AIR_PHY_ALT u else Reg.AIR_PHY_CFG u) →
    Runs (.airTxLaunch u) s fun t =>
      (t.chip.airUnit u).sent = withFcs phy d.2.1 ∧ ((t.chip.airUnit u).slot.any fun y => y.launched) = true ∧
      (if r.ackReq then
         (t.chip.airUnit u).wait = some ⟨q, idx, r.nbr, c.cell u i 29 29 == 1, h.dsn,
           BitVec.ofNat 64 (x.start.toNat + c.airTxofs u * 1000 + airNs phy (c.reqPsdu u r h))⟩ ∧ t.chip.mem = s.chip.mem
       else
         ((t.chip.airUnit u).reqs.all fun y => !(y.q == q && y.idx == idx)) = true ∧
         (c.judge 9 false true (c.airEntry u q idx + 24) 8 = .ok →
           t.chip.rdMem (c.airEntry u q idx + 24) 2 = leBytes 1 1 ++ leBytes 1 (r.tries + 1))) ∧
      (∀ a, a < c.airEntry u q idx + 24 ∨ c.airEntry u q idx + 32 ≤ a → t.chip.rdb a = s.chip.rdb a) ∧
      s.OnlyIn t (fun a => a == Reg.AIR_TXQ_CI u q || transferRegs.contains a)
        fun c => { c.met t.chip with regs := t.chip.regs, air := t.chip.air, mem := t.chip.mem })

/-- R119, R126, R129–R134. An expected beacon that is not heard raises MISS, to 3 at most. Reaching 3, with TIMEBASE 0, it sets
MISS3, posts the notice and puts the neighbour into search, and a standby that loses its partner so takes over where it may;
with TIMEBASE 1 it moves the unit from this source to another, or into resynchronisation, which steps through the hopping list
and tells of its limit once. A neighbour searched for too long becomes lost; at a bucket boundary every accumulator begins a new
bucket and keeps the 16 before it; HALT_TX completes the request that awaits its acknowledgement with status 5 and drops
the acknowledgement due. Which of several other sources is taken is the model's choice (log entry 104), and that HALT_TX
aborts no request but that one is its reading (log entry 71). -/
def Obligations.AirUnitsKeepTime : Prop :=
  (∀ (s : State) (u : Fin 2), ∀ k i : Nat, s.chip.missesBeacon u k i = true → s.chip.nbMiss u i ≠ 2 →
    Runs (.airRxWindowClose u) s fun t =>
      t.chip.nbMiss u i = min 3 (s.chip.nbMiss u i + 1) ∧ ((t.chip.airUnit u).slot.any fun y => y.heard) = true ∧
      s.Only t [Reg.NB_WORD u i 6] fun c => { c with regs := t.chip.regs, air := t.chip.air }) ∧
  (∀ (s : State) (u : Fin 2), ∀ k i : Nat, s.chip.missesBeacon u k i = true → s.chip.nbMiss u i = 2 →
    ∀ c, c = s.chip.inForce u → c.airRadio u = false → (c.airRole u == 2 && c.nbPeer u i) = false →
    ∀ body, body = padTo 48 (leBytes 2 u ++ leBytes 2 i ++ leBytes 4 (s.chip.nbHandle u i)) →
    Runs (.airRxWindowClose u) s fun t =>
      t.chip.nbMiss u i = 3 ∧ ((t.chip.airUnit u).slot.any fun y => y.heard) = true ∧ t.chip.bit (Reg.AIR_STATUS u) 2 = true ∧
      t.chip.nbState u i = 2 ∧
      (s.chip.nbState u i ≠ 2 → t.chip.rd (Reg.AIR_GUARD_CAP u) = satInc (s.chip.rd (Reg.AIR_GUARD_CAP u)) ∧
        t.chip.rd (Reg.NB_WORD u i 7) = msOf s.chip.time.toNat) ∧
      (s.chip.portGated 0 = false → t.chip.ring.posted = s.chip.ring.posted ++
        ⟨0x0303, s.chip.time, body⟩ :: if s.chip.nbState u i = 2 then [] else [⟨0x0301, s.chip.time, body⟩]) ∧
      s.Only t ([Reg.NB_WORD u i 2, Reg.NB_WORD u i 6, Reg.NB_WORD u i 7, Reg.AIR_GUARD_CAP u, Reg.AIR_STATUS u] ++ transferRegs)
        fun c => { c.met t.chip with
          regs := t.chip.regs, air := t.chip.air, ring := { c.ring with posted := t.chip.ring.posted } }) ∧
  (∀ (s : State) (u : Fin 2), ∀ k i : Nat, s.chip.missesBeacon u k i = true → s.chip.nbMiss u i = 2 →
    (s.chip.airUnit u).held = [] → s.chip.airRadio u = false → (s.chip.airRole u == 2 && s.chip.nbPeer u i) = true →
    s.chip.pairState = 2 → s.chip.bit Reg.BKB_PAIR_CFG 24 = true →
    (s.chip.bit Reg.BKB_PAIR_STATUS 10 = false ∨ s.chip.bit Reg.BKB_PAIR_CFG 27 = true) →
    Runs (.airRxWindowClose u) s fun t =>
      t.chip.nbMiss u i = 3 ∧ t.chip.bit (Reg.AIR_STATUS u) 2 = true ∧ t.chip.nbState u i = 2 ∧
      s.TookOver t 5 s.chip.pairUp) ∧
  (∀ (s : State) (u : Fin 2), ∀ k i : Nat, s.chip.missesBeacon u k i = true → s.chip.nbMiss u i = 2 →
    (s.chip.inForce u).airRadio u = true → ∀ a, a = s.chip.airUnit u →
    ∀ other, other = ((s.chip.inForce u).nbListed u).find? (fun n => n != i && s.chip.nbTsrc u n && decide (s.chip.nbMiss u n < 3)) →
    Runs (.airRxWindowClose u) s fun t =>
      t.chip.nbMiss u i = 3 ∧
      (a.source ≠ some i → (t.chip.airUnit u).source = a.source ∧
        s.Only t [Reg.NB_WORD u i 6] fun c => { c with regs := t.chip.regs, air := t.chip.air }) ∧
      (a.source = some i → ∀ n, other = some n →
        (t.chip.airUnit u).source = some n ∧ t.chip.bit (Reg.AIR_STATUS u) 2 = true ∧ t.chip.airResync u = s.chip.airResync u) ∧
      (a.source = some i → other = none →
        t.chip.airResync u = true ∧ (t.chip.airUnit u).slot = none ∧ (t.chip.airUnit u).ack = none ∧
        (t.chip.airUnit u).resyncAt = s.chip.time ∧ (t.chip.airUnit u).resyncTold = false ∧ (t.chip.airUnit u).hopAt = 0) ∧
      s.Only t [Reg.NB_WORD u i 6, Reg.AIR_STATUS u, Reg.AIR_SCR_LATE u, Reg.PIC_PEND 4]
        fun c => { c with regs := t.chip.regs, air := t.chip.air }) ∧
  (∀ (s : State) (u : Fin 2), ∀ c, c = s.chip.inForce u → (c.airOn u && (c.airResync u || c.airUnsynced u)) = true →
    Runs (.rsyncDwellExpiry u) s fun t =>
      (t.chip.airUnit u).hopAt = ((s.chip.airUnit u).hopAt + 1) % max 1 (s.chip.airUnit u).hopLen ∧
      t.chip.airUnit u = { s.chip.airUnit u with hopAt := (t.chip.airUnit u).hopAt } ∧
      s.Only t [] fun c => { c with regs := t.chip.regs, air := t.chip.air }) ∧
  (∀ (s : State) (u : Fin 2), ∀ c, c = s.chip.inForce u → (s.chip.airResync u && !(s.chip.airUnit u).resyncTold) = true →
    (s.chip.airUnit u).resyncAt.toNat + c.fl (Reg.AIR_SRCH u) 15 0 * 1000000000 ≤ s.chip.time.toNat →
    Runs (.resyncLimit u) s fun t =>
      t.chip.bit (Reg.AIR_STATUS u) 4 = true ∧ t.chip.airResync u = true ∧
      t.chip.airUnit u = { s.chip.airUnit u with resyncTold := true } ∧
      (s.chip.portGated 0 = false →
        t.chip.ring.posted = s.chip.ring.posted ++ [⟨0x0304, s.chip.time, padTo 48 (leBytes 1 u)⟩]) ∧
      s.Only t (Reg.AIR_STATUS u :: transferRegs) fun c => { c.met t.chip with
        regs := t.chip.regs, air := t.chip.air, ring := { c.ring with posted := t.chip.ring.posted } }) ∧
  (∀ (s : State) (u : Fin 2) (n : BitVec 12), ∀ c, c = s.chip.inForce u → (c.airOn u && c.nbValid u n.toNat) = true →
    s.chip.nbState u n.toNat = 2 →
    c.fl (Reg.AIR_SRCH u) 15 0 * 1000 ≤
      (msOf s.chip.time.toNat + 2 ^ 32 - s.chip.rd (Reg.NB_WORD u n.toNat 7)) % 2 ^ 32 →
    Runs (.searchLimit u n) s fun t =>
      t.chip.nbState u n.toNat = 3 ∧
      (s.chip.portGated 0 = false → t.chip.ring.posted = s.chip.ring.posted ++ [⟨0x0302, s.chip.time,
        padTo 48 (leBytes 2 u ++ leBytes 2 n.toNat ++ leBytes 4 (s.chip.nbHandle u n.toNat))⟩]) ∧
      s.Only t (Reg.NB_WORD u n.toNat 2 :: transferRegs) fun c => { c.met t.chip with
        regs := t.chip.regs, air := t.chip.air, ring := { c.ring with posted := t.chip.ring.posted } }) ∧
  (∀ (s : State) (u : Fin 2) (τ : BitVec 64), ∀ c, c = s.chip.inForce u → c.dwellMode u ≠ 0 → τ.toNat % c.dwellStep u = 0 →
    Runs (.dwellBucketBoundary u τ) s fun t =>
      t.chip.airUnit u = { s.chip.airUnit u with
        dwell := ((s.chip.airUnit u).dwell.map fun e => (e.1, 0 :: e.2.take 16)).filter fun e => e.2.any (· != 0) } ∧
      s.Only t [] fun c => { c with regs := t.chip.regs, air := t.chip.air }) ∧
  (∀ (s : State) (u : Fin 2), s.chip.reaches (Reg.AIR_MAC_CTRL u) = true →
    Runs (.airHaltTx u) s fun t =>
      t.chip.bit (Reg.AIR_MAC_CTRL u) 1 = true ∧ (t.chip.airUnit u).ack = none ∧
      ((s.chip.airUnit u).wait = none → t.chip.airUnit u = { s.chip.airUnit u with ack := none } ∧
        s.Only t [Reg.AIR_MAC_CTRL u] fun c => { c with regs := t.chip.regs, air := t.chip.air }) ∧
      (∀ w, (s.chip.airUnit u).wait = some w → ∀ c, c = s.chip.inForce u →
        ∀ r, ((s.chip.airUnit u).reqs.find? fun r => r.q == w.q && r.idx == w.idx) = some r →
        (t.chip.airUnit u).wait = none ∧ ((t.chip.airUnit u).reqs.all fun x => !(x.q == w.q && x.idx == w.idx)) = true ∧
        (c.judge 9 false true (c.airEntry u w.q w.idx + 24) 8 = .ok → t.chip.rdMem (c.airEntry u w.q w.idx + 24) 8 =
          leBytes 1 5 ++ leBytes 1 r.tries ++ leBytes 2 0 ++ leBytes 4 r.sentAt.toNat) ∧
        ∀ a, a < c.airEntry u w.q w.idx + 24 ∨ c.airEntry u w.q w.idx + 32 ≤ a → t.chip.rdb a = s.chip.rdb a) ∧
      s.OnlyIn t (fun r => Chip.airRegs u r || transferRegs.contains r)
        fun c => { c.met t.chip with regs := t.chip.regs, air := t.chip.air, mem := t.chip.mem })

/-! ### 05_sessions_and_cipher.md -/

/-- R159, Table 7. Each AES mode writes at DST what the mode gives for the key of the request's slot or session, and
completes with status 1; a verification whose tag differs writes nothing and completes with 2. -/
def Obligations.AesModesFollowTheirStandards : Prop :=
  (∀ (s : State) (q : Fin 8) (i : BitVec 10) (l : Fin 4) (b : BitVec 32),
    ∀ r, s.chip.jobAt 0x01 q i.toNat = some r → ∀ key, s.chip.aesKey r false = .inr key →
    ∀ e, e = r.fields → 1 ≤ e.len → (bitOf e.flags 1 = true ∨ e.len % 16 = 0) →
    ∀ out, out = ecb (aesEnc key) (if bitOf e.flags 1 then pkcsPad (s.chip.rdMem e.src e.len) else s.chip.rdMem e.src e.len) →
    s.chip.jobCan r [(e.src, e.len)] out.length = true →
    Runs (.aesEcbEncrypt q i l b) s fun t => s.chip.jobDone t.chip r 1 out) ∧
  (∀ (s : State) (q : Fin 8) (i : BitVec 10) (l : Fin 4) (b : BitVec 32),
    ∀ r, s.chip.jobAt 0x02 q i.toNat = some r → ∀ key, s.chip.aesKey r true = .inr key →
    ∀ e, e = r.fields → 1 ≤ e.len → bitOf e.flags 1 = false → e.len % 16 = 0 →
    ∀ out, out = ecb (aesDec key) (s.chip.rdMem e.src e.len) → s.chip.jobCan r [(e.src, e.len)] out.length = true →
    Runs (.aesEcbDecrypt q i l b) s fun t => s.chip.jobDone t.chip r 1 out) ∧
  (∀ (s : State) (q : Fin 8) (i : BitVec 10) (l : Fin 4) (b : BitVec 32),
    ∀ r, s.chip.jobAt 0x03 q i.toNat = some r → ∀ key, s.chip.aesKey r false = .inr key →
    ∀ e, e = r.fields → 1 ≤ e.len → (bitOf e.flags 1 = true ∨ e.len % 16 = 0) →
    ∀ out, out = cbcEnc key e.iv (if bitOf e.flags 1 then pkcsPad (s.chip.rdMem e.src e.len) else s.chip.rdMem e.src e.len) →
    s.chip.jobCan r [(e.src, e.len)] out.length = true →
    Runs (.aesCbcEncrypt q i l b) s fun t => s.chip.jobDone t.chip r 1 out) ∧
  (∀ (s : State) (q : Fin 8) (i : BitVec 10) (l : Fin 4) (b : BitVec 32),
    ∀ r, s.chip.jobAt 0x04 q i.toNat = some r → ∀ key, s.chip.aesKey r true = .inr key →
    ∀ e, e = r.fields → 1 ≤ e.len → e.len % 16 = 0 → bitOf e.flags 1 = true →
    (∀ st, pkcsUnpad (cbcDec key e.iv (s.chip.rdMem e.src e.len)) = .inl st → s.chip.jobCan r [(e.src, e.len)] 0 = true →
      Runs (.aesCbcDecrypt q i l b) s fun t => s.chip.jobDone t.chip r 8 []) ∧
    (∀ out, pkcsUnpad (cbcDec key e.iv (s.chip.rdMem e.src e.len)) = .inr out → out ≠ [] →
      s.chip.jobCan r [(e.src, e.len)] out.length = true →
      Runs (.aesCbcDecrypt q i l b) s fun t => s.chip.jobDone t.chip r 1 out)) ∧
  (∀ (s : State) (q : Fin 8) (i : BitVec 10) (l : Fin 4) (b : BitVec 32),
    ∀ r, s.chip.jobAt 0x05 q i.toNat = some r → ∀ key, s.chip.aesKey r false = .inr key →
    ∀ e, e = r.fields → 1 ≤ e.len →
    ∀ out, out = ctr 128 key e.iv (s.chip.rdMem e.src e.len) → s.chip.jobCan r [(e.src, e.len)] out.length = true →
    Runs (.aesCtr q i l b) s fun t => s.chip.jobDone t.chip r 1 out) ∧
  (∀ (s : State) (q : Fin 8) (i : BitVec 10) (l : Fin 4) (b : BitVec 32),
    ∀ r, s.chip.jobAt 0x06 q i.toNat = some r → ∀ key, s.chip.aesKey r false = .inr key →
    ∀ e, e = r.fields → ∀ n, tagSize e.tagLen 16 [4, 8, 12, 13, 14, 15, 16] = some n →
    ∀ ct, ct = gcmData key (e.iv.take 12) (s.chip.rdMem e.src e.len) →
    ∀ out, out = ct ++ (gcmTag key (e.iv.take 12) (s.chip.rdMem e.aux e.auxLen) ct).take n →
    s.chip.jobCan r [(e.src, e.len), (e.aux, e.auxLen)] out.length = true →
    Runs (.aesGcmEncrypt q i l b) s fun t => s.chip.jobDone t.chip r 1 out) ∧
  (∀ (s : State) (q : Fin 8) (i : BitVec 10) (l : Fin 4) (b : BitVec 32),
    ∀ r, s.chip.jobAt 0x07 q i.toNat = some r → ∀ key, s.chip.aesKey r true = .inr key →
    ∀ e, e = r.fields → ∀ n, tagSize e.tagLen 16 [4, 8, 12, 13, 14, 15, 16] = some n →
    ∀ ct, ct = s.chip.rdMem e.src e.len →
    (if (gcmTag key (e.iv.take 12) (s.chip.rdMem e.aux e.auxLen) ct).take n = s.chip.rdMem (e.src + e.len) n then
       s.chip.jobCan r [(e.src, e.len + n), (e.aux, e.auxLen)] e.len = true →
       Runs (.aesGcmDecrypt q i l b) s fun t => s.chip.jobDone t.chip r 1 (gcmData key (e.iv.take 12) ct)
     else
       s.chip.jobCan r [(e.src, e.len + n), (e.aux, e.auxLen)] 0 = true →
       bitOf e.flags 0 = false →
       Runs (.aesGcmDecrypt q i l b) s fun t => s.chip.jobDone t.chip r 2 [] ∧
         t.chip.rd Reg.CIU_SEC_REJ = satInc (s.chip.rd Reg.CIU_SEC_REJ))) ∧
  (∀ (s : State) (q : Fin 8) (i : BitVec 10) (l : Fin 4) (b : BitVec 32),
    ∀ r, s.chip.jobAt 0x08 q i.toNat = some r → ∀ key, s.chip.aesKey r false = .inr key →
    ∀ e, e = r.fields → [0, 4, 8, 16].contains e.tagLen = true → e.len ≤ 65535 →
    ∀ p, p = s.chip.rdMem e.src e.len → ∀ a, a = s.chip.rdMem e.aux e.auxLen →
    ∀ out, out = ccmData key (e.iv.take 13) p ++
      (ccmTag key (e.iv.take 13) (ccmMac key (e.iv.take 13) a p e.tagLen)).take e.tagLen →
    s.chip.jobCan r [(e.src, e.len), (e.aux, e.auxLen)] out.length = true → out ≠ [] →
    Runs (.aesCcmEncrypt q i l b) s fun t => s.chip.jobDone t.chip r 1 out) ∧
  (∀ (s : State) (q : Fin 8) (i : BitVec 10) (l : Fin 4) (b : BitVec 32),
    ∀ r, s.chip.jobAt 0x09 q i.toNat = some r → ∀ key, s.chip.aesKey r true = .inr key →
    ∀ e, e = r.fields → [0, 4, 8, 16].contains e.tagLen = true → e.len ≤ 65535 →
    ∀ p, p = ccmData key (e.iv.take 13) (s.chip.rdMem e.src e.len) → ∀ a, a = s.chip.rdMem e.aux e.auxLen →
    (if (ccmTag key (e.iv.take 13) (ccmMac key (e.iv.take 13) a p e.tagLen)).take e.tagLen = s.chip.rdMem (e.src + e.len) e.tagLen then
       s.chip.jobCan r [(e.src, e.len + e.tagLen), (e.aux, e.auxLen)] e.len = true →
       Runs (.aesCcmDecrypt q i l b) s fun t => s.chip.jobDone t.chip r 1 p
     else
       s.chip.jobCan r [(e.src, e.len + e.tagLen), (e.aux, e.auxLen)] 0 = true → bitOf e.flags 0 = false →
       Runs (.aesCcmDecrypt q i l b) s fun t => s.chip.jobDone t.chip r 2 [])) ∧
  (∀ (s : State) (q : Fin 8) (i : BitVec 10) (l : Fin 4) (b : BitVec 32),
    ∀ r, s.chip.jobAt 0x0A q i.toNat = some r → ∀ key, s.chip.aesKey r false = .inr key →
    ∀ e, e = r.fields → ∀ n, tagSize e.tagLen 16 (upFrom 4 13) = some n →
    ∀ out, out = (cmac key (s.chip.rdMem e.src e.len)).take n → s.chip.jobCan r [(e.src, e.len)] out.length = true →
    Runs (.aesCmacGenerate q i l b) s fun t => s.chip.jobDone t.chip r 1 out) ∧
  (∀ (s : State) (q : Fin 8) (i : BitVec 10) (l : Fin 4) (b : BitVec 32),
    ∀ r, s.chip.jobAt 0x0B q i.toNat = some r → ∀ key, s.chip.aesKey r true = .inr key →
    ∀ e, e = r.fields → ∀ n, tagSize e.tagLen 16 (upFrom 4 13) = some n → bitOf e.flags 0 = false →
    s.chip.jobCan r [(e.src, e.len + n)] 0 = true →
    Runs (.aesCmacVerify q i l b) s fun t => s.chip.jobDone t.chip r
      (if (cmac key (s.chip.rdMem e.src e.len)).take n = s.chip.rdMem (e.src + e.len) n then 1 else 2) [])

/-- R144, R148, R149, R155, R159. Digests, keyed digests and wrapped keys are written at DST; signatures verify or complete
with 0x0B; an operation that makes a key stores it in OSLOT with ORIGIN and PARENT of the operation and VALID set, and completes
with status 1. -/
def Obligations.DigestsSignaturesAndKeysAreGiven : Prop :=
  (∀ (s : State) (q : Fin 8) (i : BitVec 10) (b : BitVec 32), ∀ r, s.chip.jobAt 0x10 q i.toNat = some r →
    s.chip.jobCan r [(r.fields.src, r.fields.len)] 32 = true →
    Runs (.sha256 q i b) s fun t => s.chip.jobDone t.chip r 1 (sha256 (s.chip.rdMem r.fields.src r.fields.len))) ∧
  (∀ (s : State) (q : Fin 8) (i : BitVec 10) (b : BitVec 32), ∀ r, s.chip.jobAt 0x11 q i.toNat = some r →
    s.chip.jobCan r [(r.fields.src, r.fields.len)] 48 = true →
    Runs (.sha384 q i b) s fun t => s.chip.jobDone t.chip r 1 (sha384 (s.chip.rdMem r.fields.src r.fields.len))) ∧
  (∀ (s : State) (q : Fin 8) (i : BitVec 10) (b : BitVec 32), ∀ r, s.chip.jobAt 0x12 q i.toNat = some r →
    ∀ k, s.chip.reqKey r [4] (some false) = .inr k →
    s.chip.jobCan r [(r.fields.src, r.fields.len)] 32 = true →
    Runs (.hmacSha256 q i b) s fun t => s.chip.jobDone t.chip r 1
      (hmac256 (s.chip.keyBytes k 32) (s.chip.rdMem r.fields.src r.fields.len))) ∧
  (∀ (s : State) (q : Fin 8) (i : BitVec 10) (b : BitVec 32), ∀ r, s.chip.jobAt 0x13 q i.toNat = some r →
    ∀ k, s.chip.reqKey r [4] (some false) = .inr k →
    s.chip.jobCan r [(r.fields.src, r.fields.len)] 48 = true →
    Runs (.hmacSha384 q i b) s fun t => s.chip.jobDone t.chip r 1
      (hmac384 (s.chip.keyBytes k 32) (s.chip.rdMem r.fields.src r.fields.len))) ∧
  (∀ (s : State) (q : Fin 8) (i : BitVec 10) (l : Fin 4) (b : BitVec 32), ∀ r, s.chip.jobAt 0x18 q i.toNat = some r →
    r.fields.len % 8 = 0 → 16 ≤ r.fields.len → r.fields.len ≤ 512 → ∀ key, s.chip.kekKey r false = .inr key →
    s.chip.jobCan r [(r.fields.src, r.fields.len)] (r.fields.len + 8) = true →
    Runs (.keyWrap q i l b) s fun t => s.chip.jobDone t.chip r 1 (keyWrap key (s.chip.rdMem r.fields.src r.fields.len))) ∧
  (∀ (s : State) (q : Fin 8) (i : BitVec 10) (b : BitVec 32), ∀ r, s.chip.jobAt 0x30 q i.toNat = some r →
    ∀ k : Curve × Nat, s.chip.ecKey r false = .inr k → s.chip.bit Reg.CIU_STATUS 2 = false →
    bitOf r.fields.flags 3 = true → r.fields.len = k.1.bytes →
    s.chip.jobCan r [(r.fields.src, r.fields.len)] (2 * k.1.bytes) = true →
    Runs (.ecdsaSign q i b) s fun t =>
      t.chip.freeCtr = s.chip.freeCtr + k.1.bytes + 8 ∧
      s.chip.jobDone t.chip r 1
        (k.1.sign k.2 (k.1.fresh (s.chip.free (k.1.bytes + 8)).1) (s.chip.rdMem r.fields.src r.fields.len))) ∧
  (∀ (s : State) (q : Fin 8) (i : BitVec 10) (b : BitVec 32), ∀ r, s.chip.jobAt 0x31 q i.toNat = some r →
    ∀ cv, pubCurve r.fields.auxLen = some cv → bitOf r.fields.flags 3 = true → r.fields.len = cv.bytes →
    ∀ x, x = beVal (s.chip.rdMem r.fields.aux cv.bytes) → ∀ y, y = beVal (s.chip.rdMem (r.fields.aux + cv.bytes) cv.bytes) →
    cv.onCurve x y = true →
    s.chip.jobCan r [(r.fields.aux, r.fields.auxLen), (r.fields.src, r.fields.len + 2 * cv.bytes)] 0 = true →
    Runs (.ecdsaVerify q i b) s fun t => s.chip.jobDone t.chip r
      (if cv.verify x y (s.chip.rdMem r.fields.src r.fields.len) (s.chip.rdMem (r.fields.src + r.fields.len) (2 * cv.bytes))
       then 1 else 0x0B) []) ∧
  (∀ (s : State) (q : Fin 8) (i : BitVec 10), ∀ r, s.chip.jobAt 0x38 q i.toNat = some r →
    s.chip.bit Reg.CIU_STATUS 2 = false → s.chip.jobCan r [] r.fields.len = true →
    Runs (.drbgOutput q i) s fun t =>
      t.chip.freeCtr = s.chip.freeCtr + r.fields.len ∧ s.chip.jobDone t.chip r 1 (s.chip.free r.fields.len).1) ∧
  (∀ (s : State) (q : Fin 8) (i : BitVec 10) (l : Fin 4) (b : BitVec 32), ∀ r, s.chip.jobAt 0x19 q i.toNat = some r →
    ∀ e, e = r.fields → (e.len = 24 ∨ e.len = 40) → e.len = algBytes (attrAlg e.oattr) + 8 →
    ∀ key, s.chip.kekKey r true = .inr key → ∀ k, keyUnwrap key (s.chip.rdMem e.src e.len) = some k →
    attrAlg e.oattr ≠ 8 → s.chip.oslotStatus r = 1 → s.chip.jobCan r [(e.src, e.len)] 0 = true →
    Runs (.keyUnwrap q i l b) s fun t => s.chip.jobDone t.chip r 1 [] ∧
      t.chip.keyBytes e.oslot k.length = k ∧ attrValid (t.chip.attr e.oslot) = true ∧ fld (t.chip.attr e.oslot) 10 8 = 1) ∧
  (∀ (s : State) (q : Fin 8) (i : BitVec 10) (b : BitVec 32), ∀ r, s.chip.jobAt 0x28 q i.toNat = some r →
    ∀ e, e = r.fields → attrAlg e.oattr ≠ 8 → attrAlg e.oattr ≠ 9 →
    ∀ k, s.chip.reqKey r [5, 11] none = .inr k → s.chip.oslotStatus r = 1 →
    s.chip.jobCan r [(e.aux, e.auxLen)] 0 = true →
    Runs (.counterModeDerivation q i b) s fun t => s.chip.jobDone t.chip r 1 [] ∧
      t.chip.keyBytes e.oslot (algBytes (attrAlg e.oattr)) =
        counterKdf false (s.chip.keyBytes k 32) (s.chip.rdMem e.aux e.auxLen) (algBytes (attrAlg e.oattr)) ∧
      attrValid (t.chip.attr e.oslot) = true ∧ fld (t.chip.attr e.oslot) 10 8 = 3 ∧ fld (t.chip.attr e.oslot) 30 16 = k ∧
      bitOf (t.chip.attr e.oslot) 15 = false) ∧
  (∀ (s : State) (q : Fin 8) (i : BitVec 10) (b : BitVec 32), ∀ r, s.chip.jobAt 0x29 q i.toNat = some r →
    ∀ e, e = r.fields → attrAlg e.oattr ≠ 8 → attrAlg e.oattr ≠ 9 →
    ∀ k, s.chip.reqKey r [5, 11] none = .inr k → s.chip.oslotStatus r = 1 →
    s.chip.jobCan r [(e.aux, e.auxLen)] 0 = true →
    Runs (.singleStepDerivation q i b) s fun t => s.chip.jobDone t.chip r 1 [] ∧
      t.chip.keyBytes e.oslot (algBytes (attrAlg e.oattr)) =
        singleStepKdf false (s.chip.keyBytes k 32) (s.chip.rdMem e.aux e.auxLen) (algBytes (attrAlg e.oattr)) ∧
      attrValid (t.chip.attr e.oslot) = true ∧ fld (t.chip.attr e.oslot) 10 8 = 3 ∧ fld (t.chip.attr e.oslot) 30 16 = k ∧
      bitOf (t.chip.attr e.oslot) 15 = false) ∧
  (∀ (s : State) (q : Fin 8) (i : BitVec 10) (b : BitVec 32), ∀ r, s.chip.jobAt 0x32 q i.toNat = some r →
    ∀ e, e = r.fields → r.ctx = false → attrAlg e.oattr ≠ 8 → attrAlg e.oattr ≠ 9 →
    ∀ k : Curve × Nat, s.chip.ecKey r true = .inr k → e.auxLen = 2 * k.1.bytes → s.chip.oslotStatus r = 1 →
    ∀ x, x = beVal (s.chip.rdMem e.aux k.1.bytes) → ∀ y, y = beVal (s.chip.rdMem (e.aux + k.1.bytes) k.1.bytes) →
    k.1.onCurve x y = true → s.chip.jobCan r [(e.aux, e.auxLen)] 0 = true →
    Runs (.ecdh q i b) s fun t => s.chip.jobDone t.chip r 1 [] ∧
      t.chip.keyBytes e.oslot (algBytes (attrAlg e.oattr)) =
        (beBytes k.1.bytes ((k.1.mul 384 k.2 (some (x, y))).getD (0, 0)).1).take (algBytes (attrAlg e.oattr)) ∧
      attrValid (t.chip.attr e.oslot) = true ∧ fld (t.chip.attr e.oslot) 10 8 = 5 ∧
      fld (t.chip.attr e.oslot) 30 16 = e.slot ∧ bitOf (t.chip.attr e.oslot) 15 = false) ∧
  (∀ (s : State) (q : Fin 8) (i : BitVec 10) (b : BitVec 32), ∀ r, s.chip.jobAt 0x33 q i.toNat = some r →
    attrAlg r.fields.oattr = 8 → s.chip.bit Reg.CIU_STATUS 2 = false → s.chip.oslotStatus r = 1 →
    s.chip.jobCan r [] 64 = true →
    Runs (.keyPairGeneration q i b) s fun t =>
      (t.chip.key r.fields.oslot).toNat = curve256.fresh (s.chip.free 56).1 ∧
      attrValid (t.chip.attr r.fields.oslot) = true ∧ fld (t.chip.attr r.fields.oslot) 10 8 = 4 ∧
      (let p := (curve256.mul 384 (t.chip.key r.fields.oslot).toNat curve256.gen).getD (0, 0)
       s.chip.jobDone t.chip r 1 (beBytes 32 p.1 ++ beBytes 32 p.2))) ∧
  (∀ (s : State) (q : Fin 8) (i : BitVec 10), ∀ r, s.chip.jobAt 0x39 q i.toNat = some r →
    attrAlg r.fields.oattr ≠ 8 → attrAlg r.fields.oattr ≠ 9 → s.chip.bit Reg.CIU_STATUS 2 = false →
    s.chip.oslotStatus r = 1 → s.chip.jobCan r [] 0 = true →
    Runs (.randomKey q i) s fun t => s.chip.jobDone t.chip r 1 [] ∧
      t.chip.keyBytes r.fields.oslot (algBytes (attrAlg r.fields.oattr)) = (s.chip.free (algBytes (attrAlg r.fields.oattr))).1 ∧
      attrValid (t.chip.attr r.fields.oslot) = true ∧ fld (t.chip.attr r.fields.oslot) 10 8 = 4)

/-- R160–R166. An APDU that fits the policy, carries a new counter and verifies is opened, and its counter becomes
RX_IC; one with an old counter completes with 3 and one that does not verify with 2, and RX_IC stays; a transmitted
APDU takes TX_IC + 1. -/
def Obligations.DlmsCountersOnlyGrow : Prop :=
  (∀ (s : State) (q : Fin 8) (i : BitVec 10) (l : Fin 4) (b : BitVec 32), ∀ r, s.chip.jobAt 0x20 q i.toNat = some r →
    ∀ e, e = r.fields → ∀ n, s.chip.resident e.handle = some n → r.ctx = true → s.chip.queueLevel r.queue ≠ 0 →
    s.chip.portGated 6 = false →
    ∀ d, d = s.chip.rdMem e.src e.len → ∀ sc, sc = leAt d 0 1 → ∀ ic, ic = beVal (slice d 1 4) →
    dlmsPolicy sc (s.chip.ctx n 4 1 % 4) (s.chip.ctx n 4 1) e.len = true →
    ∀ ks, s.chip.dlmsKeys e.handle (s.chip.ctx n 4 1 % 4) = some ks → e.len ≤ 4096 →
    s.chip.jobCan r [(e.src, e.len)] e.len = true →
    (e.dst + e.len ≤ 0x40000000 ∨ 0x40400000 ≤ e.dst) → (s.chip.jobEntry r + 64 ≤ 0x40000000 ∨ 0x40400000 ≤ s.chip.jobEntry r) →
    Runs (.dlmsReceive q i l b) s fun t =>
      (let k := 12 * b2n (bitOf sc 4)
       let p := dlmsOpen ks.1 ks.2 (s.chip.rdMem (ctxAddr n + 8) 8 ++ beBytes 4 ic) (BitVec.ofNat 8 sc)
         ((d.drop 5).take (e.len - 5 - k)) (d.drop (e.len - k))
       if ic ≤ s.chip.ctx n 0x10 4 then
         t.chip.rdb (s.chip.jobEntry r + 56) = 3 ∧ t.chip.ctx n 0x10 4 = s.chip.ctx n 0x10 4
       else if p = none then t.chip.rdb (s.chip.jobEntry r + 56) = 2 ∧ t.chip.ctx n 0x10 4 = s.chip.ctx n 0x10 4
       else ∀ x, p = some x → t.chip.rdb (s.chip.jobEntry r + 56) = 1 ∧ t.chip.rdMem e.dst x.length = x ∧ t.chip.ctx n 0x10 4 = ic ∧
         t.chip.rdb (s.chip.jobEntry r + 55) = BitVec.ofNat 8 sc)) ∧
  (∀ (s : State) (q : Fin 8) (i : BitVec 10) (l : Fin 4) (b : BitVec 32), ∀ r, s.chip.jobAt 0x21 q i.toNat = some r →
    ∀ e, e = r.fields → ∀ n, s.chip.resident e.handle = some n → r.ctx = true → s.chip.queueLevel r.queue ≠ 0 →
    s.chip.portGated 6 = false →
    ∀ ks, s.chip.dlmsKeys e.handle (s.chip.ctx n 4 1 % 4) = some ks →
    ∀ tx, tx = s.chip.ctx n 0x14 4 → tx ≠ s.chip.ctx n 0x18 4 → tx ≠ 0xFFFFFFFF →
    ∀ p : List Byte × List Byte, p = dlmsSeal ks.1 ks.2 (s.chip.rdMem (ctxAddr n + 8) 8 ++ beBytes 4 (tx + 1)) (BitVec.ofNat 8 e.sc)
      (s.chip.rdMem e.src e.len) →
    ∀ out, out = leBytes 1 e.sc ++ beBytes 4 (tx + 1) ++ p.1 ++ p.2 →
    s.chip.jobCan r [(e.src, e.len)] out.length = true →
    (e.dst + out.length ≤ 0x40000000 ∨ 0x40400000 ≤ e.dst) → (s.chip.jobEntry r + 64 ≤ 0x40000000 ∨ 0x40400000 ≤ s.chip.jobEntry r) →
    Runs (.dlmsTransmit q i l b) s fun t =>
      t.chip.rdb (s.chip.jobEntry r + 56) = 1 ∧ t.chip.rdMem e.dst out.length = out ∧ t.chip.ctx n 0x14 4 = tx + 1 ∧
      (∀ a, (a < e.dst ∨ e.dst + out.length ≤ a) → (a < s.chip.jobEntry r + 55 ∨ s.chip.jobEntry r + 64 ≤ a) →
        (a < ctxAddr n + 0x14 ∨ ctxAddr n + 0x18 ≤ a) → (a < 0x50000000 ∨ 0x50300000 ≤ a) → t.chip.rdb a = s.chip.rdb a))

/-- R143–R149, R153, R167–R170. The window takes a key from one level and drops the Host's writes; a load that passes
its checks is committed and applied, an erase clears its slot, and a locked slot keeps its key; an alarm that is armed
destroys masks, aborts a derivation and begins the erase of every key; its end clears the slots and completes every
request and miss; the CIU is enabled with masks drawn, and the generator's health is kept. That LOCK is judged again when
a load takes effect, and what a second load needs, is the model's reading (log entry 95). -/
def Obligations.KeyRegisterKeepsKeys : Prop :=
  (∀ (s : State) (i : Fin 9) (v : Word) (who : Who),
    s.chip.reaches (if i.val < 8 then Reg.CIU_KEY_LOAD i.val else Reg.CIU_KEY_ATTR) = true →
    Runs (.keyWindowWrite i v who) s fun t =>
      (who.level = .host → t.chip.rd Reg.CIU_KEY_HOSTW = satInc (s.chip.rd Reg.CIU_KEY_HOSTW) ∧ t.chip.ciu = s.chip.ciu ∧
        ((s.chip.keyBusy || s.chip.ciu.winOwner.isSome) = true → t.chip.bit Reg.CIU_STATUS 3 = true)) ∧
      (who.level ≠ .host → s.chip.keyBusy = false →
        (s.chip.ciu.winOwner = none ∨ s.chip.ciu.winOwner = some who.level) →
        t.chip.ciu.winOwner = some who.level ∧
        (if i.val < 8 then Tab.get (fun _ => (0 : Word)) t.chip.ciu.winKey i = v else t.chip.ciu.winAttr = v)) ∧
      (who.level ≠ .host → (s.chip.keyBusy = true ∨ (s.chip.ciu.winOwner ≠ none ∧ s.chip.ciu.winOwner ≠ some who.level)) →
        t.chip.bit Reg.CIU_STATUS 3 = true ∧ t.chip.ciu = s.chip.ciu) ∧
      s.Only t [Reg.CIU_KEY_HOSTW, Reg.CIU_KEY_STATUS, Reg.CIU_STATUS, Reg.PIC_PEND 4]
        fun c => { c with regs := t.chip.regs, ciu := t.chip.ciu }) ∧
  (∀ (s : State) (v : Word) (who : Who), s.chip.reaches Reg.CIU_KEY_CMD = true → who.level ≠ .host → s.chip.keyBusy = false →
    (s.chip.ciu.winOwner = none ∨ s.chip.ciu.winOwner = some who.level) → bitOf v.toNat 31 = true →
    Runs (.keyLoadGo v who) s fun t =>
      (let a := attrOf s.chip.ciu.winAttr.toNat 0 0
       let r := s.chip.loadResult (v.toNat % 2 ^ 15) a s.chip.windowKey who.level
       if r = 1 then t.chip.bit Reg.CIU_KEY_STATUS 8 = true ∧ t.chip.keyBusy = true ∧ t.chip.ciu.winKey = [] ∧
         t.chip.ciu.slots = s.chip.ciu.slots
       else t.chip.rd Reg.CIU_KEY_STATUS = r % 2 ^ 32 ∧ t.chip.ciu.winOwner = none ∧ t.chip.ciu.loads = s.chip.ciu.loads) ∧
      s.Only t [Reg.CIU_KEY_STATUS] fun c => { c with regs := t.chip.regs, ciu := t.chip.ciu }) ∧
  (∀ (s : State), ∀ x, s.chip.ciu.loads.find? s.chip.loadReady = some x →
    Runs .keyLoadApply s fun t =>
      t.chip.ciu.loads = s.chip.ciu.loads.erase x ∧
      (x.erase = true → (attrLock (s.chip.attr x.slot) = false ∨ x.bySeal = true) → t.chip.slot x.slot = KeySlot.initial) ∧
      (x.erase = true → attrLock (s.chip.attr x.slot) = true → x.bySeal = false → t.chip.ciu.slots = s.chip.ciu.slots) ∧
      (x.erase = false → attrLock (s.chip.attr x.slot) = true → t.chip.ciu.slots = s.chip.ciu.slots ∧ t.chip.rd Reg.CIU_KEY_STATUS = 3) ∧
      (x.erase = false → attrLock (s.chip.attr x.slot) = false → attrAlg x.attr.toNat < 9 → attrValid (t.chip.attr x.slot) = true ∧
        (t.chip.key x.slot).toNat = x.key.toNat % 2 ^ (8 * algBytes (attrAlg x.attr.toNat)) ∧
        t.chip.rd Reg.CIU_KEY_STATUS = 1) ∧
      (x.erase = false → attrLock (s.chip.attr x.slot) = false → attrAlg x.attr.toNat = 10 →
        if s.chip.highFits x.slot x.attr.toNat x.key.toNat = true then t.chip.rd Reg.CIU_KEY_STATUS = 1 ∧
          attrValid (t.chip.attr x.slot) = true ∧ attrValid (t.chip.attr (x.slot - 1)) = true
        else t.chip.rd Reg.CIU_KEY_STATUS = 4) ∧
      (∀ k, k ≠ x.slot → k ≠ x.slot + 1 → k + 1 ≠ x.slot → t.chip.slot k = s.chip.slot k) ∧
      s.Only t [Reg.CIU_KEY_STATUS] fun c => { c with regs := t.chip.regs, ciu := t.chip.ciu }) ∧
  (∀ (s : State), s.chip.ciu.winOwner ≠ none → s.chip.keyBusy = false →
    Runs .keyWindowTimeout s fun t =>
      t.chip.ciu.winOwner = none ∧ t.chip.ciu.winKey = [] ∧ t.chip.rd Reg.CIU_KEY_STATUS = 7 ∧
      t.chip.ciu.slots = s.chip.ciu.slots ∧ s.Only t [Reg.CIU_KEY_STATUS] fun c => { c with regs := t.chip.regs, ciu := t.chip.ciu }) ∧
  (∀ (s : State) (v : Word) (who : Who), s.chip.reaches Reg.CIU_KEY_ERASE = true →
    Runs (.keyErase v who) s fun t =>
      (let k := v.toNat % 2 ^ 15
       (8192 ≤ k → t.chip.bit Reg.CIU_STATUS 4 = true ∧ t.chip.ciu = s.chip.ciu) ∧
       (k < 8192 → attrLock (s.chip.attr k) = true → who.level ≠ .seal → t = s) ∧
       (k < 8192 → (attrLock (s.chip.attr k) = false ∨ who.level = .seal) →
         (t.chip.ciu.loads.any fun x => x.slot == k && x.erase) = true)) ∧
      s.Only t [Reg.CIU_STATUS, Reg.PIC_PEND 4] fun c => { c with regs := t.chip.regs, ciu := t.chip.ciu }) ∧
  (∀ (s : State) (det : Fin 5), s.chip.coreOff = false → s.chip.bit Reg.CIU_CTRL (8 + det) = true →
    Runs (.ciuAlarm det) s fun t =>
      t.chip.bit Reg.CIU_ALARM det = true ∧
      (s.chip.ciu.erasing = none → t.chip.ciu.masks = [] ∧ t.chip.ciu.erasing ≠ none ∧ t.chip.bit Reg.CIU_CTRL 0 = false) ∧ t.chip.grd.kdf = none ∧
      t.chip.mem = s.chip.mem ∧ (t.lc.tripped = s.lc.tripped → t.leg = s.leg)) ∧
  (∀ (s : State), s.chip.ciu.erasing ≠ none →
    Runs .bulkClearDone s fun t =>
      t.chip.ciu.slots = [] ∧ t.chip.ciu.sessHandle = [] ∧ t.chip.ciu.erasing = none ∧ t.chip.bit Reg.CIU_STATUS 1 = true ∧
      t.chip.ciu.inflight = [] ∧ t.chip.ciu.misses = [] ∧ t.chip.ciu.masks = s.chip.ciu.masks ∧
      (s.chip.ciu.inflight = [] → s.chip.ciu.misses = [] →
        s.Only t (Reg.CIU_STATUS :: recordRegs) fun c => { c with regs := t.chip.regs, ciu := t.chip.ciu, ember := t.chip.ember })) ∧
  (∀ (s : State), s.chip.reaches Reg.CIU_CTRL = true → s.chip.tamperLine = false → s.chip.fl Reg.CIU_ALARM 4 0 = 0 →
    (s.chip.ciu.masks ≠ [] ∨ s.chip.bit Reg.CIU_STATUS 2 = false) →
    Runs .ciuEnable s fun t =>
      t.chip.bit Reg.CIU_CTRL 0 = true ∧ t.chip.bit Reg.CIU_STATUS 0 = true ∧ t.chip.ciu.masks ≠ [] ∧
      (s.chip.ciu.masks ≠ [] → t.chip.ciu.masks = s.chip.ciu.masks) ∧
      s.Only t [Reg.CIU_CTRL, Reg.CIU_STATUS]
        fun c => { c with regs := t.chip.regs, ciu := t.chip.ciu, freeCtr := t.chip.freeCtr }) ∧
  (∀ (s : State), s.chip.reaches Reg.CIU_CTRL = true →
    Runs .ciuDisable s fun t =>
      t.chip.bit Reg.CIU_CTRL 0 = false ∧ t.chip.bit Reg.CIU_STATUS 0 = false ∧
      s.Only t [Reg.CIU_CTRL, Reg.CIU_STATUS] fun c => { c with regs := t.chip.regs }) ∧
  (∀ (s : State) (ok : Bool), s.chip.reaches Reg.CIU_CTRL = true →
    Runs (.reseed ok) s fun t =>
      t.chip.bit Reg.CIU_STATUS 2 = !ok ∧ t.chip.bit Reg.CIU_CTRL 2 = false ∧ t.chip.ciu.slots = s.chip.ciu.slots ∧
      s.Only t [Reg.CIU_CTRL, Reg.CIU_STATUS] fun c => { c with regs := t.chip.regs, ciu := t.chip.ciu }) ∧
  (∀ (s : State) (a : Bool),
    Runs (.entropyHealthFailure a) s fun t =>
      t.chip.bit Reg.CIU_STATUS 2 = true ∧
      (if a then t.chip.fl Reg.CIU_DRBG_HEALTH 31 16 = min (s.chip.fl Reg.CIU_DRBG_HEALTH 31 16 + 1) 65535
       else t.chip.fl Reg.CIU_DRBG_HEALTH 15 0 = min (s.chip.fl Reg.CIU_DRBG_HEALTH 15 0 + 1) 65535) ∧
      s.Only t [Reg.CIU_DRBG_HEALTH, Reg.CIU_STATUS] fun c => { c with regs := t.chip.regs })

/-- R138–R142, R150–R156, R493. A look-up of a resident context is a hit and of another a miss that takes a way; a fetch of
a good record fills the way, from the write-back buffer what was written back last, and a bad one is counted; an evicted
context is written back; a flush is busy until it ends with DONE, and INVAL frees the way with the write-back; a session
look-up hits or waits for its unwrap, unless its pod's context is absent; an invalidation erases an unpinned session; the CIU takes the next entry. That the
way is freed together with the write-back, and that write-backs of one handle complete in order, is the model's reading
(log entry 95). -/
def Obligations.ContextsAndSessionsAreFound : Prop :=
  (∀ (s : State), s.chip.bit Reg.APC_HCX_CTRL 0 = true → s.chip.hcxUp = true → s.chip.hcx.waiting = [] →
    ∀ p h, (s.chip.flo.reqs.find? fun r => match r with | .hcx _ _ => true | _ => false) = some (.hcx p h) →
    s.chip.flushing h.toNat = false →
    Runs .hcxLookup s fun t =>
      (if (s.chip.resident h.toNat).isSome then t.chip.rd Reg.APC_HCX_HIT = satInc (s.chip.rd Reg.APC_HCX_HIT)
       else t.chip.rd Reg.APC_HCX_MISS = satInc (s.chip.rd Reg.APC_HCX_MISS) ∧
         ((t.chip.hcx.moves.any fun m => m.handle == h && m.pods.contains p) = true ∨
           (⟨p, h, true, true⟩ ∈ t.chip.hcx.waiting ∧ t.chip.rd Reg.APC_HCX_WAIT = satInc (s.chip.rd Reg.APC_HCX_WAIT)))) ∧
      t.lc = s.lc ∧ t.leg = s.leg ∧ t.chip.ciu.slots = s.chip.ciu.slots) ∧
  (∀ (s : State) (n : BitVec 14), ∀ m, (s.chip.hcx.moves.find? fun m => m.way == n.toNat && m.out.isNone) = some m →
    s.chip.hcxUp = true → s.chip.resident m.handle.toNat = none → s.chip.judge 11 false false (s.chip.recordAddr m.handle) 512 = .ok →
    Runs (.hcxFetchDone n) s fun t =>
      t.chip.hcx.moves = s.chip.hcx.moves.erase m ∧
      (recordGood (s.chip.rdMem (s.chip.recordAddr m.handle) 512) = true →
        t.chip.hway n.toNat = ⟨m.handle, true, false⟩ ∧ t.chip.ctx n.toNat 0 4 = 2 ^ 20 + m.handle.toNat ∧
        (s.chip.writeBuffer m.handle.toNat = none →
          t.chip.rdMem (ctxAddr n.toNat + 4) 252 = s.chip.rdMem (s.chip.recordAddr m.handle + 4) 252) ∧
        (∀ b, s.chip.writeBuffer m.handle.toNat = some b → b.length = 256 → t.chip.rdMem (ctxAddr n.toNat + 4) 252 = b.drop 4)) ∧
      (recordGood (s.chip.rdMem (s.chip.recordAddr m.handle) 512) = false → t.chip.hway n.toNat = s.chip.hway n.toNat) ∧
      (m.pods = [] → (∀ a, a < ctxAddr n.toNat ∨ ctxAddr n.toNat + 256 ≤ a → t.chip.rdb a = s.chip.rdb a) ∧
        s.Only t transferRegs fun c => { c.met t.chip with regs := t.chip.regs, hcx := t.chip.hcx, mem := t.chip.mem })) ∧
  (∀ (s : State) (n : BitVec 14), ∀ m, (s.chip.hcx.moves.find? fun m => m.way == n.toNat && m.out.isSome) = some m →
    s.chip.hcxUp = true → ∀ o : BitVec 20 × List Byte, m.out = some o → (s.chip.hcx.moves.find? fun m => m.writes o.1.toNat) = some m → s.chip.judge 11 false true (s.chip.recordAddr o.1) o.2.length = .ok →
    Runs (.hcxWritebackDone n) s fun t =>
      t.chip.rdMem (s.chip.recordAddr o.1) o.2.length = o.2 ∧
      t.chip.rd Reg.APC_HCX_EVICT = satInc (s.chip.rd Reg.APC_HCX_EVICT) ∧
      (∀ a, a < s.chip.recordAddr o.1 ∨ s.chip.recordAddr o.1 + o.2.length ≤ a → t.chip.rdb a = s.chip.rdb a) ∧
      s.Only t (Reg.APC_HCX_EVICT :: transferRegs)
        fun c => { c.met t.chip with regs := t.chip.regs, hcx := t.chip.hcx, mem := t.chip.mem }) ∧
  (∀ (s : State) (v : Word), s.chip.reaches Reg.APC_HCX_FLUSH = true →
    Runs (.hcxFlush v) s fun t =>
      (s.chip.hcx.flush ≠ none → t.chip.bit Reg.APC_HCX_STATUS 2 = true ∧ t.chip.hcx = s.chip.hcx) ∧
      (s.chip.hcx.flush = none → (s.chip.resident (v.toNat % 2 ^ 20)).isSome = true →
        t.chip.hcx.flush = some ⟨BitVec.ofNat 20 v.toNat, bitOf v.toNat 31, false⟩ ∧
        t.chip.bit Reg.APC_HCX_STATUS 0 = true) ∧
      (s.chip.hcx.flush = none → s.chip.resident (v.toNat % 2 ^ 20) = none → s.chip.writeBuffer (v.toNat % 2 ^ 20) = none →
        t.chip.hcx.flush = none ∧ t.chip.bit Reg.APC_HCX_STATUS 1 = true ∧ t.chip.bit Reg.APC_HCX_STATUS 0 = false) ∧
      s.Only t [Reg.APC_HCX_STATUS, Reg.PIC_PEND 4] fun c => { c with regs := t.chip.regs, hcx := t.chip.hcx }) ∧
  (∀ (s : State), ∀ f, s.chip.hcx.flush = some f → s.chip.hcxUp = true →
    (if (s.chip.resident f.handle.toNat).isSome then f.written else (s.chip.writeBuffer f.handle.toNat).isNone) = true →
    Runs .hcxFlushDone s fun t =>
      t.chip.hcx = { s.chip.hcx with flush := none } ∧ t.chip.bit Reg.APC_HCX_STATUS 1 = true ∧ t.chip.bit Reg.APC_HCX_STATUS 0 = false ∧
      s.Only t [Reg.APC_HCX_STATUS, Reg.PIC_PEND 4] fun c => { c with regs := t.chip.regs, hcx := t.chip.hcx }) ∧
  (∀ (s : State), s.chip.sessUp = true →
    ∀ p h, (s.chip.flo.reqs.find? fun r => match r with | .key _ _ => true | _ => false) = some (.key p h) →
    Runs .sessionLookup s fun t =>
      (if (s.chip.sessFind h.toNat).isSome then t.chip.rd Reg.CIU_SESS_HIT = satInc (s.chip.rd Reg.CIU_SESS_HIT)
       else t.chip.rd Reg.CIU_SESS_MISS = satInc (s.chip.rd Reg.CIU_SESS_MISS) ∧
         t.chip.ciu.misses =
           if (s.chip.pod p.toNat).hcxAbsent then s.chip.ciu.misses else s.chip.ciu.misses ++ [⟨p, h, false⟩]) ∧
      t.chip.ciu.slots = s.chip.ciu.slots ∧ t.lc = s.lc ∧ t.leg = s.leg) ∧
  (∀ (s : State) (p : BitVec 10), ∀ m, (s.chip.ciu.misses.find? fun m => m.pod == p) = some m →
    ∀ n, s.chip.resident m.handle.toNat = some n → s.chip.sessUp = true → s.chip.ctx n 4 1 % 4 < 2 →
    s.chip.sessFind m.handle.toNat = none → ∀ w, s.chip.sessChoose m.handle.toNat false = some w →
    s.chip.judge 5 false false (s.chip.recordAddr m.handle + 0x100) 82 = .ok →
    ∀ ks, ((s.chip.sessEraseWay m.handle.toNat w).unwrapSession (s.chip.ctx n 4 1 % 4)
      (s.chip.rdMem (s.chip.recordAddr m.handle + 0x100) 80)
      (s.chip.rdLe (s.chip.recordAddr m.handle + 0x150) 2 % 2 ^ 15)) = some ks →
    Runs (.sessionUnwrapDone p) s fun t =>
      t.chip.sessFind m.handle.toNat ≠ none ∧ t.chip.ciu.misses = s.chip.ciu.misses.erase m ∧ t.lc = s.lc ∧ t.leg = s.leg) ∧
  (∀ (s : State) (v : Word), s.chip.reaches Reg.CIU_SESS_INVAL = true → s.chip.ciu.sessInval = [] →
    Runs (.sessInval v) s fun t =>
      (if s.chip.pinned (v.toNat % 2 ^ 20) then t.chip.ciu.sessInval = [BitVec.ofNat 20 v.toNat] ∧ t.chip.ciu.slots = s.chip.ciu.slots
       else t.chip.ciu.sessInval = [] ∧ (∀ w, s.chip.sessFind (v.toNat % 2 ^ 20) = some w →
         attrValid (t.chip.attr (sessSlot (v.toNat % 2 ^ 20) w)) = false)) ∧
      s.Only t [] fun c => { c with ciu := t.chip.ciu }) ∧
  (∀ (s : State), s.chip.ciuUp = true → s.chip.bit Reg.CIU_CTRL 1 = false → s.chip.ciu.erasing = none →
    s.chip.ciu.inflight.length < 256 → ∀ x : Nat × Nat, s.chip.nextQueue = some x → (x.1 = 7 → s.chip.cryBound = false) →
    ∀ a, a = s.chip.queueEntry x.1 (s.chip.fetchedIdx x.1) →
    s.chip.judge 5 (s.chip.queueLevel x.1 == 0) false a 64 = .ok →
    ciuOps.contains (leAt (s.chip.rdMem a 64) 0 1) = true → bitOf (leAt (s.chip.rdMem a 64) 1 1) 2 = false →
    Runs .ciuRequestAccept s fun t =>
      t.chip.ciu.inflight = s.chip.ciu.inflight ++ [⟨x.1, s.chip.fetchedIdx x.1, s.chip.rdMem a 64, s.chip.ciu.accepted, none⟩] ∧
      t.chip.ciu.accepted = s.chip.ciu.accepted + 1 ∧ s.Only t [] fun c => { c with ciu := t.chip.ciu }) ∧
  (∀ (s : State) (n : BitVec 14), ∀ f, s.chip.hcx.flush = some f → f.written = false → s.chip.resident f.handle.toNat = some n.toNat →
    (s.chip.hcx.moves.all fun m => m.way != n.toNat) = true → s.chip.pinned f.handle.toNat = false →
    s.chip.hcxUp = true → s.chip.writeBuffer f.handle.toNat = none →
    s.chip.judge 11 false true (s.chip.recordAddr f.handle) 256 = .ok →
    Runs (.hcxWritebackDone n) s fun t =>
      t.chip.rdMem (s.chip.recordAddr f.handle) 256 = s.chip.rdMem (ctxAddr n.toNat) 256 ∧
      t.chip.hcx.flush = some { f with written := true } ∧
      t.chip.hway n.toNat = (if f.inval then HcxWay.initial else { s.chip.hway n.toNat with held := false }) ∧
      (∀ a, a < s.chip.recordAddr f.handle ∨ s.chip.recordAddr f.handle + 256 ≤ a → t.chip.rdb a = s.chip.rdb a))

/-! ### 06_flow_scheduler.md -/

/-- R175, R176, R180, R185. The source in turn gives its oldest operand the pod at the head of the free list; the oldest
unbound pod takes the next SEQ of its cord; neither touches another pod. A pod in WAIT that times out is filled. -/
def Obligations.PodsAreAllocatedAndBound : Prop :=
  (∀ (s : State), s.chip.pair.queue = [] → s.chip.pairState ≠ 2 → ∀ q, s.chip.allocSource = some q →
    ∀ a rest, s.chip.allocQueue q = a :: rest → s.chip.replayWait a = false →
    ∀ n free, s.chip.flo.freeList = n :: free →
    Runs .podAllocate s fun t =>
      t.chip.allocQueue q = rest ∧ t.chip.flo.srcNext = q ∧ t.chip.flo.freeList = free ∧
      t.chip.flo.ticket = s.chip.flo.ticket + 1 ∧
      (t.chip.pod n.toNat).gen = (s.chip.pod n.toNat).gen + 1 ∧ (t.chip.pod n.toNat).alloc = a ∧
      (t.chip.pod n.toNat).ticket = s.chip.flo.ticket ∧
      ((t.chip.pod n.toNat).state = if (t.chip.pod n.toNat).complete then .ready else .wait) ∧
      (∀ p : Fin 1024, p.val ≠ n.toNat → t.chip.pod p = s.chip.pod p) ∧
      t.chip.flo.cords = s.chip.flo.cords ∧ t.chip.flo.cores = s.chip.flo.cores ∧
      t.chip.rd Reg.FLO_ALLOC_WAIT = satAdd (s.chip.rd Reg.FLO_ALLOC_WAIT)
        ((List.range 6).filter fun x => x != q && !(s.chip.allocQueue x).isEmpty).length ∧
      s.Only t ([Reg.FLO_ALLOC_WAIT, Reg.FLO_POD_HWM, Reg.BKB_PAIR_TXFRM] ++ transferRegs)
        fun c => { c.met t.chip with regs := t.chip.regs, flo := t.chip.flo, pair := t.chip.pair }) ∧
  (∀ (s : State), ∀ n rest, s.chip.flo.unbound = n :: rest → ∀ k, (s.chip.pod n.toNat).cord = some k →
    ((s.chip.cord k.toNat).next - (s.chip.cord k.toNat).rel).toNat < 256 →
    Runs .cordBind s fun t =>
      (t.chip.pod n.toNat) = { s.chip.pod n.toNat with binding := .bound k (s.chip.cord k.toNat).next } ∧
      t.chip.cord k.toNat = { s.chip.cord k.toNat with next := (s.chip.cord k.toNat).next + 1 } ∧
      t.chip.flo = { s.chip.flo with unbound := rest, pods := t.chip.flo.pods, cords := t.chip.flo.cords } ∧
      (∀ p : Fin 1024, p.val ≠ n.toNat → t.chip.pod p = s.chip.pod p) ∧
      (∀ j : Fin 4096, j.val ≠ k.toNat → t.chip.cord j = s.chip.cord j) ∧
      (∀ x, (∀ e, s.chip.podEntry n.toNat = some e → x < inboxAddr (s.chip.pod n.toNat).core e ∨ inboxAddr (s.chip.pod n.toNat).core e + 128 ≤ x) → t.chip.rdb x = s.chip.rdb x) ∧
      s.Only t [] fun c => { c with flo := t.chip.flo, mem := t.chip.mem }) ∧
  (∀ (s : State) (p : BitVec 10), (s.chip.pod p.toNat).state = .wait → s.chip.fl Reg.FLO_POD_TMO 23 0 ≠ 0 →
    Runs (.podTimeout p) s fun t =>
      (t.chip.pod p.toNat).state = .ready ∧
      (t.chip.pod p.toNat).slots = ((s.chip.pod p.toNat).fillVoid 1).slots ∧
      t.chip.readyList (s.chip.pod p.toNat).alloc.cls.toNat = s.chip.readyList (s.chip.pod p.toNat).alloc.cls.toNat ++ [p] ∧
      t.chip.rd Reg.FLO_POD_TMOCNT = satInc (s.chip.rd Reg.FLO_POD_TMOCNT) ∧
      (∀ q : Fin 1024, q.val ≠ p.toNat → t.chip.pod q = s.chip.pod q) ∧
      s.Only t [Reg.FLO_POD_TMOCNT] fun c =>
        { c with regs := t.chip.regs, flo := { c.flo with pods := t.chip.flo.pods, ready := t.chip.flo.ready } })

/-- R174, R175, R177, R178. An operand fills the lowest empty slot that expects it and gives back its hold; one that meets no
slot, or whose request another has replaced, is counted, and the news that a context is absent ends the pod's session misses
also then; a software post
that names another generation is dropped and counted, and PORT_POST answers in its own status. That BAL answers a pod's
requests in their order is the model's reading (log entry 96). -/
def Obligations.OperandsFillTheirSlots : Prop :=
  (∀ (s : State) (p : BitVec 10) (kind : BitVec 4) (status : Byte) (value : BitVec 64),
    s.chip.portGated 5 = false → (kind = 6 → (s.chip.pod p.toNat).staleFmt = 0) → kind ≠ 4 →
    ∀ i, (s.chip.pod p.toNat).slotFor kind = some i →
    Runs (.podOperandPost p kind status value) s fun t =>
      (t.chip.pod p.toNat).slots = (s.chip.pod p.toNat).slots.set i ⟨kind, some ⟨kind, status, value⟩⟩ ∧
      (t.chip.pod p.toNat).holds = (s.chip.pod p.toNat).holds - 1 ∧
      ((t.chip.pod p.toNat).state = if (s.chip.pod p.toNat).state = .wait ∧ (t.chip.pod p.toNat).complete = true then .ready
        else (s.chip.pod p.toNat).state) ∧
      (∀ q : Fin 1024, q.val ≠ p.toNat → t.chip.pod q = s.chip.pod q) ∧
      (∀ x, (x < 0x50000000 ∨ 0x50300000 ≤ x) → t.chip.rdb x = s.chip.rdb x) ∧
      s.Only t [] fun c =>
        { c with flo := { c.flo with pods := t.chip.flo.pods, ready := t.chip.flo.ready }, mem := t.chip.mem }) ∧
  (∀ (s : State) (p : BitVec 10) (kind : BitVec 4) (status : Byte) (value : BitVec 64),
    s.chip.portGated 5 = false → ∀ x, x = s.chip.pod p.toNat → (kind = 6 ∧ 0 < x.staleFmt ∨ x.slotFor kind = none) →
    ∀ gone : Bool, gone = decide (kind = 4 ∧ status = 2) → ∀ waits, waits = s.chip.ciu.misses.filter (fun m => m.pod == p) →
    Runs (.podOperandPost p kind status value) s fun t =>
      t.chip.pod p.toNat = { x with
        holds := x.holds - 1 - (if gone then waits.length else 0), ctxGone := x.ctxGone || gone
        fmtReqs := if kind = 6 then x.fmtReqs - 1 else x.fmtReqs, staleFmt := if kind = 6 then x.staleFmt - 1 else x.staleFmt } ∧
      t.chip.ciu.misses = (if gone then s.chip.ciu.misses.filter (fun m => m.pod != p) else s.chip.ciu.misses) ∧
      (let r := if x.state = .free then Reg.FLO_OPND_STALE
         else if x.slots.any (fun y => y.exp == kind && y.op.isSome) then Reg.FLO_OPND_DUP
         else Reg.FLO_OPND_UNEXP
       t.chip.rd r = satInc (s.chip.rd r) ∧
       s.Only t [r] fun c => { c with
         regs := t.chip.regs, flo := { c.flo with pods := t.chip.flo.pods }, ciu := { c.ciu with misses := t.chip.ciu.misses } })) ∧
  (∀ (s : State) (v : Word), s.chip.reaches (Reg.FLO_OPND_POST 3) = true → ∀ b, b = wordsBytes (s.chip.flo.post ++ [v]) → isAlloc b = false →
    ∀ p, p = leAt b 0 2 % 1024 →
    (if (s.chip.pod p).state = .free ∨ (s.chip.pod p).gen ≠ BitVec.ofNat 8 (leAt b 2 1) then
      Runs (.softwareOperandPost v) s fun t =>
        t.chip.rd Reg.FLO_POST_STATUS = 1 ∧ t.chip.rd Reg.FLO_OPND_STALE = satInc (s.chip.rd Reg.FLO_OPND_STALE) ∧
        s.Only t [Reg.FLO_POST_STATUS, Reg.FLO_OPND_STALE] fun c => { c with regs := t.chip.regs }
    else
      (4 ≤ (PodOp.ofBytes b).kind.toNat ∧ (PodOp.ofBytes b).kind.toNat ≤ 10) →
      ((s.chip.pod p).slotFor (PodOp.ofBytes b).kind).isSome = true →
      Runs (.softwareOperandPost v) s fun t =>
        t.chip.rd Reg.FLO_POST_STATUS = 0 ∧
        s.OnlyIn t (fun r => r == Reg.FLO_POST_STATUS || r == Reg.FLO_OPND_UNEXP || r == Reg.FLO_OPND_DUP) fun c =>
          { c with regs := t.chip.regs, flo := t.chip.flo, ciu := t.chip.ciu, mem := t.chip.mem })) ∧
  (∀ (s : State) (v : Word), s.chip.reaches (Reg.FLO_OPND_POST 3) = true → s.chip.pairState ≠ 2 → ∀ b, b = wordsBytes (s.chip.flo.post ++ [v]) → isAlloc b = true →
    Runs (.softwareOperandPost v) s fun t =>
      (if (s.chip.allocQueue 5).length < 16 then
         t.chip.allocQueue 5 = s.chip.allocQueue 5 ++ [{ AllocOp.ofBytes b with src := 5 }] ∧ t.chip.rd Reg.FLO_POST_STATUS = 0
       else t.chip.allocQueue 5 = s.chip.allocQueue 5 ∧ t.chip.rd Reg.FLO_POST_STATUS = 4) ∧
      (∀ q : Fin 5, t.chip.allocQueue q = s.chip.allocQueue q) ∧
      s.Only t [Reg.FLO_POST_STATUS] fun c =>
        { c with regs := t.chip.regs, flo := { c.flo with queues := t.chip.flo.queues } }) ∧
  (∀ (s : State) (n : Fin 24) (v : Word), ∀ b, b = wordsBytes ((s.chip.fcore n).post ++ [v]) → isAlloc b = true →
    ∀ a, a = { AllocOp.ofBytes b with src := 6 } →
    Runs (.portPost n v) s fun t =>
      (if s.chip.mayAllocate a then
         (t.chip.fcore n).postst = BitVec.ofNat 32 (((s.chip.flo.freeList.head?).getD 0).toNat * 256) ∧
         (t.chip.pod ((s.chip.flo.freeList.head?).getD 0).toNat).alloc = a ∧ t.chip.flo.freeList = s.chip.flo.freeList.tail
       else (t.chip.fcore n).postst = 2 ∧ t.chip.flo.pods = s.chip.flo.pods ∧ t.chip.flo.freeList = s.chip.flo.freeList) ∧
      (∀ m : Fin 24, m ≠ n → t.chip.fcore m = s.chip.fcore m) ∧
      s.Only t [Reg.FLO_POD_HWM] fun c => { c with regs := t.chip.regs, flo := t.chip.flo }) ∧
  (∀ (s : State), s.chip.balUp = true → s.chip.portGated 5 = false → ∀ (pod : BitVec 10) (i : BitVec 8), ∀ rest, s.chip.flo.reqs = .fmt pod i :: rest →
    (s.chip.pod pod.toNat).staleFmt = 0 → (s.chip.pod pod.toNat).slotFor 6 = some 2 →
    Runs .fmtLookup s fun t =>
      t.chip.flo.reqs = rest ∧
      (t.chip.pod pod.toNat).slots = (s.chip.pod pod.toNat).slots.set 2 ⟨6, some ⟨6,
        BitVec.ofNat 8 (b2n (leAt (s.chip.balRead (s.chip.balBase 0 + i.toNat * 512) 16).1 1 1 == 0)),
        BitVec.ofNat 64 (s.chip.balBase 0 + i.toNat * 512)⟩⟩ ∧
      s.Only t transferRegs fun c => { c.met t.chip with
        regs := t.chip.regs, flo := t.chip.flo, mem := t.chip.mem })

/-- R182, R183, R186, R187. One pod from the head of the chosen class goes to the core of its cord, or to the least loaded
eligible core; a due pod is released, its completion goes to the ring pair of its class, its cord moves on and the pod joins
the free list. -/
def Obligations.PodsAreDispatchedAndReleased : Prop :=
  (∀ (s : State), s.chip.working = true → s.chip.bit Reg.FLO_CTRL 0 = true → s.chip.bit Reg.FLO_CTRL 2 = false →
    ∀ k, s.chip.chooseClass.map (·.1) = some k → ∀ p rest, s.chip.readyList k = p :: rest →
    ∀ n, (s.chip.affine p.toNat).or (s.chip.leastLoaded k) = some n →
    Runs .podDispatch s fun t =>
      t.chip.readyList k = rest ∧
      t.chip.pod p.toNat = { s.chip.pod p.toNat with state := .queued, core := n } ∧
      (t.chip.fcore n).inbox = (s.chip.fcore n).inbox ++ [((s.chip.fcore n).freeEntry, p.toNat)] ∧
      (let r := if (s.chip.affine p.toNat).isSome then Reg.FLO_CORE_AFF n else Reg.FLO_CORE_OVF n
       t.chip.rd r = satInc (s.chip.rd r)) ∧
      (∀ q : Fin 1024, q.val ≠ p.toNat → t.chip.pod q = s.chip.pod q) ∧
      (∀ m : Fin 24, m.val ≠ n → t.chip.fcore m = s.chip.fcore m) ∧
      (∀ x, (x < inboxAddr n (s.chip.fcore n).freeEntry ∨ inboxAddr n (s.chip.fcore n).freeEntry + 128 ≤ x) →
        t.chip.rdb x = s.chip.rdb x) ∧
      s.Only t [Reg.FLO_CORE_AFF n, Reg.FLO_CORE_OVF n, Reg.FLO_CORE_DISP n, Reg.FLO_CORE_QMAX n] fun c =>
        { c with regs := t.chip.regs, mem := t.chip.mem, flo := { c.flo with
          pods := t.chip.flo.pods, ready := t.chip.flo.ready, prioTurn := t.chip.flo.prioTurn, rr := t.chip.flo.rr,
          cords := t.chip.flo.cords, cores := t.chip.flo.cores } }) ∧
  (∀ (s : State), s.chip.duePods true = [] → ∀ n, s.chip.nextDue.map (·.1) = some n →
    ∀ p, s.chip.nextDue.map (·.2) = some p → s.chip.destOf p = none → (p.cpl.getD 1 0).toNat % 256 = 0 →
    Runs .podRelease s fun t =>
      (t.chip.pod n).state = .free ∧ (t.chip.pod n).gen = p.gen ∧
      t.chip.flo.freeList = s.chip.flo.freeList ++ [BitVec.ofNat 10 n] ∧
      (∀ k : BitVec 12, ∀ q : BitVec 20, p.binding = .bound k q → (t.chip.cord k.toNat).rel = (s.chip.cord k.toNat).rel + 1) ∧
      t.chip.rd Reg.FLO_REL_CNT = satInc (s.chip.rd Reg.FLO_REL_CNT) ∧
      s.OnlyIn t (fun r => r == Reg.FLO_REL_CNT || decide (0x500000 ≤ r ∧ r < 0x600000)) fun c => { c with
        regs := t.chip.regs, flo := { c.flo with
          pods := t.chip.flo.pods, freeList := t.chip.flo.freeList, cords := t.chip.flo.cords, cordTurn := t.chip.flo.cordTurn,
          reqs := t.chip.flo.reqs },
        ciu := t.chip.ciu, hcx := t.chip.hcx, mem := t.chip.mem }) ∧
  (∀ (s : State), s.chip.duePods true = [] → s.chip.portGated 0 = false → ∀ n, s.chip.nextDue.map (·.1) = some n →
    ∀ p, s.chip.nextDue.map (·.2) = some p → ∀ x, x = cplOf ((s.chip.destOf p).getD 0) p →
    Runs .podRelease s fun t =>
      (t.chip.pod n).state = .free ∧ (t.chip.pod n).gen = p.gen ∧
      t.chip.flo.freeList = s.chip.flo.freeList ++ [BitVec.ofNat 10 n] ∧
      (∀ k : BitVec 12, ∀ q : BitVec 20, p.binding = .bound k q → (t.chip.cord k.toNat).rel = (s.chip.cord k.toNat).rel + 1) ∧
      t.chip.ring.cpls = s.chip.ring.cpls ++ (if (s.chip.destOf p).isSome then [x] else []) ∧
      t.chip.ring.posted = s.chip.ring.posted ++ (if x.kind = 2 then [⟨0x0002, s.chip.time, padTo 48 x.body⟩] else []) ∧
      t.chip.crp.energy = (if (x.kind = 1 ∨ x.kind = 3) ∧ s.chip.bit Reg.CRP_NRG_CTRL 8 = true
        then s.chip.crp.energy.set 12 ((s.chip.crp.energy.getD 12 0 + 1) % 2 ^ 64) else s.chip.crp.energy) ∧
      t.chip.rd Reg.FLO_REL_CNT = satInc (s.chip.rd Reg.FLO_REL_CNT) ∧
      s.Only t [Reg.FLO_REL_CNT] fun c => { c with
        regs := t.chip.regs, flo := { c.flo with
          pods := t.chip.flo.pods, freeList := t.chip.flo.freeList, cords := t.chip.flo.cords, cordTurn := t.chip.flo.cordTurn }
        ring := { c.ring with cpls := t.chip.ring.cpls, posted := t.chip.ring.posted }
        crp := { c.crp with energy := t.chip.crp.energy }, ciu := t.chip.ciu })

/-- R188–R192. PORT_TAKE moves the oldest pod of the inbox to RUN; parking returns the running pod to WAIT or READY and
finishing makes it DONE; a core reset returns its pods with INTR set, forgets the core's affinity and counts the time it ends; a
core start clears RESET. That PORT_PARK takes the allocation operand from the inbox and the pod keeps its class is the model's
choice (log 83). -/
def Obligations.FlowCoresRunOnePod : Prop :=
  (∀ (s : State) (n : Fin 24) (w : BitVec 32), s.chip.coreHeld n = false → (s.chip.fcore n).run = none →
    ∀ e rest, (s.chip.fcore n).inbox = e :: rest →
    Runs (.portTake n w) s fun t =>
      t.chip.fcore n = { s.chip.fcore n with inbox := rest, run := some e, stalled := false, take := BitVec.ofNat 32 (e.2 + e.1 * 2 ^ 16) } ∧
      t.chip.pod e.2 = { s.chip.pod e.2 with state := .run } ∧
      t.chip.resp = .data (leBytes 4 (e.2 + e.1 * 2 ^ 16)) ∧
      (∀ q : Fin 1024, q.val ≠ e.2 → t.chip.pod q = s.chip.pod q) ∧ (∀ m : Fin 24, m ≠ n → t.chip.fcore m = s.chip.fcore m) ∧
      s.Only t [Reg.FLO_CORE_WHIST n (waitBin w.toNat)] fun c => { c with
        regs := t.chip.regs, resp := t.chip.resp, flo := { c.flo with pods := t.chip.flo.pods, cores := t.chip.flo.cores } }) ∧
  (∀ (s : State) (n : Fin 24) (w i : BitVec 32), (s.chip.fcore n).stalled = true →
    ∀ e rest, (s.chip.fcore n).inbox = e :: rest →
    Runs (.portTakeResume n w i) s fun t =>
      (t.chip.fcore n).run = some e ∧ (t.chip.fcore n).inbox = rest ∧ (t.chip.fcore n).stalled = false ∧
      t.chip.resp = .data (leBytes 4 (e.2 + e.1 * 2 ^ 16)) ∧
      t.chip.rd (Reg.FLO_CORE_IDLE n) = satAdd (s.chip.rd (Reg.FLO_CORE_IDLE n)) i.toNat ∧
      s.Only t [Reg.FLO_CORE_WHIST n (waitBin w.toNat), Reg.FLO_CORE_IDLE n] fun c => { c with
        regs := t.chip.regs, resp := t.chip.resp, flo := { c.flo with pods := t.chip.flo.pods, cores := t.chip.flo.cores } }) ∧
  (∀ (s : State) (n : Fin 24) (v : Word), ∀ e, (s.chip.fcore n).run = some e →
    Runs (.portExpect n v) s fun t =>
      t.chip.pod e.2 = { s.chip.pod e.2 with slots := rearm (s.chip.pod e.2).slots v.toNat } ∧
      (∀ q : Fin 1024, q.val ≠ e.2 → t.chip.pod q = s.chip.pod q) ∧
      (∀ x, (x < 0x50000000 ∨ 0x50300000 ≤ x) → t.chip.rdb x = s.chip.rdb x) ∧
      s.Only t [] fun c => { c with mem := t.chip.mem, flo := { c.flo with pods := t.chip.flo.pods } }) ∧
  (∀ (s : State) (n : Fin 24) (v : Word), (s.chip.fcore n).run = none →
    Runs (.portExpect n v) s fun t =>
      (t.chip.fcore n).err.toNat = satInc (s.chip.fcore n).err.toNat ∧ t.chip.flo.pods = s.chip.flo.pods ∧
      (∀ m : Fin 24, m ≠ n → t.chip.fcore m = s.chip.fcore m) ∧
      s.Only t [] fun c => { c with flo := { c.flo with cores := t.chip.flo.cores } }) ∧
  (∀ (s : State) (n : Fin 24) (us : BitVec 32), ∀ e, (s.chip.fcore n).run = some e →
    Runs (.portPark n us) s fun t =>
      (t.chip.fcore n).run = none ∧ (t.chip.pod e.2).intr = (s.chip.pod e.2).intr ∧
      ((t.chip.pod e.2).state = if (t.chip.pod e.2).complete then .ready else .wait) ∧
      (t.chip.pod e.2).alloc = { AllocOp.ofBytes (s.chip.rdMem (inboxAddr n e.1 + 0x10) 16) with cls := (s.chip.pod e.2).alloc.cls } ∧
      t.chip.rd (Reg.FLO_CORE_BUSY n) = satAdd (s.chip.rd (Reg.FLO_CORE_BUSY n)) us.toNat ∧
      (∀ q : Fin 1024, q.val ≠ e.2 → t.chip.pod q = s.chip.pod q) ∧
      s.Only t [Reg.FLO_CORE_BUSY n] fun c => { c with regs := t.chip.regs, flo := { c.flo with
        pods := t.chip.flo.pods, cores := t.chip.flo.cores, ready := t.chip.flo.ready } }) ∧
  (∀ (s : State) (n : Fin 24) (v : Word) (us : BitVec 32), ∀ e, (s.chip.fcore n).run = some e →
    Runs (.portFinish n v us) s fun t =>
      (t.chip.fcore n).run = none ∧ (t.chip.pod e.2).state = .done ∧ (t.chip.pod e.2).nocpl = v.getLsbD 8 ∧
      (t.chip.pod e.2).cpl = (List.range 16).map (fun i => Tab.get (fun _ => 0) (s.chip.fcore n).cpl i) ∧
      (∀ q : Fin 1024, q.val ≠ e.2 → t.chip.pod q = s.chip.pod q) ∧ (∀ m : Fin 24, m ≠ n → t.chip.fcore m = s.chip.fcore m) ∧
      s.Only t [Reg.FLO_CORE_BUSY n] fun c => { c with regs := t.chip.regs, flo := { c.flo with
        pods := t.chip.flo.pods, cores := t.chip.flo.cores } }) ∧
  (∀ (s : State) (n : Fin 24) (ran idle : BitVec 32), s.chip.reaches (Reg.FLO_CORE_CFG n) = true →
    Runs (.coreReset n ran idle) s fun t =>
      t.chip.coreHeld n = true ∧ (t.chip.fcore n).inbox = [] ∧ (t.chip.fcore n).run = none ∧
      (∀ p ∈ ((s.chip.fcore n).run.toList ++ (s.chip.fcore n).inbox).map (·.2),
        (t.chip.pod p).state = .ready ∧ (t.chip.pod p).intr = true ∧ (t.chip.pod p).slots = (s.chip.pod p).slots ∧
        (t.chip.pod p).binding = (s.chip.pod p).binding ∧ (t.chip.pod p).holds = (s.chip.pod p).holds) ∧
      (Tab.wf (fun _ => Cord.initial) s.chip.flo.cords = true → ∀ k : Fin 4096, (t.chip.cord k).aff = if (s.chip.cord k).aff.map (·.val) = some n.val then none else (s.chip.cord k).aff) ∧
      t.chip.rd (Reg.FLO_CORE_BUSY n) =
        (if (s.chip.fcore n).run.isSome then satAdd (s.chip.rd (Reg.FLO_CORE_BUSY n)) ran.toNat else s.chip.rd (Reg.FLO_CORE_BUSY n)) ∧
      t.chip.rd (Reg.FLO_CORE_IDLE n) =
        (if (s.chip.fcore n).stalled then satAdd (s.chip.rd (Reg.FLO_CORE_IDLE n)) idle.toNat else s.chip.rd (Reg.FLO_CORE_IDLE n)) ∧
      (∀ m : Fin 24, m ≠ n → t.chip.fcore m = s.chip.fcore m) ∧
      s.Only t [Reg.FLO_CORE_CFG n, Reg.FLO_CORE_BUSY n, Reg.FLO_CORE_IDLE n] fun c => { c with regs := t.chip.regs, flo := { c.flo with
        pods := t.chip.flo.pods, cores := t.chip.flo.cores, ready := t.chip.flo.ready, cords := t.chip.flo.cords } }) ∧
  (∀ (s : State) (n : Fin 24), s.chip.reaches (Reg.FLO_CORE_CFG n) = true →
    Runs (.coreStart n) s fun t => t.chip.coreHeld n = false ∧ s.Only t [Reg.FLO_CORE_CFG n] fun c => { c with regs := t.chip.regs })

/-! ### 07_validation_and_balance.md -/

/-- R198–R203, R205–R209, R418. The next request is taken with the bytes of its entry; a request that cannot run completes with
its status and an empty batch, one that parses with status 1 and the records of its values; a batch offered while the Clamp's
side of the crossing is down is lost and counted; images are judged, then written. -/
def Obligations.BalanceRequestsComplete : Prop :=
  (∀ (s : State), (s.chip.balUp && s.chip.bit Reg.BAL_CTRL 0 && !s.chip.bit Reg.BAL_CTRL 1 && s.chip.bit Reg.BAL_QCFG 31) = true →
    s.chip.bal.image = none → s.chip.bal.reqs.length < 64 → s.chip.bal.fetched ≠ s.chip.fl Reg.BAL_QPI 9 0 % s.chip.balqSize →
    s.chip.judge 7 false false (s.chip.balqAddr s.chip.bal.fetched) 32 = .ok →
    Runs .balRequestAccept s fun t =>
      t.chip.bal = { s.chip.bal with
        reqs := s.chip.bal.reqs ++ [⟨s.chip.bal.fetched, s.chip.rdMem (s.chip.balqAddr s.chip.bal.fetched) 32, false⟩]
        fetched := (s.chip.bal.fetched + 1) % s.chip.balqSize } ∧
      s.Only t transferRegs fun c => { c.met t.chip with
        regs := t.chip.regs, bal := t.chip.bal, flo := { c.flo with pods := t.chip.flo.pods }, mem := t.chip.mem
         }) ∧
  (∀ (s : State) (i : BitVec 10), s.chip.balUp = true → ∀ q rest, s.chip.bal.reqs = q :: rest → q.idx = i.toNat → q.refused = true →
    Runs (.balRequestProcess i) s fun t =>
      t.chip.bal.reqs = rest.filter (fun x => x.idx != i.toNat) ∧
      s.Only t [Reg.BAL_QCI] fun c => { c with
        regs := t.chip.regs, bal := { c.bal with reqs := t.chip.bal.reqs, done := t.chip.bal.done } }) ∧
  (∀ (s : State) (i : BitVec 10), s.chip.balUp = true → s.chip.portGated 5 = false → ∀ q rest, s.chip.bal.reqs = q :: rest → q.idx = i.toNat → q.refused = false →
    s.chip.judge 7 false true (s.chip.balqAddr q.idx) 32 = .ok → s.chip.podApart q.pod (s.chip.balqAddr q.idx) 32 = true →
    ∀ st, (s.chip.balJudge q).1 = .inl st →
    Runs (.balRequestProcess i) s fun t =>
      t.chip.rdb (s.chip.balqAddr q.idx + 3) = BitVec.ofNat 8 st ∧
      t.chip.rdMem (s.chip.balqAddr q.idx + 28) 3 = [0, 0, 0] ∧
      (if s.chip.sideDown 7 then t.chip.bal.out = s.chip.bal.out ∧ t.chip.rd (Reg.CRP_DCQ_LOST 4) = satInc (s.chip.rd (Reg.CRP_DCQ_LOST 4))
       else t.chip.bal.out = s.chip.bal.out ++ [⟨BitVec.ofNat 10 q.pod, []⟩]) ∧
      s.OnlyIn t (fun r => [Reg.CRP_DCQ_LOST 4, Reg.BAL_QCI, Reg.BAL_NOFMT, Reg.FLO_OPND_STALE, Reg.FLO_OPND_DUP, Reg.FLO_OPND_UNEXP].contains r ||
        transferRegs.contains r) fun c => { c.met t.chip with
        regs := t.chip.regs, bal := t.chip.bal, flo := t.chip.flo, mem := t.chip.mem }) ∧
  (∀ (s : State) (i : BitVec 10), s.chip.balUp = true → s.chip.portGated 5 = false → ∀ q rest, s.chip.bal.reqs = q :: rest → q.idx = i.toNat → q.refused = false →
    s.chip.judge 7 false true (s.chip.balqAddr q.idx) 32 = .ok → s.chip.podApart q.pod (s.chip.balqAddr q.idx) 32 = true →
    ∀ x : Fmt × List Byte, (s.chip.balJudge q).1 = .inr x → ∀ scopes, scopesOf x.1 x.2 = some scopes →
    ∀ run : BalRun, run = scopes.foldl (fun (r : BalRun) y => r.scope q x.1 x.2 y.1 y.2)
      ⟨(s.chip.balJudge q).2, VWork.ofBytes (s.chip.rdMem (ctxAddr q.hcx + 0x40) 128), [], 0, 0, false, false, false⟩ →
    Runs (.balRequestProcess i) s fun t =>
      t.chip.rdb (s.chip.balqAddr q.idx + 3) = 1 ∧
      (if s.chip.sideDown 7 then t.chip.bal.out = s.chip.bal.out ∧ t.chip.rd (Reg.CRP_DCQ_LOST 4) = satInc (s.chip.rd (Reg.CRP_DCQ_LOST 4))
       else t.chip.bal.out = s.chip.bal.out ++
         [⟨BitVec.ofNat 10 q.pod, if bitOf (leAt q.entry 2 1) 1 then [] else run.recs⟩]) ∧
      t.chip.rd Reg.BAL_REQ_OK = satInc (s.chip.rd Reg.BAL_REQ_OK) ∧
      t.chip.rd Reg.BAL_VFAIL = satAdd (s.chip.rd Reg.BAL_VFAIL) run.nfail ∧
      t.chip.rd Reg.BAL_ESTCNT = satAdd (s.chip.rd Reg.BAL_ESTCNT) run.nest ∧
      s.OnlyIn t (fun r => [Reg.CRP_DCQ_LOST 4, Reg.BAL_QCI, Reg.BAL_REQ_OK, Reg.BAL_VFAIL, Reg.BAL_ESTCNT, Reg.BAL_LATE, Reg.BAL_RESEND,
        Reg.FLO_OPND_STALE, Reg.FLO_OPND_DUP, Reg.FLO_OPND_UNEXP].contains r || transferRegs.contains r) fun c => { c.met t.chip with
        regs := t.chip.regs, bal := t.chip.bal, flo := t.chip.flo, mem := t.chip.mem }) ∧
  (∀ (s : State) (v : Word), s.chip.reaches Reg.BAL_IMG_CMD = true → s.chip.balUp = true → s.chip.bal.image = none → v.getLsbD 31 = true → v.toNat % 4 = 1 →
    Runs (.formatImageLoad v) s fun t =>
      t.chip.bal.image = some 1 ∧ t.chip.bit Reg.BAL_IMG_STATUS 0 = true ∧
      s.Only t [Reg.BAL_IMG_STATUS] fun c => { c with regs := t.chip.regs, bal := { c.bal with image := t.chip.bal.image } }) ∧
  (∀ (s : State) (v : Word), s.chip.reaches Reg.BAL_IMG_CMD = true → s.chip.balUp = true → s.chip.bal.image = none → v.getLsbD 31 = true → v.toNat % 4 = 2 →
    Runs (.curveImageLoad v) s fun t =>
      t.chip.bal.image = some 2 ∧ t.chip.bit Reg.BAL_IMG_STATUS 0 = true ∧
      s.Only t [Reg.BAL_IMG_STATUS] fun c => { c with regs := t.chip.regs, bal := { c.bal with image := t.chip.bal.image } }) ∧
  (∀ (s : State), s.chip.balUp = true → s.chip.bal.reqs = [] → s.chip.bal.image = some 2 →
    ∀ a, a = s.chip.rd Reg.BAL_IMG_ADDR_LO + s.chip.fl Reg.BAL_IMG_ADDR_HI 15 0 * 2 ^ 32 →
    ∀ n, n = leAt (s.chip.rdMem a 64) 8 4 → s.chip.judge 7 false false a (64 + n) = .ok →
    s.chip.judge 7 false true (s.chip.balBase 1) 65536 = .ok →
    Runs .balImageApply s fun t =>
      (if !wrapperGood (s.chip.rdMem a 64) 2 65536 then t.chip.rd Reg.BAL_IMG_STATUS = 4 ∧ (∀ x, 0x50300000 ≤ x → t.chip.rdb x = s.chip.rdb x)
       else if (pieces 256 (s.chip.rdMem (a + 64) n)).all (fun e => e.length == 256 && crvGood e) then
         t.chip.rd Reg.BAL_IMG_STATUS = 2 ∧ t.chip.rdMem (s.chip.balBase 1) n = s.chip.rdMem (a + 64) n ∧
         (∀ x, (x < s.chip.balBase 1 ∨ s.chip.balBase 1 + 65536 ≤ x) → t.chip.rdb x = s.chip.rdb x)
       else t.chip.rd Reg.BAL_IMG_STATUS = 6 ∧ (∀ x, t.chip.rdb x = s.chip.rdb x)) ∧
      t.chip.bal = { s.chip.bal with image := none } ∧
      s.OnlyIn t (fun r => r == Reg.BAL_IMG_STATUS || transferRegs.contains r) fun c => { c.met t.chip with
        regs := t.chip.regs, bal := t.chip.bal, mem := t.chip.mem }) ∧
  (∀ (s : State), s.chip.balUp = true → s.chip.bal.reqs = [] → s.chip.bal.image = some 1 →
    ∀ a, a = s.chip.rd Reg.BAL_IMG_ADDR_LO + s.chip.fl Reg.BAL_IMG_ADDR_HI 15 0 * 2 ^ 32 →
    ∀ n, n = leAt (s.chip.rdMem a 64) 8 4 → s.chip.judge 7 false false a (64 + n) = .ok →
    s.chip.judge 7 false true (s.chip.balBase 0) 131072 = .ok →
    Runs .balImageApply s fun t =>
      (if !wrapperGood (s.chip.rdMem a 64) 1 131072 then t.chip.rd Reg.BAL_IMG_STATUS = 4
       else if s.chip.fmtImageGood (pieces 512 (s.chip.rdMem (a + 64) n)) then
         t.chip.rd Reg.BAL_IMG_STATUS = 2 ∧
         (∀ e ∈ pieces 512 (s.chip.rdMem (a + 64) n), t.chip.rdMem (s.chip.balBase 0 + leAt e 0 1 * 512) 512 = e)
       else t.chip.rd Reg.BAL_IMG_STATUS = 6 ∧ (∀ x, t.chip.rdb x = s.chip.rdb x)) ∧
      t.chip.bal = { s.chip.bal with image := none } ∧
      (∀ x, (x < s.chip.balBase 0 ∨ s.chip.balBase 0 + 131072 ≤ x) → t.chip.rdb x = s.chip.rdb x) ∧
      s.OnlyIn t (fun r => r == Reg.BAL_IMG_STATUS || transferRegs.contains r) fun c => { c.met t.chip with
        regs := t.chip.regs, bal := t.chip.bal, mem := t.chip.mem })

/-- R214–R216, R222. JOIN puts a handle at the head of its group's list or says why not; LEAVE takes it out; EXCLUDE and INCLUDE
set its mode; a phase notice records the relation and may move the member; relearning clears LEARN. The order of the refusals
(log 81) and which transfers the walk of a list makes (log 97) are the model's choices. -/
def Obligations.MembershipFollowsCommands : Prop :=
  (∀ (s : State) (v : Word), s.chip.reaches Reg.BAL_MEMB_CMD = true → s.chip.balUp = true → v.getLsbD 31 = true →
    ∀ h, h = v.toNat % 2 ^ 20 → ∀ g, g = s.chip.rd Reg.BAL_MEMB_ARG % 4096 →
    (∀ n ∈ s.chip.linked h, s.chip.judge 7 false true (s.chip.membAddr n) 128 = .ok) →
    Runs (.join v) s fun t =>
      (if s.chip.isNamed h then t.chip.rd Reg.BAL_MEMB_RESULT = 3 ∧ (∀ x, t.chip.rdb x = s.chip.rdb x)
       else if !s.chip.grpOn g then t.chip.rd Reg.BAL_MEMB_RESULT = 2 ∧ (∀ x, t.chip.rdb x = s.chip.rdb x)
       else if 1024 ≤ s.chip.members g ∧ s.chip.groupOf h ≠ some g then
         t.chip.rd Reg.BAL_MEMB_RESULT = 1 ∧ (∀ x, t.chip.rdb x = s.chip.rdb x)
       else t.chip.rd Reg.BAL_MEMB_RESULT = 0 ∧ t.chip.grp g 5 20 0 = h ∧
         leAt (t.chip.rdMem (s.chip.membAddr h) 128) 4 2 = g ∧ leAt (t.chip.rdMem (s.chip.membAddr h) 128) 7 1 = 7 ∧
         bitOf (leAt (t.chip.rdMem (s.chip.membAddr h) 128) 6 1) 3 = s.chip.bit Reg.BAL_MEMB_ARG 12 ∧
         leAt (t.chip.rdMem (s.chip.membAddr h) 128) 8 4 = w32 s.chip.kOpen ∧
         leAt (t.chip.rdMem (s.chip.membAddr h) 128) 12 4 = w32 (s.chip.dayAt s.chip.utc + 1) ∧
         leAt (t.chip.rdMem (s.chip.membAddr h) 128) 16 4 = 0) ∧
      (∀ x, (∀ n ∈ s.chip.linked h, x < s.chip.membAddr n ∨ s.chip.membAddr n + 128 ≤ x) → t.chip.rdb x = s.chip.rdb x) ∧
      s.OnlyIn t (fun r => r == Reg.BAL_MEMB_RESULT || Chip.groupRegs r || transferRegs.contains r) fun c => { c.met t.chip with
        regs := t.chip.regs, mem := t.chip.mem }) ∧
  (∀ (s : State) (v : Word), s.chip.reaches Reg.BAL_MEMB_CMD = true → s.chip.balUp = true → v.getLsbD 31 = true →
    ∀ h, h = v.toNat % 2 ^ 20 → ∀ g, s.chip.groupOf h = some g →
    (∀ n ∈ s.chip.linked h, s.chip.judge 7 false true (s.chip.membAddr n) 128 = .ok) →
    Runs (.leave v) s fun t =>
      t.chip.rd Reg.BAL_MEMB_RESULT = 0 ∧ (1 ≤ s.chip.members g → t.chip.members g = s.chip.members g - 1) ∧
      leAt (t.chip.rdMem (s.chip.membAddr h) 128) 4 2 = 0x8000 ∧
      leAt (t.chip.rdMem (s.chip.membAddr h) 128) 8 4 = w32 s.chip.kOpen ∧
      (∀ x, (∀ n ∈ s.chip.linked h, x < s.chip.membAddr n ∨ s.chip.membAddr n + 128 ≤ x) → t.chip.rdb x = s.chip.rdb x) ∧
      s.OnlyIn t (fun r => [Reg.BAL_MEMB_RESULT, Reg.GROUP_WORD g 2, Reg.GROUP_WORD g 5].contains r || transferRegs.contains r)
        fun c => { c.met t.chip with regs := t.chip.regs, mem := t.chip.mem }) ∧
  (∀ (s : State) (v : Word), s.chip.reaches Reg.BAL_MEMB_CMD = true → s.chip.balUp = true → v.getLsbD 31 = true →
    ∀ h, h = v.toNat % 2 ^ 20 → ∀ g, s.chip.groupOf h = some g →
    s.chip.judge 7 false true (s.chip.membAddr h) 128 = .ok →
    ∀ m, m = leAt (s.chip.memb h).1 6 1 →
    Runs (.exclude v) s fun t =>
      t.chip.rd Reg.BAL_MEMB_RESULT = 0 ∧ leAt (t.chip.rdMem (s.chip.membAddr h) 128) 6 1 = putBit m 2 true ∧
      leAt (t.chip.rdMem (s.chip.membAddr h) 128) 8 4 = w32 s.chip.kOpen ∧ leAt (t.chip.rdMem (s.chip.membAddr h) 128) 16 4 = 0 ∧
      (∀ x, (x < s.chip.membAddr h ∨ s.chip.membAddr h + 128 ≤ x) → t.chip.rdb x = s.chip.rdb x) ∧
      s.OnlyIn t (fun r => r == Reg.BAL_MEMB_RESULT || transferRegs.contains r)
        fun c => { c.met t.chip with regs := t.chip.regs, mem := t.chip.mem }) ∧
  (∀ (s : State) (v : Word), s.chip.reaches Reg.BAL_MEMB_CMD = true → s.chip.balUp = true → v.getLsbD 31 = true →
    ∀ h, h = v.toNat % 2 ^ 20 → ∀ g, s.chip.groupOf h = some g →
    s.chip.judge 7 false true (s.chip.membAddr h) 128 = .ok →
    ∀ m, m = leAt (s.chip.memb h).1 6 1 →
    Runs (.include v) s fun t =>
      t.chip.rd Reg.BAL_MEMB_RESULT = 0 ∧ leAt (t.chip.rdMem (s.chip.membAddr h) 128) 6 1 = putBit m 2 false ∧
      leAt (t.chip.rdMem (s.chip.membAddr h) 128) 8 4 = w32 s.chip.kOpen ∧ leAt (t.chip.rdMem (s.chip.membAddr h) 128) 16 4 = 0 ∧
      (∀ x, (x < s.chip.membAddr h ∨ s.chip.membAddr h + 128 ≤ x) → t.chip.rdb x = s.chip.rdb x) ∧
      s.OnlyIn t (fun r => r == Reg.BAL_MEMB_RESULT || transferRegs.contains r)
        fun c => { c.met t.chip with regs := t.chip.regs, mem := t.chip.mem }) ∧
  (∀ (s : State), s.chip.balUp = true → ∀ n rest, s.chip.lma.notices = n :: rest → n.hvalid = true →
    ∀ h, h = n.handle.toNat → ∀ g, s.chip.groupOf h = some g → bitOf (leAt (s.chip.memb h).1 6 1) 0 = false →
    s.chip.judge 7 false true (s.chip.membAddr h) 128 = .ok →
    Runs .phaseNotice s fun t =>
      t.chip.lma.notices = rest ∧ t.chip.rd Reg.BAL_PH_NOTICE = satInc (s.chip.rd Reg.BAL_PH_NOTICE) ∧
      t.chip.rdb (s.chip.membAddr h + 7) = BitVec.ofNat 8 n.rel ∧
      (∀ x, x ≠ s.chip.membAddr h + 7 → t.chip.rdb x = s.chip.rdb x) ∧
      s.OnlyIn t (fun r => r == Reg.BAL_PH_NOTICE || transferRegs.contains r) fun c => { c.met t.chip with
        regs := t.chip.regs, mem := t.chip.mem, 
        lma := { c.lma with notices := t.chip.lma.notices } }) ∧
  (∀ (s : State), s.chip.balUp = true → ∀ n rest, s.chip.lma.notices = n :: rest → n.hvalid = true →
    ∀ h, h = n.handle.toNat → ∀ g, s.chip.groupOf h = some g → bitOf (leAt (s.chip.memb h).1 6 1) 0 = true →
    ∀ b, s.chip.familyBase g = some b → n.rel < 6 → s.chip.pmap b n.rel < 6 →
    ∀ u, u = b + s.chip.pmap b n.rel → u ≠ g → u < 4096 → s.chip.grpOn u = true → s.chip.members u < 1024 →
    (∀ n ∈ s.chip.linked h, s.chip.judge 7 false true (s.chip.membAddr n) 128 = .ok) →
    ∀ slot, slot = s.chip.balBase 5 + 64 * s.chip.rd Reg.BAL_RPT_PI →
    (∀ n ∈ s.chip.linked h, slot + 64 ≤ s.chip.membAddr n ∨ s.chip.membAddr n + 128 ≤ slot) →
    Runs .phaseNotice s fun t =>
      t.chip.rd Reg.BAL_PH_MOVE = satInc (s.chip.rd Reg.BAL_PH_MOVE) ∧
      leAt (t.chip.rdMem (s.chip.membAddr h) 128) 4 2 = u ∧ t.chip.grp u 5 20 0 = h ∧
      t.chip.members u = s.chip.members u + 1 ∧
      s.OnlyIn t (fun r => [Reg.BAL_PH_NOTICE, Reg.BAL_PH_MOVE].contains r || reportRegs.contains r || Chip.groupRegs r || transferRegs.contains r) fun c => { c.met t.chip with
        regs := t.chip.regs, mem := t.chip.mem, bal := t.chip.bal
        lma := { c.lma with notices := t.chip.lma.notices } }) ∧
  (∀ (s : State) (v : Word), s.chip.reaches Reg.BAL_GRP_CMD = true → s.chip.balUp = true → v.getLsbD 16 = true →
    ∀ g, g = v.toNat % 4096 → ∀ a, a = s.chip.balBase 4 + g * 2048 → s.chip.judge 7 false true a 2048 = .ok →
    Runs (.groupRelearn v) s fun t =>
      t.chip.grp g 2 15 0 = 0 ∧ t.chip.grp g 0 11 10 = b2n (s.chip.grpOn g) ∧
      (∀ x, a ≤ x → x < a + 2048 → t.chip.rdb x = 0) ∧
      (∀ x, (x < a ∨ a + 2048 ≤ x) → t.chip.rdb x = s.chip.rdb x) ∧
      s.Only t [Reg.GROUP_WORD g 0, Reg.GROUP_WORD g 2] fun c => { c with regs := t.chip.regs, mem := t.chip.mem })

/-- R217–R224. An interval closes once its time has come: every enabled group shows its index and its flags, VALID when no flag
of 1 to 4 is set, and a single group its residual; a day closes after its last interval and fits the losses. Exact rationals
rounded once and halves away from zero are the model's choice (log 80). -/
def Obligations.IntervalsAndDaysClose : Prop :=
  (∀ (s : State) (us : BitVec 32), (s.chip.balUp && s.chip.bit Reg.BAL_CTRL 0) = true → s.chip.bal.dayDue = none →
    ∀ k, k = s.chip.kOpen → (k + 1 + s.chip.lag) * s.chip.ivl ≤ s.chip.utc →
    Runs (.intervalClose us) s fun t =>
      t.chip.bal.nextOpen = some (k + 1) ∧
      t.leg.copies = s.leg.copies.filter (fun x => decide (k < s.chip.copyIvl x)) ∧
      t.chip.rd Reg.BAL_CLOSE_MAXT = max (s.chip.rd Reg.BAL_CLOSE_MAXT) us.toNat ∧
      (∀ g ∈ s.chip.grpsOn, t.chip.rd (Reg.GROUP_WORD g 6) = w32 k ∧
        t.chip.bit (Reg.GROUP_WORD g 9) 0 = decide (t.chip.grp g 9 4 1 = 0)) ∧
      t = { s with leg := { s.leg with copies := t.leg.copies }, chip := { s.chip.met t.chip with
        regs := t.chip.regs, mem := t.chip.mem, bal := t.chip.bal } } ∧
      (∀ r, (r == Reg.BAL_CLOSE_MAXT || reportRegs.contains r || Chip.groupRegs r || transferRegs.contains r) = false →
        t.chip.rdW r = s.chip.rdW r)) ∧
  (∀ (s : State) (us : BitVec 32), (s.chip.balUp && s.chip.bit Reg.BAL_CTRL 0) = true → s.chip.bal.dayDue = none →
    ∀ k, k = s.chip.kOpen → (k + 1 + s.chip.lag) * s.chip.ivl ≤ s.chip.utc → ∀ g, s.chip.grpsOn = [g] →
    ∀ x, x = (s.chip.sweepGroup k g).1 → ∀ f, f = s.chip.feederOf (miLen s.leg.metCfg.toNat) (s.leg.copies.filter fun y => s.chip.copyIvl y == k) g k →
    ∀ loss, loss = s64 (10 * (s.chip.rd (Reg.GROUP_WORD g 3) : Int) * f.2.1 / 65536 + s.chip.rd (Reg.GROUP_WORD g 4)) →
    Runs (.intervalClose us) s fun t =>
      sgn 64 (t.chip.rd (Reg.GROUP_WORD g 7) + t.chip.rd (Reg.GROUP_WORD g 8) * 2 ^ 32) = s64 (s64 (f.1 - x.s) - loss) ∧
      t.chip.bit (Reg.GROUP_WORD g 9) 1 = !f.2.2.1 ∧ t.chip.bit (Reg.GROUP_WORD g 9) 2 = f.2.2.2) ∧
  (∀ (s : State), (s.chip.balUp && s.chip.bit Reg.BAL_CTRL 0) = true → ∀ d, s.chip.bal.dayDue = some d →
    Runs .dayClose s fun t =>
      t.chip.bal.dayDue = none ∧
      (∀ g, s.chip.grpsOn = [g] → s.chip.grp g 0 8 8 = 0 →
        ∀ ab, lossFit ((daysTo d s.chip.fitDays).filterMap (s.chip.groupDay g)) = some ab →
        t.chip.rd (Reg.GROUP_WORD g 3) = sat32 (ratRound (f64 (f64 (ab.1 * 65536) / 10))) ∧
        t.chip.rd (Reg.GROUP_WORD g 4) = sat32 (ratRound ab.2)) ∧
      (∀ g, s.chip.grp g 0 8 8 = 1 → t.chip.rd (Reg.GROUP_WORD g 3) = s.chip.rd (Reg.GROUP_WORD g 3)) ∧
      s.OnlyIn t (fun r => reportRegs.contains r || Chip.groupRegs r || transferRegs.contains r) fun c => { c.met t.chip with
        regs := t.chip.regs, mem := t.chip.mem, bal := t.chip.bal })

/-! ### 08_clamp_media.md -/

/-- R233, R256, R258–R262, Table 11. Enabling identifies the media by the best valid anchor record, disabling flushes and stops,
CKPT_NOW and FLUSH ask for a checkpoint or a flush; a rebuild ends with the next SEQ above every page and not below the
anchor's; formatting empties the media; RIDE flushes. What CKPT_NOW does where no media are ready, and when the reserve of
stream 7 is opened, are the model's reading (log entry 42). -/
def Obligations.ClampStartsAndStops : Prop :=
  (∀ (s : State) (v : Word) (w : Who) (found : List PageFound), v.getLsbD 0 = true → s.chip.clmState = 0 → s.chip.clmUp = true →
    s.chip.reaches Reg.CLM_CTRL = true →
    ∀ best, best = s.chip.nand.best (failedPages found) →
    Runs (.clmEnable v w found) s fun t =>
      t.chip.bit Reg.CLM_CTRL 0 = true ∧
      (if geomOf s.chip.nand.devices ≠ geomOf (s.chip.rdW Reg.CLM_GEOM) then t.chip.clmState = 7
       else t.chip.clmState = (best.elim 6 fun a => if a.dir.isEmpty then 3 else 2) ∧
         (∀ a, best = some a → t.chip.clm.anchor = some a ∧ t.chip.clm.sizes = a.sizes ∧
           t.chip.rd Reg.CLM_RETIRED = (a.retired.filter fun e => e.2 == 8).length % 2 ^ 32)) ∧
      s.Only t (Reg.CLM_CTRL :: mediaRegs) fun c => { c.met t.chip with
        regs := t.chip.regs, clm := t.chip.clm }) ∧
  (∀ (s : State) (v : Word) (w : Who), v.getLsbD 0 = false → s.chip.bit Reg.CLM_CTRL 0 = true → s.chip.clm.stopping = false →
    s.chip.reaches Reg.CLM_CTRL = true →
    Runs (.clmDisable v w) s fun t =>
      t.chip.bit Reg.CLM_CTRL 0 = false ∧
      (if s.chip.clmState = 4 ∨ s.chip.clmState = 5 then
        t.chip.clm.stopping = true ∧ t.chip.clm.buf = s.chip.clm.buf ∧
        (s.chip.clm.buf = [] → s.chip.clm.markers = [] → s.chip.clm.merge = none → t.chip.clm.ckpt.isSome = true)
      else t.chip.clmState = 0 ∧ t.chip.clm.buf = [] ∧ t.chip.clm.ricks = [] ∧ t.chip.clm.reads = []) ∧
      s.Clamped t [Reg.CLM_CTRL] ∧
      ((s.chip.bit Reg.CLM_CTRL 2 && !v.getLsbD 2) = false →
        (s.chip.clmState = 4 ∨ s.chip.clmState = 5 → t.chip.clmState = s.chip.clmState) ∧
        s.Only t ([Reg.CLM_CTRL, Reg.CLM_STATUS] ++ transferRegs) fun c => { c.met t.chip with
          regs := t.chip.regs, clm := t.chip.clm })) ∧
  (∀ (s : State) (v : Word) (w : Who), v.getLsbD 0 = true → v.getLsbD 5 = true → s.chip.clmState ≠ 0 →
    s.chip.reaches Reg.CLM_CTRL = true →
    Runs (.ckptNow v w) s fun t =>
      (if s.chip.clmState = 4 ∨ s.chip.clmState = 5 then
        t.chip.bit Reg.CLM_CTRL 5 = true ∧ t.chip.clm.ckpt = s.chip.clm.ckpt.or (some (s.chip.firstOpenSeq - 1))
      else t.chip.bit Reg.CLM_CTRL 5 = false ∧ t.chip.clm.ckpt = s.chip.clm.ckpt) ∧
      s.Clamped t [Reg.CLM_CTRL] ∧
      ((s.chip.bit Reg.CLM_CTRL 2 && !v.getLsbD 2) = false →
        s.Only t (Reg.CLM_CTRL :: transferRegs) fun c => { c.met t.chip with
          regs := t.chip.regs, 
          clm := { c.clm with ckpt := t.chip.clm.ckpt, flush := t.chip.clm.flush } })) ∧
  (∀ (s : State) (v : Word) (w : Who), v.getLsbD 0 = true → v.getLsbD 3 = true → s.chip.bit Reg.CLM_CTRL 3 = false →
    s.chip.clmState ≠ 0 → s.chip.reaches Reg.CLM_CTRL = true →
    Runs (.ctrlFlush v w) s fun t =>
      (if s.chip.unprogrammed = [] then t.chip.bit Reg.CLM_CTRL 3 = false ∧ t.chip.clm.flush = none
       else t.chip.bit Reg.CLM_CTRL 3 = true ∧ t.chip.clm.flush = some s.chip.unprogrammed) ∧
      s.Clamped t [Reg.CLM_CTRL] ∧
      ((s.chip.bit Reg.CLM_CTRL 2 && !v.getLsbD 2) = false →
        s.Only t (Reg.CLM_CTRL :: transferRegs) fun c => { c.met t.chip with
          regs := t.chip.regs, 
          clm := { c.clm with ckpt := t.chip.clm.ckpt, flush := t.chip.clm.flush } })) ∧
  (∀ (s : State) (ms : Word) (found : List PageFound) (duds : List (BitVec 17)), s.chip.clmUp = true → s.chip.clmState = 2 →
    ∀ a, s.chip.clm.anchor = some a →
    Runs (.clmRebuildDone ms found duds) s fun t =>
      (if (s.chip.loadCkpt a (failedPages found)).isNone then t.chip.clmState = 3 ∧ t.chip.nand = s.chip.nand
       else (t.chip.clmState = 4 ∨ t.chip.clmState = 5) ∧ t.chip.rd Reg.CLM_REBUILD_MS = ms.toNat ∧
         (∀ e ∈ s.chip.nand.pages, e.2.seq < t.chip.clm.nextSeq) ∧ a.nextSeq ≤ t.chip.clm.nextSeq ∧
         t.chip.clm.ckpt.isSome = true) ∧
      s.Clamped t [Reg.CLM_REBUILD_MS, Reg.CLM_PATROL_POS]) ∧
  (∀ (s : State) (ms : Word) (found : List PageFound) (duds : List (BitVec 17)), s.chip.clmUp = true → s.chip.clmState = 3 →
    ∀ a, s.chip.clm.anchor = some a →
    Runs (.fullScanDone ms found duds) s fun t =>
      (t.chip.clmState = 4 ∨ t.chip.clmState = 5) ∧ t.chip.rd Reg.CLM_REBUILD_MS = ms.toNat ∧
      t.chip.rd Reg.CLM_PATROL_POS = a.patrol % 2 ^ 32 ∧ t.chip.clm.told = false ∧
      (∀ e ∈ s.chip.nand.pages, e.2.seq < t.chip.clm.nextSeq) ∧ a.nextSeq ≤ t.chip.clm.nextSeq ∧ t.chip.clm.ckpt.isSome = true ∧
      s.Clamped t [Reg.CLM_REBUILD_MS, Reg.CLM_PATROL_POS]) ∧
  (∀ (s : State), (s.chip.clmReady && s.chip.working) = true → max 1 (s.chip.fl Reg.CLM_CKPT_CFG 7 0) ≤ s.chip.clm.opened →
    Runs .checkpointDue s fun t =>
      t.chip.clm = { s.chip.clm with ckpt := s.chip.clm.ckpt.or (some (s.chip.firstOpenSeq - 1)) } ∧
      s.Only t [] fun c => { c with clm := t.chip.clm }) ∧
  (∀ (s : State) (duds : List (BitVec 17)), s.chip.clmReady = true → s.chip.clm.stopping = false → ∀ n, s.chip.clm.ckpt = some n →
    s.chip.anchorPlace.isSome = true → (s.chip.ckptWrite (duds.map (·.toNat)) n).isSome = true →
    Runs (.checkpointComplete duds) s fun t =>
      t.chip.clm.sck = n ∧ t.chip.clm.opened ≤ 1 ∧ t.chip.bit Reg.CLM_CTRL 5 = false ∧ t.chip.clm.dirty = [] ∧
      ((s.chip.openOf 7).isSome = true → t.chip.clm.opened = 0 ∧
        ((∀ v ∈ t.chip.clm.victims, t.chip.holdsSystem v.block = false) → t.chip.clm.ckpt = none)) ∧
      s.Clamped t [Reg.CLM_CTRL]) ∧
  (∀ (s : State) (v : Word) (w : Who) (duds : List (BitVec 17)), w.level = .seal → v.getLsbD 0 = true → s.chip.clmUp = true →
    s.chip.reaches Reg.CLM_MEDIA_CMD = true →
    (s.chip.clmState = 6 ∨ ((s.chip.clmState = 4 ∨ s.chip.clmState = 5) ∧ v.getLsbD 1 = true)) →
    ∀ sizes, sizes = (List.range 4).map (fun n => s.chip.fl (Reg.CLM_NS_SIZE n) 27 0) →
    sizes.foldl (· + ·) 0 ≤ 7 * s.chip.rawPages / 8 →
    Runs (.mediaFormat v w duds) s fun t =>
      t.chip.rd Reg.CLM_MEDIA_RESULT = 1 ∧ t.chip.bit Reg.CLM_MEDIA_CMD 0 = false ∧
      (t.chip.clmState = 4 ∨ t.chip.clmState = 5) ∧ t.chip.nand.pages = [] ∧
      (∀ a, t.chip.clm.anchor = some a → t.chip.nand.anchors.head? = some a ∧ a.sck = 0 ∧ a.dir = [] ∧ a.sizes = sizes) ∧
      t.chip.clm.sizes = sizes ∧ t.chip.clm.buf = [] ∧ t.chip.clm.head = 0 ∧
      s.Clamped t [Reg.CLM_MEDIA_CMD, Reg.CLM_MEDIA_RESULT]) ∧
  (∀ (s : State) (fails : List (BitVec 31)) (duds : List (BitVec 17)), s.chip.crp.power = .ride → s.chip.crp.flushed = false →
    Runs (.rideFlushDone fails duds) s fun t =>
      t.chip.crp = { s.chip.crp with flushed := true, noted := t.chip.crp.noted } ∧ t.chip.bit Reg.CLM_STATUS 11 = true ∧ t.chip.fl (Reg.CRP_MUX_SEL 0) 1 0 = 1 ∧
      t.chip.bit (Reg.CRP_PLL_STATUS 0) 0 = false ∧ t.chip.bit (Reg.CRP_PLL_STATUS 1) 0 = false ∧ t.chip.bit (Reg.CRP_PLL_STATUS 4) 0 = false ∧
      (s.chip.clmState = 4 ∨ s.chip.clmState = 5 → t.chip.clm.ckpt = none) ∧
      (∀ u r, s.chip.clm.buf = [u] → s.chip.clmState = 4 → s.chip.openOf 7 = some r → r.failed = [] → fails = [] → t.chip.clm.buf = []) ∧
      s.Only t (mediaRegs ++ [Reg.CRP_MUX_SEL 0, Reg.CRP_PLL_STATUS 0, Reg.CRP_PLL_STATUS 1, Reg.CRP_PLL_STATUS 4]) fun c => { c.met t.chip with
        regs := t.chip.regs, mem := t.chip.mem, nand := t.chip.nand, clm := t.chip.clm
        crp := t.chip.crp })

/-- R242–R245, R259. Batches queue and go to the archive head; during a rebuild they wait, and the wait is counted; an entry of
a queue is turned away with its STATUS or runs; a command that is ready completes with its STATUS in its entry. The order of the
tests of a command and the length of a wait for room are the model's choice (log entries 41, 98). -/
def Obligations.ClampServesCommands : Prop :=
  (∀ (s : State), s.chip.clmTaking = true → s.chip.batchRefused = false → ∀ b rest, s.chip.bal.out = b :: rest → b.records ≠ [] →
    Runs .archiveBatch s fun t =>
      t.chip.bal.out = rest ∧ t.chip.clm.batches = s.chip.clm.batches ++ [b] ∧
      s.Only t [] fun c => { c with
        bal := { c.bal with out := rest }, clm := { c.clm with batches := t.chip.clm.batches } }) ∧
  (∀ (s : State), (s.chip.clmTaking && !s.chip.batchRefused) = true → s.chip.clm.merge = none → s.chip.clmState = 4 →
    s.chip.clm.slot < 170 → s.chip.clm.head < 4 * s.chip.nsSize 0 → s.chip.portGated 5 = false →
    ∀ b rest, s.chip.clm.batches = b :: rest →
    Runs .archiveBatchAccepted s fun t =>
      (if s.chip.wbRoom (s.chip.batchUnits b) then
        t.chip.clm.batches = rest ∧
        t.chip.clm.head * 170 + t.chip.clm.slot =
          (s.chip.clm.head * 170 + s.chip.clm.slot + b.records.length) % (170 * (4 * s.chip.nsSize 0)) ∧
        (∀ r, b.records = [r] → slice t.chip.clm.headData (s.chip.clm.head % 4 * 4096 + 24 * s.chip.clm.slot) 24 = padTo 24 r) ∧
        (∀ u ∈ s.chip.batchUnits b, t.chip.clm.buf.any (fun x => x.unit == u && x.place.isNone) = true)
      else t.chip.rd Reg.CLM_WB_WAIT = satAdd (s.chip.rd Reg.CLM_WB_WAIT) (leVal (s.chip.free 4).1) ∧ t.chip.clm = s.chip.clm) ∧
      (∀ x, (x < 0x50000000 ∨ 0x50300000 ≤ x) → t.chip.rdb x = s.chip.rdb x) ∧
      s.Only t [Reg.CLM_WB_WAIT, Reg.CLM_ARC_WRAP, Reg.FLO_OPND_STALE, Reg.FLO_OPND_DUP, Reg.FLO_OPND_UNEXP] fun c => { c with
        regs := t.chip.regs, clm := t.chip.clm, flo := t.chip.flo, mem := t.chip.mem, freeCtr := t.chip.freeCtr }) ∧
  (∀ (s : State), s.chip.clmTaking = true → s.chip.clm.merge = none → s.chip.clm.batches ≠ [] →
    (s.chip.clmState = 2 ∨ s.chip.clmState = 3) →
    Runs .archiveBatchAccepted s fun t =>
      t.chip.rd Reg.CLM_WB_WAIT = satAdd (s.chip.rd Reg.CLM_WB_WAIT) (leVal (s.chip.free 4).1) ∧
      s.Only t [Reg.CLM_WB_WAIT] fun c => { c with regs := t.chip.regs, freeCtr := t.chip.freeCtr }) ∧
  (∀ (s : State) (q : Fin 3), s.chip.clmTaking = true → s.chip.clm.cmds.length < 32 →
    ∀ x : ClmCmd × Chip, s.chip.clmHead q = some x → ∀ k, k = x.1 → k.op = 1 → s.chip.cmdJudge k = 0 → s.chip.cmdWaits k = false →
    s.chip.clm.reads.length < mostReads → (∀ j ∈ s.chip.clm.cmds, j.n ≠ k.n) →
    ∀ u, s.chip.cmdUnits k = [u] → (s.chip.clm.buf.any fun y => y.unit == u) = false → ∀ p, entryPage (s.chip.mapEntry u) = some p →
    Runs (.clmRead q) s fun t =>
      t.chip.clm.reads = s.chip.clm.reads ++ [⟨p, .sectors k.n u⟩] ∧ t.chip.clm.accepted = s.chip.clm.accepted + 1 ∧
      t.chip.clm.cmds = s.chip.clm.cmds ++ [{ k with reads := k.reads + 1 }] ∧
      s.Only t mediaRegs fun c => { c.met t.chip with
        regs := t.chip.regs, mem := t.chip.mem, clm := t.chip.clm, flo := t.chip.flo, ring := t.chip.ring }) ∧
  (∀ (s : State) (q : Fin 3), s.chip.clmTaking = true → s.chip.clm.cmds.length < 32 →
    ∀ x : ClmCmd × Chip, s.chip.clmHead q = some x → ∀ k, k = x.1 → k.op = 2 → s.chip.cmdJudge k = 0 → s.chip.cmdWaits k = false →
    s.chip.clm.merge = none → (∀ j ∈ s.chip.clm.cmds, j.n ≠ k.n) → k.owner = none → ∀ u, s.chip.cmdUnits k = [u] → k.count = 4 → k.first % 4 = 0 →
    s.chip.wbRoom [u] = true → s.chip.judge 6 (k.queue == 2) false k.buffer 16384 = .ok →
    Runs (.clmWrite q) s fun t =>
      t.chip.clm.buf.getLast? = some ⟨u, s.chip.clm.nextSeq, s.chip.rdMem k.buffer 16384, none⟩ ∧
      t.chip.clm.nextSeq = s.chip.clm.nextSeq + 1 ∧ (t.chip.clm.buf.filter fun y => y.unit == u).length = 1 ∧
      t.chip.clm.merge = none ∧
      s.Only t mediaRegs fun c => { c.met t.chip with
        regs := t.chip.regs, mem := t.chip.mem, clm := t.chip.clm, flo := t.chip.flo, ring := t.chip.ring }) ∧
  (∀ (s : State) (q : Fin 3), s.chip.clmTaking = true → s.chip.clm.cmds.length < 32 →
    ∀ x : ClmCmd × Chip, s.chip.clmHead q = some x → ∀ k, k = x.1 → k.op = 3 → s.chip.cmdWaits k = false →
    (∀ j ∈ s.chip.clm.cmds, j.n ≠ k.n) →
    Runs (.clmFlushCommand q) s fun t =>
      (if s.chip.cmdJudge k = 0 then t.chip.clm.cmds = s.chip.clm.cmds ++ [{ k with waits := s.chip.unprogrammed }]
       else t.chip.clm.cmds = s.chip.clm.cmds ++ [{ k with status := s.chip.cmdJudge k }]) ∧
      t.chip.clm.buf = s.chip.clm.buf ∧ t.chip.nand = s.chip.nand ∧
      s.Only t mediaRegs fun c => { c.met t.chip with
        regs := t.chip.regs, mem := t.chip.mem, clm := t.chip.clm, flo := t.chip.flo, ring := t.chip.ring }) ∧
  (∀ (s : State) (q : Fin 3), s.chip.clmTaking = true → s.chip.clm.cmds.length < 32 →
    ∀ x : ClmCmd × Chip, s.chip.clmHead q = some x → ∀ k, k = x.1 → k.op = 4 → s.chip.cmdJudge k = 0 → s.chip.cmdWaits k = false →
    Runs (.nsformat q) s fun t =>
      t.chip.clm.markers = s.chip.clm.markers ++ [⟨k.ns, k.n⟩] ∧ t.chip.clm.cmds = s.chip.clm.cmds ++ [k] ∧
      t.chip.clm.nextSeq = s.chip.clm.nextSeq ∧
      s.Only t mediaRegs fun c => { c.met t.chip with
        regs := t.chip.regs, mem := t.chip.mem, clm := t.chip.clm, flo := t.chip.flo, ring := t.chip.ring }) ∧
  (∀ (s : State) (q : Fin 3), s.chip.clmTaking = true → s.chip.clm.cmds.length < 32 →
    ∀ x : ClmCmd × Chip, s.chip.clmHead q = some x → ∀ k, k = x.1 → k.op = 5 → (∀ j ∈ s.chip.clm.cmds, j.n ≠ k.n) →
    Runs (.rawread q) s fun t =>
      (if s.chip.cmdJudge k = 0 then
         t.chip.clm.cmds = s.chip.clm.cmds ++ [{ k with reads := 1 }] ∧
         t.chip.clm.later = s.chip.clm.later ++ [⟨leAt k.entry 4 4 % 2 ^ 31, .raw k.n⟩]
       else t.chip.clm.cmds = s.chip.clm.cmds ++ [{ k with status := s.chip.cmdJudge k }] ∧ t.chip.clm.later = s.chip.clm.later) ∧
      t.chip.clm.reads = s.chip.clm.reads ∧
      s.Only t mediaRegs fun c => { c.met t.chip with
        regs := t.chip.regs, mem := t.chip.mem, clm := t.chip.clm, flo := t.chip.flo, ring := t.chip.ring }) ∧
  (∀ (s : State), s.chip.clmUp = true → ∀ k, s.chip.clm.cmds.find? s.chip.cmdReady = some k → k.owner = none →
    s.chip.judge 6 false true (s.chip.clmqAddr k.queue k.idx) 32 = .ok →
    (!k.flag 0 || !s.chip.portGated 5) = true → (!k.flag 0 || s.chip.podApart k.pod (s.chip.clmqAddr k.queue k.idx) 32) = true →
    Runs .clmCommandComplete s fun t =>
      t.chip.rdb (s.chip.clmqAddr k.queue k.idx + 3) = BitVec.ofNat 8 k.final ∧
      t.chip.rdMem (s.chip.clmqAddr k.queue k.idx + 20) 12 = leBytes 8 k.seq ++ leBytes 4 k.nlost ∧
      t.chip.clm.cmds = s.chip.clm.cmds.filter (fun y => y.n != k.n) ∧ t.chip.nand = s.chip.nand ∧
      (∀ n st, s.chip.upd.write = some (n, st) → t.chip.upd.write = some (n, if n = k.n then k.final else st)) ∧
      s.Only t ([Reg.CLM_QCI k.queue, Reg.FLO_OPND_STALE, Reg.FLO_OPND_DUP, Reg.FLO_OPND_UNEXP] ++ transferRegs) fun c => { c.met t.chip with
        regs := t.chip.regs, mem := t.chip.mem, clm := t.chip.clm, flo := t.chip.flo
        upd := { c.upd with write := t.chip.upd.write } })

/-- R234, R240, R241, R249–R251, R255. A unit is programmed at the next place of its stream's rick and stays buffered until its row
has parity; a failed block is retired; an erased block loses its pages; the patrol moves to the next block. What each event of
the media carries, and how many reads are under way, are the model's choice (log entry 98). -/
def Obligations.MediaWorkKeepsUnits : Prop :=
  (∀ (s : State) (duds : List (BitVec 17)), s.chip.clmReady = true → ∀ u, s.chip.nextJob = some (.unit u) → u.seq < s.chip.clm.nextSeq →
    ∀ r d, s.chip.rickFor (duds.map (·.toNat)) (writeStream (s.chip.nsOf u.unit)) = (some r, d) →
    Runs (.pageProgramDone duds) s fun t =>
      (∀ y ∈ t.chip.clm.buf, y.seq = u.seq → y.place = some (r.ppa s.chip.nPlanes r.pos)) ∧
      ((s.chip.openOf 7).isSome = true → (r.pos + 1) % s.chip.rowLen ≠ 0 → ∃ pg, t.chip.nandGet (r.ppa s.chip.nPlanes r.pos) = some pg ∧
          pg.data = u.data ∧ pg.seq = u.seq ∧ pg.sector = 4 * u.unit ∧ pg.rick = r.num) ∧
      s.Clamped t [Reg.CLM_CTRL]) ∧
  (∀ (s : State) (duds : List (BitVec 17)), s.chip.clmReady = true → ∀ m, s.chip.nextJob = some (.mark m) →
    ∀ r d, s.chip.rickFor (duds.map (·.toNat)) 6 = (some r, d) →
    Runs (.pageProgramDone duds) s fun t =>
      t.chip.clm.markers = s.chip.clm.markers.erase m ∧ t.chip.clm.marks = s.chip.clm.marks.set m.ns d.clm.nextSeq ∧
      s.Clamped t [Reg.CLM_CTRL]) ∧
  (∀ (s : State) (found : List PageFound), s.chip.clmReady = true → ∀ r rest, s.chip.clm.verify = r :: rest →
    (s.chip.crp.power ≠ .ride ∨ r.failed = []) →
    ∀ n, n = satAdd (s.chip.rd Reg.CLM_RD_PAGES)
      (((r.verified.filter fun b => s.chip.blkState b == 3).map fun b => (s.chip.pagesOf b).length).foldl (· + ·) 0) →
    Runs (.rickVerified found) s fun t =>
      t.chip.clm.verify = rest ∧ n ≤ t.chip.rd Reg.CLM_RD_PAGES ∧ (found = [] → t.chip.rd Reg.CLM_RD_PAGES = n) ∧
      s.Clamped t []) ∧
  (∀ (s : State) (cws : List CwRead), s.chip.clmReady = true → ∀ r rest, s.chip.clm.reads = r :: rest →
    ∀ n u, r.use = .sectors n u → (s.chip.nandGet r.ppa).isSome = true → cws.contains .fail = false →
    ∀ k, s.chip.clm.cmds.find? (fun k => k.n == n) = some k → k.owner = none →
    s.chip.judge 6 (k.queue == 2) true k.buffer 1048576 = .ok →
    Runs (.pageReadDone cws) s fun t =>
      t.chip.clm.reads.take rest.length = rest ∧ t.chip.rd Reg.CLM_RD_PAGES = satInc (s.chip.rd Reg.CLM_RD_PAGES) ∧
      (s.chip.bit Reg.CLM_CTRL 2 = true → s.chip.clm.later = [] → s.chip.clm.victims = [] → (∀ j ∈ s.chip.clm.cmds, j.todo = []) →
        t.chip.clm.reads = rest ∧
        t.chip.clm.cmds = s.chip.clm.cmds.map (fun k => if k.n = n then { k with reads := k.reads - 1, nlost := k.nlost } else k)) ∧
      s.Clamped t []) ∧
  (∀ (s : State) (parity sys : Bool) (duds : List (BitVec 17)), s.chip.clmReady = true →
    ∀ stream, (if sys then s.chip.clm.ckpt.map fun _ => 6 else (s.chip.nextJob.map s.chip.jobStream).or s.chip.padStream) = some stream →
    ∀ r, s.chip.openOf stream = some r →
    Runs (.programFailure parity sys duds) s fun t =>
      t.chip.rd Reg.CLM_PROGF = satInc (s.chip.rd Reg.CLM_PROGF) ∧
      min (s.chip.rd Reg.CLM_RETIRED + 1) 0x3FFFF ≤ t.chip.rd Reg.CLM_RETIRED ∧
      (sys = true → t.chip.clm.ckpt.isSome = true) ∧ s.Clamped t []) ∧
  (∀ (s : State), s.chip.clmReady = true → ∀ b, s.chip.eraseNext = some b →
    Runs (.blockEraseDone false) s fun t =>
      (t.chip.pagesOf b) = [] ∧ min (s.chip.rd Reg.CLM_ERASES + 1) 0xFFFFFFFF ≤ t.chip.rd Reg.CLM_ERASES ∧ s.Clamped t []) ∧
  (∀ (s : State), s.chip.clmReady = true → ∀ b, s.chip.eraseNext = some b →
    Runs (.blockEraseDone true) s fun t =>
      t.chip.rd Reg.CLM_ERASEF = satInc (s.chip.rd Reg.CLM_ERASEF) ∧
      min (s.chip.rd Reg.CLM_RETIRED + 1) 0x3FFFF ≤ t.chip.rd Reg.CLM_RETIRED ∧ s.Clamped t []) ∧
  (∀ (s : State) (found : List PageFound) (duds : List (BitVec 17)), s.chip.mayCollect = true →
    ∀ b, b = s.chip.rd Reg.CLM_PATROL_POS / 2 ^ 14 →
    Runs (.patrolRead found duds) s fun t =>
      t.chip.rd Reg.CLM_PATROL_POS = s.chip.blockAfter b * 2 ^ 14 ∧
      (s.chip.blkState b = 0 → s.chip.blkRefs b ≠ 0 → t.chip.clm.erasing.contains b = true ∧ t.chip.nand = s.chip.nand) ∧
      (s.chip.blkState b = 0 → s.chip.blkRefs b = 0 → (duds.map (·.toNat)).contains b = false →
        t.chip.pagesOf b = [] ∧ min (s.chip.rd Reg.CLM_ERASES + 1) 0xFFFFFFFF ≤ t.chip.rd Reg.CLM_ERASES) ∧
      (s.chip.blkState b = 0 → s.chip.blkRefs b = 0 → (duds.map (·.toNat)).contains b = true →
        t.chip.rd Reg.CLM_ERASEF = satInc (s.chip.rd Reg.CLM_ERASEF) ∧
        min (s.chip.rd Reg.CLM_RETIRED + 1) 0x3FFFF ≤ t.chip.rd Reg.CLM_RETIRED) ∧
      (s.chip.blkState b ≠ 0 → s.chip.blkState b ≠ 4 → t.chip.nand = s.chip.nand ∧ t.chip.clm = s.chip.clm) ∧
      s.Clamped t [Reg.CLM_PATROL_POS])

/-! ### 09_legal_partition.md -/

/-- R270–R274, R279, R281, R294, R296, R305. A second edge counts one second, registers the energy of the second, commits what a
boundary changed and lets a restored structure be metered again; a commit keeps the registers; the power-fail close stops
metering, closes the open interval and commits; a sweep charges the days of every valid account and gives each the state of its
credit. When an edge commits, what the engine does in DORMANT and OFF, and how a restored structure returns are the model's
choice (log entry 100). -/
def Obligations.LegalClockRegistersEnergy : Prop :=
  (∀ (s : State) (m : LegMeas), s.leg.adjusts = [] → s.chip.crp.power ≠ .off →
    Runs (.legalSecondEdge m) s fun t =>
      t.leg.secs = (s.leg.secs + 1) % 2 ^ 40 ∧ t.leg.frac = 0 ∧ t.leg.clkInvalid = s.leg.clkInvalid ∧
      (s.chip.crp.power ≠ .dormant → t.leg.edge = (s.leg.secs + 1) % 2 ^ 40 ∧ t.leg.badRegs = (s.leg.badRegs && !m.restored) ∧
        (t.leg.bmark ≠ s.leg.bmark ∨ t.leg.snapNo ≠ s.leg.snapNo → t.leg.kept = t.leg.regs ∧ t.leg.keptSecs = t.leg.secs)) ∧
      (s.chip.crp.power = .dormant → t.leg.regs = s.leg.regs ∧ t.leg.mi = s.leg.mi) ∧
      s.LegalOnly t) ∧
  (∀ (s : State) (m : LegMeas), s.chip.crp.power = .off →
    Runs (.legalSecondEdge m) s fun t => s.LegalTo t s.leg) ∧
  (∀ (s : State) (m : LegMeas), s.chip.crp.power = .run → s.leg.regs.energy.length = 54 →
    s.leg.metering s.chip.fuses.headEnd (s.lc.state == .retired) = true →
    ∀ p : Int, p = elemSum s.leg.metCfg.toNat m.p → ∀ q : Int, q = elemSum s.leg.metCfg.toNat m.q →
    Runs (.legalSecondEdge m) s fun t =>
      (if p.natAbs < fld s.leg.metCfg.toNat 31 16 * 1000 then t.leg.regs.energy = s.leg.regs.energy
       else
         t.leg.regs.energy[if 0 ≤ p then 16 else 17]? = (s.leg.regs.energy[if 0 ≤ p then 16 else 17]?).map (·.add (p.natAbs * 1000000)) ∧
         (s.leg.tariff < 8 →
           t.leg.regs.energy[(if 0 ≤ p then 0 else 8) + s.leg.tariff]? =
             (s.leg.regs.energy[(if 0 ≤ p then 0 else 8) + s.leg.tariff]?).map (·.add (p.natAbs * 1000000))) ∧
         t.leg.regs.energy[49 + quadrant p q]? = (s.leg.regs.energy[49 + quadrant p q]?).map (·.add (q.natAbs * 1000000)) ∧
         t.leg.regs.energy[if 0 ≤ p then 17 else 16]? = s.leg.regs.energy[if 0 ≤ p then 17 else 16]?)) ∧
  (∀ (s : State), ∀ g, g = s.leg.observe s.lc.tripped →
    Runs .legalRegisterCommit s fun t => s.LegalTo t { g with kept := g.regs, keptSecs := g.secs }) ∧
  (∀ (s : State) (m : LegMeas) (us : BitVec 20), s.leg.pfail = false →
    Runs (.powerFailClose m us) s fun t =>
      t.leg.pfail = true ∧ t.leg.down = some s.leg.secs ∧ t.leg.mi = none ∧ t.leg.kept = t.leg.regs ∧
      t.leg.keptSecs = s.leg.secs ∧ t.leg.secs = s.leg.secs ∧ t.leg.pfCnt = satInc s.leg.pfCnt ∧
      (s.leg.metering s.chip.fuses.headEnd (s.lc.state == .retired) = false → t.leg.regs = s.leg.regs) ∧
      s.LegalOnly t) ∧
  (∀ (s : State) (us : BitVec 32), Tab.wf (fun _ => Account.zero) s.leg.accounts = true →
    ∀ d m, (d, m) = localTime s.leg.active s.leg.secs →
    Runs (.prepaymentSweep us) s fun t =>
      (∀ a x y, x = s.leg.account a → y = t.leg.account a → (x.valid && x.good) = true →
        ∀ price, price = leAt (Tab.get (fun _ => List.replicate 48 (0 : Byte)) s.leg.plans x.plan.toNat) 32 4 →
        ∀ c : Int, c = x.credit.toInt - ((d.toNat - x.dayCharged.toNat) * price : Nat) → -(2 ^ 63) ≤ c →
        y.credit.toInt = c ∧
        y.dayCharged = (if d.toNat ≤ x.dayCharged.toNat then x.dayCharged else BitVec.ofNat 32 d.toNat) ∧
        y.state = (if x.lowTh.toInt < c then 0 else if 0 < c then 1
          else if -(x.ecLimit.toNat : Int) < c ∧ (x.ecActive || x.ecAuto) = true then 2
          else if x.state = 4 ∨ s.leg.isFriendly x d m = false then 4 else 3) ∧
        y.ecActive = (if x.lowTh.toInt < c then false else if y.state = 2 then true else x.ecActive) ∧
        y.noticeT = (if x.state = 4 ↔ y.state = 4 then x.noticeT else BitVec.ofNat 40 s.leg.secs) ∧
        y = { x with credit := y.credit, dayCharged := y.dayCharged, state := y.state, ecActive := y.ecActive, noticeT := y.noticeT }) ∧
      (∀ a, ((s.leg.account a).valid && (s.leg.account a).good) = false → t.leg.account a = s.leg.account a) ∧
      t.leg.sweepMax = max s.leg.sweepMax us.toNat ∧ t.leg.regs = s.leg.regs ∧ s.LegalOnly t)

/-- R271, R275, R286, R299, R305, Tables 18 and 19. MET_FAULT starts and ends with an entry, and a structure that is not restored
keeps it set; a change of the configuration waits for the whole hour; each register write is logged or refused; a start writes its
entry and judges the registers. The bytes of OLD and NEW and the two causes of MET_FAULT are the model's choice (log entry 100). -/
def Obligations.LegalConfigurationIsLogged : Prop :=
  (∀ (s : State), ∀ g, g = s.leg.observe s.lc.tripped →
    Runs .metFaultStart s fun t =>
      t.leg.faulted = true ∧
      (if s.leg.faulted then s.LegalTo t { g with metFault := true }
       else s.LegalTo t ({ g with metFault := true, mi := g.mi.map fun (x : LegMi) => { x with fault := true } }.logM 0x03 [0] [1]) ∧
        (g.logFull = false → t.leg.log.getLast?.map (fun e => (e.typ, e.seq)) = some (3, g.logSeq)))) ∧
  (∀ (s : State), ∀ g, g = s.leg.observe s.lc.tripped →
    Runs .metFaultEnd s fun t =>
      t.leg.faulted = s.leg.badRegs ∧
      (if s.leg.metFault && !s.leg.badRegs then s.LegalTo t ({ g with metFault := false }.logM 0x03 [1] [0])
       else s.LegalTo t { g with metFault := false })) ∧
  (∀ (s : State), ∀ v, s.leg.metPending = some v → ∀ g, g = s.leg.observe s.lc.tripped →
    Runs .metConfigApply s fun t =>
      if s.leg.secs % 3600 = 0 then
        t.leg.metCfg = v ∧ t.leg.metPending = none ∧
        s.LegalTo t { g with metCfg := v, metPending := none, regs := { g.regs with demand := t.leg.regs.demand } }
      else s.LegalTo t g) ∧
  (∀ (s : State) (v : Word) (w : Who), w.level = .seal → ∀ g, g = s.leg.observe s.lc.tripped →
    Runs (.legMetCfgWrite v w) s fun t =>
      s.LegalTo t (if g.logFull then { g with err := g.err ||| 1 }
        else if metCfgValid v.toNat then
          { g with metPending := some (v &&& 0xFFFF07FF) }.append 0x12 2 0 (leBytes 4 g.metCfg.toNat) (leBytes 4 v.toNat) []
        else { g with err := g.err ||| 2 })) ∧
  (∀ (s : State) (v : Word) (w : Who), w.level = .seal → ∀ g, g = s.leg.observe s.lc.tripped →
    Runs (.legClkCfgWrite v w) s fun t =>
      s.LegalTo t (if g.logFull then { g with err := g.err ||| 1 }
        else { g with clkCfg := v &&& 0xFF }.append 0x13 2 0 (leBytes 4 g.clkCfg.toNat) (leBytes 4 v.toNat) [])) ∧
  (∀ (s : State) (v : Word) (w : Who), w.level ≠ .seal →
    Runs (.legMetCfgWrite v w) s fun t =>
      t.leg = s.leg ∧ s.Only t transferRegs fun c => { c with regs := t.chip.regs, ember := t.chip.ember }) ∧
  (∀ (s : State) (v : Word) (w : Who), w.level ≠ .seal →
    Runs (.legClkCfgWrite v w) s fun t =>
      t.leg = s.leg ∧ s.Only t transferRegs fun c => { c with regs := t.chip.regs, ember := t.chip.ember }) ∧
  (∀ (s : State) (ok : Bool) (bad : List (BitVec 14)), ∀ g, g = s.leg.observe s.lc.tripped →
    Runs (.legalEngineStart ok bad) s fun t =>
      (g.logFull = false → (t.leg.log[g.log.length]?).map (fun e => (e.typ, e.seq, e.new.take 4)) = some (4, g.logSeq, leBytes 4 g.swid.toNat)) ∧
      t.leg.badRegs = !ok ∧
      (∀ a ∈ bad, (t.leg.account a.toNat).good = false) ∧
      (∀ a : BitVec 14, bad.contains a = false → t.leg.account a.toNat = s.leg.account a.toNat) ∧
      t = { s with
        leg := { s.leg with log := t.leg.log, logSeq := t.leg.logSeq, logLost := t.leg.logLost, logLostSince := t.leg.logLostSince,
                            told90 := t.leg.told90, tripSeen := t.leg.tripSeen, badRegs := t.leg.badRegs, mi := t.leg.mi,
                            accounts := t.leg.accounts, notices := [] }
        chip := { s.chip with
          regs := t.chip.regs, ember := t.chip.ember, crp := { s.chip.crp with noted := t.chip.crp.noted }
          ring := { s.chip.ring with posted := t.chip.ring.posted } } } ∧
      (∀ r, (Reg.CRP_GATED_CNT 3 :: recordRegs).contains r = false → t.chip.rdW r = s.chip.rdW r))

/-- R275, R276, R291, R292, R300, R301, R303. A read is answered with what it names; a clock request waits as an adjustment for
the next edge, a large one only where it is allowed. The widths of the operands, the order of the checks, several adjustments for
one edge and the bytes of the replies are the model's choice (log entries 88, 100). -/
def Obligations.LegalReadsAndClockAreServed : Prop :=
  (∀ (s : State) (rq : Word), ∀ g, g = s.leg.observe s.lc.tripped → s.legalServed g = true →
    Runs (.readRegs rq) s fun t => s.Replied t 1 0 rq (leBytes 5 g.secs ++ g.regs.bytes) g) ∧
  (∀ (s : State) (rq : Word) (num : BitVec 32), ∀ g, g = s.leg.observe s.lc.tripped → s.legalServed g = true →
    Runs (.readSnap rq num) s fun t =>
      (∀ e : Nat × LegSnap, g.snaps.find? (fun x => x.2.num == num.toNat) = some e →
        s.Replied t 2 0 rq (leBytes 4 e.2.num ++ leBytes 5 e.2.closed ++ leBytes 1 e.2.reason ++ leBytes 4 e.2.calId.toNat ++
          leBytes 1 (b2n e.2.clkInvalid) ++ e.2.regs.bytes) g) ∧
      (g.snaps.find? (fun x => x.2.num == num.toNat) = none → s.Replied t 2 3 rq [] g)) ∧
  (∀ (s : State) (rq : Word) (first : BitVec 32) (n : Byte), ∀ g, g = s.leg.observe s.lc.tripped → s.legalServed g = true →
    Runs (.logRead rq first n) s fun t =>
      if n = 0 ∨ 32 < n.toNat then s.Replied t 3 3 rq [] g
      else
        let es := (g.log.filter fun e => decide (first.toNat ≤ e.seq)).take n.toNat
        s.Replied t 3 0 rq (es.flatMap LegEntry.bytes) { g with logMark := es.foldl (fun m e => max m e.seq) g.logMark }) ∧
  (∀ (s : State) (rq : Word) (a : BitVec 16), ∀ g, g = s.leg.observe s.lc.tripped → s.legalServed g = true →
    Runs (.readAccount rq a) s fun t =>
      if 16384 ≤ a.toNat then s.Replied t 4 3 rq [] g
      else if (g.account a.toNat).valid && (g.account a.toNat).good then s.Replied t 4 0 rq (g.account a.toNat).bytes g
      else s.Replied t 4 6 rq [] g) ∧
  (∀ (s : State) (rq : Word), ∀ g, g = s.leg.observe s.lc.tripped → s.legalServed g = true →
    Runs (.readClock rq) s fun t => s.Replied t 5 0 rq (leBytes 5 g.secs ++ leBytes 5 g.bmark ++ leBytes 1 (b2n g.clkInvalid)) g) ∧
  (∀ (s : State) (rq : Word) (time : BitVec 40) (tag : BitVec 64),
    ∀ req, req = legalBody 0x10 rq (leBytes 5 time.toNat) (leBytes 8 tag.toNat) → ∀ g, g = s.leg.observe s.lc.tripped →
    s.admits g .clock 0x10 req = true →
    ∀ d : Int, d = (time.toNat : Int) - (g.secs + 1) → ∀ large, large = { g with adjusts := [] }.isLarge d →
    Runs (.setClock rq time tag) s fun t =>
      if large && s.lc.state == .retired then s.Replied t 0x10 4 rq [] g
      else if large && g.logFull then s.Replied t 0x10 2 rq [] g
      else s.Replied t 0x10 0 rq [] { g with adjusts := [⟨d, large, rq, (sha256 req).take 8⟩] }) ∧
  (∀ (s : State) (rq : Word) (delta : BitVec 32) (tag : BitVec 64),
    ∀ req, req = legalBody 0x11 rq (leBytes 4 delta.toNat) (leBytes 8 tag.toNat) → ∀ g, g = s.leg.observe s.lc.tripped →
    s.admits g .clock 0x11 req = true →
    ∀ d : Int, d = delta.toInt → ∀ large, large = g.isLarge d →
    Runs (.adjClock rq delta tag) s fun t =>
      if (g.secs + 1 : Int) + d < 0 ∨ 2 ^ 40 ≤ (g.secs + 1 : Int) + d then s.Replied t 0x11 3 rq [] g
      else if large && s.lc.state == .retired then s.Replied t 0x11 4 rq [] g
      else if large && g.logFull then s.Replied t 0x11 2 rq [] g
      else s.Replied t 0x11 0 rq [] { g with adjusts := g.adjusts ++ [⟨d, large, rq, (sha256 req).take 8⟩] })

/-- R286, R288, R290–R292, R298, R300, R302. A parameter request whose checks pass takes effect with its entry in the log, naming
RQID and digest; one that fails them ends with its result and changes nothing. The widths of the operands, the order of the
checks and what an activation and a cancellation need are the model's choice (log entry 88). -/
def Obligations.LegalParametersAreSet : Prop :=
  (∀ (s : State) (rq : Word) (body : List Byte) (tag : BitVec 64), body.length < 60000 →
    ∀ req, req = legalBody 0x12 rq body (leBytes 8 tag.toNat) → ∀ g, g = s.leg.observe s.lc.tripped →
    s.admits g .param 0x12 req = true →
    Runs (.calLoad rq body tag) s fun t =>
      if calendarValid body then s.Replied t 0x12 0 rq [] ({ g with passive := some (Calendar.ofBytes body), activateAt := none }.append 0x14 1 rq
        [] (leBytes 4 (Calendar.ofBytes body).calId.toNat) ((sha256 req).take 8))
      else s.Replied t 0x12 3 rq [] g) ∧
  (∀ (s : State) (rq : Word) (time : BitVec 40) (tag : BitVec 64),
    ∀ req, req = legalBody 0x13 rq (leBytes 5 time.toNat) (leBytes 8 tag.toNat) → ∀ g, g = s.leg.observe s.lc.tripped →
    s.admits g .param 0x13 req = true →
    Runs (.calActivate rq time tag) s fun t =>
      if g.passive.isSome then s.Replied t 0x13 0 rq [] { g with activateAt := some time.toNat } else s.Replied t 0x13 4 rq [] g) ∧
  (∀ (s : State) (rq : Word) (c : Bool) (k : Byte) (e : BitVec 40) (tag : BitVec 64),
    ∀ req, req = legalBody 0x14 rq ([BitVec.ofNat 8 (b2n c), k] ++ leBytes 5 e.toNat) (leBytes 8 tag.toNat) → ∀ g, g = s.leg.observe s.lc.tripped →
    s.admits g .param 0x14 req = true →
    Runs (.override rq c k e tag) s fun t =>
      if c then
        (if g.override.isSome || (g.overrideReq.map (·.1.isSome)) == some true then
          s.Replied t 0x14 0 rq [] ({ g with overrideReq := some (none, rq, (sha256 req).take 8) }.append 0x16 1 rq [] [] ((sha256 req).take 8))
        else s.Replied t 0x14 4 rq [] g)
      else if 7 < k.toNat then s.Replied t 0x14 3 rq [] g
      else s.Replied t 0x14 0 rq [] ({ g with overrideReq := some (some (k.toNat, e.toNat), rq, (sha256 req).take 8) }.append 0x16 1 rq []
        (leBytes 1 k.toNat ++ leBytes 5 e.toNat) ((sha256 req).take 8))) ∧
  (∀ (s : State) (rq : Word) (tag : BitVec 64),
    ∀ req, req = legalBody 0x15 rq [] (leBytes 8 tag.toNat) → ∀ g, g = s.leg.observe s.lc.tripped →
    s.admits g .param 0x15 req = true →
    Runs (.billClose rq tag) s fun t =>
      s.Replied t 0x15 0 rq [] ({ g with billReqs := g.billReqs + 1 }.append 0x17 1 rq [] [] ((sha256 req).take 8))) ∧
  (∀ (s : State) (rq : Word) (v : Word) (tag : BitVec 64),
    ∀ req, req = legalBody 0x16 rq (leBytes 4 v.toNat) (leBytes 8 tag.toNat) → ∀ g, g = s.leg.observe s.lc.tripped →
    s.admits g .param 0x16 req = true →
    Runs (.metConfig rq v tag) s fun t =>
      if metCfgValid v.toNat then
        s.Replied t 0x16 0 rq [] ({ g with metPending := some (v &&& 0xFFFF07FF) }.append 0x12 1 rq (leBytes 4 g.metCfg.toNat) (leBytes 4 v.toNat) ((sha256 req).take 8))
      else s.Replied t 0x16 3 rq [] g) ∧
  (∀ (s : State) (rq : Word) (data : List Byte) (low : Bool) (tag : BitVec 64), data.length < 60000 →
    ∀ req, req = legalBody 0x17 rq data (leBytes 8 tag.toNat) → ∀ g, g = s.leg.observe s.lc.tripped →
    s.admits g .param 0x17 req = true →
    Runs (.calibrate rq data low tag) s fun t =>
      if low then s.Replied t 0x17 0 rq [] ({ g with calenLow := true, calib := data }.append 0x11 1 rq [] [] ((sha256 req).take 8))
      else s.Replied t 0x17 4 rq [] { g with calenLow := false }) ∧
  (∀ (s : State) (rq : Word) (n : Byte) (body : List Byte) (tag : BitVec 64), body.length < 60000 →
    ∀ req, req = legalBody 0x18 rq (n :: body) (leBytes 8 tag.toNat) → ∀ g, g = s.leg.observe s.lc.tripped →
    s.admits g .param 0x18 req = true →
    Runs (.pricePlan rq n body tag) s fun t =>
      if 64 ≤ n.toNat then s.Replied t 0x18 3 rq [] g
      else s.Replied t 0x18 0 rq [] ({ g with plans := Tab.put (fun _ => List.replicate 48 0) g.plans n.toNat (slice body 0 48) }.append 0x18 1 rq [] [n]
        ((sha256 req).take 8))) ∧
  (∀ (s : State) (rq : Word) (n : Byte) (body : List Byte) (tag : BitVec 64), body.length < 60000 →
    ∀ req, req = legalBody 0x19 rq (n :: body) (leBytes 8 tag.toNat) → ∀ g, g = s.leg.observe s.lc.tripped →
    s.admits g .param 0x19 req = true →
    Runs (.friendlyCal rq n body tag) s fun t =>
      if 16 ≤ n.toNat then s.Replied t 0x19 3 rq [] g
      else s.Replied t 0x19 0 rq [] ({ g with friendly := Tab.put (fun _ => List.replicate 32 0) g.friendly n.toNat (slice body 0 32) }.append 0x19 1 rq [] [n]
        ((sha256 req).take 8))) ∧
  (∀ (s : State) (rq : Word) (seq : BitVec 32) (tag : BitVec 64),
    ∀ req, req = legalBody 0x1A rq (leBytes 4 seq.toNat) (leBytes 8 tag.toNat) → ∀ g, g = s.leg.observe s.lc.tripped →
    s.admits g .param 0x1A req = true →
    ∀ upTo, upTo = min seq.toNat g.logMark → ∀ h, h = { g with log := g.log.filter fun e => decide (upTo < e.seq) } →
    Runs (.logArchive rq seq tag) s fun t =>
      if h.logFull then s.Replied t 0x1A 2 rq [] g
      else if h.logLostSince = 0 ∨ 8192 ≤ h.log.length + 1 then s.Replied t 0x1A 0 rq [] (h.append 0x1A 1 rq [] (leBytes 4 upTo) ((sha256 req).take 8))
      else s.Replied t 0x1A 0 rq [] (({ h with logLostSince := 0 }.append 0x07 0 0 [] (leBytes 4 h.logLostSince) []).append 0x1A 1 rq []
        (leBytes 4 upTo) ((sha256 req).take 8)))

/-- R292–R295, R297. A ledger request finds its account or ends with 3 or 6; a top-up or a charge that is not newer ends with 5,
another changes CREDIT, and the account takes the state that its credit gives; emergency credit shows in the state at the next
visit of the sweep. The widths of the operands, a slot that is created over a valid account and unsigned amounts are the model's
choice (log entry 88). -/
def Obligations.LedgerFollowsRequests : Prop :=
  (∀ (s : State) (rq : Word) (a : BitVec 16) (h : BitVec 20) (pl fr fl : Byte) (ec low : BitVec 64),
    ∀ g, g = s.leg.observe s.lc.tripped → s.legalServed g = true →
    Runs (.accCreate rq a h pl fr fl ec low) s fun t =>
      if 16384 ≤ a.toNat then s.Replied t 0x20 3 rq [] g
      else if (g.account a.toNat).good = false then s.Replied t 0x20 6 rq [] g
      else s.Replied t 0x20 0 rq [] (g.setAccount a.toNat { Account.zero with
        valid := true, handle := h, plan := pl.setWidth 6, friendly := fr, ecAuto := fl.getLsbD 0, ecActive := fl.getLsbD 1
        ecLimit := ec, lowTh := low })) ∧
  (∀ (s : State) (rq : Word) (a : BitVec 16), ∀ g, g = s.leg.observe s.lc.tripped → s.legalServed g = true →
    ∀ x, x = g.account a.toNat →
    Runs (.accDelete rq a) s fun t =>
      if 16384 ≤ a.toNat then s.Replied t 0x21 3 rq [] g
      else if (x.valid && x.good) = false then s.Replied t 0x21 6 rq [] g
      else if x.credit.toInt < 0 then s.Replied t 0x21 4 rq [] g
      else s.Replied t 0x21 0 rq [] (g.setAccount a.toNat { x with valid := false })) ∧
  (∀ (s : State) (rq : Word) (a : BitVec 16) (n : BitVec 64) (seq : BitVec 32) (tag : BitVec 64),
    ∀ req, req = legalBody 0x22 rq (leBytes 2 a.toNat ++ leBytes 8 n.toNat ++ leBytes 4 seq.toNat) (leBytes 8 tag.toNat) →
    ∀ g, g = s.leg.observe s.lc.tripped → s.admits g .vending 0x22 req = true → ∀ x, x = g.account a.toNat →
    Runs (.topup rq a n seq tag) s fun t =>
      if 16384 ≤ a.toNat then s.Replied t 0x22 3 rq [] g
      else if (x.valid && x.good) = false then s.Replied t 0x22 6 rq [] g
      else if seq.toNat ≤ x.topupSeq.toNat then s.Replied t 0x22 5 rq [] g
      else s.Replied t 0x22 0 rq [] ((g.setAccount a.toNat { x with
        credit := narrowCredit (x.credit.toInt + n.toNat), topupSeq := seq }).settleAccount a.toNat)) ∧
  (∀ (s : State) (rq : Word) (a : BitVec 16) (tag : BitVec 64),
    ∀ req, req = legalBody 0x23 rq (leBytes 2 a.toNat) (leBytes 8 tag.toNat) →
    ∀ g, g = s.leg.observe s.lc.tripped → s.admits g .vending 0x23 req = true → ∀ x, x = g.account a.toNat →
    Runs (.ecOn rq a tag) s fun t =>
      if 16384 ≤ a.toNat then s.Replied t 0x23 3 rq [] g
      else if (x.valid && x.good) = false then s.Replied t 0x23 6 rq [] g
      else if x.state = 1 ∨ x.state = 3 then
        s.Replied t 0x23 0 rq [] (g.setAccount a.toNat { x with ecActive := true })
      else s.Replied t 0x23 4 rq [] g) ∧
  (∀ (s : State) (rq : Word) (a : BitVec 16) (e : BitVec 32) (len : BitVec 16) (n : BitVec 32),
    ∀ g, g = s.leg.observe s.lc.tripped → s.legalServed g = true → ∀ x, x = g.account a.toNat →
    ∀ tar, tar = tariffOf g.active (((e.toNat : Int) - len.toNat) * 60) →
    ∀ cost, cost = (n.toNat * leAt (Tab.get (fun _ => List.replicate 48 (0 : Byte)) g.plans x.plan.toNat) (4 * tar) 4 + 5000) / 10000 →
    Runs (.charge rq a e len n) s fun t =>
      if 16384 ≤ a.toNat then s.Replied t 0x24 3 rq [] g
      else if (x.valid && x.good) = false then s.Replied t 0x24 6 rq [] g
      else if e.toNat ≤ x.lastEnd.toNat then s.Replied t 0x24 5 rq [] g
      else s.Replied t 0x24 0 rq [] ((g.setAccount a.toNat { x with
        credit := narrowCredit (x.credit.toInt - cost), lastEnd := e }).settleAccount a.toNat)) ∧
  (∀ (s : State) (rq : Word) (a : BitVec 16) (pl fr fl : Byte) (ec low : BitVec 64),
    ∀ g, g = s.leg.observe s.lc.tripped → s.legalServed g = true → ∀ x, x = g.account a.toNat →
    Runs (.accSet rq a pl fr fl ec low) s fun t =>
      if 16384 ≤ a.toNat then s.Replied t 0x25 3 rq [] g
      else if (x.valid && x.good) = false then s.Replied t 0x25 6 rq [] g
      else s.Replied t 0x25 0 rq [] (g.setAccount a.toNat { x with
        plan := pl.setWidth 6, friendly := fr, ecAuto := fl.getLsbD 0, ecActive := fl.getLsbD 1, ecLimit := ec, lowTh := low }))

/-! ### 10_time_and_backbone.md -/

/-- R307–R311, R325. A frame is dropped, paused on, passed to the ingest or delivered with its record and stamp by the first rule
that applies; the head of a queue starts, and completes with its status and stamp; a link change is seen. Where PAUSE stands
among the filters, and how a stamp is formed, are the model's reading (log entries 72, 101). -/
def Obligations.PortsCarryFrames : Prop :=
  (∀ (s : State) (p : Fin 2) (f : List Byte) (good : Bool) (phase : BitVec 16), s.chip.portUp p = true →
    ∀ stamp, stamp = s.chip.rxStamp p phase →
    Runs (.ethFrameReceived p f good phase) s fun t =>
      (if good = false ∨ f.length < 60 then
        t.chip.rd (Reg.BKB_RX_FCS p) = satInc (s.chip.rd (Reg.BKB_RX_FCS p)) ∧
        s.Only t [Reg.BKB_RX_FCS p] fun c => { c with regs := t.chip.regs }
      else if s.chip.maxLen p < f.length + 4 then
        t.chip.rd (Reg.BKB_RX_LONG p) = satInc (s.chip.rd (Reg.BKB_RX_LONG p)) ∧
        s.Only t [Reg.BKB_RX_LONG p] fun c => { c with regs := t.chip.regs }
      else if isPause f then
        (s.chip.bit (Reg.BKB_PORT_CFG p) 27 = true →
          (t.chip.port p).pauseUntil = BitVec.ofNat 64 (s.chip.time.toNat + s.chip.quantaNs p (beAt f 16 2))) ∧
        s.Only t [] fun c => { c with bkb := { c.bkb with ports := t.chip.bkb.ports } }
      else if !s.chip.macAccepts p (slice f 0 6) then t = s
      else if !isPtp f && (etherType f).1 == s.chip.fl Reg.BKB_ETYPE 15 0 then
        t.chip.bkb.arrived = s.chip.bkb.arrived ++ [⟨p, f, f.drop (etherType f).2, stamp.1, stamp.2, s.chip.timeLocked⟩] ∧
        s.Only t [] fun c => { c with bkb := { c.bkb with arrived := t.chip.bkb.arrived } }
      else
        let q := if isPtp f then 0 else if (etherType f).1 == s.chip.fl Reg.BKB_ETYPE 31 16 then 2 else 1
        let slot := if s.chip.bit (Reg.BKB_RXQ_CFG q) 4 then 16384 else 2048
        let pi := s.chip.rd (Reg.BKB_RXQ_PI q) % s.chip.rxqSize q
        let a := s.chip.fl (Reg.BKB_RXQ_BASE_LO q) 31 12 * 4096 + s.chip.fl (Reg.BKB_RXQ_BASE_HI q) 15 0 * 2 ^ 32 + slot * pi
        let room := s.chip.bit (Reg.BKB_RXQ_CFG q) 31 && (pi + 1) % s.chip.rxqSize q != s.chip.rd (Reg.BKB_RXQ_CI q) % s.chip.rxqSize q &&
          decide (32 + f.length ≤ slot)
        let j := s.chip.judge 10 false true a (32 + f.length)
        (if room && j.seen == .ok then
          t.chip.rd (Reg.BKB_RXQ_PI q) = (pi + 1) % s.chip.rxqSize q ∧
          (j.done = true → t.chip.rdMem (a + 32) f.length = f ∧
            t.chip.rdMem a 8 = leBytes 8 stamp.1.toNat ∧ t.chip.rdMem (a + 8) 2 = leBytes 2 f.length ∧ t.chip.rdb (a + 11) = stamp.2) ∧
          (∀ x, (x < a ∨ a + 32 + f.length ≤ x) → t.chip.rdb x = s.chip.rdb x)
        else t.chip.rd (Reg.BKB_RX_DROP q) = satInc (s.chip.rd (Reg.BKB_RX_DROP q)) ∧ (∀ x, t.chip.rdb x = s.chip.rdb x)) ∧
        s.Only t ([Reg.BKB_RXQ_PI q, Reg.BKB_RX_DROP q] ++ transferRegs) fun c => { c.met t.chip with
          regs := t.chip.regs, mem := t.chip.mem })) ∧
  (∀ (s : State) (p : Fin 2) (phase : BitVec 16), s.chip.portUp p = true → (s.chip.port p).tx = none →
    (s.chip.port p).pauseUntil.toNat ≤ s.chip.time.toNat → ∀ n, s.chip.txNext p = some n → (!s.chip.outputsGated || n.1 == 0) = true →
    ∀ a, a = s.chip.txqHead p n.1 → s.chip.judge 10 false false a 32 = .ok → ∀ e, e = s.chip.rdMem a 32 →
    ∀ len, len = leAt e 6 2 % 2 ^ 14 → s.chip.judge 10 false false (leAt e 0 6) len = .ok →
    ∀ f, f = s.chip.rdMem (leAt e 0 6) len → s.chip.txValid p e f = true →
    ∀ out, out = s.chip.txStamp p phase →
    Runs (.ethTransmitStart p phase) s fun t =>
      (t.chip.port p).tx = some ⟨n.1, e, if bitOf (leAt e 8 1) 1 then oneStep f (leAt e 10 2) out.1 out.2 (leAt e 12 8) else f, n.2, out.1, out.2⟩ ∧
      (t.chip.port p).sent = (s.chip.port p).sent ∧ t.chip.port (1 - p.val) = s.chip.port (1 - p.val) ∧
      s.Only t transferRegs fun c => { c.met t.chip with
        regs := t.chip.regs, mem := t.chip.mem, bkb := { c.bkb with ports := t.chip.bkb.ports } }) ∧
  (∀ (s : State) (p : Fin 2), ∀ x, (s.chip.port p).tx = some x → ∀ a, a = s.chip.txqHead p x.queue →
    s.chip.judge 10 false true a 32 = .ok →
    Runs (.ethTransmitDone p) s fun t =>
      (t.chip.port p).tx = none ∧ (t.chip.port p).sent = x.frame :: (s.chip.port p).sent ∧
      t.chip.rd (Reg.BKB_TX_OK p) = satInc (s.chip.rd (Reg.BKB_TX_OK p)) ∧
      t.chip.rdb (a + 20) = (if x.late then 2 else 1) ∧
      (leAt x.entry 8 1 % 4 ≠ 0 → t.chip.rdMem (a + 24) 8 = leBytes 8 x.ts.toNat ∧ t.chip.rdb (a + 21) = x.sub) ∧
      t.chip.rd (Reg.BKB_TXQ_CI p x.queue) = (s.chip.rd (Reg.BKB_TXQ_CI p x.queue) + 1) % s.chip.txqSize p x.queue ∧
      (∀ y, (y < a + 20 ∨ a + 32 ≤ y) → t.chip.rdb y = s.chip.rdb y) ∧
      s.Only t ([Reg.BKB_TX_OK p, Reg.BKB_TX_LATE p, Reg.BKB_TXQ_CI p x.queue] ++ transferRegs) fun c => { c.met t.chip with
        regs := t.chip.regs, mem := t.chip.mem, bkb := { c.bkb with ports := t.chip.bkb.ports } }) ∧
  (∀ (s : State) (p : Fin 2) (sync : Bool) (v : Fin 3),
    Runs (.ethLinkChange p sync v) s fun t =>
      t.chip.port p = { s.chip.port p with sync := sync, speed := v } ∧ t.chip.port (1 - p.val) = s.chip.port (1 - p.val) ∧
      s.Only t [] fun c => { c with bkb := { c.bkb with ports := t.chip.bkb.ports } })

/-- R313–R316. A relayed block is counted bad, forwarded, dropped for room, counted as a duplicate or kept, by the first that
applies; an entry for this node is stored and posted as an operand of source 3; PAUSE is repeated while INGEST_HI is set. That a
gap is counted only for a known source and that room returns with a whole block are the model's reading (log entry 72). -/
def Obligations.RelayedBlocksAreIngested : Prop :=
  (∀ (s : State), ∀ x rest, s.chip.bkb.arrived = x :: rest → ∀ b, b = x.block →
    leAt b 6 2 % 4096 = s.chip.fl Reg.BKB_NODE 11 0 →
    ∀ n, n = leAt b 4 2 % 4096 → ∀ d, d = (leAt b 8 4 + 2 ^ 32 - s.chip.rd (Reg.BKB_BLK_LAST n)) % 2 ^ 32 →
    ∀ known, known = s.chip.bit (Reg.BKB_BLK_LAST n + 4) 0 →
    Runs .blockIngest s fun t =>
      t.chip.bkb.arrived = rest ∧
      (if blockGood b = false then
        t.chip.rd Reg.BKB_BLK_BAD = satInc (s.chip.rd Reg.BKB_BLK_BAD) ∧ t.chip.bkb.ingest = s.chip.bkb.ingest
      else if ingestSize < s.chip.ingestFill + leAt b 12 4 then
        t.chip.rd Reg.BKB_INGEST_DROP = satInc (s.chip.rd Reg.BKB_INGEST_DROP) ∧ t.chip.bkb.ingest = s.chip.bkb.ingest
      else if known && (d == 0 || decide (2 ^ 31 ≤ d)) then
        t.chip.rd Reg.BKB_BLK_DUP = satInc (s.chip.rd Reg.BKB_BLK_DUP) ∧ t.chip.bkb.ingest = s.chip.bkb.ingest
      else
        t.chip.rd Reg.BKB_BLK_OK = satInc (s.chip.rd Reg.BKB_BLK_OK) ∧
        t.chip.rd Reg.BKB_BLK_GAP = (if known then satAdd (s.chip.rd Reg.BKB_BLK_GAP) (d - 1) else s.chip.rd Reg.BKB_BLK_GAP) ∧
        t.chip.rd (Reg.BKB_BLK_LAST n) = leAt b 8 4 ∧ t.chip.bit (Reg.BKB_BLK_LAST n + 4) 0 = true ∧
        t.chip.bkb.ingest = s.chip.bkb.ingest ++ [⟨b.take (leAt b 12 4), x.ts, 24, 0⟩]) ∧
      s.Only t [Reg.BKB_BLK_BAD, Reg.BKB_INGEST_DROP, Reg.BKB_BLK_DUP, Reg.BKB_BLK_OK, Reg.BKB_BLK_GAP, Reg.BKB_BLK_LAST n,
        Reg.BKB_BLK_LAST n + 4, Reg.BKB_STATUS, Reg.BKB_PAUSE_TX 0, Reg.BKB_PAUSE_TX 1] fun c => { c with
        regs := t.chip.regs, bkb := { c.bkb with arrived := t.chip.bkb.arrived, ingest := t.chip.bkb.ingest, ports := t.chip.bkb.ports } }) ∧
  (∀ (s : State), ∀ x rest, s.chip.bkb.ingest = x :: rest → s.chip.gated 1 = false → s.chip.bit Reg.BKB_CTRL 1 = false →
    ∀ smn, smn = leAt x.data x.off 4 → smn / 2 ^ 20 = s.chip.fl Reg.BKB_NODE 11 0 → s.chip.portGated 5 = false → s.chip.allocRoom 3 = true →
    s.chip.pairState ≠ 2 → ∀ len, len = leAt x.data (x.off + 12) 2 →
    ∀ slot, s.chip.poolFind .bkb (if len ≤ 960 then 1 else (64 + len + 1023) / 1024) = some slot →
    s.chip.judge 10 false true (slotAddr slot) (64 + (slice x.data (x.off + 16) len).length) = .ok →
    Runs .blockEntryUnpack s fun t =>
      t.chip.allocQueue 3 = s.chip.allocQueue 3 ++ [s.chip.relayOperand smn slot x.idx] ∧
      t.chip.rdMem (slotAddr slot + 64) (slice x.data (x.off + 16) len).length = slice x.data (x.off + 16) len ∧
      t.chip.rdMem (slotAddr slot + 20) 8 = leBytes 8 x.rxts.toNat ∧
      (x.idx + 1 < leAt x.data 2 2 → t.chip.bkb.ingest = { x with off := x.off + 16 + (len + 3) / 4 * 4, idx := x.idx + 1 } :: rest) ∧
      (leAt x.data 2 2 ≤ x.idx + 1 → t.chip.bkb.ingest = rest) ∧
      (∀ y, (y < slotAddr slot ∨ slotAddr slot + 64 + len ≤ y) → t.chip.rdb y = s.chip.rdb y) ∧
      s.Only t ([Reg.BKB_STATUS, Reg.BKB_PAUSE_TX 0, Reg.BKB_PAUSE_TX 1] ++ transferRegs) fun c => { c.met t.chip with
        regs := t.chip.regs, mem := t.chip.mem, pools := t.chip.pools
        flo := { c.flo with queues := t.chip.flo.queues }, bkb := { c.bkb with ingest := t.chip.bkb.ingest, ports := t.chip.bkb.ports } }) ∧
  (∀ (s : State), s.chip.bit Reg.BKB_STATUS 4 = true →
    Runs .pauseRepeat s fun t =>
      (∀ p : Fin 2,
        if s.chip.portUp p && s.chip.bit (Reg.BKB_PORT_CFG p) 26 then
          (t.chip.port p).sent = s.chip.pauseFrame p 0xFFFF :: (s.chip.port p).sent ∧
          t.chip.rd (Reg.BKB_PAUSE_TX p) = satInc (s.chip.rd (Reg.BKB_PAUSE_TX p))
        else t.chip.port p = s.chip.port p) ∧
      s.Only t [Reg.BKB_PAUSE_TX 0, Reg.BKB_PAUSE_TX 1] fun c => { c with
        regs := t.chip.regs, bkb := { c.bkb with ports := t.chip.bkb.ports } })

/-- R317–R320, R324. The increment is clipped to 500 ppm, STATE is written, a slew replaces what remained, a step moves the
time at once unless LOCKED, the slew's end adds what remains, and the written UTC offset comes into force. The rounding of 500 ppm
and a PAUSE that keeps its rest over a step are the model's reading (log entries 72, 73). -/
def Obligations.NetworkTimeIsDisciplined : Prop :=
  (∀ (s : State) (v : Word), s.chip.reaches Reg.BKB_TIM_INC_HI = true →
    Runs (.timIncWrite v) s fun t =>
      ∀ w, w = v.toNat % 256 * 2 ^ 32 + s.chip.tim.incLo.toNat →
      t.chip.tim = { s.chip.tim with inc := clamp 8585639625 8594229559 w, incLo := BitVec.ofNat 32 (clamp 8585639625 8594229559 w) } ∧
      t.chip.rd Reg.BKB_TIM_INC_LO = t.chip.tim.inc % 2 ^ 32 ∧ t.chip.rd Reg.BKB_TIM_INC_HI = t.chip.tim.inc / 2 ^ 32 ∧
      s.Only t [Reg.BKB_TIM_INC_LO, Reg.BKB_TIM_INC_HI] fun c => { c with regs := t.chip.regs, tim := t.chip.tim }) ∧
  (∀ (s : State) (v : Word), v.getLsbD 4 = false → v.getLsbD 5 = false → s.chip.reaches Reg.BKB_TIM_CTRL = true →
    Runs (.timStateWrite v) s fun t =>
      t.chip.fl Reg.BKB_TIM_CTRL 1 0 = v.toNat % 4 ∧ t.chip.fl Reg.BKB_TIM_CTRL 24 16 = v.toNat / 65536 % 512 ∧
      (v.toNat % 4 ≠ 1 ∨ s.chip.fl Reg.BKB_TIM_CTRL 1 0 = 1 → t.chip.ember = s.chip.ember) ∧
      s.Only t (Reg.BKB_TIM_CTRL :: recordRegs) fun c => { c with regs := t.chip.regs, ember := t.chip.ember }) ∧
  (∀ (s : State) (v : Word), v.getLsbD 4 = false → v.getLsbD 5 = true → s.chip.reaches Reg.BKB_TIM_CTRL = true → ∀ a : Int, a = (s.chip.rdW Reg.BKB_TIM_SLEW).toInt →
    Runs (.slewGo v) s fun t =>
      (if a < -1000000 ∨ 1000000 < a then t.chip.bit Reg.BKB_STATUS 0 = true ∧ t.chip.tim = s.chip.tim
       else t.chip.tim = { s.chip.tim with slewing := a != 0, slewRem := a * 2 ^ 32 } ∧ t.chip.bit Reg.BKB_TIM_CTRL 9 = (a != 0)) ∧
      s.Only t ([Reg.BKB_TIM_CTRL, Reg.BKB_STATUS] ++ recordRegs) fun c => { c with
        regs := t.chip.regs, ember := t.chip.ember, tim := { c.tim with slewing := t.chip.tim.slewing, slewRem := t.chip.tim.slewRem } }) ∧
  (∀ (s : State) (v : Word), v.getLsbD 4 = true → v.getLsbD 5 = false → s.chip.reaches Reg.BKB_TIM_CTRL = true →
    ∀ d : Int, d = sgn 64 (s.chip.rd64 Reg.BKB_TIM_STEP_LO Reg.BKB_TIM_STEP_HI) →
    Runs (.timStep v) s fun t =>
      (if v.toNat % 4 = 1 then t.chip.bit Reg.BKB_STATUS 1 = true ∧ t.chip.tim = s.chip.tim
       else t.chip.tim = { s.chip.tim with now := BitVec.ofInt 64 (s.chip.tim.now.toNat + d), slewing := false, slewRem := 0 } ∧
         (∀ p : Fin 2, s.chip.time.toNat < (s.chip.port p).pauseUntil.toNat →
           (t.chip.port p).pauseUntil = (s.chip.port p).pauseUntil + BitVec.ofInt 64 d)) ∧
      t.chip.bit Reg.BKB_TIM_CTRL 4 = false ∧
      s.OnlyIn t (fun r => [Reg.BKB_TIM_CTRL, Reg.BKB_STATUS, Reg.BKB_CMP_IRQ].contains r || recordRegs.contains r ||
        (decide (Reg.BKB_CMP_CFG 0 ≤ r) && decide (r < Reg.BKB_CMP_CFG 16))) fun c => { c with
        regs := t.chip.regs, ember := t.chip.ember, tim := t.chip.tim, bkb := t.chip.bkb }) ∧
  (∀ (s : State), s.chip.tim.slewing = true →
    Runs .slewComplete s fun t =>
      (t.chip.timeFine : Int) = ((s.chip.timeFine : Int) + s.chip.tim.slewRem) % 2 ^ 96 ∧
      t.chip.tim.slewing = false ∧ t.chip.tim.slewRem = 0 ∧ t.chip.bit Reg.BKB_TIM_CTRL 9 = false ∧
      s.Only t [Reg.BKB_TIM_CTRL] fun c => { c with
        regs := t.chip.regs, tim := { t.chip.tim with inc := c.tim.inc, incLo := c.tim.incLo, utcOfs := c.tim.utcOfs, nowHi := c.tim.nowHi } }) ∧
  (∀ (s : State),
    Runs .utcOfsApply s fun t =>
      t.chip.tim = { s.chip.tim with utcOfs := BitVec.ofNat 16 (s.chip.rd Reg.BKB_UTC_OFS) } ∧ s.Only t [] fun c => { c with tim := t.chip.tim })

/-- R327, R328, R330. Enabling a comparator sets NEXT to the first firing not earlier than now, a one-shot past it fires late; a
firing counts, acts and advances NEXT or ends the one-shot; pulses end and edges on the inputs are stamped. -/
def Obligations.ComparatorsFireInTime : Prop :=
  (∀ (s : State) (n : Fin 16) (v : Word), v.getLsbD 31 = true → s.chip.bit (Reg.BKB_CMP_CFG n) 31 = false →
    (s.chip.cmpPer n ≠ 0 ∨ s.chip.time.toNat ≤ s.chip.cmpTgt n) → s.chip.reaches (Reg.BKB_CMP_CFG n) = true →
    Runs (.comparatorEnable n v) s fun t =>
      t.chip.rdW (Reg.BKB_CMP_CFG n) = v &&& 0xF0FFFF00 ∧
      t.chip.cmpNext n = (if s.chip.cmpPer n = 0 then s.chip.cmpTgt n
        else firstFiring (s.chip.cmpTgt n) (s.chip.cmpPer n) s.chip.time.toNat % 2 ^ 64) ∧
      s.Only t [Reg.BKB_CMP_CFG n, Reg.BKB_CMP_NEXT_LO n, Reg.BKB_CMP_NEXT_HI n] fun c => { c with regs := t.chip.regs }) ∧
  (∀ (s : State) (n : Fin 16) (v : Word), v.getLsbD 31 = true → s.chip.bit (Reg.BKB_CMP_CFG n) 31 = false →
    s.chip.cmpPer n = 0 → s.chip.cmpTgt n < s.chip.time.toNat → s.chip.reaches (Reg.BKB_CMP_CFG n) = true →
    Runs (.comparatorEnable n v) s fun t =>
      t.chip.bit (Reg.BKB_CMP_CFG n) 31 = false ∧ t.chip.bit (Reg.BKB_CMP_STAT n) 15 = true ∧ t.chip.tim = s.chip.tim) ∧
  (∀ (s : State) (n : Fin 16), s.chip.gated 1 = false → s.chip.bit (Reg.BKB_CMP_CFG n) 31 = true → s.chip.cmpNext n ≤ s.chip.time.toNat →
    Runs (.comparatorFire n) s fun t =>
      (if s.chip.cmpPer n = 0 then t.chip.bit (Reg.BKB_CMP_CFG n) 31 = false ∧ t.chip.cmpNext n = s.chip.cmpNext n
       else t.chip.bit (Reg.BKB_CMP_CFG n) 31 = true ∧ t.chip.cmpNext n = (s.chip.cmpNext n + s.chip.cmpPer n) % 2 ^ 64) ∧
      t.chip.fl (Reg.BKB_CMP_STAT n) 14 0 = min (s.chip.fl (Reg.BKB_CMP_STAT n) 14 0 + 1) 0x7FFF ∧
      (s.chip.fl (Reg.BKB_CMP_CFG n) 30 28 = 3 → t.chip.bit Reg.BKB_CMP_IRQ n = true) ∧
      (s.chip.fl (Reg.BKB_CMP_CFG n) 30 28 = 1 → n.val < 4 → s.chip.bkb.outs.length = 4 → t.chip.bkb.outs[n.val]? = some true) ∧
      s.Only t [Reg.BKB_CMP_CFG n, Reg.BKB_CMP_STAT n, Reg.BKB_CMP_NEXT_LO n, Reg.BKB_CMP_NEXT_HI n, Reg.BKB_CMP_IRQ, Reg.PIC_PEND 4]
        fun c => { c with regs := t.chip.regs, bkb := { c.bkb with outs := t.chip.bkb.outs, ports := t.chip.bkb.ports } }) ∧
  (∀ (s : State) (n : Fin 4), s.chip.bkb.outs.length = 4 →
    Runs (.pulseEnd n) s fun t =>
      t.chip.bkb = { s.chip.bkb with outs := s.chip.bkb.outs.set n false } ∧ s.Only t [] fun c => { c with bkb := t.chip.bkb }) ∧
  (∀ (s : State) (n : Fin 16) (v : Word), s.chip.bit (Reg.BKB_CMP_CFG n) 31 = false → s.chip.reaches (Reg.BKB_CMP_TGT_HI n) = true →
    Runs (.comparatorTgtWrite n v) s fun t =>
      t.chip.cmpTgt n = v.toNat * 2 ^ 32 + s.chip.heldLow (Reg.BKB_CMP_TGT_LO n) ∧
      s.Only t [Reg.BKB_CMP_TGT_LO n, Reg.BKB_CMP_TGT_HI n] fun c => { c with
        regs := t.chip.regs, bkb := { c.bkb with held := c.bkb.held.filter fun e => e.1 != Reg.BKB_CMP_TGT_LO n } }) ∧
  (∀ (s : State) (n : Fin 16) (v : Word), s.chip.bit (Reg.BKB_CMP_CFG n) 31 = false → s.chip.reaches (Reg.BKB_CMP_PER_HI n) = true →
    Runs (.comparatorPerWrite n v) s fun t =>
      t.chip.rd64 (Reg.BKB_CMP_PER_LO n) (Reg.BKB_CMP_PER_HI n) = v.toNat * 2 ^ 32 + s.chip.heldLow (Reg.BKB_CMP_PER_LO n) ∧
      s.Only t [Reg.BKB_CMP_PER_LO n, Reg.BKB_CMP_PER_HI n] fun c => { c with
        regs := t.chip.regs, bkb := { c.bkb with held := c.bkb.held.filter fun e => e.1 != Reg.BKB_CMP_PER_LO n } }) ∧
  (∀ (s : State) (i : Fin 2) (x : BitVec 64), s.chip.gated 1 = true → Runs (.timInEdge i x) s fun t => t = s) ∧
  (∀ (s : State) (i : Fin 2) (x : BitVec 64), s.chip.gated 1 = false →
    Runs (.timInEdge i x) s fun t =>
      t.chip.rd64 (Reg.BKB_CAP_LO i) (Reg.BKB_CAP_HI i) = max (s.chip.time.toNat - 4) (min x.toNat (s.chip.time.toNat + 4)) ∧
      t.chip.fl Reg.BKB_CAP_CNT (16 * i + 15) (16 * i) = min (s.chip.fl Reg.BKB_CAP_CNT (16 * i + 15) (16 * i) + 1) 0xFFFF ∧
      s.Only t [Reg.BKB_CAP_LO i, Reg.BKB_CAP_HI i, Reg.BKB_CAP_CNT] fun c => { c with
        regs := t.chip.regs, bkb := { c.bkb with pps := t.chip.bkb.pps, ppsGood := t.chip.bkb.ppsGood }
        crp := { c.crp with trim := t.chip.crp.trim, trimRef := t.chip.crp.trimRef } })

/-! ### 11_host_rings_and_cluster.md -/

/-- R335–R338, R348, R349, R352, R361. A PCIe reset disables the Host-level rings, masks the vectors and drops
translations; link training sets the speed, the width and the configuration header and latches the subsystem IDs;
doorbells move indices or set DB_ERR, and are gated accesses while RING is; enabling restarts a ring where its register
is reached; an unmasked vector that is pending sends its message. That a reset takes the memory and bus-master enables is the
model's reading (log entry 103). -/
def Obligations.HostReachesItsRings : Prop :=
  (∀ (s : State) (k : PcieReset),
    Runs (.pcieReset k) s fun t =>
      (∀ p : Fin 64, s.chip.bit (Reg.RING_RP_BIND p) 4 = false →
        t.chip.bit (Reg.RING_RP_SQ_CFG p) 31 = false ∧ t.chip.bit (Reg.RING_RP_CQ_CFG p) 31 = false) ∧
      (∀ p : Fin 64, s.chip.bit (Reg.RING_RP_BIND p) 4 = true → t.chip.rdW (Reg.RING_RP_SQ_CFG p) = s.chip.rdW (Reg.RING_RP_SQ_CFG p) ∧
        t.chip.rdW (Reg.RING_RP_CQ_CFG p) = s.chip.rdW (Reg.RING_RP_CQ_CFG p)) ∧
      (∀ e : Fin 8, t.chip.bit (Reg.RING_EVT_CFG e) 31 = (s.chip.bit (Reg.RING_EVT_CFG e) 31 && s.chip.bit (Reg.RING_EVT_CFG e) 30)) ∧
      (∀ v : Fin 128, t.chip.bit (Reg.MSIX_WORD v 3) 0 = true) ∧ (∀ i : Fin 4, t.chip.rd (Reg.MSIX_PEND i) = 0) ∧
      (k = .functionLevel ∨ k = .d3hot → t.chip.rdW Reg.RING_STATUS = s.chip.rdW Reg.RING_STATUS) ∧
      t = { s with chip := { s.chip with regs := t.chip.regs, ring := { s.chip.ring with
        cache := [], d3hot := k == .d3hot || s.chip.ring.d3hot
        setup := if k = .d3hot then s.chip.ring.setup
          else { s.chip.ring.setup with command := s.chip.ring.setup.command &&& ~~~6 } } } }) ∧
  (∀ (s : State) (speed : Fin 4) (width : LinkWidth) (setup : PciSetup),
    Runs (.pcieLinkUp speed width setup) s fun t =>
      if s.chip.bit Reg.RING_CTRL 1 then t = s
      else
        t.chip.bit Reg.RING_STATUS 2 = true ∧ t.chip.fl Reg.RING_STATUS 6 4 = speed.val + 1 ∧
        t.chip.fl Reg.RING_STATUS 9 7 = (match width with | .x1 => 1 | .x2 => 2 | .x4 => 4) ∧
        t.chip.ring = { s.chip.ring with setup := setup, d3hot := false, linkTrained := true, subsys :=
          if s.chip.ring.linkTrained then s.chip.ring.subsys else s.chip.rdW Reg.RING_PCI_SUBSYS } ∧
        t.chip.pciHeader 0 = 0x81201F2D ∧ t.chip.pciHeader 2 = 0x11800000 + fld s.chip.devId 11 4 ∧
        t.chip.pciHeader 11 = t.chip.ring.subsys.toNat ∧
        s.Only t [Reg.RING_STATUS] fun c => { c with regs := t.chip.regs, ring := t.chip.ring }) ∧
  (∀ (s : State) (p : Fin 72) (off : BitVec 12) (v : Word) (w : Who), p.val < 64 → s.chip.powered 12 = true →
    (s.chip.planAllows w.num (w.level == .host) true (doorbellAddr p off.toNat) 4 || w.level == .seal) = true → s.chip.gated 0 = false →
    Runs (.doorbellWrite p off v w) s fun t =>
      if off = 0 then
        if s.chip.bit (Reg.RING_RP_SQ_CFG p) 31 && decide (v.toNat % 1024 < ringSize (s.chip.fl (Reg.RING_RP_SQ_CFG p) 3 0)) then
          t = { s with chip := s.chip.setRpair p { s.chip.rpair p with sqPi := v.toNat % 1024 } }
        else t.chip.bit Reg.RING_STATUS 1 = true ∧ s.Only t [Reg.RING_STATUS, Reg.PIC_PEND 4] fun c => { c with regs := t.chip.regs }
      else if off = 4 then
        if s.chip.bit (Reg.RING_RP_CQ_CFG p) 31 && decide (v.toNat % 1024 < ringSize (s.chip.fl (Reg.RING_RP_CQ_CFG p) 3 0)) then
          t = { s with chip := s.chip.setRpair p { s.chip.rpair p with cqCi := v.toNat % 1024 } }
        else t.chip.bit Reg.RING_STATUS 1 = true ∧ s.Only t [Reg.RING_STATUS, Reg.PIC_PEND 4] fun c => { c with regs := t.chip.regs }
      else t = s) ∧
  (∀ (s : State) (p : Fin 72) (off : BitVec 12) (v : Word) (w : Who), 64 ≤ p.val → s.chip.powered 12 = true →
    (s.chip.planAllows w.num (w.level == .host) true (doorbellAddr p off.toNat) 4 || w.level == .seal) = true → s.chip.gated 0 = false →
    Runs (.doorbellWrite p off v w) s fun t =>
      if off = 4 then
        if s.chip.bit (Reg.RING_EVT_CFG (p.val - 64)) 31 && decide (v.toNat % 1024 < ringSize (s.chip.fl (Reg.RING_EVT_CFG (p.val - 64)) 3 0)) then
          t = { s with chip := s.chip.setEvt (p.val - 64) { s.chip.evt (p.val - 64) with ci := v.toNat % 1024 } }
        else t.chip.bit Reg.RING_STATUS 1 = true ∧ s.Only t [Reg.RING_STATUS, Reg.PIC_PEND 4] fun c => { c with regs := t.chip.regs }
      else t = s) ∧
  (∀ (s : State) (p : Fin 72) (off : BitVec 12) (v : Word) (w : Who),
    (s.chip.planAllows w.num (w.level == .host) true (doorbellAddr p off.toNat) 4 || w.level == .seal) = false →
    Runs (.doorbellWrite p off v w) s fun t =>
      t.chip.rd Reg.GRD_AP_VIOL = satInc (s.chip.rd Reg.GRD_AP_VIOL) ∧
      s.Only t transferRegs fun c => { c with regs := t.chip.regs, ember := t.chip.ember }) ∧
  (∀ (s : State) (p : Fin 64), s.chip.service p ≠ 0 → s.chip.reaches (ringCfg (.sq p)) = true →
    Runs (.ringEnable (.sq p)) s fun t =>
      t.chip.bit (Reg.RING_RP_SQ_CFG p) 31 = true ∧ t.chip.rpair p = { s.chip.rpair p with sqPi := 0, sqCi := 0 } ∧
      (∀ o : Fin 64, o ≠ p → t.chip.rpair o = s.chip.rpair o) ∧
      s.Only t [Reg.RING_RP_SQ_CFG p] fun c => { c with regs := t.chip.regs, ring := { c.ring with pairs := t.chip.ring.pairs } }) ∧
  (∀ (s : State) (p : Fin 64), s.chip.service p ≠ 0 → s.chip.reaches (ringCfg (.cq p)) = true →
    Runs (.ringEnable (.cq p)) s fun t =>
      t.chip.bit (Reg.RING_RP_CQ_CFG p) 31 = true ∧
      t.chip.rpair p = { s.chip.rpair p with cqPi := 0, cqCi := 0, phase := true, unsig := 0 } ∧
      (∀ o : Fin 64, o ≠ p → t.chip.rpair o = s.chip.rpair o) ∧
      s.Only t [Reg.RING_RP_CQ_CFG p] fun c => { c with regs := t.chip.regs, ring := { c.ring with pairs := t.chip.ring.pairs } }) ∧
  (∀ (s : State) (e : Fin 8), s.chip.reaches (ringCfg (.evt e)) = true →
    Runs (.ringEnable (.evt e)) s fun t =>
      t.chip.bit (Reg.RING_EVT_CFG e) 31 = true ∧ t.chip.evt e = { s.chip.evt e with pi := 0, ci := 0, phase := true, unsig := 0 } ∧
      s.Only t [Reg.RING_EVT_CFG e] fun c => { c with regs := t.chip.regs, ring := { c.ring with evts := t.chip.ring.evts } }) ∧
  (∀ (s : State) (v : BitVec 7), s.chip.reaches (Reg.MSIX_WORD v.toNat 3) = true →
    Runs (.msixVectorUnmask v) s fun t =>
      t.chip.bit (Reg.MSIX_WORD v.toNat 3) 0 = false ∧ t.chip.bit (Reg.MSIX_PEND (v.toNat / 32)) (v.toNat % 32) = false ∧
      t.chip.ring.sent = (if s.chip.bit (Reg.MSIX_PEND (v.toNat / 32)) (v.toNat % 32) && !s.chip.bit Reg.RING_CTRL 1 && s.chip.ring.setup.msix &&
        s.chip.hostUp then v.toNat :: s.chip.ring.sent else s.chip.ring.sent) ∧
      s.Only t (Reg.MSIX_WORD v.toNat 3 :: signalRegs) fun c => { c with
        regs := t.chip.regs, ring := { c.ring with sent := t.chip.ring.sent } }) ∧
  (∀ (s : State) (p : Fin 72) (off : BitVec 12) (v : Word) (w : Who),
    (s.chip.planAllows w.num (w.level == .host) true (doorbellAddr p off.toNat) 4 || w.level == .seal) = true →
    (s.chip.powered 12 = false ∨ s.chip.gated 0 = true) →
    Runs (.doorbellWrite p off v w) s fun t =>
      t = if s.chip.powered 12 then { s with chip := s.chip.noteGatedAt 5 0 w.num (doorbellAddr p off.toNat) true } else s) ∧
  (∀ (s : State) (x : RingSel), s.chip.reaches (ringCfg x) = false → s.chip.crp.power ≠ .off → s.chip.crp.power ≠ .dormant →
    Runs (.ringEnable x) s fun t =>
      t.chip.ring = s.chip.ring ∧ (∃ d, t.chip.rd (Reg.CRP_GATED_CNT d) = satInc (s.chip.rd (Reg.CRP_GATED_CNT d))) ∧
      t = { s with chip := s.chip.unreached (ringCfg x) anyIni true })

/-- R341–R343. A descriptor goes to its target in ring order and the consumer index advances; for MTR and SYS a slot takes it
with its payload and an operand is posted; a bad or unreadable one is completed with KIND 0x7F and STATUS 4 or 5. -/
def Obligations.DescriptorsReachTheirTarget : Prop :=
  (∀ (s : State), (s.chip.ringUp && !s.chip.bit Reg.RING_CTRL 2 && s.chip.working) = true →
    ∀ p, (((List.range 64).map fun i => (s.chip.ring.fetchTurn + 1 + i) % 64).find? s.chip.fetchable) = some p →
    ∀ r, r = s.chip.pairRead p (s.chip.ringBase (Reg.RING_RP_SQ_BASE_LO p) (Reg.RING_RP_SQ_BASE_HI p) + 64 * (s.chip.rpair p).sqCi) 64 →
    ∀ d, d = r.2.1 → ∀ tag, tag = BitVec.ofNat 32 (leAt d 0 4) →
    ∀ k, k = s.chip.service p → (k ≠ 1 ∧ k ≠ 7) ∨ r.1 ≠ .ok ∨ descValid k d = false →
    Runs .descriptorFetch s fun t =>
      (t.chip.rpair p).sqCi = ((s.chip.rpair p).sqCi + 1) % ringSize (s.chip.fl (Reg.RING_RP_SQ_CFG p) 3 0) ∧
      t.chip.ring.fetchTurn = p ∧ t.chip.rd (Reg.RING_RP_FETCH p) = satInc (s.chip.rd (Reg.RING_RP_FETCH p)) ∧
      (if r.1 ≠ .ok ∨ descValid k d = false then
        t.chip.ring.cpls = s.chip.ring.cpls ++
          [⟨p, if r.1 ≠ .ok then 0 else tag, 0x7F, if r.1 ≠ .ok then 5 else 4, List.replicate 56 0, true, 0⟩] ∧
        t.chip.rd Reg.RING_DESC_BAD = satInc (s.chip.rd Reg.RING_DESC_BAD) ∧ t.chip.ring.clm = s.chip.ring.clm ∧
        t.chip.ring.cry = s.chip.ring.cry ∧ t.chip.ring.lgl = s.chip.ring.lgl
      else
        t.chip.ring.cpls = s.chip.ring.cpls ∧
        t.chip.ring.clm = s.chip.ring.clm ++ (if k = 2 ∨ k = 3 then [⟨p, tag, slice d 8 32⟩] else []) ∧
        t.chip.ring.cry = s.chip.ring.cry ++ (if k = 4 then [⟨p, tag, slice d 8 56⟩] else []) ∧
        t.chip.ring.lgl = s.chip.ring.lgl ++ (if k = 5 then [⟨p, tag, BitVec.ofNat 64 (leAt d 8 8), leAt d 16 2,
          BitVec.ofNat 64 (leAt d 20 8), leAt d 28 2⟩] else [])) ∧
      t.chip.pools = s.chip.pools ∧ t.chip.flo = s.chip.flo ∧ (∀ x, t.chip.rdb x = s.chip.rdb x) ∧
      s.Only t ([Reg.RING_RP_FETCH p, Reg.RING_DESC_BAD] ++ iommuRegs ++ transferRegs) fun c => { c.met t.chip with
        regs := t.chip.regs, mem := t.chip.mem, ring := { c.ring with
          pairs := t.chip.ring.pairs, fetchTurn := t.chip.ring.fetchTurn, cpls := t.chip.ring.cpls
          clm := t.chip.ring.clm, cry := t.chip.ring.cry, lgl := t.chip.ring.lgl, cache := t.chip.ring.cache } }) ∧
  (∀ (s : State), (s.chip.ringUp && !s.chip.bit Reg.RING_CTRL 2 && s.chip.working) = true →
    ∀ p, (((List.range 64).map fun i => (s.chip.ring.fetchTurn + 1 + i) % 64).find? s.chip.fetchable) = some p →
    (s.chip.service p = 1 ∨ s.chip.service p = 7) → s.chip.pairState ≠ 2 → s.chip.portGated 5 = false →
    ∀ r, r = s.chip.pairRead p (s.chip.ringBase (Reg.RING_RP_SQ_BASE_LO p) (Reg.RING_RP_SQ_BASE_HI p) + 64 * (s.chip.rpair p).sqCi) 64 →
    r.1 = .ok → ∀ d, d = r.2.1 → descValid (s.chip.service p) d = true → ∀ slot, s.chip.poolFind .ring 1 = some slot →
    ∀ q, q = r.2.2.pairRead p (leAt d 16 8) (leAt d 24 2) → q.1 = .ok →
    q.2.2.judge 4 false true (slotAddr slot) (64 + q.2.1.length) = .ok →
    Runs .descriptorFetch s fun t =>
      (t.chip.rpair p).sqCi = ((s.chip.rpair p).sqCi + 1) % ringSize (s.chip.fl (Reg.RING_RP_SQ_CFG p) 3 0) ∧
      t.chip.allocQueue 4 = s.chip.allocQueue 4 ++
        [{ cls := BitVec.ofNat 6 (s.chip.fl (Reg.RING_RP_BIND p) 13 8), src := 4, hvalid := bitOf (leAt d 5 1) 0,
           fmtv := bitOf (leAt d 5 1) 2, cordv := bitOf (leAt d 5 1) 1, kind := 2, smn := BitVec.ofNat 32 (leAt d 8 4),
           cord := BitVec.ofNat 12 (leAt d 12 2), buf := BitVec.ofNat 11 slot, fmt := BitVec.ofNat 8 (leAt d 14 1),
           arg := BitVec.ofNat 16 (p + 64 * (s.chip.rpair p).sqCi) }] ∧
      t.chip.rdMem (slotAddr slot) 64 = d ∧ t.chip.rdMem (slotAddr slot + 64) q.2.1.length = q.2.1 ∧
      (t.chip.pool .ring).runs = (s.chip.pool .ring).runs ++ [(slot, 1)] ∧
      (∀ x, (x < slotAddr slot ∨ slotAddr slot + 0x400 ≤ x) → t.chip.rdb x = s.chip.rdb x) ∧
      s.Only t ([Reg.RING_RP_FETCH p] ++ iommuRegs ++ transferRegs) fun c => { c.met t.chip with
        regs := t.chip.regs, mem := t.chip.mem, pools := t.chip.pools,
        flo := { c.flo with queues := t.chip.flo.queues }, ring := { c.ring with
          pairs := t.chip.ring.pairs, fetchTurn := t.chip.ring.fetchTurn, cache := t.chip.ring.cache } }) ∧
  (∀ (s : State), s.legalServed s.leg = true → s.chip.portGated 0 = false → ∀ d rest, s.chip.ring.lgl = d :: rest →
    Runs .lglRequest s fun t =>
      t.chip.ring.lgl = rest ∧ t.chip.ring.cpls.length = s.chip.ring.cpls.length + 1 ∧
      t.chip.ring.cpls.take s.chip.ring.cpls.length = s.chip.ring.cpls ∧
      (∀ k, t.chip.ring.cpls.getLast? = some k → k.pair = d.pair ∧ k.tag = d.tag ∧
        ((s.chip.pairRead d.pair d.addr.toNat d.len).1 ≠ .ok → k.kind = 0x7F ∧ k.status = 5 ∧ t.leg = s.leg) ∧
        ((s.chip.pairRead d.pair d.addr.toNat d.len).1 = .ok → d.cap < t.leg.reply.length →
          k.kind = 0x40 ∧ k.status = 3 ∧ ∀ x, t.chip.rdb x = s.chip.rdb x)) ∧
      t = { s with leg := t.leg, chip := { s.chip.met t.chip with
        regs := t.chip.regs, mem := t.chip.mem, freeCtr := t.chip.freeCtr, ring := { s.chip.ring with
          cpls := t.chip.ring.cpls, posted := t.chip.ring.posted, lgl := rest, cache := t.chip.ring.cache } } } ∧
      ∀ x, (Reg.RING_DESC_BAD :: (iommuRegs ++ transferRegs)).contains x = false → t.chip.rdW x = s.chip.rdW x)

/-- R344, R346, R347, R349, R352. A completion or a notice is written as one entry of 64 bytes with its PHASE, the producer index
moves, and the vector is signalled at CNT entries or after TMO; what has no ring is discarded and counted, what meets a full
event ring waits; reports go to the BLN rings; an invalidation of the IOMMU drops the translations that it names. -/
def Obligations.CompletionsAndNoticesAreWritten : Prop :=
  (∀ (s : State), s.chip.ringUp = true → ∀ k, s.chip.nextCpl = some k →
    (s.chip.bit (Reg.RING_RP_CQ_CFG k.pair) 31 && !s.chip.outputsGated) = false →
    Runs .completionWrite s fun t =>
      t.chip.ring = { s.chip.ring with cpls := s.chip.ring.cpls.erase k } ∧
      t.chip.rd Reg.RING_CPL_DISCARD = satInc (s.chip.rd Reg.RING_CPL_DISCARD) ∧
      s.Only t [Reg.RING_CPL_DISCARD] fun c => { c with regs := t.chip.regs, ring := t.chip.ring }) ∧
  (∀ (s : State), s.chip.ringUp = true → ∀ k, s.chip.nextCpl = some k →
    (s.chip.bit (Reg.RING_RP_CQ_CFG k.pair) 31 && !s.chip.outputsGated) = true →
    ∀ a, s.chip.cqAddr k.pair = some a → s.chip.judge 4 (s.chip.pairHost k.pair) true a 64 = .ok →
    ∀ x, x = s.chip.rpair k.pair → ∀ v, v = s.chip.fl (Reg.RING_RP_CQ_CFG k.pair) 30 24 →
    ∀ now, now = decide (max 1 (s.chip.fl (Reg.RING_RP_CQ_CFG k.pair) 23 16) ≤ x.unsig + 1) →
    Runs .completionWrite s fun t =>
      t.chip.ring.cpls = s.chip.ring.cpls.erase k ∧
      t.chip.rdMem a 8 = leBytes 4 k.tag.toNat ++ [k.kind, k.status] ++
        leBytes 2 ((if k.desc then x.sqCi else 0x7FF) + if x.phase then 2 ^ 15 else 0) ∧
      t.chip.rdMem (a + 8) 56 = padTo 56 k.body ∧
      (∀ y, (y < a ∨ a + 64 ≤ y) → t.chip.rdb y = s.chip.rdb y) ∧
      t.chip.rpair k.pair = { x with
        cqPi := (x.cqPi + 1) % ringSize (s.chip.fl (Reg.RING_RP_CQ_CFG k.pair) 3 0)
        phase := if (x.cqPi + 1) % ringSize (s.chip.fl (Reg.RING_RP_CQ_CFG k.pair) 3 0) = 0 then !x.phase else x.phase
        unsig := if now then 0 else x.unsig + 1 } ∧
      t.chip.ring.sent = (if now && s.chip.sends v then v :: s.chip.ring.sent else s.chip.ring.sent) ∧
      t.chip.rd (Reg.RING_RP_CPL k.pair) = satInc (s.chip.rd (Reg.RING_RP_CPL k.pair)) ∧
      s.Only t ([Reg.RING_RP_CPL k.pair] ++ signalRegs ++ iommuRegs ++ transferRegs) fun c => { c.met t.chip with
        regs := t.chip.regs, mem := t.chip.mem, ring := { c.ring with
          pairs := t.chip.ring.pairs, cpls := t.chip.ring.cpls, cache := t.chip.ring.cache, sent := t.chip.ring.sent } }) ∧
  (∀ (s : State) (p : Fin 64), ∀ v, v = s.chip.fl (Reg.RING_RP_CQ_CFG p) 30 24 →
    Runs (.interruptTimeout (.cq p)) s fun t =>
      if (s.chip.rpair p).unsig ≠ 0 ∧ s.chip.fl (Reg.RING_RP_CQ_TMO p) 15 0 ≠ 0 then
        t.chip.rpair p = { s.chip.rpair p with unsig := 0 } ∧
        t.chip.ring.sent = (if s.chip.sends v then v :: s.chip.ring.sent else s.chip.ring.sent) ∧
        s.Only t signalRegs fun c => { c with
          regs := t.chip.regs, ring := { c.ring with pairs := t.chip.ring.pairs, sent := t.chip.ring.sent } }
      else t = s) ∧
  (∀ (s : State) (e : Fin 8), ∀ v, v = s.chip.fl (Reg.RING_EVT_CFG e) 22 16 →
    Runs (.interruptTimeout (.evt e)) s fun t =>
      if (s.chip.evt e).unsig ≠ 0 ∧ s.chip.fl (Reg.RING_EVT_TMO e) 15 0 ≠ 0 then
        t.chip.evt e = { s.chip.evt e with unsig := 0 } ∧
        t.chip.ring.sent = (if s.chip.sends v then v :: s.chip.ring.sent else s.chip.ring.sent) ∧
        s.Only t signalRegs fun c => { c with
          regs := t.chip.regs, ring := { c.ring with evts := t.chip.ring.evts, sent := t.chip.ring.sent } }
      else t = s) ∧
  (∀ (s : State), s.chip.ringUp = true → s.chip.outputsGated = false → s.chip.ring.queued = [] → (∀ e : Fin 8, (s.chip.evt e).lost = 0) →
    ∀ n rest, s.chip.ring.posted = n :: rest →
    Runs .noticeWrite s fun t =>
      t.chip.ring.posted = rest ∧
      (s.chip.routeOf (n.typ / 256) = none →
        t.chip.rd Reg.RING_EVT_LOST = satInc (s.chip.rd Reg.RING_EVT_LOST) ∧ t.chip.ring.queued = [] ∧ t.chip.ring.evts = s.chip.ring.evts) ∧
      (∀ e, s.chip.routeOf (n.typ / 256) = some e →
        (s.chip.bit (Reg.RING_EVT_CFG e) 31 = false →
          t.chip.rd Reg.RING_CPL_DISCARD = satInc (s.chip.rd Reg.RING_CPL_DISCARD) ∧ t.chip.ring.evts = s.chip.ring.evts) ∧
        (s.chip.bit (Reg.RING_EVT_CFG e) 31 = true → s.chip.evtFull e = true →
          t.chip.ring.queued = [(e, n)] ∧ t.chip.ring.evts = s.chip.ring.evts) ∧
        (s.chip.bit (Reg.RING_EVT_CFG e) 31 = true → s.chip.evtFull e = false →
          ∀ a, s.chip.evtAddr e = some a → s.chip.judge 4 (!s.chip.bit (Reg.RING_EVT_CFG e) 30) true a 64 = .ok →
          t.chip.rdMem a 2 = leBytes 2 n.typ ∧ t.chip.rdb (a + 3) = (if (s.chip.evt e).phase then 128 else 0) ∧
          t.chip.rdMem (a + 4) 4 = leBytes 4 (s.chip.evt e).nseq.toNat ∧ t.chip.rdMem (a + 8) 8 = leBytes 8 n.time.toNat ∧
          t.chip.rdMem (a + 16) 48 = padTo 48 n.body ∧ (t.chip.evt e).nseq = (s.chip.evt e).nseq + 1 ∧
          (t.chip.evt e).pi = ((s.chip.evt e).pi + 1) % ringSize (s.chip.fl (Reg.RING_EVT_CFG e) 3 0) ∧
          (∀ y, (y < a ∨ a + 64 ≤ y) → t.chip.rdb y = s.chip.rdb y))) ∧
      s.Only t ([Reg.RING_EVT_LOST, Reg.RING_CPL_DISCARD] ++ signalRegs ++ iommuRegs ++ transferRegs) fun c => { c.met t.chip with
        regs := t.chip.regs, mem := t.chip.mem, ring := { c.ring with
          evts := t.chip.ring.evts, posted := rest, queued := t.chip.ring.queued, cache := t.chip.ring.cache, sent := t.chip.ring.sent } }) ∧
  (∀ (s : State), s.chip.balUp = true → s.chip.gated 0 = false → s.chip.outputsGated = false → s.chip.bal.reports = [] →
    s.chip.rd Reg.BAL_RPT_CI ≠ s.chip.rd Reg.BAL_RPT_PI →
    ∀ p rest, s.chip.blnPairs = p :: rest → rest = [] → s.chip.cqRingFull p = false →
    ∀ a, s.chip.cqAddr p = some a → s.chip.judge 4 (s.chip.pairHost p) true a 64 = .ok →
    ∀ b, b = s.chip.balBase 5 + 64 * s.chip.rd Reg.BAL_RPT_CI → s.chip.judge 7 false false b 64 = .ok →
    Runs .blnReportDeliver s fun t =>
      t.chip.rdb a = s.chip.rdb b ∧ t.chip.rdb (a + 1) = (if (s.chip.rpair p).phase then 128 else 0) ∧
      t.chip.rdMem (a + 2) 62 = s.chip.rdMem (b + 2) 62 ∧
      (∀ y, (y < a ∨ a + 64 ≤ y) → t.chip.rdb y = s.chip.rdb y) ∧
      t.chip.rd Reg.BAL_RPT_CI = (s.chip.rd Reg.BAL_RPT_CI + 1) % s.chip.rptSize ∧
      (t.chip.rpair p).cqPi = ((s.chip.rpair p).cqPi + 1) % ringSize (s.chip.fl (Reg.RING_RP_CQ_CFG p) 3 0) ∧
      s.Only t ([Reg.BAL_RPT_CI, Reg.RING_RP_CPL p] ++ signalRegs ++ iommuRegs ++ transferRegs) fun c => { c.met t.chip with
        regs := t.chip.regs, mem := t.chip.mem, ring := { c.ring with
          pairs := t.chip.ring.pairs, cache := t.chip.ring.cache, sent := t.chip.ring.sent } }) ∧
  (∀ (s : State) (v : Word), s.chip.reaches Reg.RING_IOMMU_INVAL = true →
    Runs (.iommuInval v) s fun t =>
      t.chip.rdW Reg.RING_IOMMU_INVAL = v &&& 0x8000001F ∧
      s.Only t [Reg.RING_IOMMU_INVAL] fun c => { c with
        regs := t.chip.regs, ring := { c.ring with inval := v.getLsbD 31 || c.ring.inval } }) ∧
  (∀ (s : State), s.chip.ring.inval = true →
    Runs .iommuInvalDone s fun t =>
      t.chip.bit Reg.RING_IOMMU_INVAL 31 = false ∧
      s.Only t [Reg.RING_IOMMU_INVAL] fun c => { c with
        regs := t.chip.regs, ring := { c.ring with inval := false, cache := c.ring.cache.filter fun e =>
          !(c.bit Reg.RING_IOMMU_INVAL 4 || e.dom == c.fl Reg.RING_IOMMU_INVAL 3 0) } })

/-- R356–R360. Only the Seal level releases cores, each in machine mode at APC_BOOT_VEC; a held core claims nothing; a claim returns the highest-priority pending source, ties to the lower
number, and a completion ends it; DRAM is trained, zeroed or kept, and disabled into self-refresh; the scrub reports errors. -/
def Obligations.ClusterIsServed : Prop :=
  (∀ (s : State) (v : Word) (w : Who), w.level = .seal → s.chip.reaches Reg.APC_CORE_RUN = true →
    Runs (.apcCoreRun v w) s fun t =>
      t.chip.rdW Reg.APC_CORE_RUN = v &&& 0xF ∧ (∀ n : Fin 4, n.val ∈ t.chip.apc.started ↔ (n.val ∈ s.chip.apc.started ∨ v.getLsbD n = true)) ∧
      (∀ n : Fin 4, if v.getLsbD n = true ∧ n.val ∉ s.chip.apc.started then
          (t.chip.hart n).mode = .machine ∧ (t.chip.hart n).pc.toNat = s.chip.rd64 Reg.APC_BOOT_VEC_LO Reg.APC_BOOT_VEC_HI % 2 ^ 48
        else t.chip.hart n = s.chip.hart n) ∧
      s.Only t [Reg.APC_CORE_RUN] fun c => { c with
        regs := t.chip.regs, apc := { c.apc with started := t.chip.apc.started, harts := t.chip.apc.harts } }) ∧
  (∀ (s : State) (v : Word) (w : Who), w.level ≠ .seal → s.chip.reaches Reg.APC_CORE_RUN = true →
    Runs (.apcCoreRun v w) s fun t =>
      t.chip.rdW Reg.APC_CORE_RUN = s.chip.rdW Reg.APC_CORE_RUN ∧ t.chip.apc.started = s.chip.apc.started ∧
      s.Only t transferRegs fun c => { c with regs := t.chip.regs, ember := t.chip.ember }) ∧
  (∀ (s : State) (h : Fin 4) (m : Bool) (v : Word), h.val ∉ s.chip.apc.started →
    Runs (.interruptClaim h m) s (· = s) ∧ Runs (.claimComplete h m v) s (· = s)) ∧
  (∀ (s : State) (h : Fin 4) (m : Bool), h.val ∈ s.chip.apc.started → ∀ x, x = 2 * h.val + b2n m →
    s.chip.reaches (Reg.PIC_CLAIM x) = true →
    ∀ may : (Nat → Bool), may = (fun n => s.chip.bit (Reg.PIC_PEND (n / 32)) (n % 32) && s.chip.bit (Reg.PIC_ENABLE x (n / 32)) (n % 32) &&
      decide (s.chip.fl (Reg.PIC_THRESH x) 2 0 < s.chip.fl (Reg.PIC_PRIO n) 2 0)) →
    ∀ n, s.chip.claimable x = n →
    Runs (.interruptClaim h m) s fun t =>
      (n = none → (∀ y : Fin 157, may y = false) ∧ t = { s with chip := { s.chip with resp := .data [0, 0, 0, 0] } }) ∧
      (∀ k, n = some k →
        k < 157 ∧ may k = true ∧
        (∀ y : Fin 157, may y = true → s.chip.fl (Reg.PIC_PRIO y) 2 0 < s.chip.fl (Reg.PIC_PRIO k) 2 0 ∨
          (s.chip.fl (Reg.PIC_PRIO y) 2 0 = s.chip.fl (Reg.PIC_PRIO k) 2 0 ∧ k ≤ y.val)) ∧
        t.chip.bit (Reg.PIC_PEND (k / 32)) (k % 32) = false ∧
        s.Only t [Reg.PIC_PEND (k / 32)] fun c => { c with
          regs := t.chip.regs, resp := .data (leBytes 4 k), apc := { c.apc with claimed := c.apc.claimed ++ [(x, k)] } })) ∧
  (∀ (s : State) (h : Fin 4) (m : Bool) (v : Word), h.val ∈ s.chip.apc.started → ∀ x, x = 2 * h.val + b2n m →
    s.chip.reaches (Reg.PIC_CLAIM x) = true →
    Runs (.claimComplete h m v) s fun t =>
      if s.chip.apc.claimed.contains (x, v.toNat) then
        (s.chip.asserted v.toNat = true → t.chip.bit (Reg.PIC_PEND (v.toNat / 32)) (v.toNat % 32) = true) ∧
        (s.chip.asserted v.toNat = false → t.chip.regs = s.chip.regs) ∧
        s.Only t [Reg.PIC_PEND (v.toNat / 32)] fun c => { c with
          regs := t.chip.regs, apc := { c.apc with claimed := c.apc.claimed.erase (x, v.toNat) } }
      else t = s) ∧
  (∀ (s : State) (v : Word), s.chip.bit Reg.APC_DDR_CFG 31 = false → s.chip.reaches Reg.APC_DDR_CFG = true →
    Runs (.ddrEnable v) s fun t =>
      t.chip.fl Reg.APC_DDR_CFG 30 27 = v.toNat / 2 ^ 27 % 16 ∧
      (if 16 * 2 ^ 30 < ddrSize v.toNat then t.chip.bit Reg.APC_DDR_CFG 31 = false ∧ t.chip.bit Reg.APC_DDR_STATUS 2 = true
       else t.chip.bit Reg.APC_DDR_CFG 31 = true ∧ t.chip.bit Reg.APC_DDR_STATUS 3 = true ∧ t.chip.bit Reg.APC_DDR_STATUS 4 = false) ∧
      s.Only t [Reg.APC_DDR_CFG, Reg.APC_DDR_STATUS, Reg.PIC_PEND 4] fun c => { c with regs := t.chip.regs }) ∧
  (∀ (s : State), s.chip.bit Reg.APC_DDR_CFG 31 = true → s.chip.bit Reg.APC_DDR_STATUS 3 = true →
    Runs (.ddrReady true) s fun t =>
      t.chip.bit Reg.APC_DDR_STATUS 0 = true ∧ t.chip.bit Reg.APC_DDR_STATUS 3 = false ∧
      t.chip.bit Reg.APC_DDR_STATUS 4 = s.chip.apc.ddrSelfRefresh ∧
      (∀ a, t.chip.rdb a = if s.chip.apc.ddrSelfRefresh = false ∧ 0x1000000000 ≤ a ∧ a < 0x2000000000 then 0 else s.chip.rdb a) ∧
      s.Only t [Reg.APC_DDR_STATUS] fun c => { c with regs := t.chip.regs, mem := t.chip.mem, apc := { c.apc with
        ddrSelfRefresh := false, poison := if c.apc.ddrSelfRefresh then c.apc.poison else [] } }) ∧
  (∀ (s : State), s.chip.bit Reg.APC_DDR_CFG 31 = true → s.chip.bit Reg.APC_DDR_STATUS 3 = true →
    Runs (.ddrReady false) s fun t =>
      t.chip.bit Reg.APC_DDR_STATUS 1 = true ∧ t.chip.bit Reg.APC_DDR_STATUS 3 = false ∧
      t.chip.bit Reg.APC_DDR_STATUS 0 = s.chip.bit Reg.APC_DDR_STATUS 0 ∧
      s.Only t [Reg.APC_DDR_STATUS] fun c => { c with regs := t.chip.regs }) ∧
  (∀ (s : State), s.chip.reaches Reg.APC_DDR_CFG = true →
    Runs .ddrDisable s fun t =>
      t.chip.bit Reg.APC_DDR_CFG 31 = false ∧ t.chip.bit Reg.APC_DDR_STATUS 0 = false ∧
      s.Only t [Reg.APC_DDR_CFG, Reg.APC_DDR_STATUS] fun c => { c with regs := t.chip.regs, apc := { c.apc with
        ddrSelfRefresh := c.apc.ddrSelfRefresh || s.chip.bit Reg.APC_DDR_STATUS 0 } }) ∧
  (∀ (s : State) (w : BitVec 31) (e : Ecc), ∀ a, a = 0x1000000000 + 8 * w.toNat → s.chip.regionOf a = .dram →
    s.chip.bit Reg.APC_DDR_STATUS 0 = true →
    Runs (.patrolScrub w e) s fun t =>
      (s.chip.eccAt a e = .good → t = s) ∧
      (s.chip.eccAt a e = .corrected → t.chip.rd Reg.APC_DDR_CE = satInc (s.chip.rd Reg.APC_DDR_CE) ∧
        t.chip.rd64 Reg.APC_DDR_CE_ADDR_LO Reg.APC_DDR_CE_ADDR_HI = a) ∧
      (s.chip.eccAt a e = .uncorrectable → t.chip.rd Reg.APC_DDR_UE = satInc (s.chip.rd Reg.APC_DDR_UE) ∧
        t.chip.rd64 Reg.APC_DDR_UE_ADDR_LO Reg.APC_DDR_UE_ADDR_HI = a ∧ t.chip.bit (Reg.PIC_PEND 4) 28 = true) ∧
      s.Only t ([Reg.APC_DDR_CE, Reg.APC_DDR_CE_ADDR_LO, Reg.APC_DDR_CE_ADDR_HI] ++ transferRegs) fun c => { c with
        regs := t.chip.regs, ember := t.chip.ember, apc := { c.apc with lastUe := t.chip.apc.lastUe } })

/-! ### 12_guard.md -/

/-- R362–R367. A start takes the state that three copies agree on and unwraps the root secret; kindling makes it; each command
moves the state as Table 1 allows, or answers 2 or 3; a write from below the Seal level, or before kindling ends, moves nothing;
a trip that ends is seen by the legal engine. The order of the results, and that a command ends at once, are the model's choice
(log entry 32). -/
def Obligations.LifeCycleMovesAsTabled : Prop :=
  (∀ (s : State), s.chip.crp.startStep = 3 → s.chip.crp.rstLow = false → (s.chip.crp.power = .run ∨ s.chip.crp.power = .trim) →
    Runs .guardStart s fun t =>
      (s.lc.copies.length = 4 → ∀ x ∈ s.lc.copies, x.good = true → 3 ≤ (s.lc.copies.filter (· == x)).length → t.lc.Set x.state x.tripped x.rootKilled) ∧
      t.lc.copies.length = 4 ∧ (∀ x ∈ t.lc.copies, x = ⟨t.lc.state, t.lc.tripped, t.lc.rootKilled, true⟩) ∧
      ((t.lc.state = .retired ∨ t.lc.rootKilled = true ∨ s.chip.grd.kindled = false) → t.chip.grd.root = s.chip.grd.root) ∧
      (t.lc.state ≠ .retired → t.lc.rootKilled = false → s.chip.grd.kindled = true →
        ∀ r, (s.chip.grd.wrapped.filterMap fun w => keyUnwrap s.chip.grd.pufKey w).head? = r →
          (r ≠ none → t.chip.grd.root = r ∧ t.chip.bit Reg.GRD_STATUS 1 = true) ∧
          (r = none → t.chip.grd.root = s.chip.grd.root ∧ t.chip.bit Reg.GRD_STATUS 2 = true)) ∧
      t.chip.crp.startStep = (if s.chip.crp.xaValid then 8 else 5) ∧
      s.TripSeen t ∧
      t = { s with lc := t.lc, leg := t.leg, chip := { s.chip with
        regs := t.chip.regs, ember := t.chip.ember, ciu := t.chip.ciu, crp := t.chip.crp
        ring := { s.chip.ring with posted := t.chip.ring.posted }
        grd := { s.chip.grd with root := t.chip.grd.root, kdf := t.chip.grd.kdf } } }) ∧
  (∀ (s : State), s.lc.state = .blank → s.chip.grd.kindled = false → 4 ≤ s.chip.crp.startStep → s.chip.coreOff = false → s.chip.crp.deferred = false →
    Runs (.kindling true) s fun t =>
      t.chip.grd.kindled = true ∧ t.chip.bit Reg.GRD_STATUS 0 = true ∧
      (∀ w, w = keyWrap t.chip.grd.pufKey (t.chip.grd.root.getD []) → t.chip.grd.wrapped = [w, w]) ∧
      (t.chip.grd.root.getD []).length = 32 ∧
      s.Only t (Reg.GRD_STATUS :: recordRegs) fun c => { c with regs := t.chip.regs, ember := t.chip.ember, freeCtr := t.chip.freeCtr, crp := { c.crp with coreLow := false }
                                                                grd := { c.grd with kindled := true, entropyWait := false, pufKey := t.chip.grd.pufKey, wrapped := t.chip.grd.wrapped, root := t.chip.grd.root } }) ∧
  (∀ (s : State), s.lc.state = .blank → s.chip.grd.kindled = false → 4 ≤ s.chip.crp.startStep → s.chip.coreOff = false →
    Runs (.kindling false) s fun t => s.Only t [] fun c => { c with grd := { c.grd with entropyWait := true } }) ∧
  (∀ (s : State), s.lc.state = .blank → s.chip.grd.kindled = false → 4 ≤ s.chip.crp.startStep → s.chip.coreOff = false → s.chip.grd.entropyWait = true →
    Runs (.kindlingEntropyRetry false) s fun t => t = s) ∧
  (∀ (s : State), s.lc.state = .blank → s.chip.grd.kindled = false → 4 ≤ s.chip.crp.startStep → s.chip.coreOff = false → s.chip.grd.entropyWait = true →
    Runs (.kindlingEntropyRetry true) s fun t =>
      t.chip.grd.kindled = true ∧ t.chip.grd.entropyWait = false ∧ (t.chip.grd.root.getD []).length = 32 ∧ t.lc = s.lc) ∧
  (∀ (s : State) (w : Who), w.level = .seal → s.chip.kindling s.lc = false →
    s.chip.reaches Reg.GRD_LC_CMD = true →
    Runs (.personalise w) s fun t =>
      (if s.lc.state ≠ .blank then t.lc = s.lc ∧ t.chip.fl Reg.GRD_LC_STATE 10 8 = 2
       else if s.chip.grd.kindled = true ∧ s.lc.tripped = false ∧
         ((List.range 8).any fun k => s.chip.rd (Reg.GRD_DBG_AUTH k) != 0) = true then
         t.lc.Set .personalised false s.lc.rootKilled ∧ t.chip.fl Reg.GRD_LC_STATE 10 8 = 1
       else t.lc = s.lc ∧ t.chip.fl Reg.GRD_LC_STATE 10 8 = 3) ∧
      t = { s with lc := t.lc, chip := { s.chip with regs := t.chip.regs, ember := t.chip.ember, ciu := t.chip.ciu
                                                     grd := { s.chip.grd with kdf := t.chip.grd.kdf } } } ∧
      ∀ r, ([Reg.GRD_LC_CMD, Reg.GRD_LC_STATE] ++ lineRegs ++ recordRegs).contains r = false → t.chip.rdW r = s.chip.rdW r) ∧
  (∀ (s : State) (w : Who), w.level = .seal → s.chip.kindling s.lc = false →
    s.chip.reaches Reg.GRD_LC_CMD = true →
    Runs (.seal w) s fun t =>
      (if s.lc.state ≠ .personalised then t.lc = s.lc ∧ t.chip.fl Reg.GRD_LC_STATE 10 8 = 2
       else if s.chip.grd.dbg = .closed ∧ s.lc.tripped = false then
         t.lc.Set .sealed false s.lc.rootKilled ∧ t.chip.fl Reg.GRD_LC_STATE 10 8 = 1
       else t.lc = s.lc ∧ t.chip.fl Reg.GRD_LC_STATE 10 8 = 3) ∧
      t = { s with lc := t.lc, chip := { s.chip with regs := t.chip.regs, ember := t.chip.ember, ciu := t.chip.ciu
                                                     grd := { s.chip.grd with kdf := t.chip.grd.kdf } } } ∧
      ∀ r, ([Reg.GRD_LC_CMD, Reg.GRD_LC_STATE] ++ lineRegs ++ recordRegs).contains r = false → t.chip.rdW r = s.chip.rdW r) ∧
  (∀ (s : State) (w : Who), w.level = .seal → s.chip.kindling s.lc = false →
    s.chip.reaches Reg.GRD_LC_CMD = true →
    Runs (.retire w) s fun t =>
      t.lc.Set .retired s.lc.tripped s.lc.rootKilled ∧ t.chip.fl Reg.GRD_LC_STATE 10 8 = 1 ∧
      t.chip.grd.root = none ∧ t.chip.grd.wrapped = [[], []] ∧ t.chip.bit Reg.CIU_ALARM 5 = true ∧
      (s.chip.bit Reg.CIU_ALARM 5 = false → s.chip.ciu.erasing = none → t.chip.ciu.masks = []) ∧
      t = { s with lc := t.lc, chip := { s.chip with regs := t.chip.regs, ember := t.chip.ember, ciu := t.chip.ciu
                                                     grd := { s.chip.grd with kdf := t.chip.grd.kdf, root := none, wrapped := [[], []] } } } ∧
      ∀ r, ([Reg.GRD_LC_CMD, Reg.GRD_LC_STATE] ++ lineRegs ++ recordRegs).contains r = false → t.chip.rdW r = s.chip.rdW r) ∧
  (∀ (s : State) (w : Who), w.level = .seal → s.chip.kindling s.lc = false →
    s.chip.reaches Reg.GRD_LC_CMD = true →
    Runs (.clearTrip w) s fun t =>
      (if s.lc.tripped = false then t.lc = s.lc ∧ t.chip.fl Reg.GRD_LC_STATE 10 8 = 2
       else if s.lc.rootKilled = true ∨ (s.chip.grd.present.any fun i => decide (2 ≤ s.chip.fl (Reg.GRD_TMP_CFG i) 1 0)) = true then
         t.lc = s.lc ∧ t.chip.fl Reg.GRD_LC_STATE 10 8 = 3
       else t.lc.Set s.lc.state false false ∧ t.chip.fl Reg.GRD_LC_STATE 10 8 = 1 ∧
         t.chip.bit Reg.CIU_ALARM 5 = (s.lc.state == .retired)) ∧
      s.TripSeen t ∧
      t = { s with lc := t.lc, leg := t.leg, chip := { s.chip with
        regs := t.chip.regs, ember := t.chip.ember, ciu := t.chip.ciu, crp := { s.chip.crp with noted := t.chip.crp.noted }
        ring := { s.chip.ring with posted := t.chip.ring.posted }, grd := { s.chip.grd with kdf := t.chip.grd.kdf } } } ∧
      ∀ r, ([Reg.GRD_LC_CMD, Reg.GRD_LC_STATE] ++ lineRegs ++ noticeRegs).contains r = false → t.chip.rdW r = s.chip.rdW r) ∧
  (∀ (s : State) (w : Who) (i : Fin 4), s.chip.kindling s.lc = true → s.chip.reaches Reg.GRD_LC_CMD = true →
    Runs (if i = 0 then .personalise w else if i = 1 then .seal w else if i = 2 then .retire w else .clearTrip w) s (· = s)) ∧
  (∀ (s : State) (w : Who) (i : Fin 4), w.level ≠ .seal → s.chip.kindling s.lc = false → s.chip.reaches Reg.GRD_LC_CMD = true →
    Runs (if i = 0 then .personalise w else if i = 1 then .seal w else if i = 2 then .retire w else .clearTrip w) s fun t =>
      s.Only t transferRegs fun c => { c with regs := t.chip.regs, ember := t.chip.ember })

/-- R149, R368–R371, R374. A derivation starts or is refused with the first RESULT of Table 3 that holds; at its end the slot
holds the output with the attributes forced; the commit makes the shadow plan active. The order of the refusals, a derivation
that the power state refuses and the judgement at its end are the model's reading (log entries 31, 95). -/
def Obligations.DerivationsAndPlanFollow : Prop :=
  (∀ (s : State) (v : Word) (w : Who), w.level = .seal → s.chip.grd.kdf = none → v.getLsbD 31 = true →
    ∀ slot, slot = v.toNat % 2 ^ 15 → ∀ attr, attr = s.chip.rdW Reg.GRD_KDF_ATTR →
    s.chip.reaches Reg.GRD_KDF_CMD = true →
    Runs (.keyDerivation v w) s fun t =>
      (if s.chip.kdfVerdict slot (attrAlg attr.toNat) = 1 then
        t.chip.grd.kdf = some ⟨slot, attr, (List.range 8).flatMap fun k => leBytes 4 (s.chip.rd (Reg.GRD_KDF_CTX k)), v.getLsbD 16, s.chip.ciu.accepted⟩ ∧
        t.chip.bit Reg.GRD_KDF_CMD 31 = true ∧ t.chip.bit Reg.GRD_KDF_STATUS 8 = true ∧ (∀ k : Fin 24, t.chip.rd (Reg.GRD_KDF_PUB k) = 0)
      else
        t.chip.grd.kdf = none ∧ t.chip.rd Reg.GRD_KDF_STATUS = s.chip.kdfVerdict slot (attrAlg attr.toNat) ∧ t.chip.bit Reg.GRD_KDF_CMD 31 = false ∧
        ∀ k : Fin 24, t.chip.rd (Reg.GRD_KDF_PUB k) = s.chip.rd (Reg.GRD_KDF_PUB k)) ∧
      s.OnlyIn t (fun r => [Reg.GRD_KDF_CMD, Reg.GRD_KDF_STATUS].contains r || (decide (Reg.GRD_KDF_PUB 0 ≤ r) && decide (r < Reg.GRD_KDF_PUB 24)))
        fun c => { c with regs := t.chip.regs, grd := { c.grd with kdf := t.chip.grd.kdf } }) ∧
  (∀ (s : State) (v : Word) (w : Who), w.level = .seal → s.chip.grd.kdf ≠ none → v.getLsbD 31 = true →
    s.chip.reaches Reg.GRD_KDF_CMD = true →
    Runs (.keyDerivation v w) s fun t =>
      t.chip.fl Reg.GRD_KDF_STATUS 2 0 = 7 ∧ t.chip.rdW Reg.GRD_KDF_CMD = v &&& 0x80017FFF ∧
      s.Only t [Reg.GRD_KDF_CMD, Reg.GRD_KDF_STATUS] fun c => { c with regs := t.chip.regs }) ∧
  (∀ (s : State) (v : Word) (w : Who), w.level = .seal → v.getLsbD 31 = false →
    s.chip.reaches Reg.GRD_KDF_CMD = true →
    Runs (.keyDerivation v w) s fun t =>
      t.chip.rdW Reg.GRD_KDF_CMD = (if s.chip.grd.kdf = none then v &&& 0x17FFF else v &&& 0x17FFF ||| 0x80000000) ∧
      s.Only t [Reg.GRD_KDF_CMD] fun c => { c with regs := t.chip.regs }) ∧
  (∀ (s : State) (v : Word) (w : Who), w.level ≠ .seal →
    s.chip.reaches Reg.GRD_KDF_CMD = true →
    Runs (.keyDerivation v w) s fun t => s.Only t transferRegs fun c => { c with regs := t.chip.regs, ember := t.chip.ember }) ∧
  (∀ (s : State), ∀ k, s.chip.grd.kdf = some k → ∀ root, s.chip.grd.root = some root →
    (s.chip.ciu.inflight.any fun r => decide (r.order < k.since) && s.chip.names r (s.chip.touched k.slot (attrAlg k.attr.toNat))) = false →
    s.chip.bit Reg.CIU_CTRL 0 = true → s.chip.kdfLocked k.slot (attrAlg k.attr.toNat) = false →
    ∀ alg, alg = attrAlg k.attr.toNat → alg ≠ 0 → alg ≠ 10 → alg < 12 → (alg = 9 → k.slot % 2 = 0) →
    ∀ out, out = kdfOut root (k.ctx ++ [BitVec.ofNat 8 alg] ++ beBytes 4 (8 * algBytes alg)) alg (algBytes alg) 64 1 →
    Runs .keyDerivationDone s fun t =>
      t.chip.grd.kdf = none ∧ t.chip.rd Reg.GRD_KDF_STATUS = 1 ∧ t.chip.bit Reg.GRD_KDF_CMD 31 = false ∧
      (alg ≠ 8 → alg ≠ 9 → t.chip.keyBytes k.slot (algBytes alg) = out) ∧
      (alg = 8 → (t.chip.key k.slot).toNat = beVal out) ∧
      (alg = 9 → (t.chip.key k.slot).toNat + (t.chip.key (k.slot + 1)).toNat * 2 ^ 256 = beVal out ∧ attrAlg (t.chip.attr (k.slot + 1)) = 10) ∧
      attrAlg (t.chip.attr k.slot) = alg ∧ attrValid (t.chip.attr k.slot) = true ∧ fld (t.chip.attr k.slot) 10 8 = 2 ∧
      fld (t.chip.attr k.slot) 30 16 = 0 ∧ bitOf (t.chip.attr k.slot) 14 = false ∧
      (∀ n : Fin 8192, n.val ≠ k.slot → n.val ≠ k.slot + 1 → s.chip.otherHalf k.slot ≠ some n.val →
        s.chip.otherHalf (k.slot + 1) ≠ some n.val → t.chip.slot n = s.chip.slot n) ∧
      s.OnlyIn t (fun r => [Reg.GRD_KDF_CMD, Reg.GRD_KDF_STATUS].contains r ||
          (k.pub && decide (Reg.GRD_KDF_PUB 0 ≤ r) && decide (r < Reg.GRD_KDF_PUB 24)))
        fun c => { c with regs := t.chip.regs, ciu := { c.ciu with slots := t.chip.ciu.slots, laneKeys := t.chip.ciu.laneKeys }
                          grd := { c.grd with kdf := none } }) ∧
  (∀ (s : State), ∀ k, s.chip.grd.kdf = some k → ∀ root, s.chip.grd.root = some root →
    (s.chip.ciu.inflight.any fun r => decide (r.order < k.since) && s.chip.names r (s.chip.touched k.slot (attrAlg k.attr.toNat))) = false →
    s.chip.bit Reg.CIU_CTRL 0 = true → s.chip.kdfLocked k.slot (attrAlg k.attr.toNat) = false →
    k.pub = true → ∀ alg, alg = attrAlg k.attr.toNat → (alg = 8 ∨ alg = 9) →
    ∀ pb, pb = pubBytes alg (beVal (kdfOut root (k.ctx ++ [BitVec.ofNat 8 alg] ++ beBytes 4 (8 * algBytes alg)) alg (algBytes alg) 64 1)) →
    Runs .keyDerivationDone s fun t =>
      ∀ j : Fin 24, 4 * j.val < pb.length → leBytes 4 (t.chip.rd (Reg.GRD_KDF_PUB j)) = slice pb (4 * j) 4) ∧
  (∀ (s : State) (v : Word) (w : Who), w.level = .seal → v.getLsbD 0 = true →
    s.chip.reaches Reg.GRD_AP_CTRL = true →
    Runs (.accessPlanCommit v w) s fun t =>
      (∀ (r : Fin 64) (n : Fin 8), t.chip.rd (Reg.AP_ACTIVE r n) = s.chip.rd (Reg.AP_SHADOW r n)) ∧
      s.OnlyIn t (fun r => decide (Reg.AP_ACTIVE 0 0 ≤ r) && decide (r < Reg.AP_ACTIVE 64 0)) fun c => { c with regs := t.chip.regs }) ∧
  (∀ (s : State) (v : Word) (w : Who), w.level ≠ .seal →
    s.chip.reaches Reg.GRD_AP_CTRL = true →
    Runs (.accessPlanCommit v w) s fun t => s.Only t transferRegs fun c => { c with regs := t.chip.regs, ember := t.chip.ember })

/-- R377–R380. A condition that begins takes its action in full, once, a trip being seen by the legal engine at once; in OFF it
only stands, to be met at the next start; its end lets the line follow what still holds; a
configuration is taken, raising the action acts at once, and in SEALED one that lowers it is ignored. -/
def Obligations.TamperSourcesAct : Prop :=
  (∀ (s : State) (i : Fin 11), s.chip.crp.power ≠ .off → s.chip.senses i → s.chip.grd.present.contains i.val = false →
    Runs (.tamperCondition i) s fun t =>
      t.chip.grd.present = s.chip.grd.present ++ [i.val] ∧
      (if s.chip.fl (Reg.GRD_TMP_CFG i) 1 0 = 0 then t.chip.regs = s.chip.regs ∧ t.lc = s.lc
       else s.Acted t i (s.chip.fl (Reg.GRD_TMP_CFG i) 1 0) (s.chip.bit (Reg.GRD_TMP_CFG i) 8)) ∧
      s.TripSeen t ∧
      t = { s with lc := t.lc, leg := t.leg, chip := { s.chip with
        regs := t.chip.regs, ember := t.chip.ember, ciu := t.chip.ciu, crp := { s.chip.crp with noted := t.chip.crp.noted }
        ring := { s.chip.ring with posted := t.chip.ring.posted }
        grd := { s.chip.grd with
          kdf := t.chip.grd.kdf, root := t.chip.grd.root, wrapped := t.chip.grd.wrapped, present := t.chip.grd.present
          dbg := t.chip.grd.dbg, dbgReq := t.chip.grd.dbgReq } } } ∧
      ∀ r, ([Reg.GRD_TMP_CNT i, Reg.GRD_TMP_LATCH] ++ lineRegs ++ noticeRegs).contains r = false → t.chip.rdW r = s.chip.rdW r) ∧
  (∀ (s : State) (i : Fin 11), s.chip.crp.power = .off → s.chip.senses i → s.chip.grd.present.contains i.val = false →
    Runs (.tamperCondition i) s fun t => s.Only t [] fun c => { c with grd := { c.grd with present := c.grd.present ++ [i.val] } }) ∧
  (∀ (s : State) (i : Fin 11), s.chip.grd.present.contains i.val = true → Runs (.tamperCondition i) s fun t => t = s) ∧
  (∀ (s : State) (i : Fin 11), (i.val = 8 → s.chip.fl Reg.CIU_ALARM 4 0 = 0) → s.chip.grd.present.contains i.val = true →
    Runs (.tamperConditionEnd i) s fun t =>
      t.chip.grd.present = s.chip.grd.present.filter (· != i.val) ∧ t.lc = s.lc ∧
      t.chip.bit Reg.CIU_ALARM 5 = (s.lc.tripped || s.lc.state == .retired ||
        t.chip.grd.present.any fun j => decide (2 ≤ s.chip.fl (Reg.GRD_TMP_CFG j) 1 0)) ∧
      t = { s with chip := { s.chip with regs := t.chip.regs, ciu := t.chip.ciu
                                         grd := { s.chip.grd with kdf := t.chip.grd.kdf, present := t.chip.grd.present } } } ∧
      ∀ r, (lineRegs ++ recordRegs).contains r = false → t.chip.rdW r = s.chip.rdW r) ∧
  (∀ (s : State) (i : Fin 11) (v : Word) (w : Who), w.level = .seal → s.lc.state = .sealed →
    (fld v.toNat 1 0 < s.chip.fl (Reg.GRD_TMP_CFG i) 1 0 ∨ (s.chip.bit (Reg.GRD_TMP_CFG i) 8 = true ∧ v.getLsbD 8 = false) ∨
      s.chip.fl (Reg.GRD_TMP_CFG i) 7 4 < fld v.toNat 7 4 ∨ s.chip.bit (Reg.GRD_TMP_CFG i) 3 ≠ v.getLsbD 3) →
    s.chip.reaches (Reg.GRD_TMP_CFG i) = true →
    Runs (.tamperCfgWrite i v w) s fun t =>
      t.chip.bit Reg.GRD_STATUS 5 = true ∧ s.Only t [Reg.GRD_STATUS, Reg.PIC_PEND 4] fun c => { c with regs := t.chip.regs }) ∧
  (∀ (s : State) (i : Fin 11) (v : Word) (w : Who), w.level = .seal → s.lc.state ≠ .sealed →
    s.chip.reaches (Reg.GRD_TMP_CFG i) = true →
    Runs (.tamperCfgWrite i v w) s fun t =>
      t.chip.rdW (Reg.GRD_TMP_CFG i) = v &&& 0x1FB ∧ t.chip.grd.present = s.chip.grd.present ∧
      (s.chip.grd.present.contains i.val = false → t.lc = s.lc ∧ s.Only t [Reg.GRD_TMP_CFG i] fun c => { c with regs := t.chip.regs }) ∧
      (s.chip.grd.present.contains i.val = true → s.chip.fl (Reg.GRD_TMP_CFG i) 1 0 < fld v.toNat 1 0 →
        s.Acted t i (fld v.toNat 1 0) (v.getLsbD 8)) ∧
      (s.chip.grd.present.contains i.val = true → s.chip.fl (Reg.GRD_TMP_CFG i) 1 0 = 3 → fld v.toNat 1 0 = 3 →
        s.chip.bit (Reg.GRD_TMP_CFG i) 8 = false → v.getLsbD 8 = true → t.lc.Set s.lc.state s.lc.tripped true ∧ t.chip.grd.root = none)) ∧
  (∀ (s : State) (i : Fin 11) (v : Word) (w : Who), w.level ≠ .seal →
    s.chip.reaches (Reg.GRD_TMP_CFG i) = true →
    Runs (.tamperCfgWrite i v w) s fun t => s.Only t transferRegs fun c => { c with regs := t.chip.regs, ember := t.chip.ember })

/-- R381–R384. The port shifts out identity, bypass bit, state and a challenge; a response is ignored in a back-off, refused,
granted in BLANK or raised to the firmware, whose grant or refusal is taken; grants expire. That a response which fails its
checks counts as refused is the model's reading (log entry 30). -/
def Obligations.DebugPortIsGuarded : Prop :=
  (∀ (s : State), s.chip.crp.power ≠ .dormant → s.chip.crp.power ≠ .off →
    Runs .idcode s fun t =>
      ∀ d, d = leBytes 4 (if s.chip.fuses.headEnd then 0x81202200 else 0x81201200) →
      t = { s with chip := { s.chip with resp := .data d, grd := { s.chip.grd with tdo := d } } }) ∧
  (∀ (s : State) (b : Bool), s.chip.crp.power ≠ .dormant → s.chip.crp.power ≠ .off →
    Runs (.bypass b) s fun t =>
      ∀ d, d = [if s.chip.grd.bypass then 1 else 0] →
      t = { s with chip := { s.chip with resp := .data d, grd := { s.chip.grd with tdo := d, bypass := b } } }) ∧
  (∀ (s : State), s.chip.crp.power ≠ .dormant → s.chip.crp.power ≠ .off →
    Runs .challenge s fun t =>
      t.chip.grd.tdo.length = 32 ∧ t = { s with chip := { s.chip with
        resp := .data t.chip.grd.tdo, freeCtr := t.chip.freeCtr, grd := { s.chip.grd with tdo := t.chip.grd.tdo, challenge := some t.chip.grd.tdo } } }) ∧
  (∀ (s : State), s.chip.crp.power ≠ .dormant → s.chip.crp.power ≠ .off →
    Runs .dstatus s fun t =>
      ∀ d, d = leBytes 4 ((if s.chip.grd.dbg = .closed then 0 else if s.chip.grd.dbg = .service then 1 else 2) +
        (if s.chip.grd.dbgReq = none then 0 else 4) + (if s.chip.grd.backoff then 8 else 0) + 16 * min 15 s.chip.grd.refusals) →
      t = { s with chip := { s.chip with resp := .data d, grd := { s.chip.grd with tdo := d } } }) ∧
  (∀ (s : State) (q : Byte) (sig : List Byte) (fresh : Bool), s.chip.grd.backoff = true →
    Runs (.respond q sig fresh) s fun t => t = s) ∧
  (∀ (s : State) (q : Byte) (sig : List Byte) (fresh : Bool), s.chip.dbgPortUp = true → s.chip.grd.backoff = false →
    s.chip.grd.refusals ≠ 7 → (s.chip.grd.challenge = none ∨ fresh = false ∨ s.chip.dbgPermits s.lc q.toNat = false) → s.chip.grd.dbg ≠ .opened →
    Runs (.respond q sig fresh) s fun t =>
      t = { s with chip := { s.chip with grd := { s.chip.grd with
        challenge := none, dbgReq := none, backoff := true, refusals := s.chip.grd.refusals + 1 } } }) ∧
  (∀ (s : State) (q : Byte) (sig : List Byte), s.chip.dbgPortUp = true → s.chip.grd.backoff = false →
    s.chip.grd.challenge ≠ none → s.chip.dbgPermits s.lc q.toNat = true → s.lc.state ≠ .blank →
    Runs (.respond q sig true) s fun t =>
      t = { s with chip := { s.chip with grd := { s.chip.grd with challenge := none, dbgReq := some q.toNat } } }) ∧
  (∀ (s : State) (q : Byte) (sig : List Byte), s.chip.dbgPortUp = true → s.chip.grd.backoff = false →
    s.chip.grd.challenge ≠ none → s.chip.dbgPermits s.lc q.toNat = true → s.lc.state = .blank →
    Runs (.respond q sig true) s fun t =>
      t.chip.grd.dbg = (if q = 2 then .opened else .service) ∧ t.chip.grd.refusals = 0 ∧ t.chip.grd.challenge = none ∧
      (q = 2 → s.chip.grd.dbg ≠ .opened → t.chip.grd.root = none ∧ t.chip.grd.coreHeld = true ∧ t.chip.grd.pathCut = true ∧ t.chip.grd.sram = []) ∧ t.lc = s.lc) ∧
  (∀ (s : State) (v : Word) (w : Who), w.level = .seal → v.getLsbD 31 = true →
    s.chip.reaches Reg.GRD_DBG_GRANT = true →
    Runs (.debugGrant v w) s fun t =>
      (v.getLsbD 2 = true → s.chip.grd.dbgReq ≠ none → t.chip.grd.refusals = s.chip.grd.refusals + 1 ∧ t.chip.grd.backoff = true ∧ t.chip.grd.dbgReq = none) ∧
      (v.getLsbD 2 = false → v.toNat % 4 = 0 → t.chip.grd.dbg = .closed ∧ t.chip.grd.dbgReq = none ∧ t.lc = s.lc) ∧
      (v.getLsbD 2 = false → v.toNat % 4 ≠ 0 → s.chip.grd.dbgReq ≠ none → s.chip.dbgPermits s.lc (v.toNat % 4) = true →
        t.chip.grd.dbg = (if v.toNat % 4 = 2 then .opened else .service) ∧ t.chip.grd.refusals = 0 ∧ t.lc = s.lc)) ∧
  (∀ (s : State) (v : Word) (w : Who), w.level ≠ .seal →
    s.chip.reaches Reg.GRD_DBG_GRANT = true →
    Runs (.debugGrant v w) s fun t => s.Only t transferRegs fun c => { c with regs := t.chip.regs, ember := t.chip.ember }) ∧
  (∀ (s : State), Runs .debugBackoffEnd s fun t => s.Only t [] fun c => { c with grd := { c.grd with backoff := false } }) ∧
  (∀ (s : State),
    Runs .debugGrantExpiry s fun t =>
      if s.chip.fl Reg.GRD_DBG_TMO 15 0 ≠ 0 ∧ s.chip.grd.dbg ≠ .closed then
        s.Only t [] fun c => { c with grd := { c.grd with dbg := .closed, dbgReq := none } }
      else t = s)

/-! ### 13_update_and_tinder.md -/

/-- R393–R397, R399. An image is judged by Table 5 and refused with its RESULT, counted, or taken; START and ACTIVATE need their
state and no condition of Table 6, and copy and load; ABORT returns to IDLE from RECEIVING and STAGED only. Tariff actions near
by (log 50), how chain and journal are kept (log 51) and what a Clamp that is not ready leaves to IMAGE_LOAD (log 52) are the
model's choices. -/
def Obligations.UpdatesAreJudged : Prop :=
  (∀ (s : State), ∀ a, a = s.chip.tableAddr → (s.chip.reach false a 64).done = true → ∀ h, h = s.chip.rdMem a 64 →
    tableKind (imgKind h) = true → ∀ n, n = imageLen (min 1048576 (leAt h 8 4)) →
    ((s.chip.sealRead 15 a 64).2.reach false a n).done = true →
    ∀ b, b = s.chip.rdMem a n → ∀ r, r = s.chip.judgeImage b →
    s.chip.reaches Reg.GRD_UPD_CMD = true →
    Runs .updateCheck s fun t =>
      (if r ≠ 1 then s.Refused t r
       else if imgSeries b = s.chip.accepted (imgKind b) then
        t.chip.fl Reg.GRD_UPD_STATUS 11 8 = 1 ∧ t.chip.rd Reg.GRD_UPD_REFCNT = s.chip.rd Reg.GRD_UPD_REFCNT ∧
        t.chip.upd = (if imgKind b = 7 then ({ s.chip.upd with order := orderOf (imgBody b) } : Upd).save else s.chip.upd)
       else s.ShowsRefusals t ∧
        if s.refusals = 0 then
          t.chip.fl Reg.GRD_UPD_STATUS 11 8 = 1 ∧ t.chip.accepted (imgKind b) = imgSeries b ∧
          t.chip.upd.order = (if imgKind b = 7 then orderOf (imgBody b) else s.chip.upd.order)
        else s.Refused t 8) ∧
      s.Only t (updateRegs ++ transferRegs) fun c => { c.met t.chip with regs := t.chip.regs, upd := { c.upd with
        series := t.chip.upd.series, order := t.chip.upd.order, copies := t.chip.upd.copies } }) ∧
  (∀ (s : State), (s.chip.reach false s.chip.tableAddr 64).done = true → tableKind (imgKind (s.chip.rdMem s.chip.tableAddr 64)) = false →
    s.chip.reaches Reg.GRD_UPD_CMD = true →
    Runs .updateCheck s fun t =>
      s.Refused t 2 ∧ s.Only t (updateRegs ++ transferRegs) fun c => { c.met t.chip with regs := t.chip.regs }) ∧
  (∀ (s : State),
    s.chip.reaches Reg.GRD_UPD_CMD = true →
    Runs .updateStart s fun t =>
      (if s.chip.upd.state ≠ 2 then
        t.chip.fl Reg.GRD_UPD_STATUS 11 8 = 9 ∧ s.Only t [Reg.GRD_UPD_CMD, Reg.GRD_UPD_STATUS] fun c => { c with regs := t.chip.regs }
       else s.ShowsRefusals t ∧
        if s.refusals = 0 then
          t.chip.fl Reg.GRD_UPD_STATUS 11 8 = 1 ∧ t.chip.upd.next = 0 ∧ t.chip.upd.pending = s.chip.upd.pending ∧
          t.chip.upd.installed = s.chip.upd.installed ∧ t.chip.upd.retried = false ∧
          (t.chip.upd.state = 5 → t.chip.upd.write = none) ∧ (t.chip.upd.state = 3 ∨ t.chip.upd.state = 5) ∧
          ∀ c, c = (((s.chip.setFl Reg.GRD_UPD_STATUS 22 16 0).onUpd fun u => { u with
            state := 3, next := 0, retried := false, write := none }).updResult 1) → ∀ m, c.CopyBegun t.chip m
        else s.Refused t 8 ∧ s.Only t updateRegs fun c => { c with regs := t.chip.regs, ember := t.chip.ember }) ∧
      s.Tindered t updateRegs) ∧
  (∀ (s : State), s.chip.upd.state = 4 → s.refusals = 0 → s.chip.clmReady = true → ∀ m, s.chip.upd.pending = some m →
    ∀ c, c = (s.chip.setFl Reg.GRD_UPD_STATUS 22 16 0).installPending.holdCores →
    ∀ got d, c.readChunks m.chunks = (some got, d) →
    s.chip.reaches Reg.GRD_UPD_CMD = true →
    Runs .updateActivate s fun t =>
      t.chip.fl Reg.GRD_UPD_STATUS 11 8 = 1 ∧ (∀ k rest, m.chunks = k :: rest → got.head? = some (k, c.imageChunk k)) ∧
      if (got.all fun e => sha256 e.2 == m.chash.getD e.1 []) = true then
        t.chip.upd = { ({ s.chip.upd with state := 0, installed := some m, pending := none, verified := [], next := 0 } : Upd).save with
          write := t.chip.upd.write } ∧ s.chip.Loaded d t.chip m got
      else t.chip.upd.state = 5 ∧ t.chip.rd Reg.APC_CORE_RUN = 0 ∧ t.chip.apc.started = []) ∧
  (∀ (s : State), s.chip.upd.state = 4 → s.refusals = 0 → ∀ m, s.chip.upd.pending = some m →
    (s.chip.clmReady = false ∨
      ((s.chip.setFl Reg.GRD_UPD_STATUS 22 16 0).installPending.holdCores.readChunks m.chunks).1 = none) →
    s.chip.reaches Reg.GRD_UPD_CMD = true →
    Runs .updateActivate s fun t =>
      t.chip.fl Reg.GRD_UPD_STATUS 11 8 = 1 ∧ t.chip.upd.state = 0 ∧ t.chip.upd.installed = some m ∧ t.chip.upd.pending = none ∧
      t.chip.rd Reg.APC_CORE_RUN = 0 ∧ t.chip.apc.started = [] ∧ ∀ n : Fin 24, t.chip.bit (Reg.FLO_CORE_CFG n) 30 = true) ∧
  (∀ (s : State), s.chip.upd.state ≠ 4 ∨ s.refusals ≠ 0 →
    s.chip.reaches Reg.GRD_UPD_CMD = true →
    Runs .updateActivate s fun t =>
      (if s.chip.upd.state ≠ 4 then t.chip.fl Reg.GRD_UPD_STATUS 11 8 = 9 ∧ t.chip.upd = s.chip.upd
       else s.ShowsRefusals t ∧ s.Refused t 8) ∧
      s.Only t updateRegs fun c => { c with regs := t.chip.regs, ember := t.chip.ember }) ∧
  (∀ (s : State),
    s.chip.reaches Reg.GRD_UPD_CMD = true →
    Runs .updateAbort s fun t =>
      (if s.chip.upd.state = 1 ∨ s.chip.upd.state = 2 then
        t.chip.fl Reg.GRD_UPD_STATUS 11 8 = 1 ∧
        t.chip.upd = ({ s.chip.upd with state := 0, pending := none, verified := [], pieces := [], next := 0 } : Upd).save
       else t.chip.fl Reg.GRD_UPD_STATUS 11 8 = 9 ∧ t.chip.upd = s.chip.upd) ∧
      s.Only t [Reg.GRD_UPD_CMD, Reg.GRD_UPD_STATUS] fun c => { c with regs := t.chip.regs, upd := t.chip.upd })

/-- R401–R403. A piece that this node does not take changes nothing, one with a bad FCRC is asked for again; a whole image is
judged, then taken and forwarded; a whole chunk that matches CHASH is staged, forwarded and reported; a child's request is
answered. Over which ports frames go, and receive queue 2 in LOADER, are the model's choices (log 51). -/
def Obligations.ImagesTravelTheChain : Prop :=
  (∀ (s : State) (f : List Byte), s.chip.chainTakes f 1 = false →
    Runs (.chainHeaderPiece f) s fun t => t = { s with chip := s.chip.loaderServes }) ∧
  (∀ (s : State) (f : List Byte), s.chip.chainTakes f 1 = true → ∀ got, got = s.chip.arrivedWith f → imageWhole got = false →
    Runs (.chainHeaderPiece f) s fun t =>
      t = { s with chip := s.chip.loaderServes.onUpd fun u => { u with
        arriving := (u.arriving.filter fun a => a.kind != leAt f 8 1) ++
          if imageLen 1048576 < got.length then [] else [⟨leAt f 8 1, BitVec.ofNat 32 (leAt f 4 4), got⟩] } }) ∧
  (∀ (s : State) (f : List Byte), s.chip.chainTakes f 1 = true → ∀ got, got = s.chip.arrivedWith f → imageWhole got = true →
    ∀ b, b = got.map (·.2) → ∀ r, r = s.chip.judgeImage b →
    Runs (.chainHeaderPiece f) s fun t => ∀ u, u = ({ s.chip.upd with
        arriving := s.chip.upd.arriving.filter fun a => a.kind != leAt f 8 1 } : Upd).save →
      (if r ≠ 1 then
        t.chip.fl Reg.GRD_UPD_STATUS 11 8 = r ∧ t.chip.rd Reg.GRD_UPD_REFCNT = satInc (s.chip.rd Reg.GRD_UPD_REFCNT) ∧
        t.chip.upd = u ∧ s.chip.SentOn t.chip []
       else if imgKind b ≠ 16 then
        if imgSeries b = s.chip.accepted (imgKind b) ∨ s.refusals = 0 then
          t.chip.fl Reg.GRD_UPD_STATUS 11 8 = 1 ∧ t.chip.accepted (imgKind b) = imgSeries b ∧
          t.chip.upd.order = (if imgKind b = 7 then orderOf (imgBody b) else s.chip.upd.order)
        else t.chip.fl Reg.GRD_UPD_STATUS 11 8 = 8 ∧ t.chip.upd = u
       else if 3 ≤ s.chip.upd.state ∧ (s.chip.upd.pending.map fun p => p.series.toNat) ≠ some (imgSeries b) then
        t.chip.fl Reg.GRD_UPD_STATUS 11 8 = 10 ∧ t.chip.upd = u ∧ s.chip.SentOn t.chip []
       else t.chip.fl Reg.GRD_UPD_STATUS 11 8 = 1 ∧
        s.chip.SentOn t.chip (s.chip.children.flatMap fun d => chainPieces 1 d (BitVec.ofNat 32 (imgSeries b)) 16 0 0 b) ∧
        (imgSeries b ≠ s.chip.accepted 16 → t.chip.upd.state = 1 ∧ t.chip.upd.verified = [] ∧ t.chip.upd.next = 0 ∧
          t.chip.upd.pending = some (Manifest.ofImage b) ∧ t.chip.accepted 16 = imgSeries b) ∧
        (imgSeries b = s.chip.accepted 16 → t.chip.upd = u)) ∧
      s.Only t (updateRegs ++ chainRegs) fun c => { c with
        regs := t.chip.regs, ember := t.chip.ember, upd := t.chip.upd, bkb := { c.bkb with ports := t.chip.bkb.ports } }) ∧
  (∀ (s : State) (f : List Byte), chainFcrcGood f = true → s.chip.chainAddressed f 2 = false →
    Runs (.chainBodyPiece f) s fun t => t = { s with chip := s.chip.loaderServes }) ∧
  (∀ (s : State) (f : List Byte), chainFcrcGood f = false → ∀ m, s.chip.upd.pending = some m →
    Runs (.chainBodyPiece f) s fun t =>
      s.chip.SentOn t.chip (if s.chip.chainAddressed f 2 && leAt f 8 1 == 16 && s.chip.chunkWanted m f &&
          s.chip.chainParent.getD 0xFFF != 0xFFF then [⟨3, s.chip.chainParent.getD 0xFFF, m.series, 16, leAt f 10 2, 0, []⟩] else []) ∧
      s.Only t chainRegs fun c => { c with regs := t.chip.regs, bkb := { c.bkb with ports := t.chip.bkb.ports } }) ∧
  (∀ (s : State) (f : List Byte), s.chip.chainTakes f 2 = true → leAt f 8 1 = 16 → ∀ m, s.chip.upd.pending = some m →
    s.chip.chunkWanted m f = true → ∀ got, got = s.chip.chunkWith f → ∀ k, k = leAt f 10 2 →
    (got.filter fun e => decide (e.1 < m.chunkLen k)).length ≠ m.chunkLen k →
    Runs (.chainBodyPiece f) s fun t =>
      t = { s with chip := s.chip.loaderServes.onUpd fun u => { u with pieces := got, pieceChunk := k } }) ∧
  (∀ (s : State) (f : List Byte), s.chip.chainTakes f 2 = true → leAt f 8 1 = 16 → ∀ m, s.chip.upd.pending = some m →
    s.chip.chunkWanted m f = true → ∀ got, got = s.chip.chunkWith f → ∀ k, k = leAt f 10 2 →
    ∀ have', have' = (got.filter fun e => decide (e.1 < m.chunkLen k)) → have'.length = m.chunkLen k →
    ∀ d, d = padTo 65536 (have'.map (·.2)) →
    ∀ c, c = ((s.chip.loaderServes.onUpd fun u => { u with pieces := got, pieceChunk := k }).onUpd fun u => { u with pieces := [] }) →
    Runs (.chainBodyPiece f) s fun t =>
      (if sha256 d = m.chash.getD k [] ∧ c.stagingTakes k = true then
        ∀ w, w = c.tinderWrite 3 0 (c.updStage + 16 * k) d → ∀ v, v = s.chip.upd.verified ++ [k] →
          ∀ out, out = ((s.chip.children.flatMap fun x => chainPieces 2 x m.series 16 k 0 (d.take (m.chunkLen k))) ++
            if s.chip.chainParent.getD 0xFFF = 0xFFF then []
            else [⟨4, s.chip.chainParent.getD 0xFFF, m.series, 16, k, 0, []⟩]) →
          if ((List.range m.nChunk).all v.contains) = false ∨ s.chip.upd.state = 1 then
            t.chip.upd.verified = v ∧ t.chip.upd.pieces = [] ∧ t.chip.clm = w.clm ∧ s.chip.SentOn t.chip out ∧
            t.chip.upd.state = (if ((List.range m.nChunk).all v.contains) = true then 2 else s.chip.upd.state)
          else ∃ e : Chip, e.upd.verified = v ∧ e.upd.state = 5 ∧ e.clm = w.clm ∧ s.chip.SentOn e out ∧ e.CopyBegun t.chip m
      else
        t.chip.upd = c.upd ∧ t.chip.clm = s.chip.clm ∧
        s.chip.SentOn t.chip (if s.chip.chainParent.getD 0xFFF = 0xFFF then []
          else [⟨3, s.chip.chainParent.getD 0xFFF, m.series, 16, k, 0, []⟩])) ∧
      s.Tindered t []) ∧
  (∀ (s : State) (f : List Byte), s.chip.chainTakes f 3 = true → ∀ m, s.chip.upd.pending = some m →
    ∀ k, k = leAt f 10 2 → ∀ c, c = s.chip.loaderServes →
    Runs (.chainRequest f) s fun t =>
      s.chip.SentOn t.chip (if m.series.toNat = leAt f 4 4 ∧ s.chip.upd.verified.contains k = true ∧ c.stagedComes k = true then
        chainPieces 2 (leAt f 2 2 % 4096) m.series 16 k 0 ((c.stagedChunk k).take (m.chunkLen k)) else []) ∧
      s.Tindered t []) ∧
  (∀ (s : State) (f : List Byte),
    Runs (.chainHave f) s fun t =>
      ∀ n, n = ringSize (s.chip.fl (Reg.BKB_RXQ_CFG 2) 3 0) → ∀ ci, ci = s.chip.rd (Reg.BKB_RXQ_CI 2) % n →
        if s.chip.upd.state = 5 ∧ s.chip.chainUp = true ∧ ci ≠ s.chip.rd (Reg.BKB_RXQ_PI 2) % n then
          t.chip.rd (Reg.BKB_RXQ_CI 2) = (ci + 1) % n ∧ s.Only t [Reg.BKB_RXQ_CI 2] fun c => { c with regs := t.chip.regs }
        else t = s)

/-- R397–R401. A chunk that matches CHASH is written and NEXT advances, to INSTALLED after the last; a failed write is repeated
once; a bad chunk moves to LOADER; the copy resumes once the media is writable; a start loads the installed image, or in LOADER
asks for what is missing. How Tinder's commands pass the Clamp's queue 1 and what happens where it takes none are the model's
choices (log 52). -/
def Obligations.CopyAndLoadProceed : Prop :=
  (∀ (s : State) (st : Byte), ∀ m, s.chip.upd.pending = some m → s.chip.copying m = true → ∀ n w, s.chip.upd.write = some (n, w) →
    Runs (.chunkCopyDone st) s fun t =>
      (if w = 0 ∨ w ≠ st.toNat then t = s
       else if w = 1 then
        if s.chip.upd.next + 1 = m.nChunk then
          t.chip.upd.next = m.nChunk ∧ t.chip.upd.state = 4 ∧ t.chip.upd.write = none ∧ t.chip.upd.retried = false ∧
          (if s.chip.upd.state = 5 then s.chip.emberRoom 0xA11 false = true → s.Posted t 0xA11 (4 :: leBytes 2 m.nChunk)
           else s.Only t [] fun c => { c with upd := t.chip.upd })
        else ∀ c, c = (s.chip.onUpd fun u => { u with next := s.chip.upd.next + 1, retried := false, write := none }) →
          c.CopyBegun t.chip m
       else if s.chip.upd.retried = true then
        t.chip.upd.state = 5 ∧ t.chip.upd.retried = false ∧ t.chip.upd.write = none ∧ t.chip.upd.next = s.chip.upd.next ∧
        t.chip.clm = s.chip.clm
       else ∀ c, c = (s.chip.onUpd fun u => { u with retried := true, write := none }) → c.CopyBegun t.chip m) ∧
      s.Tindered t []) ∧
  (∀ (s : State) (st : Byte), ∀ m, s.chip.upd.pending = some m → s.chip.upd.write = none →
    Runs (.chunkCopyDone st) s fun t =>
      (s.chip.copying m = false → t = s) ∧ s.chip.CopyBegun t.chip m ∧ s.Tindered t []) ∧
  (∀ (s : State),
    Runs .copyResume s fun t =>
      if s.chip.clmUp = true ∧ s.chip.clmState = 4 then
        ∀ c, c = (s.chip.onUpd fun u => if u.paused then { u with paused := false, retried := false } else u) →
          (s.chip.upd.pending = none → t.chip = c) ∧
          (∀ m, (s.chip.upd.pending = some m → c.copying m = false → t.chip = c) ∧ c.CopyBegun t.chip m) ∧
          t.chip.upd.paused = false ∧ s.Tindered t []
      else t = s) ∧
  (∀ (s : State), s.chip.upd.state = 5 → ∀ m, s.chip.upd.pending = some m →
    Runs .imageLoad s fun t =>
      s.chip.SentOn t.chip (if s.chip.chainParent.getD 0xFFF = 0xFFF then []
        else ((List.range m.nChunk).filter fun k => !s.chip.upd.verified.contains k).map fun k =>
          ⟨3, s.chip.chainParent.getD 0xFFF, m.series, 16, k, 0, []⟩) ∧
      s.Only t chainRegs fun c => { c with regs := t.chip.regs, bkb := { c.bkb with ports := t.chip.bkb.ports } }) ∧
  (∀ (s : State), s.chip.upd.state ≠ 5 → (s.chip.upd.state = 3 ∨ s.chip.clmReady = false) → Runs .imageLoad s fun t => t = s) ∧
  (∀ (s : State), s.chip.clmReady = true → s.chip.upd.state ≠ 3 → s.chip.upd.state ≠ 5 →
    ∀ a, a = (if s.chip.upd.state = 4 then s.chip.installPending else s.chip) → ∀ m, a.upd.installed = some m →
    ∀ got d, a.holdCores.readChunks m.chunks = (got, d) →
    Runs .imageLoad s fun t =>
      (s.chip.upd.state = 4 → t.chip.upd.installed = s.chip.upd.pending) ∧
      (∀ k rest x, m.chunks = k :: rest → got = some x → x.head? = some (k, a.holdCores.imageChunk k)) ∧
      match got with
      | some x =>
        if (x.all fun e => sha256 e.2 == m.chash.getD e.1 []) = true then
          t.chip.upd = { a.upd with write := t.chip.upd.write } ∧ s.chip.Loaded d t.chip m x
        else t.chip.upd.state = 5 ∧ t.chip.upd.pending = some m ∧ t.chip.rd Reg.APC_CORE_RUN = 0 ∧ t.chip.apc.started = []
      | none => t.chip.upd = { a.upd with write := t.chip.upd.write } ∧ t.chip.rd Reg.APC_CORE_RUN = 0 ∧ t.chip.apc.started = [])

/-! ### 14_clocks_power_reset.md -/

/-- R406, R407, R411, R412, R423. The loss of XA puts the PLLs in holdover and RUN in TRIM, its return brings the multiplexer
back and relock RUN; a start without XA ends in TRIM; SEAL follows XB; each loss and return is shown. M9 and the PLLs in HOLD and RIDE
(log 60), and a PLL that does not run, PLL_D's lock at once and a start without XA that leaves no record (log 65), are the model's
choices. -/
def Obligations.ClockLossIsRiddenThrough : Prop :=
  (∀ (s : State), s.chip.crp.xaValid = true → s.chip.crp.power ≠ .dormant → s.chip.crp.power ≠ .off →
    Runs .xaLost s fun t =>
      t.chip.kiln = (if s.chip.crp.startStep = 8 then (s.chip.kilnAbort 10).kiln else s.chip.kiln) ∧
      t.chip.crp.xaValid = false ∧ t.chip.bit Reg.CRP_STATUS 0 = true ∧
      (s.chip.crp.startStep ≠ 8 → t.chip.crp.power = s.chip.crp.power) ∧
      (s.chip.crp.startStep = 8 →
        t.chip.fl (Reg.CRP_MUX_SEL 9) 1 0 = 1 ∧ t.chip.crp.power = (if s.chip.crp.power = .run then .trim else s.chip.crp.power) ∧
        (∀ p : Fin 5, p.val ≠ 3 → t.chip.bit (Reg.CRP_PLL_STATUS p) 0 = false ∧
          t.chip.bit (Reg.CRP_PLL_STATUS p) 1 = (s.chip.bit (Reg.CRP_PLL_STATUS p) 0 || s.chip.bit (Reg.CRP_PLL_STATUS p) 1))) ∧
      s.Only t ([Reg.CRP_STATUS, Reg.CRP_MUX_SEL 9, Reg.CRP_PLL_STATUS 0, Reg.CRP_PLL_STATUS 1, Reg.CRP_PLL_STATUS 2,
        Reg.CRP_PLL_STATUS 4] ++ recordRegs) fun c => { c with regs := t.chip.regs, ember := t.chip.ember, kiln := t.chip.kiln, crp := { c.crp with
          power := t.chip.crp.power, xaValid := false, trim := t.chip.crp.trim, trimRef := t.chip.crp.trimRef } }) ∧
  (∀ (s : State), s.chip.crp.xaValid = false → s.chip.crp.power ≠ .dormant → s.chip.crp.power ≠ .off → 3 ≤ s.chip.crp.startStep →
    Runs .xaValid s fun t =>
      t.chip.crp.xaValid = true ∧ t.chip.bit Reg.CRP_STATUS 0 = false ∧
      (s.chip.crp.startStep = 5 → if s.chip.crp.power = .run ∨ s.chip.crp.power = .trim
        then t.chip.crp.startStep = 8 ∧ t.chip.crp.power = .run else t.chip.crp.startStep = 5 ∧ t.chip.crp.power = s.chip.crp.power) ∧
      (s.chip.crp.startStep = 8 → (s.chip.crp.power = .trim ∨ s.chip.crp.power = .hold) →
        t.chip.crp.power = s.chip.crp.power ∧ t.chip.fl (Reg.CRP_MUX_SEL 9) 1 0 = 0 ∧
        ∀ p : Fin 5, p.val ≠ 3 →
          t.chip.bit (Reg.CRP_PLL_STATUS p) 1 = (s.chip.bit (Reg.CRP_PLL_STATUS p) 0 || s.chip.bit (Reg.CRP_PLL_STATUS p) 1)) ∧
      s.Only t ([Reg.CRP_STATUS, Reg.CRP_MUX_SEL 0, Reg.CRP_MUX_SEL 8, Reg.CRP_MUX_SEL 9] ++ (List.range 5).map Reg.CRP_PLL_STATUS)
        fun c => { c with regs := t.chip.regs, crp := { c.crp with
          power := t.chip.crp.power, startStep := t.chip.crp.startStep, xaValid := true, trim := t.chip.crp.trim, trimRef := t.chip.crp.trimRef
          noted := t.chip.crp.noted } }) ∧
  (∀ (s : State),
    Runs .xaStartTimeout s fun t =>
      if s.chip.crp.startStep = 5 ∧ s.chip.crp.xaValid = false ∧ (s.chip.crp.power = .run ∨ s.chip.crp.power = .trim) then
        t.chip.crp = { s.chip.crp with
          startStep := 8, power := .trim, noted := t.chip.crp.noted, trim := t.chip.crp.trim, trimRef := t.chip.crp.trimRef } ∧
        (s.chip.crp.trim = none → t.chip.crp.trim = none) ∧
        (∀ k, s.chip.crp.power = .run → s.chip.crp.trim = some k →
          t.chip.crp.trim = none ∨ t.chip.crp.trim = some k ∧ t.chip.refUsable t.chip.crp.trimRef = true) ∧ t.chip.fl (Reg.CRP_MUX_SEL 9) 1 0 = 1 ∧
        t.chip.fl (Reg.CRP_MUX_SEL 0) 1 0 = 0 ∧ (∀ p : Fin 5, p.val ≠ 3 → t.chip.bit (Reg.CRP_PLL_STATUS p) 0 = true) ∧
        s.Only t ([Reg.CRP_MUX_SEL 0, Reg.CRP_MUX_SEL 8, Reg.CRP_MUX_SEL 9] ++ (List.range 5).map Reg.CRP_PLL_STATUS)
          fun c => { c with regs := t.chip.regs, crp := t.chip.crp }
      else t = s) ∧
  (∀ (s : State), s.chip.crp.xbValid = true → s.chip.crp.power ≠ .off →
    Runs .xbLost s fun t =>
      t.chip.crp.xbValid = false ∧ t.chip.bit Reg.CRP_STATUS 1 = true ∧ t.chip.grd.present.contains 7 = true ∧
      (s.chip.crp.power ≠ .dormant → t.chip.fl (Reg.CRP_MUX_SEL 8) 1 0 = 1 ∧ t.chip.bit (Reg.CRP_PLL_STATUS 3) 0 = false ∧
        t.chip.bit (Reg.CRP_PLL_STATUS 3) 1 = (s.chip.bit (Reg.CRP_PLL_STATUS 3) 0 || s.chip.bit (Reg.CRP_PLL_STATUS 3) 1)) ∧
      (s.chip.crp.power = .dormant → t.chip.rdW (Reg.CRP_MUX_SEL 8) = s.chip.rdW (Reg.CRP_MUX_SEL 8)) ∧
      (s.chip.fl (Reg.GRD_TMP_CFG 7) 1 0 = 0 ∨ s.chip.grd.present.contains 7 = true → t.lc = s.lc ∧
        s.Only t ([Reg.CRP_STATUS, Reg.CRP_MUX_SEL 8, Reg.CRP_PLL_STATUS 3, Reg.PIC_PEND 4]) fun c => { c with
          regs := t.chip.regs, grd := { c.grd with present := t.chip.grd.present }, crp := { c.crp with
            xbValid := false, trim := t.chip.crp.trim, trimRef := t.chip.crp.trimRef } })) ∧
  (∀ (s : State), s.chip.crp.xbValid = false → s.chip.crp.power ≠ .off →
    Runs .xbValid s fun t =>
      t.chip.crp = { s.chip.crp with xbValid := true } ∧ t.chip.bit Reg.CRP_STATUS 1 = false ∧ t.chip.grd.present.contains 7 = false ∧
      (s.chip.crp.power ≠ .dormant → 3 ≤ s.chip.crp.startStep →
        t.chip.fl (Reg.CRP_MUX_SEL 8) 1 0 = 0 ∧ t.chip.bit (Reg.CRP_PLL_STATUS 3) 0 = true ∧ t.chip.bit (Reg.CRP_PLL_STATUS 3) 1 = false) ∧
      t.lc = s.lc ∧ t.leg = s.leg ∧ t.chip.mem = s.chip.mem) ∧
  (∀ (s : State) (p : Fin 5), s.chip.bit (Reg.CRP_PLL_STATUS p) 1 = true →
    (if p.val = 3 then s.chip.crp.xbValid else s.chip.fl (Reg.CRP_MUX_SEL 9) 1 0 == 1 || s.chip.crp.xaValid) = true →
    Runs (.pllLock p) s fun t =>
      t.chip.bit (Reg.CRP_PLL_STATUS p) 0 = true ∧ t.chip.bit (Reg.CRP_PLL_STATUS p) 1 = false ∧
      (if s.chip.crp.power = .trim ∧ s.chip.crp.xaValid = true ∧ s.chip.crp.startStep = 8 ∧ s.chip.fl (Reg.CRP_MUX_SEL 9) 1 0 = 0 ∧
          ([0, 1, 2, 4].all fun q => q == p.val || !s.chip.bit (Reg.CRP_PLL_STATUS q) 1) = true then
        t.chip.crp = { s.chip.crp with
          power := .run, trim := t.chip.crp.trim, trimRef := t.chip.crp.trimRef, noted := t.chip.crp.noted } ∧
        ∀ n : Fin 24, (t.chip.lane n).phase ≠ .header ∧ (t.chip.lane n).phase ≠ .payload
       else t.chip.crp = s.chip.crp ∧ t.chip.lma = s.chip.lma) ∧
      s.Only t [Reg.CRP_PLL_STATUS p] fun c => { c with
        regs := t.chip.regs
        crp := t.chip.crp, freeCtr := t.chip.freeCtr
        lma := { c.lma with lanes := t.chip.lma.lanes, gains := t.chip.lma.gains } })

/-- R408, R409, R413–R415. SEL takes a new value and BUSY rises until the switch ends; a write meanwhile sets CFG_ERR; a forced
switch is counted, recorded and shown, and a RIDE that waited for its end begins; a trim run changes the code by the error,
within 16 steps and 0–1,023. That a run goes on over a discarded window (log 60), the rounding and a beacon of
no count (log 65) are the model's choices. -/
def Obligations.MultiplexersAndTrimFollow : Prop :=
  (∀ (s : State) (m : Fin 10) (v : Word) (w : Who), m.val ≠ 9 → (m.val = 8 → w.level = .seal) →
    s.chip.reaches (Reg.CRP_MUX_SEL m) = true →
    Runs (.muxSelect m v w) s fun t =>
      (if s.chip.crp.switches.any (·.1 == m.val) then
        t.chip.fl (Reg.CRP_MUX_SEL m) 1 0 = s.chip.fl (Reg.CRP_MUX_SEL m) 1 0 ∧ t.chip.bit Reg.CRP_STATUS 4 = true ∧ t.chip.crp = s.chip.crp
       else if v.toNat % 4 = s.chip.fl (Reg.CRP_MUX_SEL m) 1 0 ∨ selIgnored m (v.toNat % 4) = true then
        t.chip.fl (Reg.CRP_MUX_SEL m) 1 0 = s.chip.fl (Reg.CRP_MUX_SEL m) 1 0 ∧ t.chip.crp = s.chip.crp
       else
        t.chip.fl (Reg.CRP_MUX_SEL m) 1 0 = v.toNat % 4 ∧ t.chip.bit (Reg.CRP_MUX_SEL m) 31 = true ∧
        t.chip.crp = { s.chip.crp with switches := s.chip.crp.switches ++ [(m.val, ⟨s.chip.fl (Reg.CRP_MUX_SEL m) 1 0, v.toNat % 4, false, false⟩)] }) ∧
      t.chip.bit (Reg.CRP_MUX_SEL m) 30 = (s.chip.bit (Reg.CRP_MUX_SEL m) 30 && !v.getLsbD 30) ∧
      s.Only t [Reg.CRP_MUX_SEL m, Reg.CRP_STATUS, Reg.PIC_PEND 4] fun c => { c with regs := t.chip.regs, crp := t.chip.crp }) ∧
  (∀ (s : State) (m : Fin 10) (v : Word) (w : Who), (m.val = 9 ∨ (m.val = 8 ∧ w.level ≠ .seal)) →
    s.chip.reaches (Reg.CRP_MUX_SEL m) = true →
    Runs (.muxSelect m v w) s fun t =>
      t.chip.fl (Reg.CRP_MUX_SEL m) 1 0 = s.chip.fl (Reg.CRP_MUX_SEL m) 1 0 ∧
      s.Only t (Reg.CRP_MUX_SEL m :: transferRegs) fun c => { c with regs := t.chip.regs, ember := t.chip.ember }) ∧
  (∀ (s : State) (m : Fin 10), ∀ x, s.chip.switchOf m = some x →
    Runs (.muxSwitchDone m) s fun t =>
      if x.forced then t = s
      else t.chip.bit (Reg.CRP_MUX_SEL m) 31 = false ∧ s.Only t [Reg.CRP_MUX_SEL m] fun c => { c with
        regs := t.chip.regs, crp := { c.crp with switches := c.crp.switches.filter fun e => e.1 != m.val } }) ∧
  (∀ (s : State) (m : Fin 10) (b : Bool), 3 ≤ m.val → m.val ≤ 7 → ∀ x, s.chip.switchOf m = some x → x.forced = false →
    Runs (.forcedSwitch m b) s fun t =>
      (t.chip.switchOf m) = some { x with forced := true, newSide := b } ∧ t.chip.crp.downs.contains (16 + m.val) = true ∧
      t.chip.rdW (Reg.CRP_MUX_SEL m) = s.chip.rdW (Reg.CRP_MUX_SEL m) ∧ t.lc = s.lc ∧ t.leg = s.leg ∧ t.chip.tim = s.chip.tim ∧
      (m.val = 3 → t = { s with chip := { s.chip with crp := t.chip.crp } }) ∧
      (m.val = 4 ∨ m.val = 5 → (t.chip.port (m.val - 4)).sync = false ∧ (t.chip.port (m.val - 4)).tx = none)) ∧
  (∀ (s : State) (m : Fin 10), ∀ x, s.chip.switchOf m = some x → x.forced = true → s.chip.crp.rideWaits = false →
    Runs (.forcedSwitchRelease m) s fun t =>
      t.chip.bit (Reg.CRP_MUX_SEL m) 31 = false ∧ t.chip.bit (Reg.CRP_MUX_SEL m) 30 = true ∧ t.chip.bit Reg.CRP_STATUS 3 = true ∧
      t.chip.rd Reg.CRP_FORCED_CNT = satInc (s.chip.rd Reg.CRP_FORCED_CNT) ∧ t.chip.bit Reg.CRP_RST_CAUSE 5 = true ∧
      s.Only t ([Reg.CRP_MUX_SEL m, Reg.CRP_STATUS, Reg.CRP_FORCED_CNT, Reg.CRP_RST_CAUSE] ++ recordRegs) fun c => { c with
        regs := t.chip.regs, ember := t.chip.ember, crp := { c.crp with switches := c.crp.switches.filter fun e => e.1 != m.val } }) ∧
  (∀ (s : State) (m : Fin 10), ∀ x, s.chip.switchOf m = some x → x.forced = true → s.chip.crp.rideWaits = true →
    (∀ e ∈ s.chip.crp.switches, e.2.forced = true → e.1 = m.val) →
    Runs (.forcedSwitchRelease m) s fun t =>
      t.chip.crp.rideWaits = false ∧ t.chip.bit (Reg.CRP_MUX_SEL m) 30 = true ∧
      t.chip.crp.power = if s.chip.canRide = true then .ride else s.chip.crp.power) ∧
  (∀ (s : State), s.chip.bit Reg.CRP_TRIM_CFG 0 = true → 3 ≤ s.chip.crp.startStep → s.chip.crp.trim = none →
    s.chip.crp.power ≠ .dormant → s.chip.crp.power ≠ .off →
    Runs .trimStart s fun t =>
      (∀ r : Fin 4, s.chip.refUsable r = true → (∀ q : Fin 4, q.val < r.val → s.chip.refUsable q = false) →
        t = { s with chip := { s.chip with crp := { s.chip.crp with
          trim := some 0, trimRef := r.val, trimTemp := s.chip.fl Reg.CRP_TEMP 11 0 } } }) ∧
      ((∀ r : Fin 4, s.chip.refUsable r = false) → t = s)) ∧
  (∀ (s : State) (n e : BitVec 32), ∀ k, s.chip.crp.trim = some k → s.chip.refUsable s.chip.crp.trimRef = true →
    ∀ x, x = nExpected s.chip.crp.trimRef e.toNat → x ≠ 0 →
    Runs (.trimWindowEnd n e) s fun t =>
      (t.chip.crp.code : Int) = max 0 (min 1023 (s.chip.crp.code + max (-16) (min 16 (-roundDiv (((n.toNat : Int) - x) * 1000000) (60 * x))))) ∧
      t.chip.crp.trim = (if ((n.toNat : Int) - x).natAbs * 1000000 ≤ 60 * x ∨ 7 ≤ k then none else some (k + 1)) ∧
      (((n.toNat : Int) - x).natAbs * 1000000 ≤ 60 * x → t.chip.bit Reg.CRP_TRIM_STATUS 2 = true) ∧
      (60 * x < ((n.toNat : Int) - x).natAbs * 1000000 → t.chip.bit Reg.CRP_TRIM_STATUS 2 = s.chip.bit Reg.CRP_TRIM_STATUS 2) ∧
      s.Only t [Reg.CRP_TRIM_STATUS] fun c => { c with regs := t.chip.regs, crp := { c.crp with code := t.chip.crp.code, trim := t.chip.crp.trim } }) ∧
  (∀ (s : State) (n e : BitVec 32), s.chip.crp.trim ≠ none →
    (s.chip.refUsable s.chip.crp.trimRef = false ∨ nExpected s.chip.crp.trimRef e.toNat = 0) →
    Runs (.trimWindowEnd n e) s fun t =>
      t.chip.crp.code = s.chip.crp.code ∧
      t = { s with chip := { s.chip with crp := { s.chip.crp with trim := t.chip.crp.trim, trimRef := t.chip.crp.trimRef } } })

/-- R416, R418, R420. Gate bits ask for and withdraw gates, fused blocks stay gated; a rising reset bit returns the block's
registers to their reset values and takes its crossings down, which come up again at the re-handshake, and what was on its way
to the block is lost, counted where the producer stays. That a reset of the CIU ends tamper source 8 (log 63) and
what is recorded anew after a gate (log 65) are the model's choices. -/
def Obligations.BlocksGateAndReset : Prop :=
  (∀ (s : State) (v : Word), s.chip.kilnHolds = [] →
    s.chip.reaches Reg.CRP_CLK_GATE = true →
    Runs (.clockGateWrite v) s fun t =>
      (∀ b : Fin 10, t.chip.bit Reg.CRP_CLK_GATE b = (s.chip.fused b || v.getLsbD b)) ∧
      (∀ b : Fin 10, s.chip.fused b = false → v.getLsbD b = false → t.chip.crp.closing.contains b.val = false ∧ t.chip.crp.closed.contains b.val = false) ∧
      (∀ b : Fin 10, s.chip.fused b = false → v.getLsbD b = true → s.chip.bit Reg.CRP_CLK_GATE b = false → t.chip.crp.closing.contains b.val = true) ∧
      s.Only t [Reg.CRP_CLK_GATE] fun c => { c with
        regs := t.chip.regs, crp := { c.crp with closing := t.chip.crp.closing, closed := t.chip.crp.closed } }) ∧
  (∀ (s : State) (b : Fin 12),
    Runs (.gateClose b) s fun t =>
      if s.chip.crp.closing.contains b.val then
        t = { s with chip := { s.chip with crp := { s.chip.crp with
          closing := s.chip.crp.closing.filter (· != b.val), closed := s.chip.crp.closed ++ [b.val], noted := s.chip.crp.noted.filter (· != b.val) } } }
      else t = s) ∧
  (∀ (s : State) (v : Word), s.chip.kilnHolds = [] → v.getLsbD 4 = true → s.chip.bit Reg.CRP_BLK_RST 4 = false →
    s.chip.grd.present.contains 8 = true →
    s.chip.reaches Reg.CRP_BLK_RST = true →
    Runs (.blockResetWrite v) s fun t =>
      (∀ b : Fin 10, t.chip.bit Reg.CRP_BLK_RST b = v.getLsbD b) ∧
      t.chip.grd.present = s.chip.grd.present.filter (· != 8) ∧ t.lc = s.lc ∧ t.leg = s.leg ∧ t.chip.mem = s.chip.mem) ∧
  (∀ (s : State) (v : Word), s.chip.kilnHolds = [] →
    (s.chip.grd.present.contains 8 = true → s.chip.fl Reg.CIU_ALARM 4 0 ≠ 0 ∧ (v.getLsbD 4 = false ∨ s.chip.bit Reg.CRP_BLK_RST 4 = true)) →
    s.chip.reaches Reg.CRP_BLK_RST = true →
    Runs (.blockResetWrite v) s fun t =>
      (∀ b : Fin 10, t.chip.bit Reg.CRP_BLK_RST b = v.getLsbD b) ∧
      (∀ b : Fin 10, v.getLsbD b = true → s.chip.bit Reg.CRP_BLK_RST b = false → t.chip.crp.downs.contains b.val = true ∧
        ∀ r, inBlock b r = true → r ≠ Reg.CIU_ALARM → t.chip.rdW r = regReset r) ∧
      (∀ b : Fin 10, (v.getLsbD b = false ∨ s.chip.bit Reg.CRP_BLK_RST b = true) → ∀ r, r / 0x100000 = b.val → t.chip.rdW r = s.chip.rdW r) ∧
      (∀ r, isTimReg r = true → t.chip.rdW r = s.chip.rdW r) ∧
      (v.getLsbD 4 = true → s.chip.bit Reg.CRP_BLK_RST 4 = false → t.chip.ciu = .reset) ∧
      (v.getLsbD 5 = true → s.chip.bit Reg.CRP_BLK_RST 5 = false → t.chip.flo = .reset) ∧
      (v.getLsbD 7 = true → s.chip.bit Reg.CRP_BLK_RST 7 = false → t.chip.bal.out = [] ∧
        t.chip.rd (Reg.CRP_DCQ_LOST 4) = satAdd (s.chip.rd (Reg.CRP_DCQ_LOST 4))
          (if (v.getLsbD 9 = true ∧ s.chip.bit Reg.CRP_BLK_RST 9 = false) ∨ s.chip.sideDown 9 = true then 0
           else s.chip.bal.out.length)) ∧
      t.lc = s.lc ∧ t.leg = s.leg ∧ t.chip.mem = s.chip.mem ∧ t.chip.tim = s.chip.tim ∧ t.chip.ember = s.chip.ember ∧ t.chip.grd = s.chip.grd) ∧
  (∀ (s : State) (b : Fin 12),
    Runs (.dcqRehandshake b) s fun t =>
      if s.chip.gated b then t = s
      else t = { s with chip := { s.chip with crp := { s.chip.crp with downs := t.chip.crp.downs } } } ∧ t.chip.crp.downs.contains b.val = false ∧
        ∀ x, t.chip.crp.downs.contains x = (s.chip.crp.downs.contains x && (!(crossings b).contains x ||
          s.chip.crp.switches.any fun e => e.2.forced && e.1 + 16 == x)))

/-- R421. Each reset sets its bit of CRP_RST_CAUSE beside those that stand, and a power-on reset leaves POR alone. -/
def Obligations.ResetCausesAreRecorded : Prop :=
  (∀ (s : State), Runs .powerOnReset s fun t => t.chip.rd Reg.CRP_RST_CAUSE = 1) ∧
  (∀ (s : State), s.chip.crp.startStep = 2 → s.chip.crp.coreEn = true → s.chip.crp.power ≠ .off →
    Runs .corePowerOn s fun t => t.chip.rdW Reg.CRP_RST_CAUSE = s.chip.rdW Reg.CRP_RST_CAUSE ||| 2) ∧
  (∀ (s : State), 3 ≤ s.chip.crp.startStep → (s.chip.crp.power = .run ∨ s.chip.crp.power = .trim ∨ s.chip.crp.power = .hold) →
    Runs .rstNAssert s fun t => t.chip.rdW Reg.CRP_RST_CAUSE = s.chip.rdW Reg.CRP_RST_CAUSE ||| 4) ∧
  (∀ (s : State) (v : Word) (w : Who), w.level = .seal → v.getLsbD 0 = true →
    (s.chip.crp.power = .run ∨ s.chip.crp.power = .trim ∨ s.chip.crp.power = .hold) →
    s.chip.reaches Reg.CRP_RST_CMD = true →
    Runs (.deviceResetCmd v w) s fun t => t.chip.rdW Reg.CRP_RST_CAUSE = s.chip.rdW Reg.CRP_RST_CAUSE ||| 8) ∧
  (∀ (s : State), s.chip.bit Reg.CRP_WDT_CFG 31 = true → (s.chip.crp.power = .run ∨ s.chip.crp.power = .trim) → s.chip.crp.wdtFirst = true →
    Runs .wdtExpiry s fun t => t.chip.rdW Reg.CRP_RST_CAUSE = s.chip.rdW Reg.CRP_RST_CAUSE ||| 16) ∧
  (∀ (s : State) (m : Fin 10), ∀ x, s.chip.switchOf m = some x → x.forced = true → s.chip.crp.rideWaits = false →
    Runs (.forcedSwitchRelease m) s fun t => t.chip.rdW Reg.CRP_RST_CAUSE = s.chip.rdW Reg.CRP_RST_CAUSE ||| 32)

/-- R421–R424, R426. Each reset has its scope: all, or all but the retained set; the start resumes at step 3; DRAM is kept only
after a warning; the watchdog resets at a second expiry without a kick; a loss of VDD_SEAL leaves what was committed, and a
power-on reset reports the tamper sources that show. That memory then reads 0 (log 2) and the members of the
retained set beside R422's (log 63) are the model's choices. -/
def Obligations.ResetsKeepTheRetainedSet : Prop :=
  (∀ (s : State), (∀ i ∈ s.chip.grd.present, i < 11) →
    ∀ shows : (Nat → Nat → Bool), shows = (fun n i => s.chip.grd.present.contains i && i != 8 &&
      decide (n ≤ fld (regReset (Reg.GRD_TMP_CFG i)).toNat 1 0)) →
    ∀ g, g = (if s.chip.crp.power = .off then s.leg else s.leg.lost) →
    Runs .powerOnReset s fun t =>
      t.lc.state = s.lc.state ∧ t.lc.rootKilled = s.lc.rootKilled ∧
      t.lc.tripped = (s.lc.tripped || (List.range 11).any (shows 3)) ∧
      ((List.range 11).any (shows 3) = false → t.lc = s.lc) ∧
      t.leg = (if t.lc.tripped = s.lc.tripped then g else { g.observe true with notices := [] }) ∧
      (∀ i : Fin 11, t.chip.bit Reg.GRD_TMP_LATCH i = shows 1 i ∧ (shows 1 i = false → t.chip.rd (Reg.GRD_TMP_CNT i) = 0)) ∧
      ((List.range 11).any (shows 1) = false → t.chip.ember.intake = []) ∧
      t.chip.tim = .reset ∧ (∀ a, t.chip.rdb a = if a < 0x800000000000 then 0 else s.chip.rdb a) ∧
      t.chip.crp.startStep = 1 ∧ t.chip.crp.power = .run ∧ t.chip.crp.code = s.chip.crp.factory ∧ t.chip.crp.energy = List.replicate 13 0 ∧
      t.chip.ember.first = s.chip.ember.first ∧ t.chip.ember.last = s.chip.ember.last ∧
      t.chip.grd.wrapped = s.chip.grd.wrapped ∧ t.chip.grd.kindled = s.chip.grd.kindled ∧ t.chip.nand = s.chip.nand ∧
      (∀ (r : Fin 64) (n : Fin 8), t.chip.rd (Reg.AP_ACTIVE r n) = 0) ∧
      (∀ i : Fin 11, t.chip.rdW (Reg.GRD_TMP_CFG i) = regReset (Reg.GRD_TMP_CFG i))) ∧
  (∀ (s : State), s.chip.crp.power = .off ∨ s.chip.crp.coreEn = false → Runs .corePowerOn s fun t => t = s) ∧
  (∀ (s : State), s.chip.crp.power ≠ .off → s.chip.crp.coreEn = true → s.chip.crp.startStep = 1 →
    Runs .corePowerOn s fun t => t = { s with chip := { s.chip with crp := { s.chip.crp with startStep := 3 } } }) ∧
  (∀ (s : State), s.chip.crp.startStep = 2 → s.chip.crp.coreEn = true → s.chip.crp.power ≠ .off →
    Runs .corePowerOn s fun t =>
      s.chip.Retains t.chip ∧ t.lc = s.lc ∧ t.leg = s.leg ∧ t.chip.crp.energy = s.chip.crp.saved ∧ t.chip.tim = .reset ∧
      (∀ a, t.chip.rdb a = if a < 0x800000000000 then 0 else s.chip.rdb a) ∧
      t.chip.crp.startStep = 3 ∧ t.chip.crp.power = .run ∧ t.chip.crp.xaValid = false ∧ t.chip.crp.keptDram = false ∧
      (s.chip.ember.intake.length < 28 → s.Posted t 0xE02 (leBytes 8 0 ++ leBytes 1 0 ++ leBytes 5 s.leg.secs ++
        leBytes 1 (b2n s.leg.clkInvalid) ++ [0]))) ∧
  (∀ (s : State), 3 ≤ s.chip.crp.startStep → (s.chip.crp.power = .run ∨ s.chip.crp.power = .trim ∨ s.chip.crp.power = .hold) →
    Runs .rstNAssert s fun t =>
      s.chip.Restarted t.chip false ∧ t.lc = s.lc ∧ t.leg = s.leg ∧ t.chip.crp.rstLow = true ∧
      ∀ r, keptReg (s.lc.state != .blank) r = false → r ≠ Reg.CRP_STATUS → r ≠ Reg.CIU_ALARM → r ≠ Reg.GRD_STATUS → r ≠ Reg.CIU_CTRL → r ≠ Reg.CIU_STATUS →
        t.chip.rdW r = regReset r) ∧
  (∀ (s : State), s.chip.crp.startStep < 3 →
    Runs .rstNAssert s fun t => t = { s with chip := { s.chip with crp := { s.chip.crp with rstLow := true } } }) ∧
  (∀ (s : State), Runs .rstNRelease s fun t => t = { s with chip := { s.chip with crp := { s.chip.crp with rstLow := false } } }) ∧
  (∀ (s : State) (v : Word) (w : Who), w.level = .seal → v.getLsbD 0 = true →
    (s.chip.crp.power = .run ∨ s.chip.crp.power = .trim ∨ s.chip.crp.power = .hold) →
    s.chip.reaches Reg.CRP_RST_CMD = true →
    Runs (.deviceResetCmd v w) s fun t =>
      s.chip.Restarted t.chip (s.chip.bit Reg.APC_DDR_STATUS 0 || s.chip.apc.ddrSelfRefresh) ∧ t.lc = s.lc ∧ t.leg = s.leg) ∧
  (∀ (s : State) (v : Word) (w : Who), (w.level ≠ .seal ∨ v.getLsbD 0 = false) →
    s.chip.reaches Reg.CRP_RST_CMD = true →
    Runs (.deviceResetCmd v w) s fun t => s.Only t transferRegs fun c => { c with regs := t.chip.regs, ember := t.chip.ember }) ∧
  (∀ (s : State) (v : Word),
    s.chip.reaches Reg.CRP_WDT_CFG = true →
    Runs (.wdtEnable v) s fun t =>
      t.chip.fl Reg.CRP_WDT_CFG 15 0 = v.toNat % 65536 ∧ t.chip.bit Reg.CRP_WDT_CFG 31 = (v.getLsbD 31 || s.chip.bit Reg.CRP_WDT_CFG 31) ∧
      s.Only t [Reg.CRP_WDT_CFG] fun c => { c with regs := t.chip.regs }) ∧
  (∀ (s : State) (v : Word),
    s.chip.reaches Reg.CRP_WDT_KICK = true →
    Runs (.wdtKick v) s fun t =>
      t = if v.toNat % 65536 = 0xA5C3 then { s with chip := { s.chip with crp := { s.chip.crp with wdtFirst := false } } } else s) ∧
  (∀ (s : State), s.chip.bit Reg.CRP_WDT_CFG 31 = true → (s.chip.crp.power = .run ∨ s.chip.crp.power = .trim) →
    Runs .wdtExpiry s fun t =>
      if s.chip.crp.wdtFirst then
        t.chip.crp.startStep = 3 ∧ t.chip.crp.wdtFirst = false ∧ t.lc = s.lc ∧ t.leg = s.leg ∧ t.chip.tim = s.chip.tim ∧
        t.chip.crp.energy = s.chip.crp.energy ∧
        t.chip.apc.ddrSelfRefresh = (s.chip.bit Reg.APC_DDR_STATUS 0 || s.chip.apc.ddrSelfRefresh)
      else
        t.chip.bit Reg.CRP_STATUS 2 = true ∧ t.chip.bit (Reg.PIC_PEND 4) 27 = true ∧
        s.Only t [Reg.CRP_STATUS, Reg.PIC_PEND 4] fun c => { c with regs := t.chip.regs, crp := { c.crp with wdtFirst := true } }) ∧
  (∀ (s : State),
    Runs .vddSealLoss s fun t =>
      if s.chip.crp.power = .off then t = s
      else t = { s with leg := t.leg, chip := { s.chip with
          crp := { s.chip.crp with power := .off, coreEn := false }, grd := { s.chip.grd with dbg := .closed, dbgReq := none } } } ∧
        t.leg.regs = s.leg.kept ∧ t.leg.secs = s.leg.keptSecs ∧ t.leg.clkInvalid = true ∧ t.leg.down = some s.leg.keptSecs)

/-- R425, R427–R431, R484. The power states move as Table 11 says and only so: HOLD is entered and left, RIDE begins from each
cause or waits, returns or descends; the backup charge and the temperature are shown, and a move of it starts a trim. How a
RIDE cuts transmissions (log 58), DRAM's sleep in HOLD (log 60), and the descent that is not called back and CODE as written
(log 65) are the model's choices. -/
def Obligations.PowerStatesMoveAsTabled : Prop :=
  (∀ (s : State),
    s.chip.reaches Reg.CRP_PWR_CMD = true →
    Runs .holdCommand s fun t =>
      (if (s.chip.crp.power = .run ∨ s.chip.crp.power = .trim) ∧ s.chip.crp.holdEntry = false ∧ s.chip.kiln.run = none ∧ s.chip.unkindled s.lc = false then
        t.chip.crp = { s.chip.crp with holdEntry := true } ∧ t.chip.bit Reg.CRP_PWR_CMD 31 = true ∧ t.chip.fl Reg.CRP_PWR_STATUS 6 4 = 0
       else t.chip.crp = s.chip.crp ∧ t.chip.bit Reg.CRP_PWR_CMD 31 = false ∧ t.chip.fl Reg.CRP_PWR_STATUS 6 4 = 2) ∧
      s.Only t [Reg.CRP_PWR_CMD, Reg.CRP_PWR_STATUS] fun c => { c with regs := t.chip.regs, crp := t.chip.crp }) ∧
  (∀ (s : State), s.chip.crp.holdEntry = true → s.chip.clm.buf = [] →
    Runs .holdEntered s fun t =>
      t.chip.crp = { s.chip.crp with
        power := .hold, before := s.chip.crp.power, holdEntry := false, trim := t.chip.crp.trim, trimRef := t.chip.crp.trimRef } ∧
      t.chip.fl Reg.CRP_PWR_STATUS 6 4 = 1 ∧
      t.chip.bit Reg.CRP_PWR_CMD 31 = false ∧ t.chip.bit Reg.APC_DDR_STATUS 0 = false ∧
      t.chip.bit (Reg.CRP_PLL_STATUS 1) 0 = false ∧ t.chip.bit (Reg.CRP_PLL_STATUS 4) 0 = false ∧
      t.chip.apc.ddrSelfRefresh = (s.chip.apc.ddrSelfRefresh || s.chip.bit Reg.APC_DDR_STATUS 0) ∧
      s.Only t [Reg.CRP_PWR_CMD, Reg.CRP_PWR_STATUS, Reg.APC_DDR_STATUS, Reg.CRP_PLL_STATUS 1, Reg.CRP_PLL_STATUS 4] fun c => { c with
        regs := t.chip.regs, crp := t.chip.crp, apc := { c.apc with ddrSelfRefresh := t.chip.apc.ddrSelfRefresh } }) ∧
  (∀ (s : State) (w : Who),
    s.chip.reaches Reg.CRP_PWR_CMD = true →
    Runs (.runCommand w) s fun t =>
      if w.level = .seal ∧ s.chip.crp.power = .hold then
        t.chip.fl Reg.CRP_PWR_STATUS 6 4 = 1 ∧ t.lc = s.lc ∧ t.leg = s.leg ∧ t.chip.flo = s.chip.flo ∧
        (s.chip.crp.startStep = 8 → s.chip.crp.xaValid = true → s.chip.crp.before ≠ .trim → t.chip.crp.power = s.chip.crp.before) ∧
        (s.chip.crp.startStep = 8 → s.chip.crp.xaValid = false → t.chip.crp.power = .trim) ∧
        (s.chip.bit Reg.APC_DDR_CFG 31 = true → s.chip.bit Reg.APC_DDR_STATUS 3 = false → s.chip.apc.ddrSelfRefresh = true →
          t.chip.bit Reg.APC_DDR_STATUS 0 = true)
      else t.chip.crp = s.chip.crp ∧ t.chip.fl Reg.CRP_PWR_STATUS 6 4 = 2 ∧
        s.Only t [Reg.CRP_PWR_CMD, Reg.CRP_PWR_STATUS] fun c => { c with regs := t.chip.regs }) ∧
  (∀ (s : State) (e : Fin 19),
    Runs (.wakeEvent e) s fun t =>
      if s.chip.crp.power = .hold ∧ s.chip.bit Reg.CRP_WAKE_EN e = true then
        t.lc = s.lc ∧ t.leg = s.leg ∧
        (s.chip.crp.startStep = 8 → s.chip.crp.xaValid = true → s.chip.crp.before ≠ .trim → t.chip.crp.power = s.chip.crp.before) ∧
        (s.chip.crp.startStep = 8 → s.chip.crp.xaValid = false → t.chip.crp.power = .trim)
      else t = s) ∧
  (∀ (s : State) (w : Who), w.level = .seal → s.chip.kindling s.lc = false → (s.chip.crp.switches.any (·.2.forced)) = false →
    (s.chip.crp.power = .run ∨ s.chip.crp.power = .trim ∨ s.chip.crp.power = .hold) → s.chip.crp.coreEn = true →
    s.chip.reaches Reg.CRP_PWR_CMD = true →
    Runs (.rideCommand w) s fun t => s.Rides t ∧ t.chip.fl Reg.CRP_PWR_STATUS 6 4 = 1) ∧
  (∀ (s : State) (w : Who), w.level ≠ .seal ∨ s.chip.canRide = false →
    s.chip.reaches Reg.CRP_PWR_CMD = true →
    Runs (.rideCommand w) s fun t =>
      t.chip.fl Reg.CRP_PWR_STATUS 6 4 = 2 ∧ s.Only t [Reg.CRP_PWR_CMD, Reg.CRP_PWR_STATUS] fun c => { c with regs := t.chip.regs }) ∧
  (∀ (s : State), s.chip.canRide = false →
    Runs .pfailAssert s fun t => t = { s with chip := { s.chip with crp := { s.chip.crp with pfail := true } } }) ∧
  (∀ (s : State), (s.chip.crp.power = .run ∨ s.chip.crp.power = .trim ∨ s.chip.crp.power = .hold) → s.chip.crp.coreEn = true →
    Runs .pfailAssert s fun t =>
      t.chip.crp.pfail = true ∧
      (if s.chip.kindling s.lc then t = { s with chip := { s.chip with crp := { s.chip.crp with pfail := true, deferred := true } } }
       else if s.chip.crp.switches.any (·.2.forced) then t = { s with chip := { s.chip with crp := { s.chip.crp with pfail := true, rideWaits := true } } }
       else s.Rides t)) ∧
  (∀ (s : State), s.chip.canRide = false →
    Runs .vddCoreLow s fun t => t = { s with chip := { s.chip with crp := { s.chip.crp with coreLow := true } } }) ∧
  (∀ (s : State), (s.chip.crp.power = .run ∨ s.chip.crp.power = .trim ∨ s.chip.crp.power = .hold) → s.chip.crp.coreEn = true →
    Runs .vddCoreLow s fun t =>
      t.chip.crp.coreLow = true ∧
      (if s.chip.kindling s.lc then t = { s with chip := { s.chip with crp := { s.chip.crp with coreLow := true, deferred := true } } }
       else if s.chip.crp.switches.any (·.2.forced) then t = { s with chip := { s.chip with crp := { s.chip.crp with coreLow := true, rideWaits := true } } }
       else s.Rides t)) ∧
  (∀ (s : State), s.chip.crp.power = .ride → s.chip.crp.flushed = true → s.chip.crp.descent = 0 → s.chip.crp.startStep = 8 →
    Runs .pfailNegated s fun t =>
      t.chip.crp.pfail = false ∧ t.chip.crp.power = (if s.chip.crp.xaValid then .run else .trim) ∧ t.chip.crp.flushed = false ∧
      t.lc = s.lc ∧ t.leg = s.leg ∧ t.chip.rdW Reg.CIU_CTRL = s.chip.rdW Reg.CIU_CTRL ∧ t.chip.ciu = s.chip.ciu ∧
      (∀ p : Fin 5, p.val ≠ 3 → t.chip.bit (Reg.CRP_PLL_STATUS p) 0 = true) ∧
      (s.chip.bit Reg.APC_DDR_CFG 31 = true → s.chip.bit Reg.APC_DDR_STATUS 3 = false → s.chip.apc.ddrSelfRefresh = true →
          t.chip.bit Reg.APC_DDR_STATUS 0 = true)) ∧
  (∀ (s : State), s.chip.crp.power ≠ .ride ∨ s.chip.crp.flushed = false ∨ s.chip.crp.descent ≠ 0 →
    Runs .pfailNegated s fun t => t = { s with chip := { s.chip with crp := { s.chip.crp with
      pfail := false, coreLow := false, coreEn := s.chip.crp.coreEn || (s.chip.crp.startStep == 1 && !s.chip.coreOff) } } }) ∧
  (∀ (s : State) (a b : Bool),
    Runs (.rideLimit a b) s fun t =>
      t = if s.chip.crp.power = .ride ∧ s.chip.crp.descent = 0 then { s with chip := { s.chip with crp := { s.chip.crp with
          descent := (if a = true ∧ s.chip.fl Reg.CRP_RIDE_CFG 15 8 ≠ 0 then 1 else 0) +
            (if b = true ∧ s.chip.fl Reg.CRP_BKP_STATUS 22 16 < s.chip.fl Reg.CRP_RIDE_CFG 22 16 then 2 else 0) } } } else s) ∧
  (∀ (s : State),
    Runs .descentToDormant s fun t =>
      if s.chip.crp.power = .ride ∧ s.chip.crp.descent ≠ 0 ∧ s.chip.crp.flushed = true ∧ s.leg.pfail = true then
        t.chip.crp = { s.chip.energyDraw.crp with
          power := .dormant, saved := s.chip.energyDraw.crp.energy, coreEn := false, descent := 0 } ∧
        t.chip.bit Reg.GRD_STATUS 1 = false ∧
        s.Only t (Reg.GRD_STATUS :: recordRegs) fun c => { c with
          regs := t.chip.regs, ember := t.chip.ember, crp := t.chip.crp, freeCtr := s.chip.energyDraw.freeCtr
          grd := { c.grd with root := none } }
      else t = s) ∧
  (∀ (s : State),
    Runs .dormantWake s fun t =>
      t = if s.chip.crp.power = .dormant then { s with chip := { s.chip with crp := { s.chip.crp with
        power := .run, startStep := 2, coreEn := true, pfail := false, coreLow := false } } } else s) ∧
  (∀ (s : State) (v : BitVec 9), s.chip.crp.power ≠ .dormant → s.chip.crp.power ≠ .off → ∀ f, f = max 136 (s.chip.fl Reg.CRP_BKP_CFG 8 0) →
    Runs (.vbkpMeasure v) s fun t =>
      t.chip.fl Reg.CRP_BKP_STATUS 8 0 = v.toNat ∧
      t.chip.fl Reg.CRP_BKP_STATUS 22 16 = min 100 (100 * (v.toNat ^ 2 - 135 ^ 2) / (f ^ 2 - 135 ^ 2)) ∧
      s.Only t [Reg.CRP_BKP_STATUS] fun c => { c with regs := t.chip.regs }) ∧
  (∀ (s : State) (x : BitVec 12), s.chip.crp.power ≠ .dormant → s.chip.crp.power ≠ .off → 3 ≤ s.chip.crp.startStep →
    Runs (.tempSample x) s fun t =>
      t.chip.fl Reg.CRP_TEMP 11 0 = x.toNat ∧
      t.chip.bit Reg.CRP_TEMP 31 = (s.chip.bit Reg.CRP_TEMP 31 ||
        (s.chip.bit Reg.CRP_TEMP_CFG 16 && decide ((BitVec.ofNat 12 (s.chip.fl Reg.CRP_TEMP_CFG 11 0)).toInt ≤ x.toInt))) ∧
      (∀ n, n = s.chip.fl Reg.CRP_TRIM_CFG 19 16 →
        if n ≠ 0 ∧ 8 * n ≤ (x.toInt - sgn 12 s.chip.crp.trimTemp).natAbs ∧ s.chip.bit Reg.CRP_TRIM_CFG 0 = true ∧ s.chip.crp.trim = none then
          ∀ r, s.chip.refPick = r → t.chip.crp = (match r with
            | some k => { s.chip.crp with trim := some 0, trimRef := k, trimTemp := x.toNat }
            | none => s.chip.crp)
        else t.chip.crp = s.chip.crp) ∧
      s.Only t [Reg.CRP_TEMP, Reg.PIC_PEND 4] fun c => { c with regs := t.chip.regs, crp := t.chip.crp })

/-! ### 15_selftest_and_pairing.md -/

/-- R434, R436–R443. A run starts when its conditions hold and is refused with its RESULT otherwise; the clock check clears the
partitions or ends it; signatures are compared; the voltage aborts; the end resets the partitions and reports. The order of the refusals is the model's
choice (log 54). -/
def Obligations.KilnRunsAndReports : Prop :=
  (∀ (s : State) (v : Word) (w : Who), fld v.toNat 30 29 = 1 → v.getLsbD 31 = true → s.chip.kiln.run = none →
    s.chip.reaches Reg.CRP_KLN_CTRL = true →
    Runs (.kilnBoot v w) s fun t =>
      (if w.level = .seal ∧ s.chip.rd Reg.APC_CORE_RUN = 0 ∧ s.chip.bit Reg.APC_DDR_CFG 31 = false ∧ s.chip.crp.power = .run ∧
          s.chip.crp.holdEntry = false ∧ (s.chip.kilnParts.all s.chip.kilnIdle) = true ∧ s.chip.crp.xaValid = true then
        t.chip.kiln.run = some (kilnRunOf true s.chip.kilnParts 0 64) ∧ t.chip.bit Reg.CRP_KLN_STATUS 31 = true ∧ t.chip.bit Reg.CRP_KLN_CTRL 31 = true
       else t.chip.kiln = s.chip.kiln ∧ t.chip.kilnShows (s.chip.kilnJudge v.toNat w)) ∧
      s.Only t kilnRegs fun c => { c with regs := t.chip.regs, kiln := { c.kiln with run := t.chip.kiln.run } }) ∧
  (∀ (s : State) (v : Word) (w : Who), fld v.toNat 30 29 = 2 → v.getLsbD 31 = true → s.chip.kiln.run = none →
    ∀ p, p = fld v.toNat 23 20 →
    s.chip.reaches Reg.CRP_KLN_CTRL = true →
    Runs (.kilnSlice v w) s fun t =>
      (if s.chip.crp.power = .run ∧ s.chip.crp.holdEntry = false ∧ s.chip.kilnParts.contains p = true ∧ fld v.toNat 13 7 ≠ 0 ∧
          fld v.toNat 19 14 + fld v.toNat 13 7 ≤ 64 ∧ p ≠ 8 ∧ p ≠ 9 ∧ p ≠ 12 ∧ s.chip.kilnIdle p = true ∧ s.chip.crp.xaValid = true then
        t.chip.kiln.run = some (kilnRunOf false [p] (fld v.toNat 19 14) (fld v.toNat 13 7)) ∧ t.chip.bit Reg.CRP_KLN_STATUS 31 = true
       else t.chip.kiln = s.chip.kiln ∧ t.chip.kilnShows (s.chip.kilnJudge v.toNat w)) ∧
      s.Only t kilnRegs fun c => { c with regs := t.chip.regs, kiln := { c.kiln with run := t.chip.kiln.run } }) ∧
  (∀ (s : State) (n : BitVec 20) (mv : BitVec 10), ∀ r, s.chip.kiln.run = some r → r.checked = false → r.stop = none →
    (n.toNat < 396000 ∨ 404000 < n.toNat ∨ s.chip.crp.xaValid = false ∨ mv.toNat < 780 ∨ 820 < mv.toNat) →
    Runs (.kilnClockCheckEnd n mv) s fun t =>
      t.chip.kiln.run = none ∧ t.chip.kilnShows (if 780 ≤ mv.toNat ∧ mv.toNat ≤ 820 ∨ n.toNat < 396000 ∨ 404000 < n.toNat ∨ s.chip.crp.xaValid = false then 4 else 3) ∧
      s.Only t ([Reg.CRP_KLN_TCLK, Reg.CRP_KLN_VMON] ++ kilnRegs) fun c => { c with regs := t.chip.regs, kiln := { c.kiln with run := none } }) ∧
  (∀ (s : State) (n : BitVec 20) (mv : BitVec 10), ∀ r, s.chip.kiln.run = some r → r.checked = false → r.stop = none →
    396000 ≤ n.toNat → n.toNat ≤ 404000 → s.chip.crp.xaValid = true → 780 ≤ mv.toNat → mv.toNat ≤ 820 →
    s.chip.ciu.inflight = [] → s.chip.ciu.misses = [] →
    Runs (.kilnClockCheckEnd n mv) s fun t =>
      t.chip.kiln.run = some { r with checked := true } ∧ t.chip.rd Reg.CRP_KLN_TCLK = n.toNat ∧ t.chip.rd Reg.CRP_KLN_VMON = mv.toNat ∧
      t.chip.rd Reg.CRP_KLN_RUNS = satInc (s.chip.rd Reg.CRP_KLN_RUNS) ∧
      (r.parts.contains 5 = true → t.chip.flo.pods = []) ∧ (r.parts.contains 8 = true → t.chip.hcx = .reset) ∧
      (r.parts.contains 10 = true → t.chip.clm.buf = []) ∧
      (r.parts.contains 0 = true → t.chip.ring.lgl = [] ∧ t.chip.ring.cry = [] ∧ t.chip.ring.clm = []) ∧
      (∀ p ∈ r.parts, ∀ b ∈ partSides p, t.chip.crp.downs.contains b = true) ∧
      (∀ a, t.chip.rdb a =
        if (r.parts.contains 6 = true ∧ 0x50000000 ≤ a ∧ a < 0x50180000) ∨ (r.parts.contains 7 = true ∧ 0x50180000 ≤ a ∧ a < 0x50300000) ∨
           (r.parts.contains 8 = true ∧ 0x40000000 ≤ a ∧ a < 0x40400000) ∨ (r.parts.contains 12 = true ∧ 0x60000000 ≤ a ∧ a < 0x60200000)
        then 0 else s.chip.rdb a) ∧ t.lc = s.lc ∧ t.leg = s.leg) ∧
  (∀ (s : State) (p : Fin 13) (m : Word), ∀ r, s.chip.kiln.run = some r → r.checked = true → r.stop = none → r.parts.contains p.val = true →
    ∀ k, k = Tab.get (fun _ => 0) r.done p.val → k < r.count →
    Runs (.kilnSegmentEnd p m) s fun t =>
      t.chip.rdW (Reg.CRP_KLN_SIG p) = m ∧
      (if m = Config.kilnSig p (r.first + k) then
        (Tab.get (fun _ => []) t.chip.kiln.passed p.val).contains (r.first + k) = true ∧
        t.chip.kiln.run = some { r with done := Tab.put (fun _ => 0) r.done p.val (k + 1) }
       else
        (Tab.get (fun _ => []) t.chip.kiln.passed p.val).contains (r.first + k) = false ∧
        (∀ x, t.chip.kiln.run = some x → x.fail.contains p.val = true ∧
          Tab.get (fun _ => 0) x.done p.val = (if r.boot then k + 1 else r.count)) ∧
        (r.boot = false → t.chip.fl Reg.CRP_KLN_STATUS 19 14 = (r.first + k) % 64)) ∧
      s.Only t [Reg.CRP_KLN_SIG p, Reg.CRP_KLN_STATUS] fun c => { c with
        regs := t.chip.regs, kiln := { c.kiln with passed := t.chip.kiln.passed, run := t.chip.kiln.run } }) ∧
  (∀ (s : State) (mv : BitVec 10), ∀ r, s.chip.kiln.run = some r → r.checked = true →
    Runs (.kilnVddSample mv) s fun t =>
      t.chip.rd Reg.CRP_KLN_VMON = mv.toNat ∧
      t.chip.kiln.run = some { r with stop :=
        if r.stop = none ∧ (mv.toNat < 780 ∨ 820 < mv.toNat) then some 9 else r.stop } ∧
      s.Only t [Reg.CRP_KLN_VMON] fun c => { c with regs := t.chip.regs, kiln := { c.kiln with run := t.chip.kiln.run } }) ∧
  (∀ (s : State) (us : BitVec 32), ∀ r, s.chip.kiln.run = some r → (r.checked = true ∨ r.stop ≠ none) → r.over = true →
    s.chip.kiln.rstDue = [] → s.chip.kiln.gateDue = [] → s.chip.tamperLine = s.chip.lineWanted s.lc →
    ∀ res, res = r.stop.getD (if r.fail.isEmpty then 1 else 2) →
    Runs (.kilnRunEnd us) s fun t =>
      t.chip.kiln.run = none ∧ t.chip.kilnShows (res % 16) ∧ t.chip.rd Reg.CRP_KLN_DUR = us.toNat ∧
      (∀ p : Fin 13, t.chip.bit Reg.CRP_KLN_FAILMASK p = r.fail.contains p.val) ∧
      (∀ p : Fin 13, r.parts.contains p.val = true → r.stop = none → t.chip.kiln.failed.contains p.val = r.fail.contains p.val) ∧
      (r.parts.contains 4 = true → t.chip.ciu = .reset) ∧ (r.parts.contains 5 = true → r.parts.contains 6 = false →
        r.parts.contains 7 = false → t.chip.flo = { Flo.reset with cores := s.chip.flo.cores }) ∧ (r.parts.contains 10 = true → t.chip.clm = .reset) ∧
      (r.parts.contains 11 = true → t.chip.bal = { Bal.reset with out := t.chip.bal.out }) ∧
      t.chip.mem = s.chip.mem ∧ t.lc = s.lc ∧ t.leg = s.leg ∧ t.chip.tim = s.chip.tim)

/-- R444–R446, R449, R450. Heartbeats carry the health word; a bad frame is counted and dropped; a good one is a sign of life
and acknowledges; order records wait in stream order; resending, lagging and clearing follow. What RLEN counts, the ACK sent as a
heartbeat and the slots written as initiator 10 are the model's choices (log 56). -/
def Obligations.PairKeepsLockStep : Prop :=
  (∀ (s : State), s.chip.pairRuns = true →
    Runs .heartbeatSend s fun t =>
      t.chip.pair = { s.chip.pair with
        sent := s.chip.ownFrame 1 0 (leBytes 2 (s.chip.health s.lc) ++ leBytes 2 0 ++ leBytes 8 s.chip.time.toNat) :: s.chip.pair.sent } ∧
      (s.chip.health s.lc).testBit 0 = !s.chip.kiln.failed.isEmpty ∧ (s.chip.health s.lc).testBit 5 = (s.chip.crp.power == .trim) ∧
      (s.chip.health s.lc).testBit 7 = s.lc.tripped ∧ (s.chip.health s.lc).testBit 8 = s.chip.bit Reg.BKB_PAIR_STATUS 10 ∧
      t.chip.rd Reg.BKB_PAIR_TXFRM = satInc (s.chip.rd Reg.BKB_PAIR_TXFRM) ∧
      s.Only t [Reg.BKB_PAIR_TXFRM] fun c => { c with regs := t.chip.regs, pair := t.chip.pair }) ∧
  (∀ (s : State) (f : List Byte), s.chip.pairRuns = true → s.chip.pair.aligned = true → pairFrameGood f = false →
    Runs (.heartbeatFrame f) s fun t =>
      t.chip.rd Reg.BKB_PAIR_CRCERR = satInc (s.chip.rd Reg.BKB_PAIR_CRCERR) ∧
      s.Only t [Reg.BKB_PAIR_CRCERR] fun c => { c with regs := t.chip.regs }) ∧
  (∀ (s : State) (f : List Byte), s.chip.hears f → leAt f 0 1 = 1 →
    (s.chip.pairState ≠ 2 ∨ leAt f 16 2 &&& s.chip.fl Reg.BKB_PAIR_HMASK 15 0 = 0) →
    Runs (.heartbeatFrame f) s fun t =>
      t.chip.rd Reg.BKB_PAIR_PHEALTH = leAt f 16 2 ∧ t.chip.rd Reg.BKB_PAIR_RXFRM = satInc (s.chip.rd Reg.BKB_PAIR_RXFRM) ∧
      t.chip.bit Reg.BKB_PAIR_STATUS 11 = true ∧ t.chip.pair.alive = true ∧ t.chip.pair.partner = leAt f 1 1 ∧
      (s.chip.pair.acked < leAt f 8 4 → leAt f 8 4 ≤ s.chip.pair.lseq → t.chip.pair.acked = leAt f 8 4 ∧
        t.chip.pair.replay = s.chip.pair.replay.filter fun x => decide (leAt f 8 4 < x.lseq)) ∧
      t.chip.pairState = s.chip.pairState ∧
      s.Only t [Reg.BKB_PAIR_PHEALTH, Reg.BKB_PAIR_RXFRM, Reg.BKB_PAIR_STATUS] fun c => { c with regs := t.chip.regs, pair := { c.pair with
        alive := true, partner := t.chip.pair.partner, acked := t.chip.pair.acked, replay := t.chip.pair.replay } }) ∧
  (∀ (s : State) (f : List Byte), s.chip.hears f → leAt f 0 1 = 2 → s.chip.pairState = 2 → leAt f 4 4 = s.chip.pair.rxSeq + 1 →
    s.chip.pair.rxPart = [] → leAt f 2 2 = 24 → leAt f 16 2 = 24 →
    Runs (.orderFrame f) s fun t =>
      t.chip.pair.queue = s.chip.pair.queue ++ [{ AllocOp.ofBytes (slice f 24 16) with buf := 0 }] ∧
      t.chip.pair.rxSeq = s.chip.pair.rxSeq + 1 ∧ t.chip.pair.rxPart = [] ∧
      (∀ x, t.chip.pair.sent.head? = some x → x.typ = 1 ∧ x.ack = s.chip.pair.rxSeq + 1) ∧ t.chip.pair.sent.length = s.chip.pair.sent.length + 1 ∧
      s.Only t [Reg.BKB_PAIR_TXFRM, Reg.BKB_PAIR_RXFRM, Reg.BKB_PAIR_STATUS] fun c => { c with regs := t.chip.regs, pair := t.chip.pair }) ∧
  (∀ (s : State) (f : List Byte), s.chip.hears f → leAt f 0 1 = 2 → s.chip.pairState = 2 → leAt f 4 4 = s.chip.pair.rxSeq + 1 →
    s.chip.pair.rxPart = [] → leAt f 2 2 = 1048 → leAt f 16 2 = 1048 → ∀ slot, s.chip.poolFind .pair 1 = some slot →
    Runs (.orderFrame f) s fun t =>
      t.chip.pair.queue = s.chip.pair.queue ++ [{ AllocOp.ofBytes (slice f 24 16) with buf := BitVec.ofNat 11 slot }] ∧
      t.chip.pair.rxSeq = s.chip.pair.rxSeq + 1 ∧
      ((s.chip.judge 10 false true (slotAddr slot) 1024).done = true → t.chip.rdMem (slotAddr slot) 1024 = slice f 40 1024) ∧
      ((s.chip.judge 10 false true (slotAddr slot) 1024).done = false → t.chip.mem = s.chip.mem) ∧
      ∀ x, (x < slotAddr slot ∨ slotAddr slot + 1024 ≤ x) → t.chip.rdb x = s.chip.rdb x) ∧
  (∀ (s : State) (f : List Byte), s.chip.hears f → leAt f 0 1 = 4 → s.chip.pairState = 2 →
    Runs (.dropFrame f) s fun t =>
      t.chip.bit Reg.BKB_PAIR_STATUS 10 = true ∧ t.chip.pairState = 2 ∧
      s.Only t [Reg.BKB_PAIR_RXFRM, Reg.BKB_PAIR_STATUS] fun c => { c with regs := t.chip.regs, pair := t.chip.pair }) ∧
  (∀ (s : State) (f : List Byte), s.chip.pairRuns = true →
    Runs (.pairLinkUp f) s fun t =>
      t.chip.pair.aligned = true ∧ t.lc = s.lc ∧ t.leg = s.leg ∧
      (pairFrameGood f = true → t.chip.pair.alive = true ∧ t.chip.pair.partner = leAt f 1 1 ∧ t.chip.bit Reg.BKB_PAIR_STATUS 11 = true ∧
        t.chip.rd Reg.BKB_PAIR_RXFRM = satInc (s.chip.rd Reg.BKB_PAIR_RXFRM)) ∧
      (pairFrameGood f = false → t.chip.rd Reg.BKB_PAIR_CRCERR = satInc (s.chip.rd Reg.BKB_PAIR_CRCERR) ∧
        s.Only t [Reg.BKB_PAIR_CRCERR] fun c => { c with regs := t.chip.regs, pair := { c.pair with aligned := true } })) ∧
  (∀ (s : State),
    Runs .pairAlignmentLoss s fun t =>
      t.chip.bit Reg.BKB_PAIR_STATUS 11 = false ∧
      s.Only t [Reg.BKB_PAIR_STATUS] fun c => { c with regs := t.chip.regs, pair := { c.pair with aligned := false } }) ∧
  (∀ (s : State), s.chip.pairRuns = true → s.chip.pairState = 1 →
    Runs .orderResend s fun t =>
      t.chip.pair = { s.chip.pair with
        sent := (s.chip.pair.replay.map fun x => s.chip.ownFrame 2 x.lseq x.payload).reverse ++ s.chip.pair.sent } ∧
      s.Only t [Reg.BKB_PAIR_TXFRM, Reg.BKB_PAIR_RETX] fun c => { c with regs := t.chip.regs, pair := t.chip.pair }) ∧
  (∀ (s : State), s.chip.pairRuns = true → s.chip.pairState = 1 → s.chip.pair.streaming = true → s.chip.pair.replay ≠ [] →
    Runs .replayLagExpiry s fun t =>
      t.chip.pair = { s.chip.pair with streaming := false, replay := [], sent := s.chip.ownFrame 4 0 [] :: s.chip.pair.sent } ∧
      s.Only t [Reg.BKB_PAIR_TXFRM] fun c => { c with regs := t.chip.regs, pair := t.chip.pair }) ∧
  (∀ (s : State),
    s.chip.reaches Reg.BKB_PAIR_CMD = true →
    Runs .clearOos s fun t =>
      t.chip.bit Reg.BKB_PAIR_STATUS 10 = false ∧
      s.Only t [Reg.BKB_PAIR_STATUS] fun c => { c with regs := t.chip.regs, pair := { c.pair with
        streaming := true, lseq := 0, acked := 0, replay := [], rxSeq := 0, rxPart := [] } })

/-- R449, R451–R454, R456, R457. A standby takes over on an enabled trigger or a command, a primary side demotes itself, a primary
without its link is isolated, then muted, then alone; configuring enters the state of the role. That TAKEOVER obeys the rule on
OUT_OF_STEP and that configuring drops the saved outputs are the model's choices (log 57). -/
def Obligations.PairFailsOver : Prop :=
  (∀ (s : State) (f : List Byte), s.chip.hears f → leAt f 0 1 = 1 → s.chip.pairState = 2 → s.chip.bit Reg.BKB_PAIR_CFG 25 = true →
    leAt f 16 2 &&& s.chip.fl Reg.BKB_PAIR_HMASK 15 0 ≠ 0 →
    (s.chip.bit Reg.BKB_PAIR_STATUS 10 = false ∨ s.chip.bit Reg.BKB_PAIR_CFG 27 = true) →
    Runs (.heartbeatFrame f) s fun t => s.TookOver t 6 true) ∧
  (∀ (s : State), s.chip.pairRuns = true →
    Runs .pairLinkLost s fun t =>
      t.chip.pair.alive = false ∧ t.chip.bit Reg.BKB_PAIR_STATUS 11 = false ∧
      (s.chip.pairState = 1 → t.chip.pairState = 4 ∧ t.chip.bit Reg.BKB_PAIR_STATUS 9 = true) ∧
      (s.chip.pairState = 2 → s.chip.bit Reg.BKB_PAIR_CFG 23 = true →
        (s.chip.bit Reg.BKB_PAIR_STATUS 10 = false ∨ s.chip.bit Reg.BKB_PAIR_CFG 27 = true) → s.TookOver t 4 false) ∧
      (s.chip.pairState ≠ 1 → s.chip.pairState ≠ 2 → t.chip.pairState = s.chip.pairState)) ∧
  (∀ (s : State), s.chip.pairState = 2 → (s.chip.bit Reg.BKB_PAIR_STATUS 10 = false ∨ s.chip.bit Reg.BKB_PAIR_CFG 27 = true) →
    s.chip.reaches Reg.BKB_PAIR_CMD = true →
    Runs .pairCmdTakeover s fun t => s.TookOver t 7 s.chip.pairUp) ∧
  (∀ (s : State), s.chip.pairState ≠ 2 → s.chip.reaches Reg.BKB_PAIR_CMD = true → Runs .pairCmdTakeover s fun t => t = s) ∧
  (∀ (s : State) (f : List Byte), s.chip.pairRuns = true → s.chip.pair.aligned = true → pairFrameGood f = true → leAt f 0 1 = 3 →
    s.chip.primarySide = true →
    Runs (.takeoverFrame f) s fun t =>
      t.chip.pairState = 7 ∧ t.chip.bit Reg.BKB_PAIR_STATUS 9 = false ∧ (s.chip.pairState ≠ 5 → t.chip.isMuted) ∧ t.lc = s.lc ∧ t.leg = s.leg) ∧
  (∀ (s : State), s.chip.primarySide = true →
    s.chip.reaches Reg.BKB_PAIR_CMD = true →
    Runs .pairCmdDemote s fun t => t.chip.pairState = 7 ∧ (s.chip.pairState ≠ 5 → t.chip.isMuted) ∧ t.lc = s.lc ∧ t.leg = s.leg) ∧
  (∀ (s : State), s.chip.primarySide = false → s.chip.reaches Reg.BKB_PAIR_CMD = true → Runs .pairCmdDemote s fun t => t = s) ∧
  (∀ (s : State), s.chip.pairState ≠ 4 ∨ s.chip.pairUp = true → Runs .muteDelayExpiry s fun t => t = s) ∧
  (∀ (s : State), s.chip.pairState = 4 → s.chip.pairUp = false →
    Runs .muteDelayExpiry s fun t =>
      t.chip.pairState = 5 ∧ t.chip.isMuted ∧ t.chip.bit Reg.BKB_PAIR_STATUS 9 = true ∧
      ∀ x, t.chip.pair.saved = some x → x.lineHalt = s.chip.bit Reg.LMA_CTRL 1 ∧ x.lineRole = s.chip.fl Reg.LMA_NET_CTRL 1 0) ∧
  (∀ (s : State), s.chip.pairState = 5 → ∀ x, s.chip.pair.saved = some x → x.lineRole < 4 →
    Runs .reclaimExpiry s fun t =>
      t.chip.pairState = 6 ∧ t.chip.bit Reg.LMA_CTRL 1 = x.lineHalt ∧ t.chip.fl Reg.LMA_NET_CTRL 1 0 = x.lineRole ∧ t.chip.pair.saved = none ∧
      t.lc = s.lc ∧ t.leg = s.leg) ∧
  (∀ (s : State) (v : Word),
    s.chip.reaches Reg.BKB_PAIR_CFG = true →
    Runs (.pairCfgWrite v) s fun t =>
      ∀ old, old = s.chip.rd Reg.BKB_PAIR_CFG → ∀ role, role = (if bitOf old 31 then fld old 30 29 else fld v.toNat 30 29) →
      t.chip.pairState = (if v.getLsbD 31 then (if role = 1 then 1 else if role = 2 then 2 else 0) else 0) ∧
      t.chip.fl Reg.BKB_PAIR_CFG 30 29 = role ∧ t.chip.bit Reg.BKB_PAIR_CFG 31 = v.getLsbD 31 ∧
      t.chip.fl Reg.BKB_PAIR_CFG 28 12 = fld v.toNat 28 12 ∧
      s.Only t ([Reg.BKB_PAIR_CFG, Reg.BKB_PAIR_STATUS, Reg.BKB_STATUS] ++ recordRegs) fun c => { c with
        regs := t.chip.regs, ember := t.chip.ember, pair := { c.pair with saved := none } })

/-! ### 16_ember_log.md -/

/-- R460–R466, R469. The next record takes SEQ and is written whole to the last area, over the oldest, after a pad where it
would run past the end, and to the first area as R463 says; a trigger's snapshot takes its slot; drops are reported; a time
mark carries its 16 bytes; software stages and writes a record under its level. Where a payload's fields stand and a report of
drops that waits are the model's choices (log 85). -/
def Obligations.EmberRecordsAreWritten : Prop :=
  (∀ (s : State), ∀ r rest, s.chip.ember.intake = r :: rest → s.chip.ember.snapDue = [] → s.chip.crp.power ≠ .off →
    r.payload.length ≤ 4080 →
    s.chip.ember.head % 16 = 0 → lastStart ≤ s.chip.ember.head → s.chip.ember.head < lastEnd →
    ∀ w, w = { r with seq := s.chip.ember.seq } →
    ∀ p, p = (if s.chip.ember.head + r.size ≤ lastEnd then s.chip.ember.head else lastStart) →
    Runs .emberRecordCommit s fun t =>
      t.chip.ember.seq = s.chip.ember.seq + 1 ∧ t.chip.ember.intake = rest ∧
      t.chip.ember.snapDue = (if r.snap then [w] else []) ∧
      (p, w) ∈ t.chip.ember.last ∧ t.chip.ember.head = (if p + r.size = lastEnd then lastStart else p + r.size) ∧
      (p = lastStart → s.chip.ember.head ≠ lastStart →
        (s.chip.ember.head, { w with
          typ := 0xE00, flags := 0, seq := 0xFFFFFFFF, snap := false, payload := List.replicate (lastEnd - s.chip.ember.head - 16) 0 }) ∈ t.chip.ember.last) ∧
      (p ≠ lastStart ∨ s.chip.ember.head = lastStart → ∀ x ∈ s.chip.ember.last,
        if recordApart x p r.size then x ∈ t.chip.ember.last else x ∉ t.chip.ember.last ∨ x = (p, w)) ∧
      (if !s.chip.ember.firstFull && (s.lc.state == .blank || s.lc.state == .personalised || r.flags.getLsbD 0) then
         if s.chip.ember.firstUsed + r.size ≤ 0x20000 then
           t.chip.ember.first = s.chip.ember.first ++ [(s.chip.ember.firstUsed, w)] ∧
           t.chip.ember.firstUsed = s.chip.ember.firstUsed + r.size ∧ t.chip.ember.firstFull = false
         else t.chip.ember.first = s.chip.ember.first ∧ t.chip.ember.firstFull = true
       else t.chip.ember.first = s.chip.ember.first ∧ t.chip.ember.firstFull = s.chip.ember.firstFull) ∧
      s.Only t [Reg.GRD_EMB_RSTAT] fun c => { c with regs := t.chip.regs, ember := { c.ember with
        intake := rest, seq := t.chip.ember.seq, snapDue := t.chip.ember.snapDue, last := t.chip.ember.last, head := t.chip.ember.head,
        first := t.chip.ember.first, firstUsed := t.chip.ember.firstUsed, firstFull := t.chip.ember.firstFull } }) ∧
  (∀ (s : State), s.chip.ember.snapDue ≠ [] ∨ s.chip.ember.intake = [] ∨ s.chip.crp.power = .off → Runs .emberRecordCommit s fun t => t = s) ∧
  (∀ (s : State), ∀ r rest, s.chip.ember.snapDue = r :: rest → s.chip.crp.power ≠ .off → (∀ x ∈ s.chip.ember.snaps, x.1 < 8) →
    ∀ k, k = s.chip.ember.nextSlot →
    Runs .emberSnapshot s fun t =>
      t.chip.ember.snapDue = rest ∧ t.chip.ember.snapCnt = s.chip.ember.snapCnt + 1 ∧
      (s.chip.ember.snapCnt < 4 → k = s.chip.ember.snapCnt) ∧
      (4 ≤ s.chip.ember.snapCnt → 4 ≤ k ∧ k < 8 ∧
        ((List.range 8).all (fun j => decide (j < 4) || s.chip.ember.snaps.any (·.1 == j)) = true →
          ∃ y ∈ s.chip.ember.snaps, y.1 = k ∧ ∀ x ∈ s.chip.ember.snaps, 4 ≤ x.1 → y.2.num ≤ x.2.num)) ∧
      (∀ x ∈ s.chip.ember.snaps, x.1 ≠ k → x ∈ t.chip.ember.snaps) ∧ t.chip.ember.snaps.any (·.1 == k) = true ∧
      (∀ x ∈ t.chip.ember.snaps, x.1 = k →
        x.2.seq = r.seq ∧ x.2.opsec = r.opsec ∧ x.2.pcyc = r.pcyc ∧ x.2.sub = r.sub ∧ x.2.used = x.2.body.length ∧
        x.2.body.length ≤ 2032 ∧
        (2032 < r.size → x.2.count = 1 ∧
          x.2.body = ({ r with payload := r.payload.take 2016, flags := r.flags ||| 8 } : EmbRec).bytes) ∧
        (r.size ≤ 2032 → x.2.count ≤ s.chip.ember.held.length ∧
          x.2.body = (s.chip.ember.held.drop (s.chip.ember.held.length - x.2.count)).flatMap (fun y => y.2.bytes) ∧
          (∀ y, s.chip.ember.held.reverse[x.2.count]? = some y → 2032 < x.2.body.length + y.2.size))) ∧
      t = { s with chip := { s.chip with ember := { s.chip.ember with
        snapDue := rest, snapCnt := t.chip.ember.snapCnt, snaps := t.chip.ember.snaps } } }) ∧
  (∀ (s : State),
    Runs .emberDropReport s fun t =>
      (s.chip.ember.dropsDue = none ∨ s.chip.crp.power = .off ∨ 28 ≤ s.chip.ember.intake.length → t = s) ∧
      (∀ d, s.chip.ember.dropsDue = some d → s.chip.crp.power ≠ .off → s.chip.ember.intake.length < 28 →
        s.Posted t 0xE01 (leBytes 4 d.1 ++ leBytes 2 d.2) ∧
        t = { s with chip := { s.chip with ember := { s.chip.ember with dropsDue := none, intake := t.chip.ember.intake } } })) ∧
  (∀ (s : State), s.chip.crp.power ≠ .off → s.chip.ember.intake.length < 28 →
    Runs .timeMark s fun t =>
      (∀ net, net = (if domainRuns s.chip.crp.power 10 then s.chip.time.toNat else 0) →
        s.Posted t 0xE02 (leBytes 8 net ++ leBytes 1 (s.chip.fl Reg.BKB_TIM_CTRL 1 0) ++ leBytes 5 s.leg.secs ++
          leBytes 1 (b2n s.leg.clkInvalid) ++ [0])) ∧
      t = { s with chip := { s.chip with ember := { s.chip.ember with intake := t.chip.ember.intake } } }) ∧
  (∀ (s : State),
    Runs .emberTimeCommit s fun t =>
      t = if s.chip.crp.power = .off then s else { s with chip := { s.chip with ember := { s.chip.ember with
        savedOpsec := s.chip.ember.opsec, savedSub := s.chip.ember.sub } } }) ∧
  (∀ (s : State) (off : BitVec 12) (v : Word) (w : Who),
    s.chip.reaches (Reg.GRD_EMB_STAGE (off.toNat / 4)) = true →
    Runs (.emberStagingWrite off v w) s fun t =>
      (w.level = .host → t = s) ∧
      (w.level ≠ .host → s.chip.ember.stageOwner ≠ none → s.chip.ember.stageOwner ≠ some w.level →
        t.chip.bit Reg.GRD_EMB_STATUS 2 = true ∧
        s.Only t [Reg.GRD_EMB_STATUS, Reg.PIC_PEND 4] fun c => { c with regs := t.chip.regs }) ∧
      (w.level ≠ .host → s.chip.ember.stageOwner = none ∨ s.chip.ember.stageOwner = some w.level →
        t.chip.ember.stageOwner = some w.level ∧
        (∀ i : BitVec 10, Tab.get (fun _ => 0) t.chip.ember.stage i.toNat =
          if i.toNat = off.toNat / 4 then v else Tab.get (fun _ => 0) s.chip.ember.stage i.toNat) ∧
        t = { s with chip := { s.chip with ember := { s.chip.ember with
          stage := t.chip.ember.stage, stageOwner := some w.level } } })) ∧
  (∀ (s : State) (v : Word) (w : Who), w.level ≠ .host → bitOf v.toNat 31 = true →
    s.chip.ember.stageOwner = none ∨ s.chip.ember.stageOwner = some w.level →
    ∀ typ, typ = fld v.toNat 11 0 → ∀ n, n = fld v.toNat 23 12 →
    s.chip.reaches Reg.GRD_EMB_WCMD = true →
    Runs (.emberSoftwareWrite v w) s fun t =>
      t.chip.fl Reg.GRD_EMB_WSTAT 1 0 =
        (if 4080 < n ∨ (w.level = Level.seal ∧ ¬(0xC00 ≤ typ ∧ typ ≤ 0xCFF)) ∨
            (w.level = Level.platform ∧ (¬(0xD00 ≤ typ ∧ typ ≤ 0xDFF) ∨ bitOf v.toNat 24 = true)) then 2
         else if s.chip.emberRoom typ false then 1 else 3) ∧
      t.chip.ember.stageOwner = none ∧ t.chip.bit Reg.GRD_EMB_WCMD 31 = false ∧
      (t.chip.fl Reg.GRD_EMB_WSTAT 1 0 = 1 → s.Posted t typ (s.chip.staged n)) ∧
      (t.chip.fl Reg.GRD_EMB_WSTAT 1 0 ≠ 1 → t.chip.ember.intake = s.chip.ember.intake) ∧
      s.Only t (recordRegs ++ [Reg.GRD_EMB_WCMD, Reg.GRD_EMB_WSTAT]) fun c => { c with regs := t.chip.regs, ember := t.chip.ember })

/-- R467, R468. OLDEST, NEWEST, NEXT and FIND move within the last area and load what they reach, or end with their RESULT;
a cursor write loads the record or the slot there; CLEAR_LAST empties the last area from the Seal level in BLANK or RETIRED,
and else changes nothing. NEXT at a cursor that has loaded nothing, pads passed over, an empty slot read as zeros and the RESULT
of CLEAR_LAST are the model's choices (log 85). -/
def Obligations.EmberIsReadAndCleared : Prop :=
  (∀ (s : State), s.chip.reaches Reg.GRD_EMB_CMD = true → Runs .oldest s fun t =>
    (s.chip.ember.held = [] → s.Ended t 4) ∧
    (∀ x, s.chip.ember.held.head? = some x → s.chip.ember.places x = true → s.Loaded t x.1 x.2.bytes false) ∧
    s.OnlyRead t) ∧
  (∀ (s : State), s.chip.reaches Reg.GRD_EMB_CMD = true → Runs .newest s fun t =>
    (s.chip.ember.held = [] → s.Ended t 4) ∧
    (∀ x, s.chip.ember.held.getLast? = some x → s.chip.ember.places x = true → s.Loaded t x.1 x.2.bytes false) ∧
    s.OnlyRead t) ∧
  (∀ (s : State), s.chip.reaches Reg.GRD_EMB_CMD = true → Runs .find s fun t =>
    ((∀ x ∈ s.chip.ember.held, x.2.seq ≠ s.chip.rdW Reg.GRD_EMB_FSEQ) → s.Ended t 3) ∧
    (∀ x, s.chip.ember.held.find? (fun y => y.2.seq == s.chip.rdW Reg.GRD_EMB_FSEQ) = some x → s.chip.ember.places x = true →
      s.Loaded t x.1 x.2.bytes false) ∧
    s.OnlyRead t) ∧
  (∀ (s : State), ∀ p, p = s.chip.fl Reg.GRD_EMB_CURSOR 19 4 * 16 → s.chip.reaches Reg.GRD_EMB_CMD = true → Runs .next s fun t =>
    (s.chip.ember.held = [] → s.Ended t 4) ∧
    (s.chip.ember.loadedAt = some p → s.chip.bit Reg.GRD_EMB_RSTAT 3 = true → ∀ x, s.chip.ember.held.head? = some x →
      s.chip.ember.places x = true → s.Loaded t x.1 x.2.bytes true) ∧
    (s.chip.ember.held ≠ [] → ¬(s.chip.ember.loadedAt = some p ∧ s.chip.bit Reg.GRD_EMB_RSTAT 3 = true) →
      (s.chip.ember.last.all (fun y => y.1 != p) = true → s.Ended t 2) ∧
      (∀ i, findIdx (fun y : Nat × EmbRec => y.1 == p) s.chip.ember.last = some i →
        (s.chip.ember.last.drop (i + 1)).all (fun y => y.2.isPad) = true → s.Ended t 4) ∧
      (∀ i, findIdx (fun y : Nat × EmbRec => y.1 == p) s.chip.ember.last = some i →
        ∀ x, (s.chip.ember.last.drop (i + 1)).find? (fun y => !y.2.isPad) = some x → s.chip.ember.places x = true →
        s.Loaded t x.1 x.2.bytes false)) ∧
    s.OnlyRead t) ∧
  (∀ (s : State) (v : Word), ∀ p, p = fld v.toNat 19 4 * 16 → s.chip.reaches Reg.GRD_EMB_CURSOR = true → Runs (.cursorWrite v) s fun t =>
    t.chip.fl Reg.GRD_EMB_CURSOR 19 4 * 16 = p ∧
    (p < 0x20000 → (∀ x ∈ s.chip.ember.first, x.1 ≠ p) → t.chip.fl Reg.GRD_EMB_RSTAT 2 0 = 2 ∧ t.chip.ember = s.chip.ember) ∧
    (p < 0x20000 → ∀ x, s.chip.ember.first.find? (fun y => y.1 == p) = some x → s.Loaded t p x.2.bytes false) ∧
    (0x20000 ≤ p → p < 0xFC000 → (∀ x ∈ s.chip.ember.last, x.1 ≠ p) →
      t.chip.fl Reg.GRD_EMB_RSTAT 2 0 = 2 ∧ t.chip.ember = s.chip.ember) ∧
    (∀ x, s.chip.ember.last.find? (fun y => y.1 == p) = some x → s.chip.ember.places x = true → s.Loaded t p x.2.bytes false) ∧
    (0xFC000 ≤ p → p % 0x800 = 0 → ∀ x, s.chip.ember.snaps.find? (fun y => y.1 == (p - 0xFC000) / 0x800) = some x →
      s.Loaded t p x.2.bytes false) ∧
    s.OnlyRead t) ∧
  (∀ (s : State) (w : Who), s.chip.reaches Reg.GRD_EMB_CMD = true → Runs (.clearLast w) s fun t =>
    if w.level = .seal ∧ (s.lc.state = .blank ∨ s.lc.state = .retired) then
      t.chip.ember = { s.chip.ember with last := [] } ∧
      s.Only t [Reg.GRD_EMB_CMD, Reg.GRD_EMB_RSTAT] fun c => { c with regs := t.chip.regs, ember := t.chip.ember }
    else
      t.chip.fl Reg.GRD_EMB_RSTAT 2 0 = 5 ∧ s.Only t [Reg.GRD_EMB_CMD, Reg.GRD_EMB_RSTAT] fun c => { c with regs := t.chip.regs })

/-! ### Every command -/

/-- With a command at the front of the queue a step is that command, run with the rest of the queue; with none waiting 1/256 s
of every clock that runs passes (the model's choice, log entry 61). -/
def Obligations.StepTakesTheFrontCommand : Prop :=
  (∀ (c : Instr) (rest : List Instr) (s : State), step { s with pending := c :: rest } = exec c { s with pending := rest }) ∧
  (∀ (s : State), s.pending = [] →
    ∃ t, step s = .next t ∧ t.pending = [] ∧ t.lc = s.lc ∧ t.chip.mem = s.chip.mem ∧
      t.leg = { s.leg with frac := t.leg.frac } ∧ (s.chip.crp.power = .off → t = s) ∧
      (s.chip.crp.power ≠ .off → t.chip.ember.sub = s.chip.ember.sub + 1 ∧
        t.chip.ember.opsec = s.chip.ember.opsec + (if s.chip.ember.sub = 255 then 1 else 0)))

/-- R362, R363, R421, R423, R458, R460. After a power-on reset of a delivered part the queue is empty, the life cycle is sound, in
BLANK and neither tripped nor killed; memory and register file are in their canonical form; every register reads the reset value
of its table; the Ember log is empty with SEQ 0 and PCYC 1; POR is the one cause of reset. A register without a reset value in
its table (log 3) and what a delivered part holds (log 4) are the model's choices. -/
def Obligations.ResetIsSound : Prop :=
  State.reset.Inv ∧ State.reset.chip.Tidy ∧ State.reset.pending = [] ∧
  State.reset.lc.state = .blank ∧ State.reset.lc.tripped = false ∧ State.reset.lc.rootKilled = false ∧
  (∀ key row, regRow? key = some row → State.reset.chip.rdW key = BitVec.ofNat 32 row.reset) ∧
  State.reset.chip.ember.last = [] ∧ State.reset.chip.ember.first = [] ∧ State.reset.chip.ember.snaps = [] ∧
  State.reset.chip.ember.seq = 0 ∧ State.reset.chip.ember.pcyc = 1 ∧ State.reset.chip.rd Reg.GRD_EMB_CURSOR = 0x20000 ∧
  State.reset.chip.rd Reg.CRP_RST_CAUSE = 1

/-- R362, R363. From every state in which the four copies agree with the life cycle in force, every step answers a next state in which
they do; the life cycle has not moved back, ROOT_KILLED is never cleared, and TRIPPED is not while ROOT_KILLED stands. -/
def Obligations.EveryStepIsSafe : Prop := ∀ s : State, s.Inv → s.SafeStep

/-- R29, R362, R378. No command changes the queue; the legal partition, by commands that may trip among others, and the life cycle are
reached by the commands named for them alone;
the state moves by Table 1 of 12_guard.md alone; a write from below the Seal level leaves the legal partition as it was; a read
of a register clears no more of it than the counters that reading clears. -/
def Obligations.BoundariesHold : Prop :=
  (∀ (i : Instr) (s t : State), exec i s = .next t → t.pending = s.pending) ∧
  (∀ (i : Instr) (s t : State), exec i s = .next t → i.reachesLegal = false → t.leg = s.leg) ∧
  (∀ (i : Instr) (s t : State), exec i s = .next t → i.reachesLifeCycle = false → t.lc = s.lc) ∧
  (∀ (i : Instr) (s t : State), s.Inv → exec i s = .next t → i.isBusAccess = false →
    t.lc.state = s.lc.state ∨ t.lc.state = .retired ∨ (s.lc.state = .blank ∧ t.lc.state = .personalised) ∨
      (s.lc.state = .personalised ∧ t.lc.state = .sealed)) ∧
  (∀ (s : State) (off : BitVec 24) (v : Word) (w : Who), w.level ≠ .seal →
    Runs (.registerWrite (.config off) v w) s fun t => t.leg = s.leg) ∧
  (∀ (s : State) (a : BitVec 48) (n : BitVec 8) (d : List Byte) (w : Who) (e : Ecc), s.chip.levelOf w ≠ some .seal →
    Runs (.busAccess true a n d w e) s fun t => t.leg = s.leg) ∧
  (∀ (s : State) (r : RegTarget),
    Runs (.counterRead r) s fun t => t.lc = s.lc ∧ t.leg = { s.leg with
      adjSmall := t.leg.adjSmall, copyDrop := t.leg.copyDrop, logLost := t.leg.logLost, ovlCnt := t.leg.ovlCnt,
      sweepMax := t.leg.sweepMax })
end

