-- ==== Sys2Proof/Laws/Bits.lean ====
section
/-!
SUPPORT. Laws of bit fields: what a field reads after a write of it and of another.
-/
namespace Sys2Proof.Machine

theorem bitOf_eq_testBit (w b : Nat) : bitOf w b = w.testBit b := by
  rw [Nat.testBit_eq_decide_div_mod_eq, bitOf]
  by_cases h : w / 2 ^ b % 2 = 1 <;> simp [h]

theorem fld_testBit (w hi lo i : Nat) : (fld w hi lo).testBit i = (decide (i < hi + 1 - lo) && w.testBit (lo + i)) := by
  simp [fld, Nat.testBit_mod_two_pow, Nat.testBit_div_two_pow, Nat.add_comm]

theorem putFld_testBit (w hi lo v i : Nat) (h : lo ≤ hi + 1) :
    (putFld w hi lo v).testBit i =
      if i < lo then w.testBit i else if i < hi + 1 then v.testBit (i - lo) else w.testBit i := by
  have hn : hi + 1 - lo + lo = hi + 1 := by omega
  have e : putFld w hi lo v =
      2 ^ (hi + 1) * (w / 2 ^ (hi + 1)) + (2 ^ lo * (v % 2 ^ (hi + 1 - lo)) + w % 2 ^ lo) := by
    simp [putFld, Nat.mul_comm, Nat.add_assoc]
  have hb : 2 ^ lo * (v % 2 ^ (hi + 1 - lo)) + w % 2 ^ lo < 2 ^ (hi + 1) := by
    have h1 : v % 2 ^ (hi + 1 - lo) < 2 ^ (hi + 1 - lo) := Nat.mod_lt _ (Nat.two_pow_pos _)
    have h2 : w % 2 ^ lo < 2 ^ lo := Nat.mod_lt _ (Nat.two_pow_pos _)
    have h3 : 2 ^ (hi + 1) = 2 ^ lo * 2 ^ (hi + 1 - lo) := by rw [← Nat.pow_add]; congr 1; omega
    calc 2 ^ lo * (v % 2 ^ (hi + 1 - lo)) + w % 2 ^ lo < 2 ^ lo * (v % 2 ^ (hi + 1 - lo)) + 2 ^ lo := by omega
      _ = 2 ^ lo * (v % 2 ^ (hi + 1 - lo) + 1) := by rw [Nat.mul_add, Nat.mul_one]
      _ ≤ 2 ^ lo * 2 ^ (hi + 1 - lo) := Nat.mul_le_mul_left _ h1
      _ = 2 ^ (hi + 1) := h3.symm
  rw [e, Nat.testBit_two_pow_mul_add _ hb, Nat.testBit_two_pow_mul_add _ (Nat.mod_lt _ (Nat.two_pow_pos _))]
  simp only [Nat.testBit_mod_two_pow, Nat.testBit_div_two_pow]
  by_cases h1 : i < lo
  · have : i < hi + 1 := by omega
    simp [h1, this]
  · by_cases h2 : i < hi + 1
    · have : i - lo < hi + 1 - lo := by omega
      simp [h1, h2, this]
    · have : hi + 1 ≤ i := by omega
      simp [h1, h2, Nat.sub_add_cancel this]

theorem bitOf_mod (w b n : Nat) (h : b < n) : bitOf (w % 2 ^ n) b = bitOf w b := by
  simp [bitOf_eq_testBit, Nat.testBit_mod_two_pow, h]

theorem fld_mod (w hi lo n : Nat) (h : hi < n) : fld (w % 2 ^ n) hi lo = fld w hi lo := by
  apply Nat.eq_of_testBit_eq
  intro i
  simp only [fld_testBit, Nat.testBit_mod_two_pow]
  by_cases h1 : i < hi + 1 - lo
  · have : lo + i < n := by omega
    simp [h1, this]
  · simp [h1]

/-- A bit reads what was put there. -/
@[simp] theorem bitOf_putBit_same (w b : Nat) (on : Bool) : bitOf (putBit w b on) b = on := by
  rw [bitOf_eq_testBit, putBit, putFld_testBit _ _ _ _ _ (by omega)]
  cases on <;> simp

/-- A write of one bit leaves the others. -/
theorem bitOf_putBit_other (w : Nat) {b b' : Nat} (on : Bool) (h : b' ≠ b) : bitOf (putBit w b on) b' = bitOf w b' := by
  rw [bitOf_eq_testBit, putBit, putFld_testBit _ _ _ _ _ (by omega), bitOf_eq_testBit]
  by_cases h1 : b' < b
  · simp [h1]
  · have : ¬ b' < b + 1 := by omega
    simp [h1, this]

/-- A field reads what was put there. -/
theorem fld_putFld_same (w hi lo v : Nat) (h : lo ≤ hi) : fld (putFld w hi lo v) hi lo = v % 2 ^ (hi + 1 - lo) := by
  apply Nat.eq_of_testBit_eq
  intro i
  rw [fld_testBit, putFld_testBit _ _ _ _ _ (by omega), Nat.testBit_mod_two_pow]
  by_cases h1 : i < hi + 1 - lo
  · have h2 : ¬ lo + i < lo := by omega
    have h3 : lo + i < hi + 1 := by omega
    simp [h1, h3, h2]
  · simp [h1]

/-- A write of one field leaves a field that lies apart from it. -/
theorem fld_putFld_other (w hi lo v hi' lo' : Nat) (h : lo ≤ hi + 1) (a : hi' < lo ∨ hi < lo') :
    fld (putFld w hi lo v) hi' lo' = fld w hi' lo' := by
  apply Nat.eq_of_testBit_eq
  intro i
  rw [fld_testBit, fld_testBit, putFld_testBit _ _ _ _ _ h]
  by_cases h1 : i < hi' + 1 - lo'
  · rcases a with a | a
    · have : lo' + i < lo := by omega
      simp [this]
    · have h2 : ¬ lo' + i < lo := by omega
      have h3 : ¬ lo' + i < hi + 1 := by omega
      simp [h2, h3]
  · simp [h1]

/-- A write of a field leaves a bit outside it. -/
theorem bitOf_putFld_other (w hi lo v b : Nat) (h : lo ≤ hi + 1) (a : b < lo ∨ hi < b) :
    bitOf (putFld w hi lo v) b = bitOf w b := by
  rw [bitOf_eq_testBit, putFld_testBit _ _ _ _ _ h, bitOf_eq_testBit]
  rcases a with a | a
  · simp [a]
  · have h2 : ¬ b < lo := by omega
    have h3 : ¬ b < hi + 1 := by omega
    simp [h2, h3]

/-- A write of a bit leaves a field apart from it. -/
theorem fld_putBit_other (w b : Nat) (on : Bool) (hi lo : Nat) (a : hi < b ∨ b < lo) :
    fld (putBit w b on) hi lo = fld w hi lo := fld_putFld_other _ _ _ _ _ _ (by omega) a

theorem fld_lt (w hi lo : Nat) : fld w hi lo < 2 ^ (hi + 1 - lo) := Nat.mod_lt _ (Nat.two_pow_pos _)

theorem putFld_lt (w hi lo v n : Nat) (hw : w < 2 ^ n) (h : lo ≤ hi + 1) (hn : hi < n) : putFld w hi lo v < 2 ^ n := by
  apply Nat.lt_pow_two_of_testBit
  intro i hi'
  rw [putFld_testBit _ _ _ _ _ h]
  have h1 : ¬ i < lo := by omega
  have h2 : ¬ i < hi + 1 := by omega
  simp only [h1, h2, if_false]
  exact Nat.testBit_lt_two_pow (Nat.lt_of_lt_of_le hw (Nat.pow_le_pow_right (by omega) hi'))

end Sys2Proof.Machine
end

