-- ==== Sys2Proof/Laws/LineCode.lean ====
section
/-!
SUPPORT. Laws of the TL coding: scrambling undoes itself, and the sizes of what each stage gives.
-/
namespace Sys2Proof.Machine

theorem scrambleFrom_length (r : Nat) (bs : List Byte) : (scrambleFrom r bs).length = bs.length := by
  induction bs generalizing r with
  | nil => rfl
  | cons b bs ih => simp [scrambleFrom, ih]

theorem scrambleFrom_self (r : Nat) (bs : List Byte) : scrambleFrom r (scrambleFrom r bs) = bs := by
  induction bs generalizing r with
  | nil => rfl
  | cons b bs ih => simp [scrambleFrom, ih, BitVec.xor_assoc]

/-- Scrambling keeps the length of a payload and is its own inverse (02 R45). -/
@[simp] theorem scramble_length (bs : List Byte) : (scramble bs).length = bs.length := scrambleFrom_length _ bs
@[simp] theorem scramble_scramble (bs : List Byte) : scramble (scramble bs) = bs := scrambleFrom_self _ bs

theorem convFrom_length (s : Nat) (bits : List Bool) : (convFrom s bits).length = 2 * bits.length := by
  induction bits generalizing s with
  | nil => rfl
  | cons b bs ih => simp [convFrom, ih]; omega

/-- Two coded bits for each bit and for each of the six tail bits (02 R47). -/
@[simp] theorem convEncode_length (bits : List Bool) : (convEncode bits).length = 2 * (bits.length + 6) := by
  simp [convEncode, convFrom_length]

/-- Interleaving fills every slot of every symbol (02 R48, R49). -/
@[simp] theorem interleave_length (s m : Nat) (coded : List Bool) : (interleave s m coded).length = s := by
  simp [interleave]

theorem interleave_slots (s m : Nat) (coded : List Bool) (sym : List Bool) (h : sym ∈ interleave s m coded) :
    sym.length = m := by
  simp only [interleave, List.mem_map] at h
  obtain ⟨_, _, rfl⟩ := h
  simp

theorem waysOn_length (x y : Int) (bit : Bool) :
    ∀ (t : Nat) (old : List Way), (waysOn x y bit t old).length = old.length / 2
  | _, [] => rfl
  | _, [_] => by simp [waysOn]
  | t, _ :: _ :: rest => by
    simp only [waysOn, List.length_cons, waysOn_length x y bit (t + 1) rest]
    omega

/-- The sequence decoder keeps one way for each of its 64 states. -/
theorem viterbiStep_length (x y : Int) (old : List Way) (h : old.length = 64) : (viterbiStep x y old).length = 64 := by
  simp [viterbiStep, waysOn_length, h]

end Sys2Proof.Machine
end

