-- ==== Sys2Proof/Laws/Tab.lean ====
section
/-!
SUPPORT. Laws of the sparse tables: what is read after a write, and that every operation keeps the
canonical form.
-/
namespace Sys2Proof.Machine

variable {α : Type} (d : Nat → α)

theorem Tab.get_del_same (t : List (Nat × α)) (k : Nat) : Tab.get d (Tab.del t k) k = d k := by
  induction t with
  | nil => rfl
  | cons e t ih => by_cases h : e.1 = k <;> simp [Tab.del, Tab.get, h, ih]

theorem Tab.get_del_other (t : List (Nat × α)) {k j : Nat} (h : j ≠ k) : Tab.get d (Tab.del t k) j = Tab.get d t j := by
  induction t with
  | nil => rfl
  | cons e t ih =>
    by_cases h1 : e.1 = k
    · have : e.1 ≠ j := fun hj => h (hj ▸ h1)
      simp [Tab.del, Tab.get, h1, ih]
      intro hk; exact absurd hk.symm h
    · by_cases h2 : e.1 = j
      · subst h2; simp [Tab.del, Tab.get, h1]
      · simp [Tab.del, Tab.get, h1, h2, ih]

theorem Tab.get_ins_same (t : List (Nat × α)) (k : Nat) (x : α) (h : ∀ e ∈ t, e.1 ≠ k) :
    Tab.get d (Tab.ins t k x) k = x := by
  induction t with
  | nil => simp [Tab.ins, Tab.get]
  | cons e t ih =>
    have h1 : e.1 ≠ k := h e (by simp)
    by_cases h2 : k < e.1
    · simp [Tab.ins, Tab.get, h2]
    · simp only [Tab.ins, h2, if_false, Tab.get, h1]
      exact ih fun e' m => h e' (by simp [m])

theorem Tab.get_ins_other (t : List (Nat × α)) {k j : Nat} (x : α) (h : j ≠ k) :
    Tab.get d (Tab.ins t k x) j = Tab.get d t j := by
  induction t with
  | nil => simp [Tab.ins, Tab.get, Ne.symm h]
  | cons e t ih =>
    by_cases h2 : k < e.1
    · simp [Tab.ins, Tab.get, h2, Ne.symm h]
    · by_cases h3 : e.1 = j
      · subst h3; simp [Tab.ins, Tab.get, h2]
      · simp [Tab.ins, Tab.get, h2, h3, ih]

theorem Tab.not_mem_del (t : List (Nat × α)) (k : Nat) : ∀ e ∈ Tab.del t k, e.1 ≠ k := by
  induction t with
  | nil => simp [Tab.del]
  | cons e t ih =>
    by_cases h : e.1 = k
    · simpa [Tab.del, h] using ih
    · intro e' m
      rcases List.mem_cons.1 (by simpa [Tab.del, h] using m) with rfl | m'
      · exact h
      · exact ih e' m'

variable [DecidableEq α]

/-- A table reads at `k` what was put there. -/
@[simp] theorem Tab.get_put_same (t : List (Nat × α)) (k : Nat) (x : α) : Tab.get d (Tab.put d t k x) k = x := by
  unfold Tab.put
  split
  · next h => rw [Tab.get_del_same, h]
  · exact Tab.get_ins_same d _ k x (Tab.not_mem_del t k)

/-- A write at `k` leaves every other key. -/
theorem Tab.get_put_other (t : List (Nat × α)) {k j : Nat} (x : α) (h : j ≠ k) :
    Tab.get d (Tab.put d t k x) j = Tab.get d t j := by
  unfold Tab.put
  split
  · exact Tab.get_del_other d t h
  · rw [Tab.get_ins_other d _ x h, Tab.get_del_other d t h]

/-- A read after a write, in one equation. -/
theorem Tab.get_put (t : List (Nat × α)) (k j : Nat) (x : α) :
    Tab.get d (Tab.put d t k x) j = if j = k then x else Tab.get d t j := by
  by_cases h : j = k
  · subst h; simp
  · simp [h, Tab.get_put_other d t x h]

/-- The canonical form, by parts. -/
theorem Tab.wf_cons (k : Nat) (v : α) (t : List (Nat × α)) :
    Tab.wf d ((k, v) :: t) = true ↔ v ≠ d k ∧ (∀ e ∈ t.head?, k < e.1) ∧ Tab.wf d t = true := by
  cases t with
  | nil => simp [Tab.wf]
  | cons e t => obtain ⟨j, w⟩ := e; simp [Tab.wf, and_assoc]

theorem Tab.wf_above (t : List (Nat × α)) (b : Nat) (h : Tab.wf d t = true) (hb : ∀ e ∈ t.head?, b < e.1) :
    ∀ e ∈ t, b < e.1 := by
  induction t generalizing b with
  | nil => simp
  | cons x t ih =>
    obtain ⟨k, v⟩ := x
    have hk : b < k := hb (k, v) (by simp)
    obtain ⟨_, h2, h3⟩ := (Tab.wf_cons d k v t).1 h
    intro e m
    rcases List.mem_cons.1 m with rfl | m'
    · exact hk
    · exact Nat.lt_trans hk (ih k h3 h2 e m')

/-- A canonical table is one whose keys rise and whose entries all differ from what is unlisted. -/
theorem Tab.wf_iff (t : List (Nat × α)) :
    Tab.wf d t = true ↔ t.Pairwise (fun a b => a.1 < b.1) ∧ ∀ e ∈ t, e.2 ≠ d e.1 := by
  induction t with
  | nil => simp [Tab.wf]
  | cons x t ih =>
    obtain ⟨k, v⟩ := x
    rw [Tab.wf_cons, ih, List.pairwise_cons]
    constructor
    · rintro ⟨h1, h2, h3, h4⟩
      refine ⟨⟨fun e m => Tab.wf_above d t k (ih.2 ⟨h3, h4⟩) h2 e m, h3⟩, ?_⟩
      intro e m
      rcases List.mem_cons.1 m with rfl | m'
      · exact h1
      · exact h4 e m'
    · rintro ⟨⟨h1, h2⟩, h3⟩
      refine ⟨h3 (k, v) (by simp), ?_, h2, fun e m => h3 e (by simp [m])⟩
      intro e m
      exact h1 e (List.mem_of_mem_head? m)

omit [DecidableEq α] in
theorem Tab.del_eq (t : List (Nat × α)) (k : Nat) : Tab.del t k = t.filter fun e => e.1 != k := by
  induction t with
  | nil => rfl
  | cons e t ih => by_cases h : e.1 = k <;> simp [Tab.del, h, ih]

omit [DecidableEq α] in
theorem Tab.mem_ins (t : List (Nat × α)) (k : Nat) (x : α) (e : Nat × α) :
    e ∈ Tab.ins t k x ↔ e = (k, x) ∨ e ∈ t := by
  induction t with
  | nil => simp [Tab.ins]
  | cons y t ih =>
    by_cases h : k < y.1
    · simp [Tab.ins, h]
    · simp only [Tab.ins, h, if_false, List.mem_cons, ih]
      exact or_left_comm

omit [DecidableEq α] in
theorem Tab.ins_rises (t : List (Nat × α)) (k : Nat) (x : α) (h : t.Pairwise fun a b => a.1 < b.1)
    (hk : ∀ e ∈ t, e.1 ≠ k) : (Tab.ins t k x).Pairwise fun a b => a.1 < b.1 := by
  induction t with
  | nil => simp [Tab.ins]
  | cons y t ih =>
    rw [List.pairwise_cons] at h
    by_cases hl : k < y.1
    · simp only [Tab.ins, hl, if_true, List.pairwise_cons]
      refine ⟨?_, h⟩
      intro e m
      rcases List.mem_cons.1 m with rfl | m'
      · exact hl
      · exact Nat.lt_trans hl (h.1 e m')
    · simp only [Tab.ins, hl, if_false, List.pairwise_cons]
      refine ⟨?_, ih h.2 fun e m => hk e (by simp [m])⟩
      intro e m
      rcases (Tab.mem_ins t k x e).1 m with rfl | m'
      · have := hk y (by simp)
        show y.1 < k
        omega
      · exact h.1 e m'

/-- Dropping keys keeps the canonical form. -/
theorem Tab.wf_drop (p : Nat → Bool) (t : List (Nat × α)) (h : Tab.wf d t = true) : Tab.wf d (Tab.drop p t) = true := by
  rw [Tab.wf_iff] at *
  refine ⟨h.1.filter _, fun e m => h.2 e (List.mem_filter.1 m).1⟩

/-- A write keeps the canonical form. -/
theorem Tab.wf_put (t : List (Nat × α)) (k : Nat) (x : α) (h : Tab.wf d t = true) :
    Tab.wf d (Tab.put d t k x) = true := by
  rw [Tab.wf_iff] at *
  have hd : (Tab.del t k).Pairwise fun a b => a.1 < b.1 := by rw [Tab.del_eq]; exact h.1.filter _
  have hm : ∀ e ∈ Tab.del t k, e ∈ t := by rw [Tab.del_eq]; exact fun e m => (List.mem_filter.1 m).1
  unfold Tab.put
  split
  · exact ⟨hd, fun e m => h.2 e (hm e m)⟩
  · next hx =>
    refine ⟨Tab.ins_rises _ k x hd (Tab.not_mem_del t k), fun e m => ?_⟩
    rcases (Tab.mem_ins _ k x e).1 m with rfl | m'
    · exact hx
    · exact h.2 e (hm e m')

omit [DecidableEq α] in
/-- What a table reads after keys are dropped. -/
theorem Tab.get_drop (p : Nat → Bool) (t : List (Nat × α)) (k : Nat) :
    Tab.get d (Tab.drop p t) k = if p k then d k else Tab.get d t k := by
  induction t with
  | nil => simp [Tab.drop, Tab.get]
  | cons e t ih =>
    unfold Tab.drop at ih
    by_cases h : p e.1 = true
    · by_cases hk : e.1 = k
      · subst hk; simp [Tab.drop, h, ih]
      · simp [Tab.drop, Tab.get, h, hk, ih]
    · by_cases hk : e.1 = k
      · subst hk; simp [Tab.drop, Tab.get, h]
      · simp [Tab.drop, Tab.get, h, hk, ih]

end Sys2Proof.Machine
end

