-- ==== Sys2Proof/Laws/Regs.lean ====
section
/-!
SUPPORT. Laws of the register file: what a register, a field and a bit read after a write.
-/
namespace Sys2Proof.Machine

theorem Chip.rdW_wr (c : Chip) (r v r' : Nat) :
    (c.wr r v).rdW r' = if r' = r then BitVec.ofNat 32 v else c.rdW r' := by
  simp [Chip.rdW, Chip.wr, Tab.get_put]

/-- A register after a write of a register. -/
theorem Chip.rd_wr (c : Chip) (r v r' : Nat) : (c.wr r v).rd r' = if r' = r then v % 2 ^ 32 else c.rd r' := by
  unfold Chip.rd; rw [Chip.rdW_wr]; split <;> simp

@[simp] theorem Chip.rd_wr_same (c : Chip) (r v : Nat) : (c.wr r v).rd r = v % 2 ^ 32 := by simp [Chip.rd_wr]

theorem Chip.rd_wr_other (c : Chip) {r r' : Nat} (v : Nat) (h : r' ≠ r) : (c.wr r v).rd r' = c.rd r' := by
  simp [Chip.rd_wr, h]

theorem Chip.rd_lt (c : Chip) (r : Nat) : c.rd r < 2 ^ 32 := BitVec.isLt _

/-- A register after a write of one of its fields. -/
theorem Chip.rd_setFl_other (c : Chip) {r r' : Nat} (hi lo v : Nat) (h : r' ≠ r) :
    (c.setFl r hi lo v).rd r' = c.rd r' := Chip.rd_wr_other c _ h

theorem Chip.rd_setBit_other (c : Chip) {r r' : Nat} (b : Nat) (on : Bool) (h : r' ≠ r) :
    (c.setBit r b on).rd r' = c.rd r' := Chip.rd_wr_other c _ h

theorem Chip.rd_setFl (c : Chip) (r hi lo v : Nat) (h : lo ≤ hi + 1) (hh : hi < 32) :
    (c.setFl r hi lo v).rd r = putFld (c.rd r) hi lo v := by
  rw [Chip.setFl, Chip.rd_wr_same, Nat.mod_eq_of_lt (putFld_lt _ _ _ _ _ (c.rd_lt r) h hh)]

theorem Chip.rd_setBit (c : Chip) (r b : Nat) (on : Bool) (h : b < 32) :
    (c.setBit r b on).rd r = putBit (c.rd r) b on := c.rd_setFl r b b _ (by omega) h

/-- A field reads what was written to it. -/
theorem Chip.fl_setFl_same (c : Chip) (r hi lo v : Nat) (h : lo ≤ hi) (hh : hi < 32) :
    (c.setFl r hi lo v).fl r hi lo = v % 2 ^ (hi + 1 - lo) := by
  rw [Chip.fl, Chip.rd_setFl _ _ _ _ _ (by omega) hh, fld_putFld_same _ _ _ _ h]

/-- A write of a field leaves every field of other registers, and those of its own apart from it. -/
theorem Chip.fl_setFl_other (c : Chip) (r hi lo v r' hi' lo' : Nat) (h : lo ≤ hi + 1) (hh : hi < 32)
    (a : r' ≠ r ∨ hi' < lo ∨ hi < lo') : (c.setFl r hi lo v).fl r' hi' lo' = c.fl r' hi' lo' := by
  by_cases hr : r' = r
  · subst hr
    rw [Chip.fl, Chip.rd_setFl _ _ _ _ _ h hh, fld_putFld_other _ _ _ _ _ _ h (a.resolve_left (fun n => n rfl)), Chip.fl]
  · rw [Chip.fl, Chip.rd_setFl_other _ _ _ _ hr, Chip.fl]

/-- A bit reads what was written to it. -/
theorem Chip.bit_setBit_same (c : Chip) (r b : Nat) (on : Bool) (h : b < 32) : (c.setBit r b on).bit r b = on := by
  rw [Chip.bit, Chip.rd_setBit _ _ _ _ h, bitOf_putBit_same]

/-- A write of a bit leaves every other bit. -/
theorem Chip.bit_setBit_other (c : Chip) (r b : Nat) (on : Bool) (r' b' : Nat) (h : b < 32) (a : r' ≠ r ∨ b' ≠ b) :
    (c.setBit r b on).bit r' b' = c.bit r' b' := by
  by_cases hr : r' = r
  · subst hr
    rw [Chip.bit, Chip.rd_setBit _ _ _ _ h, bitOf_putBit_other _ _ (a.resolve_left (fun n => n rfl)), Chip.bit]
  · rw [Chip.bit, Chip.rd_setBit_other _ _ _ hr, Chip.bit]

/-- A bit and a field after writes of the other kind. -/
theorem Chip.bit_setFl_other (c : Chip) (r hi lo v r' b : Nat) (h : lo ≤ hi + 1) (hh : hi < 32)
    (a : r' ≠ r ∨ b < lo ∨ hi < b) : (c.setFl r hi lo v).bit r' b = c.bit r' b := by
  by_cases hr : r' = r
  · subst hr
    rw [Chip.bit, Chip.rd_setFl _ _ _ _ _ h hh, bitOf_putFld_other _ _ _ _ _ h (a.resolve_left (fun n => n rfl)), Chip.bit]
  · rw [Chip.bit, Chip.rd_setFl_other _ _ _ _ hr, Chip.bit]

theorem Chip.fl_setBit_other (c : Chip) (r b : Nat) (on : Bool) (r' hi lo : Nat) (h : b < 32)
    (a : r' ≠ r ∨ hi < b ∨ b < lo) : (c.setBit r b on).fl r' hi lo = c.fl r' hi lo :=
  c.fl_setFl_other r b b _ r' hi lo (by omega) h a

theorem Chip.bit_wr_other (c : Chip) (r v r' b : Nat) (h : r' ≠ r) : (c.wr r v).bit r' b = c.bit r' b := by
  rw [Chip.bit, Chip.rd_wr_other _ _ h, Chip.bit]

theorem Chip.fl_wr_other (c : Chip) (r v r' hi lo : Nat) (h : r' ≠ r) : (c.wr r v).fl r' hi lo = c.fl r' hi lo := by
  rw [Chip.fl, Chip.rd_wr_other _ _ h, Chip.fl]

/-- Register writes keep the register file's canonical form. -/
theorem Chip.wr_tidy (c : Chip) (r v : Nat) (h : Tab.wf regReset c.regs = true) :
    Tab.wf regReset (c.wr r v).regs = true := Tab.wf_put regReset c.regs r _ h

end Sys2Proof.Machine
end

