-- ==== Sys2Proof/Laws/State.lean ====
section
/-!
SUPPORT. What each update of the chip leaves alone and what it sets, field by field: true by unfolding,
so that no later proof unfolds a record update.
-/
namespace Sys2Proof.Machine

variable (c : Chip)

/-! `wr` -/
@[simp] theorem Chip.mem_wr (r v : Nat) : (c.wr r v).mem = c.mem := rfl
@[simp] theorem Chip.pools_wr (r v : Nat) : (c.wr r v).pools = c.pools := rfl
@[simp] theorem Chip.resp_wr (r v : Nat) : (c.wr r v).resp = c.resp := rfl
@[simp] theorem Chip.freeCtr_wr (r v : Nat) : (c.wr r v).freeCtr = c.freeCtr := rfl
@[simp] theorem Chip.fuses_wr (r v : Nat) : (c.wr r v).fuses = c.fuses := rfl
@[simp] theorem Chip.ember_wr (r v : Nat) : (c.wr r v).ember = c.ember := rfl
@[simp] theorem Chip.flo_wr (r v : Nat) : (c.wr r v).flo = c.flo := rfl
@[simp] theorem Chip.ring_wr (r v : Nat) : (c.wr r v).ring = c.ring := rfl
@[simp] theorem Chip.apc_wr (r v : Nat) : (c.wr r v).apc = c.apc := rfl
@[simp] theorem Chip.grd_wr (r v : Nat) : (c.wr r v).grd = c.grd := rfl
@[simp] theorem Chip.upd_wr (r v : Nat) : (c.wr r v).upd = c.upd := rfl
@[simp] theorem Chip.crp_wr (r v : Nat) : (c.wr r v).crp = c.crp := rfl
@[simp] theorem Chip.tim_wr (r v : Nat) : (c.wr r v).tim = c.tim := rfl
@[simp] theorem Chip.lma_wr (r v : Nat) : (c.wr r v).lma = c.lma := rfl
@[simp] theorem Chip.air_wr (r v : Nat) : (c.wr r v).air = c.air := rfl
@[simp] theorem Chip.hcx_wr (r v : Nat) : (c.wr r v).hcx = c.hcx := rfl
@[simp] theorem Chip.ciu_wr (r v : Nat) : (c.wr r v).ciu = c.ciu := rfl
@[simp] theorem Chip.bal_wr (r v : Nat) : (c.wr r v).bal = c.bal := rfl
@[simp] theorem Chip.nand_wr (r v : Nat) : (c.wr r v).nand = c.nand := rfl
@[simp] theorem Chip.clm_wr (r v : Nat) : (c.wr r v).clm = c.clm := rfl
@[simp] theorem Chip.bkb_wr (r v : Nat) : (c.wr r v).bkb = c.bkb := rfl
@[simp] theorem Chip.pair_wr (r v : Nat) : (c.wr r v).pair = c.pair := rfl
@[simp] theorem Chip.kiln_wr (r v : Nat) : (c.wr r v).kiln = c.kiln := rfl

/-! `setFl` -/
@[simp] theorem Chip.mem_setFl (r hi lo v : Nat) : (c.setFl r hi lo v).mem = c.mem := rfl
@[simp] theorem Chip.pools_setFl (r hi lo v : Nat) : (c.setFl r hi lo v).pools = c.pools := rfl
@[simp] theorem Chip.resp_setFl (r hi lo v : Nat) : (c.setFl r hi lo v).resp = c.resp := rfl
@[simp] theorem Chip.freeCtr_setFl (r hi lo v : Nat) : (c.setFl r hi lo v).freeCtr = c.freeCtr := rfl
@[simp] theorem Chip.fuses_setFl (r hi lo v : Nat) : (c.setFl r hi lo v).fuses = c.fuses := rfl
@[simp] theorem Chip.ember_setFl (r hi lo v : Nat) : (c.setFl r hi lo v).ember = c.ember := rfl
@[simp] theorem Chip.flo_setFl (r hi lo v : Nat) : (c.setFl r hi lo v).flo = c.flo := rfl
@[simp] theorem Chip.ring_setFl (r hi lo v : Nat) : (c.setFl r hi lo v).ring = c.ring := rfl
@[simp] theorem Chip.apc_setFl (r hi lo v : Nat) : (c.setFl r hi lo v).apc = c.apc := rfl
@[simp] theorem Chip.grd_setFl (r hi lo v : Nat) : (c.setFl r hi lo v).grd = c.grd := rfl
@[simp] theorem Chip.upd_setFl (r hi lo v : Nat) : (c.setFl r hi lo v).upd = c.upd := rfl
@[simp] theorem Chip.crp_setFl (r hi lo v : Nat) : (c.setFl r hi lo v).crp = c.crp := rfl
@[simp] theorem Chip.tim_setFl (r hi lo v : Nat) : (c.setFl r hi lo v).tim = c.tim := rfl
@[simp] theorem Chip.lma_setFl (r hi lo v : Nat) : (c.setFl r hi lo v).lma = c.lma := rfl
@[simp] theorem Chip.air_setFl (r hi lo v : Nat) : (c.setFl r hi lo v).air = c.air := rfl
@[simp] theorem Chip.hcx_setFl (r hi lo v : Nat) : (c.setFl r hi lo v).hcx = c.hcx := rfl
@[simp] theorem Chip.ciu_setFl (r hi lo v : Nat) : (c.setFl r hi lo v).ciu = c.ciu := rfl
@[simp] theorem Chip.bal_setFl (r hi lo v : Nat) : (c.setFl r hi lo v).bal = c.bal := rfl
@[simp] theorem Chip.nand_setFl (r hi lo v : Nat) : (c.setFl r hi lo v).nand = c.nand := rfl
@[simp] theorem Chip.clm_setFl (r hi lo v : Nat) : (c.setFl r hi lo v).clm = c.clm := rfl
@[simp] theorem Chip.bkb_setFl (r hi lo v : Nat) : (c.setFl r hi lo v).bkb = c.bkb := rfl
@[simp] theorem Chip.pair_setFl (r hi lo v : Nat) : (c.setFl r hi lo v).pair = c.pair := rfl
@[simp] theorem Chip.kiln_setFl (r hi lo v : Nat) : (c.setFl r hi lo v).kiln = c.kiln := rfl

/-! `setBit` -/
@[simp] theorem Chip.mem_setBit (r b : Nat) (on : Bool) : (c.setBit r b on).mem = c.mem := rfl
@[simp] theorem Chip.pools_setBit (r b : Nat) (on : Bool) : (c.setBit r b on).pools = c.pools := rfl
@[simp] theorem Chip.resp_setBit (r b : Nat) (on : Bool) : (c.setBit r b on).resp = c.resp := rfl
@[simp] theorem Chip.freeCtr_setBit (r b : Nat) (on : Bool) : (c.setBit r b on).freeCtr = c.freeCtr := rfl
@[simp] theorem Chip.fuses_setBit (r b : Nat) (on : Bool) : (c.setBit r b on).fuses = c.fuses := rfl
@[simp] theorem Chip.ember_setBit (r b : Nat) (on : Bool) : (c.setBit r b on).ember = c.ember := rfl
@[simp] theorem Chip.flo_setBit (r b : Nat) (on : Bool) : (c.setBit r b on).flo = c.flo := rfl
@[simp] theorem Chip.ring_setBit (r b : Nat) (on : Bool) : (c.setBit r b on).ring = c.ring := rfl
@[simp] theorem Chip.apc_setBit (r b : Nat) (on : Bool) : (c.setBit r b on).apc = c.apc := rfl
@[simp] theorem Chip.grd_setBit (r b : Nat) (on : Bool) : (c.setBit r b on).grd = c.grd := rfl
@[simp] theorem Chip.upd_setBit (r b : Nat) (on : Bool) : (c.setBit r b on).upd = c.upd := rfl
@[simp] theorem Chip.crp_setBit (r b : Nat) (on : Bool) : (c.setBit r b on).crp = c.crp := rfl
@[simp] theorem Chip.tim_setBit (r b : Nat) (on : Bool) : (c.setBit r b on).tim = c.tim := rfl
@[simp] theorem Chip.lma_setBit (r b : Nat) (on : Bool) : (c.setBit r b on).lma = c.lma := rfl
@[simp] theorem Chip.air_setBit (r b : Nat) (on : Bool) : (c.setBit r b on).air = c.air := rfl
@[simp] theorem Chip.hcx_setBit (r b : Nat) (on : Bool) : (c.setBit r b on).hcx = c.hcx := rfl
@[simp] theorem Chip.ciu_setBit (r b : Nat) (on : Bool) : (c.setBit r b on).ciu = c.ciu := rfl
@[simp] theorem Chip.bal_setBit (r b : Nat) (on : Bool) : (c.setBit r b on).bal = c.bal := rfl
@[simp] theorem Chip.nand_setBit (r b : Nat) (on : Bool) : (c.setBit r b on).nand = c.nand := rfl
@[simp] theorem Chip.clm_setBit (r b : Nat) (on : Bool) : (c.setBit r b on).clm = c.clm := rfl
@[simp] theorem Chip.bkb_setBit (r b : Nat) (on : Bool) : (c.setBit r b on).bkb = c.bkb := rfl
@[simp] theorem Chip.pair_setBit (r b : Nat) (on : Bool) : (c.setBit r b on).pair = c.pair := rfl
@[simp] theorem Chip.kiln_setBit (r b : Nat) (on : Bool) : (c.setBit r b on).kiln = c.kiln := rfl

/-! `bump` -/
@[simp] theorem Chip.mem_bump (r : Nat) : (c.bump r).mem = c.mem := rfl
@[simp] theorem Chip.pools_bump (r : Nat) : (c.bump r).pools = c.pools := rfl
@[simp] theorem Chip.resp_bump (r : Nat) : (c.bump r).resp = c.resp := rfl
@[simp] theorem Chip.freeCtr_bump (r : Nat) : (c.bump r).freeCtr = c.freeCtr := rfl
@[simp] theorem Chip.fuses_bump (r : Nat) : (c.bump r).fuses = c.fuses := rfl
@[simp] theorem Chip.ember_bump (r : Nat) : (c.bump r).ember = c.ember := rfl
@[simp] theorem Chip.flo_bump (r : Nat) : (c.bump r).flo = c.flo := rfl
@[simp] theorem Chip.ring_bump (r : Nat) : (c.bump r).ring = c.ring := rfl
@[simp] theorem Chip.apc_bump (r : Nat) : (c.bump r).apc = c.apc := rfl
@[simp] theorem Chip.grd_bump (r : Nat) : (c.bump r).grd = c.grd := rfl
@[simp] theorem Chip.upd_bump (r : Nat) : (c.bump r).upd = c.upd := rfl
@[simp] theorem Chip.crp_bump (r : Nat) : (c.bump r).crp = c.crp := rfl
@[simp] theorem Chip.tim_bump (r : Nat) : (c.bump r).tim = c.tim := rfl
@[simp] theorem Chip.lma_bump (r : Nat) : (c.bump r).lma = c.lma := rfl
@[simp] theorem Chip.air_bump (r : Nat) : (c.bump r).air = c.air := rfl
@[simp] theorem Chip.hcx_bump (r : Nat) : (c.bump r).hcx = c.hcx := rfl
@[simp] theorem Chip.ciu_bump (r : Nat) : (c.bump r).ciu = c.ciu := rfl
@[simp] theorem Chip.bal_bump (r : Nat) : (c.bump r).bal = c.bal := rfl
@[simp] theorem Chip.nand_bump (r : Nat) : (c.bump r).nand = c.nand := rfl
@[simp] theorem Chip.clm_bump (r : Nat) : (c.bump r).clm = c.clm := rfl
@[simp] theorem Chip.bkb_bump (r : Nat) : (c.bump r).bkb = c.bkb := rfl
@[simp] theorem Chip.pair_bump (r : Nat) : (c.bump r).pair = c.pair := rfl
@[simp] theorem Chip.kiln_bump (r : Nat) : (c.bump r).kiln = c.kiln := rfl

/-! `bumpBy` -/
@[simp] theorem Chip.mem_bumpBy (r n : Nat) : (c.bumpBy r n).mem = c.mem := rfl
@[simp] theorem Chip.pools_bumpBy (r n : Nat) : (c.bumpBy r n).pools = c.pools := rfl
@[simp] theorem Chip.resp_bumpBy (r n : Nat) : (c.bumpBy r n).resp = c.resp := rfl
@[simp] theorem Chip.freeCtr_bumpBy (r n : Nat) : (c.bumpBy r n).freeCtr = c.freeCtr := rfl
@[simp] theorem Chip.fuses_bumpBy (r n : Nat) : (c.bumpBy r n).fuses = c.fuses := rfl
@[simp] theorem Chip.ember_bumpBy (r n : Nat) : (c.bumpBy r n).ember = c.ember := rfl
@[simp] theorem Chip.flo_bumpBy (r n : Nat) : (c.bumpBy r n).flo = c.flo := rfl
@[simp] theorem Chip.ring_bumpBy (r n : Nat) : (c.bumpBy r n).ring = c.ring := rfl
@[simp] theorem Chip.apc_bumpBy (r n : Nat) : (c.bumpBy r n).apc = c.apc := rfl
@[simp] theorem Chip.grd_bumpBy (r n : Nat) : (c.bumpBy r n).grd = c.grd := rfl
@[simp] theorem Chip.upd_bumpBy (r n : Nat) : (c.bumpBy r n).upd = c.upd := rfl
@[simp] theorem Chip.crp_bumpBy (r n : Nat) : (c.bumpBy r n).crp = c.crp := rfl
@[simp] theorem Chip.tim_bumpBy (r n : Nat) : (c.bumpBy r n).tim = c.tim := rfl
@[simp] theorem Chip.lma_bumpBy (r n : Nat) : (c.bumpBy r n).lma = c.lma := rfl
@[simp] theorem Chip.air_bumpBy (r n : Nat) : (c.bumpBy r n).air = c.air := rfl
@[simp] theorem Chip.hcx_bumpBy (r n : Nat) : (c.bumpBy r n).hcx = c.hcx := rfl
@[simp] theorem Chip.ciu_bumpBy (r n : Nat) : (c.bumpBy r n).ciu = c.ciu := rfl
@[simp] theorem Chip.bal_bumpBy (r n : Nat) : (c.bumpBy r n).bal = c.bal := rfl
@[simp] theorem Chip.nand_bumpBy (r n : Nat) : (c.bumpBy r n).nand = c.nand := rfl
@[simp] theorem Chip.clm_bumpBy (r n : Nat) : (c.bumpBy r n).clm = c.clm := rfl
@[simp] theorem Chip.bkb_bumpBy (r n : Nat) : (c.bumpBy r n).bkb = c.bkb := rfl
@[simp] theorem Chip.pair_bumpBy (r n : Nat) : (c.bumpBy r n).pair = c.pair := rfl
@[simp] theorem Chip.kiln_bumpBy (r n : Nat) : (c.bumpBy r n).kiln = c.kiln := rfl

/-! `keepMax` -/
@[simp] theorem Chip.mem_keepMax (r v : Nat) : (c.keepMax r v).mem = c.mem := rfl
@[simp] theorem Chip.pools_keepMax (r v : Nat) : (c.keepMax r v).pools = c.pools := rfl
@[simp] theorem Chip.resp_keepMax (r v : Nat) : (c.keepMax r v).resp = c.resp := rfl
@[simp] theorem Chip.freeCtr_keepMax (r v : Nat) : (c.keepMax r v).freeCtr = c.freeCtr := rfl
@[simp] theorem Chip.fuses_keepMax (r v : Nat) : (c.keepMax r v).fuses = c.fuses := rfl
@[simp] theorem Chip.ember_keepMax (r v : Nat) : (c.keepMax r v).ember = c.ember := rfl
@[simp] theorem Chip.flo_keepMax (r v : Nat) : (c.keepMax r v).flo = c.flo := rfl
@[simp] theorem Chip.ring_keepMax (r v : Nat) : (c.keepMax r v).ring = c.ring := rfl
@[simp] theorem Chip.apc_keepMax (r v : Nat) : (c.keepMax r v).apc = c.apc := rfl
@[simp] theorem Chip.grd_keepMax (r v : Nat) : (c.keepMax r v).grd = c.grd := rfl
@[simp] theorem Chip.upd_keepMax (r v : Nat) : (c.keepMax r v).upd = c.upd := rfl
@[simp] theorem Chip.crp_keepMax (r v : Nat) : (c.keepMax r v).crp = c.crp := rfl
@[simp] theorem Chip.tim_keepMax (r v : Nat) : (c.keepMax r v).tim = c.tim := rfl
@[simp] theorem Chip.lma_keepMax (r v : Nat) : (c.keepMax r v).lma = c.lma := rfl
@[simp] theorem Chip.air_keepMax (r v : Nat) : (c.keepMax r v).air = c.air := rfl
@[simp] theorem Chip.hcx_keepMax (r v : Nat) : (c.keepMax r v).hcx = c.hcx := rfl
@[simp] theorem Chip.ciu_keepMax (r v : Nat) : (c.keepMax r v).ciu = c.ciu := rfl
@[simp] theorem Chip.bal_keepMax (r v : Nat) : (c.keepMax r v).bal = c.bal := rfl
@[simp] theorem Chip.nand_keepMax (r v : Nat) : (c.keepMax r v).nand = c.nand := rfl
@[simp] theorem Chip.clm_keepMax (r v : Nat) : (c.keepMax r v).clm = c.clm := rfl
@[simp] theorem Chip.bkb_keepMax (r v : Nat) : (c.keepMax r v).bkb = c.bkb := rfl
@[simp] theorem Chip.pair_keepMax (r v : Nat) : (c.keepMax r v).pair = c.pair := rfl
@[simp] theorem Chip.kiln_keepMax (r v : Nat) : (c.keepMax r v).kiln = c.kiln := rfl

/-! `wr64` -/
@[simp] theorem Chip.mem_wr64 (lo hi v : Nat) : (c.wr64 lo hi v).mem = c.mem := rfl
@[simp] theorem Chip.pools_wr64 (lo hi v : Nat) : (c.wr64 lo hi v).pools = c.pools := rfl
@[simp] theorem Chip.resp_wr64 (lo hi v : Nat) : (c.wr64 lo hi v).resp = c.resp := rfl
@[simp] theorem Chip.freeCtr_wr64 (lo hi v : Nat) : (c.wr64 lo hi v).freeCtr = c.freeCtr := rfl
@[simp] theorem Chip.fuses_wr64 (lo hi v : Nat) : (c.wr64 lo hi v).fuses = c.fuses := rfl
@[simp] theorem Chip.ember_wr64 (lo hi v : Nat) : (c.wr64 lo hi v).ember = c.ember := rfl
@[simp] theorem Chip.flo_wr64 (lo hi v : Nat) : (c.wr64 lo hi v).flo = c.flo := rfl
@[simp] theorem Chip.ring_wr64 (lo hi v : Nat) : (c.wr64 lo hi v).ring = c.ring := rfl
@[simp] theorem Chip.apc_wr64 (lo hi v : Nat) : (c.wr64 lo hi v).apc = c.apc := rfl
@[simp] theorem Chip.grd_wr64 (lo hi v : Nat) : (c.wr64 lo hi v).grd = c.grd := rfl
@[simp] theorem Chip.upd_wr64 (lo hi v : Nat) : (c.wr64 lo hi v).upd = c.upd := rfl
@[simp] theorem Chip.crp_wr64 (lo hi v : Nat) : (c.wr64 lo hi v).crp = c.crp := rfl
@[simp] theorem Chip.tim_wr64 (lo hi v : Nat) : (c.wr64 lo hi v).tim = c.tim := rfl
@[simp] theorem Chip.lma_wr64 (lo hi v : Nat) : (c.wr64 lo hi v).lma = c.lma := rfl
@[simp] theorem Chip.air_wr64 (lo hi v : Nat) : (c.wr64 lo hi v).air = c.air := rfl
@[simp] theorem Chip.hcx_wr64 (lo hi v : Nat) : (c.wr64 lo hi v).hcx = c.hcx := rfl
@[simp] theorem Chip.ciu_wr64 (lo hi v : Nat) : (c.wr64 lo hi v).ciu = c.ciu := rfl
@[simp] theorem Chip.bal_wr64 (lo hi v : Nat) : (c.wr64 lo hi v).bal = c.bal := rfl
@[simp] theorem Chip.nand_wr64 (lo hi v : Nat) : (c.wr64 lo hi v).nand = c.nand := rfl
@[simp] theorem Chip.clm_wr64 (lo hi v : Nat) : (c.wr64 lo hi v).clm = c.clm := rfl
@[simp] theorem Chip.bkb_wr64 (lo hi v : Nat) : (c.wr64 lo hi v).bkb = c.bkb := rfl
@[simp] theorem Chip.pair_wr64 (lo hi v : Nat) : (c.wr64 lo hi v).pair = c.pair := rfl
@[simp] theorem Chip.kiln_wr64 (lo hi v : Nat) : (c.wr64 lo hi v).kiln = c.kiln := rfl

/-! `wrb` -/
@[simp] theorem Chip.regs_wrb (a : Nat) (b : Byte) : (c.wrb a b).regs = c.regs := rfl
@[simp] theorem Chip.pools_wrb (a : Nat) (b : Byte) : (c.wrb a b).pools = c.pools := rfl
@[simp] theorem Chip.resp_wrb (a : Nat) (b : Byte) : (c.wrb a b).resp = c.resp := rfl
@[simp] theorem Chip.freeCtr_wrb (a : Nat) (b : Byte) : (c.wrb a b).freeCtr = c.freeCtr := rfl
@[simp] theorem Chip.fuses_wrb (a : Nat) (b : Byte) : (c.wrb a b).fuses = c.fuses := rfl
@[simp] theorem Chip.ember_wrb (a : Nat) (b : Byte) : (c.wrb a b).ember = c.ember := rfl
@[simp] theorem Chip.flo_wrb (a : Nat) (b : Byte) : (c.wrb a b).flo = c.flo := rfl
@[simp] theorem Chip.ring_wrb (a : Nat) (b : Byte) : (c.wrb a b).ring = c.ring := rfl
@[simp] theorem Chip.apc_wrb (a : Nat) (b : Byte) : (c.wrb a b).apc = c.apc := rfl
@[simp] theorem Chip.grd_wrb (a : Nat) (b : Byte) : (c.wrb a b).grd = c.grd := rfl
@[simp] theorem Chip.upd_wrb (a : Nat) (b : Byte) : (c.wrb a b).upd = c.upd := rfl
@[simp] theorem Chip.crp_wrb (a : Nat) (b : Byte) : (c.wrb a b).crp = c.crp := rfl
@[simp] theorem Chip.tim_wrb (a : Nat) (b : Byte) : (c.wrb a b).tim = c.tim := rfl
@[simp] theorem Chip.lma_wrb (a : Nat) (b : Byte) : (c.wrb a b).lma = c.lma := rfl
@[simp] theorem Chip.air_wrb (a : Nat) (b : Byte) : (c.wrb a b).air = c.air := rfl
@[simp] theorem Chip.hcx_wrb (a : Nat) (b : Byte) : (c.wrb a b).hcx = c.hcx := rfl
@[simp] theorem Chip.ciu_wrb (a : Nat) (b : Byte) : (c.wrb a b).ciu = c.ciu := rfl
@[simp] theorem Chip.bal_wrb (a : Nat) (b : Byte) : (c.wrb a b).bal = c.bal := rfl
@[simp] theorem Chip.nand_wrb (a : Nat) (b : Byte) : (c.wrb a b).nand = c.nand := rfl
@[simp] theorem Chip.clm_wrb (a : Nat) (b : Byte) : (c.wrb a b).clm = c.clm := rfl
@[simp] theorem Chip.bkb_wrb (a : Nat) (b : Byte) : (c.wrb a b).bkb = c.bkb := rfl
@[simp] theorem Chip.pair_wrb (a : Nat) (b : Byte) : (c.wrb a b).pair = c.pair := rfl
@[simp] theorem Chip.kiln_wrb (a : Nat) (b : Byte) : (c.wrb a b).kiln = c.kiln := rfl

/-! `answer` -/
@[simp] theorem Chip.regs_answer (r : Resp) : (c.answer r).regs = c.regs := rfl
@[simp] theorem Chip.mem_answer (r : Resp) : (c.answer r).mem = c.mem := rfl
@[simp] theorem Chip.pools_answer (r : Resp) : (c.answer r).pools = c.pools := rfl
@[simp] theorem Chip.freeCtr_answer (r : Resp) : (c.answer r).freeCtr = c.freeCtr := rfl
@[simp] theorem Chip.fuses_answer (r : Resp) : (c.answer r).fuses = c.fuses := rfl
@[simp] theorem Chip.ember_answer (r : Resp) : (c.answer r).ember = c.ember := rfl
@[simp] theorem Chip.flo_answer (r : Resp) : (c.answer r).flo = c.flo := rfl
@[simp] theorem Chip.ring_answer (r : Resp) : (c.answer r).ring = c.ring := rfl
@[simp] theorem Chip.apc_answer (r : Resp) : (c.answer r).apc = c.apc := rfl
@[simp] theorem Chip.grd_answer (r : Resp) : (c.answer r).grd = c.grd := rfl
@[simp] theorem Chip.upd_answer (r : Resp) : (c.answer r).upd = c.upd := rfl
@[simp] theorem Chip.crp_answer (r : Resp) : (c.answer r).crp = c.crp := rfl
@[simp] theorem Chip.tim_answer (r : Resp) : (c.answer r).tim = c.tim := rfl
@[simp] theorem Chip.lma_answer (r : Resp) : (c.answer r).lma = c.lma := rfl
@[simp] theorem Chip.air_answer (r : Resp) : (c.answer r).air = c.air := rfl
@[simp] theorem Chip.hcx_answer (r : Resp) : (c.answer r).hcx = c.hcx := rfl
@[simp] theorem Chip.ciu_answer (r : Resp) : (c.answer r).ciu = c.ciu := rfl
@[simp] theorem Chip.bal_answer (r : Resp) : (c.answer r).bal = c.bal := rfl
@[simp] theorem Chip.nand_answer (r : Resp) : (c.answer r).nand = c.nand := rfl
@[simp] theorem Chip.clm_answer (r : Resp) : (c.answer r).clm = c.clm := rfl
@[simp] theorem Chip.bkb_answer (r : Resp) : (c.answer r).bkb = c.bkb := rfl
@[simp] theorem Chip.pair_answer (r : Resp) : (c.answer r).pair = c.pair := rfl
@[simp] theorem Chip.kiln_answer (r : Resp) : (c.answer r).kiln = c.kiln := rfl

/-! `setPool` -/
@[simp] theorem Chip.regs_setPool (p : Pool) (x : PoolState) : (c.setPool p x).regs = c.regs := rfl
@[simp] theorem Chip.mem_setPool (p : Pool) (x : PoolState) : (c.setPool p x).mem = c.mem := rfl
@[simp] theorem Chip.resp_setPool (p : Pool) (x : PoolState) : (c.setPool p x).resp = c.resp := rfl
@[simp] theorem Chip.freeCtr_setPool (p : Pool) (x : PoolState) : (c.setPool p x).freeCtr = c.freeCtr := rfl
@[simp] theorem Chip.fuses_setPool (p : Pool) (x : PoolState) : (c.setPool p x).fuses = c.fuses := rfl
@[simp] theorem Chip.ember_setPool (p : Pool) (x : PoolState) : (c.setPool p x).ember = c.ember := rfl
@[simp] theorem Chip.flo_setPool (p : Pool) (x : PoolState) : (c.setPool p x).flo = c.flo := rfl
@[simp] theorem Chip.ring_setPool (p : Pool) (x : PoolState) : (c.setPool p x).ring = c.ring := rfl
@[simp] theorem Chip.apc_setPool (p : Pool) (x : PoolState) : (c.setPool p x).apc = c.apc := rfl
@[simp] theorem Chip.grd_setPool (p : Pool) (x : PoolState) : (c.setPool p x).grd = c.grd := rfl
@[simp] theorem Chip.upd_setPool (p : Pool) (x : PoolState) : (c.setPool p x).upd = c.upd := rfl
@[simp] theorem Chip.crp_setPool (p : Pool) (x : PoolState) : (c.setPool p x).crp = c.crp := rfl
@[simp] theorem Chip.tim_setPool (p : Pool) (x : PoolState) : (c.setPool p x).tim = c.tim := rfl
@[simp] theorem Chip.lma_setPool (p : Pool) (x : PoolState) : (c.setPool p x).lma = c.lma := rfl
@[simp] theorem Chip.air_setPool (p : Pool) (x : PoolState) : (c.setPool p x).air = c.air := rfl
@[simp] theorem Chip.hcx_setPool (p : Pool) (x : PoolState) : (c.setPool p x).hcx = c.hcx := rfl
@[simp] theorem Chip.ciu_setPool (p : Pool) (x : PoolState) : (c.setPool p x).ciu = c.ciu := rfl
@[simp] theorem Chip.bal_setPool (p : Pool) (x : PoolState) : (c.setPool p x).bal = c.bal := rfl
@[simp] theorem Chip.nand_setPool (p : Pool) (x : PoolState) : (c.setPool p x).nand = c.nand := rfl
@[simp] theorem Chip.clm_setPool (p : Pool) (x : PoolState) : (c.setPool p x).clm = c.clm := rfl
@[simp] theorem Chip.bkb_setPool (p : Pool) (x : PoolState) : (c.setPool p x).bkb = c.bkb := rfl
@[simp] theorem Chip.pair_setPool (p : Pool) (x : PoolState) : (c.setPool p x).pair = c.pair := rfl
@[simp] theorem Chip.kiln_setPool (p : Pool) (x : PoolState) : (c.setPool p x).kiln = c.kiln := rfl

/-! `onApc` -/
@[simp] theorem Chip.regs_onApc (f : Apc → Apc) : (c.onApc f).regs = c.regs := rfl
@[simp] theorem Chip.mem_onApc (f : Apc → Apc) : (c.onApc f).mem = c.mem := rfl
@[simp] theorem Chip.pools_onApc (f : Apc → Apc) : (c.onApc f).pools = c.pools := rfl
@[simp] theorem Chip.resp_onApc (f : Apc → Apc) : (c.onApc f).resp = c.resp := rfl
@[simp] theorem Chip.freeCtr_onApc (f : Apc → Apc) : (c.onApc f).freeCtr = c.freeCtr := rfl
@[simp] theorem Chip.fuses_onApc (f : Apc → Apc) : (c.onApc f).fuses = c.fuses := rfl
@[simp] theorem Chip.ember_onApc (f : Apc → Apc) : (c.onApc f).ember = c.ember := rfl
@[simp] theorem Chip.flo_onApc (f : Apc → Apc) : (c.onApc f).flo = c.flo := rfl
@[simp] theorem Chip.ring_onApc (f : Apc → Apc) : (c.onApc f).ring = c.ring := rfl
@[simp] theorem Chip.apc_onApc (f : Apc → Apc) : (c.onApc f).apc = f c.apc := rfl
@[simp] theorem Chip.grd_onApc (f : Apc → Apc) : (c.onApc f).grd = c.grd := rfl
@[simp] theorem Chip.upd_onApc (f : Apc → Apc) : (c.onApc f).upd = c.upd := rfl
@[simp] theorem Chip.crp_onApc (f : Apc → Apc) : (c.onApc f).crp = c.crp := rfl
@[simp] theorem Chip.tim_onApc (f : Apc → Apc) : (c.onApc f).tim = c.tim := rfl
@[simp] theorem Chip.lma_onApc (f : Apc → Apc) : (c.onApc f).lma = c.lma := rfl
@[simp] theorem Chip.air_onApc (f : Apc → Apc) : (c.onApc f).air = c.air := rfl
@[simp] theorem Chip.hcx_onApc (f : Apc → Apc) : (c.onApc f).hcx = c.hcx := rfl
@[simp] theorem Chip.ciu_onApc (f : Apc → Apc) : (c.onApc f).ciu = c.ciu := rfl
@[simp] theorem Chip.bal_onApc (f : Apc → Apc) : (c.onApc f).bal = c.bal := rfl
@[simp] theorem Chip.nand_onApc (f : Apc → Apc) : (c.onApc f).nand = c.nand := rfl
@[simp] theorem Chip.clm_onApc (f : Apc → Apc) : (c.onApc f).clm = c.clm := rfl
@[simp] theorem Chip.bkb_onApc (f : Apc → Apc) : (c.onApc f).bkb = c.bkb := rfl
@[simp] theorem Chip.pair_onApc (f : Apc → Apc) : (c.onApc f).pair = c.pair := rfl
@[simp] theorem Chip.kiln_onApc (f : Apc → Apc) : (c.onApc f).kiln = c.kiln := rfl
@[simp] theorem Chip.rd_onApc (f : Apc → Apc) (r : Nat) : (c.onApc f).rd r = c.rd r := rfl
@[simp] theorem Chip.bit_onApc (f : Apc → Apc) (r b : Nat) : (c.onApc f).bit r b = c.bit r b := rfl
@[simp] theorem Chip.fl_onApc (f : Apc → Apc) (r hi lo : Nat) : (c.onApc f).fl r hi lo = c.fl r hi lo := rfl

/-! `onBkb` -/
@[simp] theorem Chip.regs_onBkb (f : Bkb → Bkb) : (c.onBkb f).regs = c.regs := rfl
@[simp] theorem Chip.mem_onBkb (f : Bkb → Bkb) : (c.onBkb f).mem = c.mem := rfl
@[simp] theorem Chip.pools_onBkb (f : Bkb → Bkb) : (c.onBkb f).pools = c.pools := rfl
@[simp] theorem Chip.resp_onBkb (f : Bkb → Bkb) : (c.onBkb f).resp = c.resp := rfl
@[simp] theorem Chip.freeCtr_onBkb (f : Bkb → Bkb) : (c.onBkb f).freeCtr = c.freeCtr := rfl
@[simp] theorem Chip.fuses_onBkb (f : Bkb → Bkb) : (c.onBkb f).fuses = c.fuses := rfl
@[simp] theorem Chip.ember_onBkb (f : Bkb → Bkb) : (c.onBkb f).ember = c.ember := rfl
@[simp] theorem Chip.flo_onBkb (f : Bkb → Bkb) : (c.onBkb f).flo = c.flo := rfl
@[simp] theorem Chip.ring_onBkb (f : Bkb → Bkb) : (c.onBkb f).ring = c.ring := rfl
@[simp] theorem Chip.apc_onBkb (f : Bkb → Bkb) : (c.onBkb f).apc = c.apc := rfl
@[simp] theorem Chip.grd_onBkb (f : Bkb → Bkb) : (c.onBkb f).grd = c.grd := rfl
@[simp] theorem Chip.upd_onBkb (f : Bkb → Bkb) : (c.onBkb f).upd = c.upd := rfl
@[simp] theorem Chip.crp_onBkb (f : Bkb → Bkb) : (c.onBkb f).crp = c.crp := rfl
@[simp] theorem Chip.tim_onBkb (f : Bkb → Bkb) : (c.onBkb f).tim = c.tim := rfl
@[simp] theorem Chip.lma_onBkb (f : Bkb → Bkb) : (c.onBkb f).lma = c.lma := rfl
@[simp] theorem Chip.air_onBkb (f : Bkb → Bkb) : (c.onBkb f).air = c.air := rfl
@[simp] theorem Chip.hcx_onBkb (f : Bkb → Bkb) : (c.onBkb f).hcx = c.hcx := rfl
@[simp] theorem Chip.ciu_onBkb (f : Bkb → Bkb) : (c.onBkb f).ciu = c.ciu := rfl
@[simp] theorem Chip.bal_onBkb (f : Bkb → Bkb) : (c.onBkb f).bal = c.bal := rfl
@[simp] theorem Chip.nand_onBkb (f : Bkb → Bkb) : (c.onBkb f).nand = c.nand := rfl
@[simp] theorem Chip.clm_onBkb (f : Bkb → Bkb) : (c.onBkb f).clm = c.clm := rfl
@[simp] theorem Chip.bkb_onBkb (f : Bkb → Bkb) : (c.onBkb f).bkb = f c.bkb := rfl
@[simp] theorem Chip.pair_onBkb (f : Bkb → Bkb) : (c.onBkb f).pair = c.pair := rfl
@[simp] theorem Chip.kiln_onBkb (f : Bkb → Bkb) : (c.onBkb f).kiln = c.kiln := rfl
@[simp] theorem Chip.rd_onBkb (f : Bkb → Bkb) (r : Nat) : (c.onBkb f).rd r = c.rd r := rfl
@[simp] theorem Chip.bit_onBkb (f : Bkb → Bkb) (r b : Nat) : (c.onBkb f).bit r b = c.bit r b := rfl
@[simp] theorem Chip.fl_onBkb (f : Bkb → Bkb) (r hi lo : Nat) : (c.onBkb f).fl r hi lo = c.fl r hi lo := rfl

/-! `onBal` -/
@[simp] theorem Chip.regs_onBal (f : Bal → Bal) : (c.onBal f).regs = c.regs := rfl
@[simp] theorem Chip.mem_onBal (f : Bal → Bal) : (c.onBal f).mem = c.mem := rfl
@[simp] theorem Chip.pools_onBal (f : Bal → Bal) : (c.onBal f).pools = c.pools := rfl
@[simp] theorem Chip.resp_onBal (f : Bal → Bal) : (c.onBal f).resp = c.resp := rfl
@[simp] theorem Chip.freeCtr_onBal (f : Bal → Bal) : (c.onBal f).freeCtr = c.freeCtr := rfl
@[simp] theorem Chip.fuses_onBal (f : Bal → Bal) : (c.onBal f).fuses = c.fuses := rfl
@[simp] theorem Chip.ember_onBal (f : Bal → Bal) : (c.onBal f).ember = c.ember := rfl
@[simp] theorem Chip.flo_onBal (f : Bal → Bal) : (c.onBal f).flo = c.flo := rfl
@[simp] theorem Chip.ring_onBal (f : Bal → Bal) : (c.onBal f).ring = c.ring := rfl
@[simp] theorem Chip.apc_onBal (f : Bal → Bal) : (c.onBal f).apc = c.apc := rfl
@[simp] theorem Chip.grd_onBal (f : Bal → Bal) : (c.onBal f).grd = c.grd := rfl
@[simp] theorem Chip.upd_onBal (f : Bal → Bal) : (c.onBal f).upd = c.upd := rfl
@[simp] theorem Chip.crp_onBal (f : Bal → Bal) : (c.onBal f).crp = c.crp := rfl
@[simp] theorem Chip.tim_onBal (f : Bal → Bal) : (c.onBal f).tim = c.tim := rfl
@[simp] theorem Chip.lma_onBal (f : Bal → Bal) : (c.onBal f).lma = c.lma := rfl
@[simp] theorem Chip.air_onBal (f : Bal → Bal) : (c.onBal f).air = c.air := rfl
@[simp] theorem Chip.hcx_onBal (f : Bal → Bal) : (c.onBal f).hcx = c.hcx := rfl
@[simp] theorem Chip.ciu_onBal (f : Bal → Bal) : (c.onBal f).ciu = c.ciu := rfl
@[simp] theorem Chip.bal_onBal (f : Bal → Bal) : (c.onBal f).bal = f c.bal := rfl
@[simp] theorem Chip.nand_onBal (f : Bal → Bal) : (c.onBal f).nand = c.nand := rfl
@[simp] theorem Chip.clm_onBal (f : Bal → Bal) : (c.onBal f).clm = c.clm := rfl
@[simp] theorem Chip.bkb_onBal (f : Bal → Bal) : (c.onBal f).bkb = c.bkb := rfl
@[simp] theorem Chip.pair_onBal (f : Bal → Bal) : (c.onBal f).pair = c.pair := rfl
@[simp] theorem Chip.kiln_onBal (f : Bal → Bal) : (c.onBal f).kiln = c.kiln := rfl
@[simp] theorem Chip.rd_onBal (f : Bal → Bal) (r : Nat) : (c.onBal f).rd r = c.rd r := rfl
@[simp] theorem Chip.bit_onBal (f : Bal → Bal) (r b : Nat) : (c.onBal f).bit r b = c.bit r b := rfl
@[simp] theorem Chip.fl_onBal (f : Bal → Bal) (r hi lo : Nat) : (c.onBal f).fl r hi lo = c.fl r hi lo := rfl

/-! `onCiu` -/
@[simp] theorem Chip.regs_onCiu (f : Ciu → Ciu) : (c.onCiu f).regs = c.regs := rfl
@[simp] theorem Chip.mem_onCiu (f : Ciu → Ciu) : (c.onCiu f).mem = c.mem := rfl
@[simp] theorem Chip.pools_onCiu (f : Ciu → Ciu) : (c.onCiu f).pools = c.pools := rfl
@[simp] theorem Chip.resp_onCiu (f : Ciu → Ciu) : (c.onCiu f).resp = c.resp := rfl
@[simp] theorem Chip.freeCtr_onCiu (f : Ciu → Ciu) : (c.onCiu f).freeCtr = c.freeCtr := rfl
@[simp] theorem Chip.fuses_onCiu (f : Ciu → Ciu) : (c.onCiu f).fuses = c.fuses := rfl
@[simp] theorem Chip.ember_onCiu (f : Ciu → Ciu) : (c.onCiu f).ember = c.ember := rfl
@[simp] theorem Chip.flo_onCiu (f : Ciu → Ciu) : (c.onCiu f).flo = c.flo := rfl
@[simp] theorem Chip.ring_onCiu (f : Ciu → Ciu) : (c.onCiu f).ring = c.ring := rfl
@[simp] theorem Chip.apc_onCiu (f : Ciu → Ciu) : (c.onCiu f).apc = c.apc := rfl
@[simp] theorem Chip.grd_onCiu (f : Ciu → Ciu) : (c.onCiu f).grd = c.grd := rfl
@[simp] theorem Chip.upd_onCiu (f : Ciu → Ciu) : (c.onCiu f).upd = c.upd := rfl
@[simp] theorem Chip.crp_onCiu (f : Ciu → Ciu) : (c.onCiu f).crp = c.crp := rfl
@[simp] theorem Chip.tim_onCiu (f : Ciu → Ciu) : (c.onCiu f).tim = c.tim := rfl
@[simp] theorem Chip.lma_onCiu (f : Ciu → Ciu) : (c.onCiu f).lma = c.lma := rfl
@[simp] theorem Chip.air_onCiu (f : Ciu → Ciu) : (c.onCiu f).air = c.air := rfl
@[simp] theorem Chip.hcx_onCiu (f : Ciu → Ciu) : (c.onCiu f).hcx = c.hcx := rfl
@[simp] theorem Chip.ciu_onCiu (f : Ciu → Ciu) : (c.onCiu f).ciu = f c.ciu := rfl
@[simp] theorem Chip.bal_onCiu (f : Ciu → Ciu) : (c.onCiu f).bal = c.bal := rfl
@[simp] theorem Chip.nand_onCiu (f : Ciu → Ciu) : (c.onCiu f).nand = c.nand := rfl
@[simp] theorem Chip.clm_onCiu (f : Ciu → Ciu) : (c.onCiu f).clm = c.clm := rfl
@[simp] theorem Chip.bkb_onCiu (f : Ciu → Ciu) : (c.onCiu f).bkb = c.bkb := rfl
@[simp] theorem Chip.pair_onCiu (f : Ciu → Ciu) : (c.onCiu f).pair = c.pair := rfl
@[simp] theorem Chip.kiln_onCiu (f : Ciu → Ciu) : (c.onCiu f).kiln = c.kiln := rfl
@[simp] theorem Chip.rd_onCiu (f : Ciu → Ciu) (r : Nat) : (c.onCiu f).rd r = c.rd r := rfl
@[simp] theorem Chip.bit_onCiu (f : Ciu → Ciu) (r b : Nat) : (c.onCiu f).bit r b = c.bit r b := rfl
@[simp] theorem Chip.fl_onCiu (f : Ciu → Ciu) (r hi lo : Nat) : (c.onCiu f).fl r hi lo = c.fl r hi lo := rfl

/-! `onClm` -/
@[simp] theorem Chip.regs_onClm (f : Clm → Clm) : (c.onClm f).regs = c.regs := rfl
@[simp] theorem Chip.mem_onClm (f : Clm → Clm) : (c.onClm f).mem = c.mem := rfl
@[simp] theorem Chip.pools_onClm (f : Clm → Clm) : (c.onClm f).pools = c.pools := rfl
@[simp] theorem Chip.resp_onClm (f : Clm → Clm) : (c.onClm f).resp = c.resp := rfl
@[simp] theorem Chip.freeCtr_onClm (f : Clm → Clm) : (c.onClm f).freeCtr = c.freeCtr := rfl
@[simp] theorem Chip.fuses_onClm (f : Clm → Clm) : (c.onClm f).fuses = c.fuses := rfl
@[simp] theorem Chip.ember_onClm (f : Clm → Clm) : (c.onClm f).ember = c.ember := rfl
@[simp] theorem Chip.flo_onClm (f : Clm → Clm) : (c.onClm f).flo = c.flo := rfl
@[simp] theorem Chip.ring_onClm (f : Clm → Clm) : (c.onClm f).ring = c.ring := rfl
@[simp] theorem Chip.apc_onClm (f : Clm → Clm) : (c.onClm f).apc = c.apc := rfl
@[simp] theorem Chip.grd_onClm (f : Clm → Clm) : (c.onClm f).grd = c.grd := rfl
@[simp] theorem Chip.upd_onClm (f : Clm → Clm) : (c.onClm f).upd = c.upd := rfl
@[simp] theorem Chip.crp_onClm (f : Clm → Clm) : (c.onClm f).crp = c.crp := rfl
@[simp] theorem Chip.tim_onClm (f : Clm → Clm) : (c.onClm f).tim = c.tim := rfl
@[simp] theorem Chip.lma_onClm (f : Clm → Clm) : (c.onClm f).lma = c.lma := rfl
@[simp] theorem Chip.air_onClm (f : Clm → Clm) : (c.onClm f).air = c.air := rfl
@[simp] theorem Chip.hcx_onClm (f : Clm → Clm) : (c.onClm f).hcx = c.hcx := rfl
@[simp] theorem Chip.ciu_onClm (f : Clm → Clm) : (c.onClm f).ciu = c.ciu := rfl
@[simp] theorem Chip.bal_onClm (f : Clm → Clm) : (c.onClm f).bal = c.bal := rfl
@[simp] theorem Chip.nand_onClm (f : Clm → Clm) : (c.onClm f).nand = c.nand := rfl
@[simp] theorem Chip.clm_onClm (f : Clm → Clm) : (c.onClm f).clm = f c.clm := rfl
@[simp] theorem Chip.bkb_onClm (f : Clm → Clm) : (c.onClm f).bkb = c.bkb := rfl
@[simp] theorem Chip.pair_onClm (f : Clm → Clm) : (c.onClm f).pair = c.pair := rfl
@[simp] theorem Chip.kiln_onClm (f : Clm → Clm) : (c.onClm f).kiln = c.kiln := rfl
@[simp] theorem Chip.rd_onClm (f : Clm → Clm) (r : Nat) : (c.onClm f).rd r = c.rd r := rfl
@[simp] theorem Chip.bit_onClm (f : Clm → Clm) (r b : Nat) : (c.onClm f).bit r b = c.bit r b := rfl
@[simp] theorem Chip.fl_onClm (f : Clm → Clm) (r hi lo : Nat) : (c.onClm f).fl r hi lo = c.fl r hi lo := rfl

/-! `onNand` -/
@[simp] theorem Chip.regs_onNand (f : Nand → Nand) : (c.onNand f).regs = c.regs := rfl
@[simp] theorem Chip.mem_onNand (f : Nand → Nand) : (c.onNand f).mem = c.mem := rfl
@[simp] theorem Chip.pools_onNand (f : Nand → Nand) : (c.onNand f).pools = c.pools := rfl
@[simp] theorem Chip.resp_onNand (f : Nand → Nand) : (c.onNand f).resp = c.resp := rfl
@[simp] theorem Chip.freeCtr_onNand (f : Nand → Nand) : (c.onNand f).freeCtr = c.freeCtr := rfl
@[simp] theorem Chip.fuses_onNand (f : Nand → Nand) : (c.onNand f).fuses = c.fuses := rfl
@[simp] theorem Chip.ember_onNand (f : Nand → Nand) : (c.onNand f).ember = c.ember := rfl
@[simp] theorem Chip.flo_onNand (f : Nand → Nand) : (c.onNand f).flo = c.flo := rfl
@[simp] theorem Chip.ring_onNand (f : Nand → Nand) : (c.onNand f).ring = c.ring := rfl
@[simp] theorem Chip.apc_onNand (f : Nand → Nand) : (c.onNand f).apc = c.apc := rfl
@[simp] theorem Chip.grd_onNand (f : Nand → Nand) : (c.onNand f).grd = c.grd := rfl
@[simp] theorem Chip.upd_onNand (f : Nand → Nand) : (c.onNand f).upd = c.upd := rfl
@[simp] theorem Chip.crp_onNand (f : Nand → Nand) : (c.onNand f).crp = c.crp := rfl
@[simp] theorem Chip.tim_onNand (f : Nand → Nand) : (c.onNand f).tim = c.tim := rfl
@[simp] theorem Chip.lma_onNand (f : Nand → Nand) : (c.onNand f).lma = c.lma := rfl
@[simp] theorem Chip.air_onNand (f : Nand → Nand) : (c.onNand f).air = c.air := rfl
@[simp] theorem Chip.hcx_onNand (f : Nand → Nand) : (c.onNand f).hcx = c.hcx := rfl
@[simp] theorem Chip.ciu_onNand (f : Nand → Nand) : (c.onNand f).ciu = c.ciu := rfl
@[simp] theorem Chip.bal_onNand (f : Nand → Nand) : (c.onNand f).bal = c.bal := rfl
@[simp] theorem Chip.nand_onNand (f : Nand → Nand) : (c.onNand f).nand = f c.nand := rfl
@[simp] theorem Chip.clm_onNand (f : Nand → Nand) : (c.onNand f).clm = c.clm := rfl
@[simp] theorem Chip.bkb_onNand (f : Nand → Nand) : (c.onNand f).bkb = c.bkb := rfl
@[simp] theorem Chip.pair_onNand (f : Nand → Nand) : (c.onNand f).pair = c.pair := rfl
@[simp] theorem Chip.kiln_onNand (f : Nand → Nand) : (c.onNand f).kiln = c.kiln := rfl
@[simp] theorem Chip.rd_onNand (f : Nand → Nand) (r : Nat) : (c.onNand f).rd r = c.rd r := rfl
@[simp] theorem Chip.bit_onNand (f : Nand → Nand) (r b : Nat) : (c.onNand f).bit r b = c.bit r b := rfl
@[simp] theorem Chip.fl_onNand (f : Nand → Nand) (r hi lo : Nat) : (c.onNand f).fl r hi lo = c.fl r hi lo := rfl

/-! `onHcx` -/
@[simp] theorem Chip.regs_onHcx (f : Hcx → Hcx) : (c.onHcx f).regs = c.regs := rfl
@[simp] theorem Chip.mem_onHcx (f : Hcx → Hcx) : (c.onHcx f).mem = c.mem := rfl
@[simp] theorem Chip.pools_onHcx (f : Hcx → Hcx) : (c.onHcx f).pools = c.pools := rfl
@[simp] theorem Chip.resp_onHcx (f : Hcx → Hcx) : (c.onHcx f).resp = c.resp := rfl
@[simp] theorem Chip.freeCtr_onHcx (f : Hcx → Hcx) : (c.onHcx f).freeCtr = c.freeCtr := rfl
@[simp] theorem Chip.fuses_onHcx (f : Hcx → Hcx) : (c.onHcx f).fuses = c.fuses := rfl
@[simp] theorem Chip.ember_onHcx (f : Hcx → Hcx) : (c.onHcx f).ember = c.ember := rfl
@[simp] theorem Chip.flo_onHcx (f : Hcx → Hcx) : (c.onHcx f).flo = c.flo := rfl
@[simp] theorem Chip.ring_onHcx (f : Hcx → Hcx) : (c.onHcx f).ring = c.ring := rfl
@[simp] theorem Chip.apc_onHcx (f : Hcx → Hcx) : (c.onHcx f).apc = c.apc := rfl
@[simp] theorem Chip.grd_onHcx (f : Hcx → Hcx) : (c.onHcx f).grd = c.grd := rfl
@[simp] theorem Chip.upd_onHcx (f : Hcx → Hcx) : (c.onHcx f).upd = c.upd := rfl
@[simp] theorem Chip.crp_onHcx (f : Hcx → Hcx) : (c.onHcx f).crp = c.crp := rfl
@[simp] theorem Chip.tim_onHcx (f : Hcx → Hcx) : (c.onHcx f).tim = c.tim := rfl
@[simp] theorem Chip.lma_onHcx (f : Hcx → Hcx) : (c.onHcx f).lma = c.lma := rfl
@[simp] theorem Chip.air_onHcx (f : Hcx → Hcx) : (c.onHcx f).air = c.air := rfl
@[simp] theorem Chip.hcx_onHcx (f : Hcx → Hcx) : (c.onHcx f).hcx = f c.hcx := rfl
@[simp] theorem Chip.ciu_onHcx (f : Hcx → Hcx) : (c.onHcx f).ciu = c.ciu := rfl
@[simp] theorem Chip.bal_onHcx (f : Hcx → Hcx) : (c.onHcx f).bal = c.bal := rfl
@[simp] theorem Chip.nand_onHcx (f : Hcx → Hcx) : (c.onHcx f).nand = c.nand := rfl
@[simp] theorem Chip.clm_onHcx (f : Hcx → Hcx) : (c.onHcx f).clm = c.clm := rfl
@[simp] theorem Chip.bkb_onHcx (f : Hcx → Hcx) : (c.onHcx f).bkb = c.bkb := rfl
@[simp] theorem Chip.pair_onHcx (f : Hcx → Hcx) : (c.onHcx f).pair = c.pair := rfl
@[simp] theorem Chip.kiln_onHcx (f : Hcx → Hcx) : (c.onHcx f).kiln = c.kiln := rfl
@[simp] theorem Chip.rd_onHcx (f : Hcx → Hcx) (r : Nat) : (c.onHcx f).rd r = c.rd r := rfl
@[simp] theorem Chip.bit_onHcx (f : Hcx → Hcx) (r b : Nat) : (c.onHcx f).bit r b = c.bit r b := rfl
@[simp] theorem Chip.fl_onHcx (f : Hcx → Hcx) (r hi lo : Nat) : (c.onHcx f).fl r hi lo = c.fl r hi lo := rfl

/-! `onEmber` -/
@[simp] theorem Chip.regs_onEmber (f : Ember → Ember) : (c.onEmber f).regs = c.regs := rfl
@[simp] theorem Chip.mem_onEmber (f : Ember → Ember) : (c.onEmber f).mem = c.mem := rfl
@[simp] theorem Chip.pools_onEmber (f : Ember → Ember) : (c.onEmber f).pools = c.pools := rfl
@[simp] theorem Chip.resp_onEmber (f : Ember → Ember) : (c.onEmber f).resp = c.resp := rfl
@[simp] theorem Chip.freeCtr_onEmber (f : Ember → Ember) : (c.onEmber f).freeCtr = c.freeCtr := rfl
@[simp] theorem Chip.fuses_onEmber (f : Ember → Ember) : (c.onEmber f).fuses = c.fuses := rfl
@[simp] theorem Chip.ember_onEmber (f : Ember → Ember) : (c.onEmber f).ember = f c.ember := rfl
@[simp] theorem Chip.flo_onEmber (f : Ember → Ember) : (c.onEmber f).flo = c.flo := rfl
@[simp] theorem Chip.ring_onEmber (f : Ember → Ember) : (c.onEmber f).ring = c.ring := rfl
@[simp] theorem Chip.apc_onEmber (f : Ember → Ember) : (c.onEmber f).apc = c.apc := rfl
@[simp] theorem Chip.grd_onEmber (f : Ember → Ember) : (c.onEmber f).grd = c.grd := rfl
@[simp] theorem Chip.upd_onEmber (f : Ember → Ember) : (c.onEmber f).upd = c.upd := rfl
@[simp] theorem Chip.crp_onEmber (f : Ember → Ember) : (c.onEmber f).crp = c.crp := rfl
@[simp] theorem Chip.tim_onEmber (f : Ember → Ember) : (c.onEmber f).tim = c.tim := rfl
@[simp] theorem Chip.lma_onEmber (f : Ember → Ember) : (c.onEmber f).lma = c.lma := rfl
@[simp] theorem Chip.air_onEmber (f : Ember → Ember) : (c.onEmber f).air = c.air := rfl
@[simp] theorem Chip.hcx_onEmber (f : Ember → Ember) : (c.onEmber f).hcx = c.hcx := rfl
@[simp] theorem Chip.ciu_onEmber (f : Ember → Ember) : (c.onEmber f).ciu = c.ciu := rfl
@[simp] theorem Chip.bal_onEmber (f : Ember → Ember) : (c.onEmber f).bal = c.bal := rfl
@[simp] theorem Chip.nand_onEmber (f : Ember → Ember) : (c.onEmber f).nand = c.nand := rfl
@[simp] theorem Chip.clm_onEmber (f : Ember → Ember) : (c.onEmber f).clm = c.clm := rfl
@[simp] theorem Chip.bkb_onEmber (f : Ember → Ember) : (c.onEmber f).bkb = c.bkb := rfl
@[simp] theorem Chip.pair_onEmber (f : Ember → Ember) : (c.onEmber f).pair = c.pair := rfl
@[simp] theorem Chip.kiln_onEmber (f : Ember → Ember) : (c.onEmber f).kiln = c.kiln := rfl
@[simp] theorem Chip.rd_onEmber (f : Ember → Ember) (r : Nat) : (c.onEmber f).rd r = c.rd r := rfl
@[simp] theorem Chip.bit_onEmber (f : Ember → Ember) (r b : Nat) : (c.onEmber f).bit r b = c.bit r b := rfl
@[simp] theorem Chip.fl_onEmber (f : Ember → Ember) (r hi lo : Nat) : (c.onEmber f).fl r hi lo = c.fl r hi lo := rfl

/-! `onFlo` -/
@[simp] theorem Chip.regs_onFlo (f : Flo → Flo) : (c.onFlo f).regs = c.regs := rfl
@[simp] theorem Chip.mem_onFlo (f : Flo → Flo) : (c.onFlo f).mem = c.mem := rfl
@[simp] theorem Chip.pools_onFlo (f : Flo → Flo) : (c.onFlo f).pools = c.pools := rfl
@[simp] theorem Chip.resp_onFlo (f : Flo → Flo) : (c.onFlo f).resp = c.resp := rfl
@[simp] theorem Chip.freeCtr_onFlo (f : Flo → Flo) : (c.onFlo f).freeCtr = c.freeCtr := rfl
@[simp] theorem Chip.fuses_onFlo (f : Flo → Flo) : (c.onFlo f).fuses = c.fuses := rfl
@[simp] theorem Chip.ember_onFlo (f : Flo → Flo) : (c.onFlo f).ember = c.ember := rfl
@[simp] theorem Chip.flo_onFlo (f : Flo → Flo) : (c.onFlo f).flo = f c.flo := rfl
@[simp] theorem Chip.ring_onFlo (f : Flo → Flo) : (c.onFlo f).ring = c.ring := rfl
@[simp] theorem Chip.apc_onFlo (f : Flo → Flo) : (c.onFlo f).apc = c.apc := rfl
@[simp] theorem Chip.grd_onFlo (f : Flo → Flo) : (c.onFlo f).grd = c.grd := rfl
@[simp] theorem Chip.upd_onFlo (f : Flo → Flo) : (c.onFlo f).upd = c.upd := rfl
@[simp] theorem Chip.crp_onFlo (f : Flo → Flo) : (c.onFlo f).crp = c.crp := rfl
@[simp] theorem Chip.tim_onFlo (f : Flo → Flo) : (c.onFlo f).tim = c.tim := rfl
@[simp] theorem Chip.lma_onFlo (f : Flo → Flo) : (c.onFlo f).lma = c.lma := rfl
@[simp] theorem Chip.air_onFlo (f : Flo → Flo) : (c.onFlo f).air = c.air := rfl
@[simp] theorem Chip.hcx_onFlo (f : Flo → Flo) : (c.onFlo f).hcx = c.hcx := rfl
@[simp] theorem Chip.ciu_onFlo (f : Flo → Flo) : (c.onFlo f).ciu = c.ciu := rfl
@[simp] theorem Chip.bal_onFlo (f : Flo → Flo) : (c.onFlo f).bal = c.bal := rfl
@[simp] theorem Chip.nand_onFlo (f : Flo → Flo) : (c.onFlo f).nand = c.nand := rfl
@[simp] theorem Chip.clm_onFlo (f : Flo → Flo) : (c.onFlo f).clm = c.clm := rfl
@[simp] theorem Chip.bkb_onFlo (f : Flo → Flo) : (c.onFlo f).bkb = c.bkb := rfl
@[simp] theorem Chip.pair_onFlo (f : Flo → Flo) : (c.onFlo f).pair = c.pair := rfl
@[simp] theorem Chip.kiln_onFlo (f : Flo → Flo) : (c.onFlo f).kiln = c.kiln := rfl
@[simp] theorem Chip.rd_onFlo (f : Flo → Flo) (r : Nat) : (c.onFlo f).rd r = c.rd r := rfl
@[simp] theorem Chip.bit_onFlo (f : Flo → Flo) (r b : Nat) : (c.onFlo f).bit r b = c.bit r b := rfl
@[simp] theorem Chip.fl_onFlo (f : Flo → Flo) (r hi lo : Nat) : (c.onFlo f).fl r hi lo = c.fl r hi lo := rfl

/-! `onGrd` -/
@[simp] theorem Chip.regs_onGrd (f : Grd → Grd) : (c.onGrd f).regs = c.regs := rfl
@[simp] theorem Chip.mem_onGrd (f : Grd → Grd) : (c.onGrd f).mem = c.mem := rfl
@[simp] theorem Chip.pools_onGrd (f : Grd → Grd) : (c.onGrd f).pools = c.pools := rfl
@[simp] theorem Chip.resp_onGrd (f : Grd → Grd) : (c.onGrd f).resp = c.resp := rfl
@[simp] theorem Chip.freeCtr_onGrd (f : Grd → Grd) : (c.onGrd f).freeCtr = c.freeCtr := rfl
@[simp] theorem Chip.fuses_onGrd (f : Grd → Grd) : (c.onGrd f).fuses = c.fuses := rfl
@[simp] theorem Chip.ember_onGrd (f : Grd → Grd) : (c.onGrd f).ember = c.ember := rfl
@[simp] theorem Chip.flo_onGrd (f : Grd → Grd) : (c.onGrd f).flo = c.flo := rfl
@[simp] theorem Chip.ring_onGrd (f : Grd → Grd) : (c.onGrd f).ring = c.ring := rfl
@[simp] theorem Chip.apc_onGrd (f : Grd → Grd) : (c.onGrd f).apc = c.apc := rfl
@[simp] theorem Chip.grd_onGrd (f : Grd → Grd) : (c.onGrd f).grd = f c.grd := rfl
@[simp] theorem Chip.upd_onGrd (f : Grd → Grd) : (c.onGrd f).upd = c.upd := rfl
@[simp] theorem Chip.crp_onGrd (f : Grd → Grd) : (c.onGrd f).crp = c.crp := rfl
@[simp] theorem Chip.tim_onGrd (f : Grd → Grd) : (c.onGrd f).tim = c.tim := rfl
@[simp] theorem Chip.lma_onGrd (f : Grd → Grd) : (c.onGrd f).lma = c.lma := rfl
@[simp] theorem Chip.air_onGrd (f : Grd → Grd) : (c.onGrd f).air = c.air := rfl
@[simp] theorem Chip.hcx_onGrd (f : Grd → Grd) : (c.onGrd f).hcx = c.hcx := rfl
@[simp] theorem Chip.ciu_onGrd (f : Grd → Grd) : (c.onGrd f).ciu = c.ciu := rfl
@[simp] theorem Chip.bal_onGrd (f : Grd → Grd) : (c.onGrd f).bal = c.bal := rfl
@[simp] theorem Chip.nand_onGrd (f : Grd → Grd) : (c.onGrd f).nand = c.nand := rfl
@[simp] theorem Chip.clm_onGrd (f : Grd → Grd) : (c.onGrd f).clm = c.clm := rfl
@[simp] theorem Chip.bkb_onGrd (f : Grd → Grd) : (c.onGrd f).bkb = c.bkb := rfl
@[simp] theorem Chip.pair_onGrd (f : Grd → Grd) : (c.onGrd f).pair = c.pair := rfl
@[simp] theorem Chip.kiln_onGrd (f : Grd → Grd) : (c.onGrd f).kiln = c.kiln := rfl
@[simp] theorem Chip.rd_onGrd (f : Grd → Grd) (r : Nat) : (c.onGrd f).rd r = c.rd r := rfl
@[simp] theorem Chip.bit_onGrd (f : Grd → Grd) (r b : Nat) : (c.onGrd f).bit r b = c.bit r b := rfl
@[simp] theorem Chip.fl_onGrd (f : Grd → Grd) (r hi lo : Nat) : (c.onGrd f).fl r hi lo = c.fl r hi lo := rfl

/-! `onKiln` -/
@[simp] theorem Chip.regs_onKiln (f : Kiln → Kiln) : (c.onKiln f).regs = c.regs := rfl
@[simp] theorem Chip.mem_onKiln (f : Kiln → Kiln) : (c.onKiln f).mem = c.mem := rfl
@[simp] theorem Chip.pools_onKiln (f : Kiln → Kiln) : (c.onKiln f).pools = c.pools := rfl
@[simp] theorem Chip.resp_onKiln (f : Kiln → Kiln) : (c.onKiln f).resp = c.resp := rfl
@[simp] theorem Chip.freeCtr_onKiln (f : Kiln → Kiln) : (c.onKiln f).freeCtr = c.freeCtr := rfl
@[simp] theorem Chip.fuses_onKiln (f : Kiln → Kiln) : (c.onKiln f).fuses = c.fuses := rfl
@[simp] theorem Chip.ember_onKiln (f : Kiln → Kiln) : (c.onKiln f).ember = c.ember := rfl
@[simp] theorem Chip.flo_onKiln (f : Kiln → Kiln) : (c.onKiln f).flo = c.flo := rfl
@[simp] theorem Chip.ring_onKiln (f : Kiln → Kiln) : (c.onKiln f).ring = c.ring := rfl
@[simp] theorem Chip.apc_onKiln (f : Kiln → Kiln) : (c.onKiln f).apc = c.apc := rfl
@[simp] theorem Chip.grd_onKiln (f : Kiln → Kiln) : (c.onKiln f).grd = c.grd := rfl
@[simp] theorem Chip.upd_onKiln (f : Kiln → Kiln) : (c.onKiln f).upd = c.upd := rfl
@[simp] theorem Chip.crp_onKiln (f : Kiln → Kiln) : (c.onKiln f).crp = c.crp := rfl
@[simp] theorem Chip.tim_onKiln (f : Kiln → Kiln) : (c.onKiln f).tim = c.tim := rfl
@[simp] theorem Chip.lma_onKiln (f : Kiln → Kiln) : (c.onKiln f).lma = c.lma := rfl
@[simp] theorem Chip.air_onKiln (f : Kiln → Kiln) : (c.onKiln f).air = c.air := rfl
@[simp] theorem Chip.hcx_onKiln (f : Kiln → Kiln) : (c.onKiln f).hcx = c.hcx := rfl
@[simp] theorem Chip.ciu_onKiln (f : Kiln → Kiln) : (c.onKiln f).ciu = c.ciu := rfl
@[simp] theorem Chip.bal_onKiln (f : Kiln → Kiln) : (c.onKiln f).bal = c.bal := rfl
@[simp] theorem Chip.nand_onKiln (f : Kiln → Kiln) : (c.onKiln f).nand = c.nand := rfl
@[simp] theorem Chip.clm_onKiln (f : Kiln → Kiln) : (c.onKiln f).clm = c.clm := rfl
@[simp] theorem Chip.bkb_onKiln (f : Kiln → Kiln) : (c.onKiln f).bkb = c.bkb := rfl
@[simp] theorem Chip.pair_onKiln (f : Kiln → Kiln) : (c.onKiln f).pair = c.pair := rfl
@[simp] theorem Chip.kiln_onKiln (f : Kiln → Kiln) : (c.onKiln f).kiln = f c.kiln := rfl
@[simp] theorem Chip.rd_onKiln (f : Kiln → Kiln) (r : Nat) : (c.onKiln f).rd r = c.rd r := rfl
@[simp] theorem Chip.bit_onKiln (f : Kiln → Kiln) (r b : Nat) : (c.onKiln f).bit r b = c.bit r b := rfl
@[simp] theorem Chip.fl_onKiln (f : Kiln → Kiln) (r hi lo : Nat) : (c.onKiln f).fl r hi lo = c.fl r hi lo := rfl

/-! `onLma` -/
@[simp] theorem Chip.regs_onLma (f : Lma → Lma) : (c.onLma f).regs = c.regs := rfl
@[simp] theorem Chip.mem_onLma (f : Lma → Lma) : (c.onLma f).mem = c.mem := rfl
@[simp] theorem Chip.pools_onLma (f : Lma → Lma) : (c.onLma f).pools = c.pools := rfl
@[simp] theorem Chip.resp_onLma (f : Lma → Lma) : (c.onLma f).resp = c.resp := rfl
@[simp] theorem Chip.freeCtr_onLma (f : Lma → Lma) : (c.onLma f).freeCtr = c.freeCtr := rfl
@[simp] theorem Chip.fuses_onLma (f : Lma → Lma) : (c.onLma f).fuses = c.fuses := rfl
@[simp] theorem Chip.ember_onLma (f : Lma → Lma) : (c.onLma f).ember = c.ember := rfl
@[simp] theorem Chip.flo_onLma (f : Lma → Lma) : (c.onLma f).flo = c.flo := rfl
@[simp] theorem Chip.ring_onLma (f : Lma → Lma) : (c.onLma f).ring = c.ring := rfl
@[simp] theorem Chip.apc_onLma (f : Lma → Lma) : (c.onLma f).apc = c.apc := rfl
@[simp] theorem Chip.grd_onLma (f : Lma → Lma) : (c.onLma f).grd = c.grd := rfl
@[simp] theorem Chip.upd_onLma (f : Lma → Lma) : (c.onLma f).upd = c.upd := rfl
@[simp] theorem Chip.crp_onLma (f : Lma → Lma) : (c.onLma f).crp = c.crp := rfl
@[simp] theorem Chip.tim_onLma (f : Lma → Lma) : (c.onLma f).tim = c.tim := rfl
@[simp] theorem Chip.lma_onLma (f : Lma → Lma) : (c.onLma f).lma = f c.lma := rfl
@[simp] theorem Chip.air_onLma (f : Lma → Lma) : (c.onLma f).air = c.air := rfl
@[simp] theorem Chip.hcx_onLma (f : Lma → Lma) : (c.onLma f).hcx = c.hcx := rfl
@[simp] theorem Chip.ciu_onLma (f : Lma → Lma) : (c.onLma f).ciu = c.ciu := rfl
@[simp] theorem Chip.bal_onLma (f : Lma → Lma) : (c.onLma f).bal = c.bal := rfl
@[simp] theorem Chip.nand_onLma (f : Lma → Lma) : (c.onLma f).nand = c.nand := rfl
@[simp] theorem Chip.clm_onLma (f : Lma → Lma) : (c.onLma f).clm = c.clm := rfl
@[simp] theorem Chip.bkb_onLma (f : Lma → Lma) : (c.onLma f).bkb = c.bkb := rfl
@[simp] theorem Chip.pair_onLma (f : Lma → Lma) : (c.onLma f).pair = c.pair := rfl
@[simp] theorem Chip.kiln_onLma (f : Lma → Lma) : (c.onLma f).kiln = c.kiln := rfl
@[simp] theorem Chip.rd_onLma (f : Lma → Lma) (r : Nat) : (c.onLma f).rd r = c.rd r := rfl
@[simp] theorem Chip.bit_onLma (f : Lma → Lma) (r b : Nat) : (c.onLma f).bit r b = c.bit r b := rfl
@[simp] theorem Chip.fl_onLma (f : Lma → Lma) (r hi lo : Nat) : (c.onLma f).fl r hi lo = c.fl r hi lo := rfl

/-! `onPair` -/
@[simp] theorem Chip.regs_onPair (f : Pair → Pair) : (c.onPair f).regs = c.regs := rfl
@[simp] theorem Chip.mem_onPair (f : Pair → Pair) : (c.onPair f).mem = c.mem := rfl
@[simp] theorem Chip.pools_onPair (f : Pair → Pair) : (c.onPair f).pools = c.pools := rfl
@[simp] theorem Chip.resp_onPair (f : Pair → Pair) : (c.onPair f).resp = c.resp := rfl
@[simp] theorem Chip.freeCtr_onPair (f : Pair → Pair) : (c.onPair f).freeCtr = c.freeCtr := rfl
@[simp] theorem Chip.fuses_onPair (f : Pair → Pair) : (c.onPair f).fuses = c.fuses := rfl
@[simp] theorem Chip.ember_onPair (f : Pair → Pair) : (c.onPair f).ember = c.ember := rfl
@[simp] theorem Chip.flo_onPair (f : Pair → Pair) : (c.onPair f).flo = c.flo := rfl
@[simp] theorem Chip.ring_onPair (f : Pair → Pair) : (c.onPair f).ring = c.ring := rfl
@[simp] theorem Chip.apc_onPair (f : Pair → Pair) : (c.onPair f).apc = c.apc := rfl
@[simp] theorem Chip.grd_onPair (f : Pair → Pair) : (c.onPair f).grd = c.grd := rfl
@[simp] theorem Chip.upd_onPair (f : Pair → Pair) : (c.onPair f).upd = c.upd := rfl
@[simp] theorem Chip.crp_onPair (f : Pair → Pair) : (c.onPair f).crp = c.crp := rfl
@[simp] theorem Chip.tim_onPair (f : Pair → Pair) : (c.onPair f).tim = c.tim := rfl
@[simp] theorem Chip.lma_onPair (f : Pair → Pair) : (c.onPair f).lma = c.lma := rfl
@[simp] theorem Chip.air_onPair (f : Pair → Pair) : (c.onPair f).air = c.air := rfl
@[simp] theorem Chip.hcx_onPair (f : Pair → Pair) : (c.onPair f).hcx = c.hcx := rfl
@[simp] theorem Chip.ciu_onPair (f : Pair → Pair) : (c.onPair f).ciu = c.ciu := rfl
@[simp] theorem Chip.bal_onPair (f : Pair → Pair) : (c.onPair f).bal = c.bal := rfl
@[simp] theorem Chip.nand_onPair (f : Pair → Pair) : (c.onPair f).nand = c.nand := rfl
@[simp] theorem Chip.clm_onPair (f : Pair → Pair) : (c.onPair f).clm = c.clm := rfl
@[simp] theorem Chip.bkb_onPair (f : Pair → Pair) : (c.onPair f).bkb = c.bkb := rfl
@[simp] theorem Chip.pair_onPair (f : Pair → Pair) : (c.onPair f).pair = f c.pair := rfl
@[simp] theorem Chip.kiln_onPair (f : Pair → Pair) : (c.onPair f).kiln = c.kiln := rfl
@[simp] theorem Chip.rd_onPair (f : Pair → Pair) (r : Nat) : (c.onPair f).rd r = c.rd r := rfl
@[simp] theorem Chip.bit_onPair (f : Pair → Pair) (r b : Nat) : (c.onPair f).bit r b = c.bit r b := rfl
@[simp] theorem Chip.fl_onPair (f : Pair → Pair) (r hi lo : Nat) : (c.onPair f).fl r hi lo = c.fl r hi lo := rfl

/-! `onCrp` -/
@[simp] theorem Chip.regs_onCrp (f : Crp → Crp) : (c.onCrp f).regs = c.regs := rfl
@[simp] theorem Chip.mem_onCrp (f : Crp → Crp) : (c.onCrp f).mem = c.mem := rfl
@[simp] theorem Chip.pools_onCrp (f : Crp → Crp) : (c.onCrp f).pools = c.pools := rfl
@[simp] theorem Chip.resp_onCrp (f : Crp → Crp) : (c.onCrp f).resp = c.resp := rfl
@[simp] theorem Chip.freeCtr_onCrp (f : Crp → Crp) : (c.onCrp f).freeCtr = c.freeCtr := rfl
@[simp] theorem Chip.fuses_onCrp (f : Crp → Crp) : (c.onCrp f).fuses = c.fuses := rfl
@[simp] theorem Chip.ember_onCrp (f : Crp → Crp) : (c.onCrp f).ember = c.ember := rfl
@[simp] theorem Chip.flo_onCrp (f : Crp → Crp) : (c.onCrp f).flo = c.flo := rfl
@[simp] theorem Chip.ring_onCrp (f : Crp → Crp) : (c.onCrp f).ring = c.ring := rfl
@[simp] theorem Chip.apc_onCrp (f : Crp → Crp) : (c.onCrp f).apc = c.apc := rfl
@[simp] theorem Chip.grd_onCrp (f : Crp → Crp) : (c.onCrp f).grd = c.grd := rfl
@[simp] theorem Chip.upd_onCrp (f : Crp → Crp) : (c.onCrp f).upd = c.upd := rfl
@[simp] theorem Chip.crp_onCrp (f : Crp → Crp) : (c.onCrp f).crp = f c.crp := rfl
@[simp] theorem Chip.tim_onCrp (f : Crp → Crp) : (c.onCrp f).tim = c.tim := rfl
@[simp] theorem Chip.lma_onCrp (f : Crp → Crp) : (c.onCrp f).lma = c.lma := rfl
@[simp] theorem Chip.air_onCrp (f : Crp → Crp) : (c.onCrp f).air = c.air := rfl
@[simp] theorem Chip.hcx_onCrp (f : Crp → Crp) : (c.onCrp f).hcx = c.hcx := rfl
@[simp] theorem Chip.ciu_onCrp (f : Crp → Crp) : (c.onCrp f).ciu = c.ciu := rfl
@[simp] theorem Chip.bal_onCrp (f : Crp → Crp) : (c.onCrp f).bal = c.bal := rfl
@[simp] theorem Chip.nand_onCrp (f : Crp → Crp) : (c.onCrp f).nand = c.nand := rfl
@[simp] theorem Chip.clm_onCrp (f : Crp → Crp) : (c.onCrp f).clm = c.clm := rfl
@[simp] theorem Chip.bkb_onCrp (f : Crp → Crp) : (c.onCrp f).bkb = c.bkb := rfl
@[simp] theorem Chip.pair_onCrp (f : Crp → Crp) : (c.onCrp f).pair = c.pair := rfl
@[simp] theorem Chip.kiln_onCrp (f : Crp → Crp) : (c.onCrp f).kiln = c.kiln := rfl
@[simp] theorem Chip.rd_onCrp (f : Crp → Crp) (r : Nat) : (c.onCrp f).rd r = c.rd r := rfl
@[simp] theorem Chip.bit_onCrp (f : Crp → Crp) (r b : Nat) : (c.onCrp f).bit r b = c.bit r b := rfl
@[simp] theorem Chip.fl_onCrp (f : Crp → Crp) (r hi lo : Nat) : (c.onCrp f).fl r hi lo = c.fl r hi lo := rfl

/-! `onRing` -/
@[simp] theorem Chip.regs_onRing (f : Ring → Ring) : (c.onRing f).regs = c.regs := rfl
@[simp] theorem Chip.mem_onRing (f : Ring → Ring) : (c.onRing f).mem = c.mem := rfl
@[simp] theorem Chip.pools_onRing (f : Ring → Ring) : (c.onRing f).pools = c.pools := rfl
@[simp] theorem Chip.resp_onRing (f : Ring → Ring) : (c.onRing f).resp = c.resp := rfl
@[simp] theorem Chip.freeCtr_onRing (f : Ring → Ring) : (c.onRing f).freeCtr = c.freeCtr := rfl
@[simp] theorem Chip.fuses_onRing (f : Ring → Ring) : (c.onRing f).fuses = c.fuses := rfl
@[simp] theorem Chip.ember_onRing (f : Ring → Ring) : (c.onRing f).ember = c.ember := rfl
@[simp] theorem Chip.flo_onRing (f : Ring → Ring) : (c.onRing f).flo = c.flo := rfl
@[simp] theorem Chip.ring_onRing (f : Ring → Ring) : (c.onRing f).ring = f c.ring := rfl
@[simp] theorem Chip.apc_onRing (f : Ring → Ring) : (c.onRing f).apc = c.apc := rfl
@[simp] theorem Chip.grd_onRing (f : Ring → Ring) : (c.onRing f).grd = c.grd := rfl
@[simp] theorem Chip.upd_onRing (f : Ring → Ring) : (c.onRing f).upd = c.upd := rfl
@[simp] theorem Chip.crp_onRing (f : Ring → Ring) : (c.onRing f).crp = c.crp := rfl
@[simp] theorem Chip.tim_onRing (f : Ring → Ring) : (c.onRing f).tim = c.tim := rfl
@[simp] theorem Chip.lma_onRing (f : Ring → Ring) : (c.onRing f).lma = c.lma := rfl
@[simp] theorem Chip.air_onRing (f : Ring → Ring) : (c.onRing f).air = c.air := rfl
@[simp] theorem Chip.hcx_onRing (f : Ring → Ring) : (c.onRing f).hcx = c.hcx := rfl
@[simp] theorem Chip.ciu_onRing (f : Ring → Ring) : (c.onRing f).ciu = c.ciu := rfl
@[simp] theorem Chip.bal_onRing (f : Ring → Ring) : (c.onRing f).bal = c.bal := rfl
@[simp] theorem Chip.nand_onRing (f : Ring → Ring) : (c.onRing f).nand = c.nand := rfl
@[simp] theorem Chip.clm_onRing (f : Ring → Ring) : (c.onRing f).clm = c.clm := rfl
@[simp] theorem Chip.bkb_onRing (f : Ring → Ring) : (c.onRing f).bkb = c.bkb := rfl
@[simp] theorem Chip.pair_onRing (f : Ring → Ring) : (c.onRing f).pair = c.pair := rfl
@[simp] theorem Chip.kiln_onRing (f : Ring → Ring) : (c.onRing f).kiln = c.kiln := rfl
@[simp] theorem Chip.rd_onRing (f : Ring → Ring) (r : Nat) : (c.onRing f).rd r = c.rd r := rfl
@[simp] theorem Chip.bit_onRing (f : Ring → Ring) (r b : Nat) : (c.onRing f).bit r b = c.bit r b := rfl
@[simp] theorem Chip.fl_onRing (f : Ring → Ring) (r hi lo : Nat) : (c.onRing f).fl r hi lo = c.fl r hi lo := rfl

/-! `onTim` -/
@[simp] theorem Chip.regs_onTim (f : Tim → Tim) : (c.onTim f).regs = c.regs := rfl
@[simp] theorem Chip.mem_onTim (f : Tim → Tim) : (c.onTim f).mem = c.mem := rfl
@[simp] theorem Chip.pools_onTim (f : Tim → Tim) : (c.onTim f).pools = c.pools := rfl
@[simp] theorem Chip.resp_onTim (f : Tim → Tim) : (c.onTim f).resp = c.resp := rfl
@[simp] theorem Chip.freeCtr_onTim (f : Tim → Tim) : (c.onTim f).freeCtr = c.freeCtr := rfl
@[simp] theorem Chip.fuses_onTim (f : Tim → Tim) : (c.onTim f).fuses = c.fuses := rfl
@[simp] theorem Chip.ember_onTim (f : Tim → Tim) : (c.onTim f).ember = c.ember := rfl
@[simp] theorem Chip.flo_onTim (f : Tim → Tim) : (c.onTim f).flo = c.flo := rfl
@[simp] theorem Chip.ring_onTim (f : Tim → Tim) : (c.onTim f).ring = c.ring := rfl
@[simp] theorem Chip.apc_onTim (f : Tim → Tim) : (c.onTim f).apc = c.apc := rfl
@[simp] theorem Chip.grd_onTim (f : Tim → Tim) : (c.onTim f).grd = c.grd := rfl
@[simp] theorem Chip.upd_onTim (f : Tim → Tim) : (c.onTim f).upd = c.upd := rfl
@[simp] theorem Chip.crp_onTim (f : Tim → Tim) : (c.onTim f).crp = c.crp := rfl
@[simp] theorem Chip.tim_onTim (f : Tim → Tim) : (c.onTim f).tim = f c.tim := rfl
@[simp] theorem Chip.lma_onTim (f : Tim → Tim) : (c.onTim f).lma = c.lma := rfl
@[simp] theorem Chip.air_onTim (f : Tim → Tim) : (c.onTim f).air = c.air := rfl
@[simp] theorem Chip.hcx_onTim (f : Tim → Tim) : (c.onTim f).hcx = c.hcx := rfl
@[simp] theorem Chip.ciu_onTim (f : Tim → Tim) : (c.onTim f).ciu = c.ciu := rfl
@[simp] theorem Chip.bal_onTim (f : Tim → Tim) : (c.onTim f).bal = c.bal := rfl
@[simp] theorem Chip.nand_onTim (f : Tim → Tim) : (c.onTim f).nand = c.nand := rfl
@[simp] theorem Chip.clm_onTim (f : Tim → Tim) : (c.onTim f).clm = c.clm := rfl
@[simp] theorem Chip.bkb_onTim (f : Tim → Tim) : (c.onTim f).bkb = c.bkb := rfl
@[simp] theorem Chip.pair_onTim (f : Tim → Tim) : (c.onTim f).pair = c.pair := rfl
@[simp] theorem Chip.kiln_onTim (f : Tim → Tim) : (c.onTim f).kiln = c.kiln := rfl
@[simp] theorem Chip.rd_onTim (f : Tim → Tim) (r : Nat) : (c.onTim f).rd r = c.rd r := rfl
@[simp] theorem Chip.bit_onTim (f : Tim → Tim) (r b : Nat) : (c.onTim f).bit r b = c.bit r b := rfl
@[simp] theorem Chip.fl_onTim (f : Tim → Tim) (r hi lo : Nat) : (c.onTim f).fl r hi lo = c.fl r hi lo := rfl

/-! `onUpd` -/
@[simp] theorem Chip.regs_onUpd (f : Upd → Upd) : (c.onUpd f).regs = c.regs := rfl
@[simp] theorem Chip.mem_onUpd (f : Upd → Upd) : (c.onUpd f).mem = c.mem := rfl
@[simp] theorem Chip.pools_onUpd (f : Upd → Upd) : (c.onUpd f).pools = c.pools := rfl
@[simp] theorem Chip.resp_onUpd (f : Upd → Upd) : (c.onUpd f).resp = c.resp := rfl
@[simp] theorem Chip.freeCtr_onUpd (f : Upd → Upd) : (c.onUpd f).freeCtr = c.freeCtr := rfl
@[simp] theorem Chip.fuses_onUpd (f : Upd → Upd) : (c.onUpd f).fuses = c.fuses := rfl
@[simp] theorem Chip.ember_onUpd (f : Upd → Upd) : (c.onUpd f).ember = c.ember := rfl
@[simp] theorem Chip.flo_onUpd (f : Upd → Upd) : (c.onUpd f).flo = c.flo := rfl
@[simp] theorem Chip.ring_onUpd (f : Upd → Upd) : (c.onUpd f).ring = c.ring := rfl
@[simp] theorem Chip.apc_onUpd (f : Upd → Upd) : (c.onUpd f).apc = c.apc := rfl
@[simp] theorem Chip.grd_onUpd (f : Upd → Upd) : (c.onUpd f).grd = c.grd := rfl
@[simp] theorem Chip.upd_onUpd (f : Upd → Upd) : (c.onUpd f).upd = (f c.upd).save := rfl
@[simp] theorem Chip.crp_onUpd (f : Upd → Upd) : (c.onUpd f).crp = c.crp := rfl
@[simp] theorem Chip.tim_onUpd (f : Upd → Upd) : (c.onUpd f).tim = c.tim := rfl
@[simp] theorem Chip.lma_onUpd (f : Upd → Upd) : (c.onUpd f).lma = c.lma := rfl
@[simp] theorem Chip.air_onUpd (f : Upd → Upd) : (c.onUpd f).air = c.air := rfl
@[simp] theorem Chip.hcx_onUpd (f : Upd → Upd) : (c.onUpd f).hcx = c.hcx := rfl
@[simp] theorem Chip.ciu_onUpd (f : Upd → Upd) : (c.onUpd f).ciu = c.ciu := rfl
@[simp] theorem Chip.bal_onUpd (f : Upd → Upd) : (c.onUpd f).bal = c.bal := rfl
@[simp] theorem Chip.nand_onUpd (f : Upd → Upd) : (c.onUpd f).nand = c.nand := rfl
@[simp] theorem Chip.clm_onUpd (f : Upd → Upd) : (c.onUpd f).clm = c.clm := rfl
@[simp] theorem Chip.bkb_onUpd (f : Upd → Upd) : (c.onUpd f).bkb = c.bkb := rfl
@[simp] theorem Chip.pair_onUpd (f : Upd → Upd) : (c.onUpd f).pair = c.pair := rfl
@[simp] theorem Chip.kiln_onUpd (f : Upd → Upd) : (c.onUpd f).kiln = c.kiln := rfl
@[simp] theorem Chip.rd_onUpd (f : Upd → Upd) (r : Nat) : (c.onUpd f).rd r = c.rd r := rfl
@[simp] theorem Chip.bit_onUpd (f : Upd → Upd) (r b : Nat) : (c.onUpd f).bit r b = c.bit r b := rfl
@[simp] theorem Chip.fl_onUpd (f : Upd → Upd) (r hi lo : Nat) : (c.onUpd f).fl r hi lo = c.fl r hi lo := rfl

@[simp] theorem Chip.rd_wrb (a : Nat) (b : Byte) (k : Nat) : (c.wrb a b).rd k = c.rd k := rfl
@[simp] theorem Chip.bit_wrb (a : Nat) (b : Byte) (k j : Nat) : (c.wrb a b).bit k j = c.bit k j := rfl
@[simp] theorem Chip.fl_wrb (a : Nat) (b : Byte) (k j l : Nat) : (c.wrb a b).fl k j l = c.fl k j l := rfl
@[simp] theorem Chip.rd_answer (r : Resp) (k : Nat) : (c.answer r).rd k = c.rd k := rfl
@[simp] theorem Chip.bit_answer (r : Resp) (k j : Nat) : (c.answer r).bit k j = c.bit k j := rfl
@[simp] theorem Chip.fl_answer (r : Resp) (k j l : Nat) : (c.answer r).fl k j l = c.fl k j l := rfl
@[simp] theorem Chip.rd_setPool (p : Pool) (x : PoolState) (k : Nat) : (c.setPool p x).rd k = c.rd k := rfl
@[simp] theorem Chip.bit_setPool (p : Pool) (x : PoolState) (k j : Nat) : (c.setPool p x).bit k j = c.bit k j := rfl
@[simp] theorem Chip.fl_setPool (p : Pool) (x : PoolState) (k j l : Nat) : (c.setPool p x).fl k j l = c.fl k j l := rfl

end Sys2Proof.Machine
end

