-- ==== Sys2Proof/Laws/Ops.lean ====
section
/-!
SUPPORT. What each shared operation can change: one lemma for each part of the chip it leaves alone, and
the memory laws (a read after a write, and the canonical form kept).
-/
namespace Sys2Proof.Machine

variable (c : Chip)

/-! `when` -/
theorem Chip.regs_when (b : Bool) (f : Chip → Chip) (h : ∀ c, (f c).regs = c.regs) : (c.when b f).regs = c.regs := by
  unfold Chip.when; cases b
  · rfl
  · exact h c
theorem Chip.mem_when (b : Bool) (f : Chip → Chip) (h : ∀ c, (f c).mem = c.mem) : (c.when b f).mem = c.mem := by
  unfold Chip.when; cases b
  · rfl
  · exact h c
theorem Chip.pools_when (b : Bool) (f : Chip → Chip) (h : ∀ c, (f c).pools = c.pools) : (c.when b f).pools = c.pools := by
  unfold Chip.when; cases b
  · rfl
  · exact h c
theorem Chip.resp_when (b : Bool) (f : Chip → Chip) (h : ∀ c, (f c).resp = c.resp) : (c.when b f).resp = c.resp := by
  unfold Chip.when; cases b
  · rfl
  · exact h c
theorem Chip.freeCtr_when (b : Bool) (f : Chip → Chip) (h : ∀ c, (f c).freeCtr = c.freeCtr) : (c.when b f).freeCtr = c.freeCtr := by
  unfold Chip.when; cases b
  · rfl
  · exact h c
theorem Chip.fuses_when (b : Bool) (f : Chip → Chip) (h : ∀ c, (f c).fuses = c.fuses) : (c.when b f).fuses = c.fuses := by
  unfold Chip.when; cases b
  · rfl
  · exact h c
theorem Chip.ember_when (b : Bool) (f : Chip → Chip) (h : ∀ c, (f c).ember = c.ember) : (c.when b f).ember = c.ember := by
  unfold Chip.when; cases b
  · rfl
  · exact h c
theorem Chip.flo_when (b : Bool) (f : Chip → Chip) (h : ∀ c, (f c).flo = c.flo) : (c.when b f).flo = c.flo := by
  unfold Chip.when; cases b
  · rfl
  · exact h c
theorem Chip.ring_when (b : Bool) (f : Chip → Chip) (h : ∀ c, (f c).ring = c.ring) : (c.when b f).ring = c.ring := by
  unfold Chip.when; cases b
  · rfl
  · exact h c
theorem Chip.apc_when (b : Bool) (f : Chip → Chip) (h : ∀ c, (f c).apc = c.apc) : (c.when b f).apc = c.apc := by
  unfold Chip.when; cases b
  · rfl
  · exact h c
theorem Chip.grd_when (b : Bool) (f : Chip → Chip) (h : ∀ c, (f c).grd = c.grd) : (c.when b f).grd = c.grd := by
  unfold Chip.when; cases b
  · rfl
  · exact h c
theorem Chip.upd_when (b : Bool) (f : Chip → Chip) (h : ∀ c, (f c).upd = c.upd) : (c.when b f).upd = c.upd := by
  unfold Chip.when; cases b
  · rfl
  · exact h c
theorem Chip.crp_when (b : Bool) (f : Chip → Chip) (h : ∀ c, (f c).crp = c.crp) : (c.when b f).crp = c.crp := by
  unfold Chip.when; cases b
  · rfl
  · exact h c
theorem Chip.tim_when (b : Bool) (f : Chip → Chip) (h : ∀ c, (f c).tim = c.tim) : (c.when b f).tim = c.tim := by
  unfold Chip.when; cases b
  · rfl
  · exact h c
theorem Chip.lma_when (b : Bool) (f : Chip → Chip) (h : ∀ c, (f c).lma = c.lma) : (c.when b f).lma = c.lma := by
  unfold Chip.when; cases b
  · rfl
  · exact h c
theorem Chip.air_when (b : Bool) (f : Chip → Chip) (h : ∀ c, (f c).air = c.air) : (c.when b f).air = c.air := by
  unfold Chip.when; cases b
  · rfl
  · exact h c
theorem Chip.hcx_when (b : Bool) (f : Chip → Chip) (h : ∀ c, (f c).hcx = c.hcx) : (c.when b f).hcx = c.hcx := by
  unfold Chip.when; cases b
  · rfl
  · exact h c
theorem Chip.ciu_when (b : Bool) (f : Chip → Chip) (h : ∀ c, (f c).ciu = c.ciu) : (c.when b f).ciu = c.ciu := by
  unfold Chip.when; cases b
  · rfl
  · exact h c
theorem Chip.bal_when (b : Bool) (f : Chip → Chip) (h : ∀ c, (f c).bal = c.bal) : (c.when b f).bal = c.bal := by
  unfold Chip.when; cases b
  · rfl
  · exact h c
theorem Chip.nand_when (b : Bool) (f : Chip → Chip) (h : ∀ c, (f c).nand = c.nand) : (c.when b f).nand = c.nand := by
  unfold Chip.when; cases b
  · rfl
  · exact h c
theorem Chip.clm_when (b : Bool) (f : Chip → Chip) (h : ∀ c, (f c).clm = c.clm) : (c.when b f).clm = c.clm := by
  unfold Chip.when; cases b
  · rfl
  · exact h c
theorem Chip.bkb_when (b : Bool) (f : Chip → Chip) (h : ∀ c, (f c).bkb = c.bkb) : (c.when b f).bkb = c.bkb := by
  unfold Chip.when; cases b
  · rfl
  · exact h c
theorem Chip.pair_when (b : Bool) (f : Chip → Chip) (h : ∀ c, (f c).pair = c.pair) : (c.when b f).pair = c.pair := by
  unfold Chip.when; cases b
  · rfl
  · exact h c
theorem Chip.kiln_when (b : Bool) (f : Chip → Chip) (h : ∀ c, (f c).kiln = c.kiln) : (c.when b f).kiln = c.kiln := by
  unfold Chip.when; cases b
  · rfl
  · exact h c

/-- `noteRws` as a condition. -/
theorem Chip.noteRws_eq (who : Who) (reg m v : Nat) : c.noteRws who reg m v =
    if (who.level != .seal && (c.rwsValue reg &&& BitVec.ofNat 32 m) != (BitVec.ofNat 32 v &&& BitVec.ofNat 32 m)) = true
    then c.noteRefusal who.num who.level.code true (0xF0000000 + reg) else c := rfl

/-! `irq` -/
@[simp] theorem Chip.mem_irq (src : Nat) : (c.irq src).mem = c.mem := by unfold Chip.irq Chip.when; split <;> rfl
@[simp] theorem Chip.pools_irq (src : Nat) : (c.irq src).pools = c.pools := by unfold Chip.irq Chip.when; split <;> rfl
@[simp] theorem Chip.resp_irq (src : Nat) : (c.irq src).resp = c.resp := by unfold Chip.irq Chip.when; split <;> rfl
@[simp] theorem Chip.freeCtr_irq (src : Nat) : (c.irq src).freeCtr = c.freeCtr := by unfold Chip.irq Chip.when; split <;> rfl
@[simp] theorem Chip.fuses_irq (src : Nat) : (c.irq src).fuses = c.fuses := by unfold Chip.irq Chip.when; split <;> rfl
@[simp] theorem Chip.ember_irq (src : Nat) : (c.irq src).ember = c.ember := by unfold Chip.irq Chip.when; split <;> rfl
@[simp] theorem Chip.flo_irq (src : Nat) : (c.irq src).flo = c.flo := by unfold Chip.irq Chip.when; split <;> rfl
@[simp] theorem Chip.ring_irq (src : Nat) : (c.irq src).ring = c.ring := by unfold Chip.irq Chip.when; split <;> rfl
@[simp] theorem Chip.apc_irq (src : Nat) : (c.irq src).apc = c.apc := by unfold Chip.irq Chip.when; split <;> rfl
@[simp] theorem Chip.grd_irq (src : Nat) : (c.irq src).grd = c.grd := by unfold Chip.irq Chip.when; split <;> rfl
@[simp] theorem Chip.upd_irq (src : Nat) : (c.irq src).upd = c.upd := by unfold Chip.irq Chip.when; split <;> rfl
@[simp] theorem Chip.crp_irq (src : Nat) : (c.irq src).crp = c.crp := by unfold Chip.irq Chip.when; split <;> rfl
@[simp] theorem Chip.tim_irq (src : Nat) : (c.irq src).tim = c.tim := by unfold Chip.irq Chip.when; split <;> rfl
@[simp] theorem Chip.lma_irq (src : Nat) : (c.irq src).lma = c.lma := by unfold Chip.irq Chip.when; split <;> rfl
@[simp] theorem Chip.air_irq (src : Nat) : (c.irq src).air = c.air := by unfold Chip.irq Chip.when; split <;> rfl
@[simp] theorem Chip.hcx_irq (src : Nat) : (c.irq src).hcx = c.hcx := by unfold Chip.irq Chip.when; split <;> rfl
@[simp] theorem Chip.ciu_irq (src : Nat) : (c.irq src).ciu = c.ciu := by unfold Chip.irq Chip.when; split <;> rfl
@[simp] theorem Chip.bal_irq (src : Nat) : (c.irq src).bal = c.bal := by unfold Chip.irq Chip.when; split <;> rfl
@[simp] theorem Chip.nand_irq (src : Nat) : (c.irq src).nand = c.nand := by unfold Chip.irq Chip.when; split <;> rfl
@[simp] theorem Chip.clm_irq (src : Nat) : (c.irq src).clm = c.clm := by unfold Chip.irq Chip.when; split <;> rfl
@[simp] theorem Chip.bkb_irq (src : Nat) : (c.irq src).bkb = c.bkb := by unfold Chip.irq Chip.when; split <;> rfl
@[simp] theorem Chip.pair_irq (src : Nat) : (c.irq src).pair = c.pair := by unfold Chip.irq Chip.when; split <;> rfl
@[simp] theorem Chip.kiln_irq (src : Nat) : (c.irq src).kiln = c.kiln := by unfold Chip.irq Chip.when; split <;> rfl

/-! `raise` -/
@[simp] theorem Chip.mem_raise (reg b : Nat) : (c.raise reg b).mem = c.mem := by simp [Chip.raise]
@[simp] theorem Chip.pools_raise (reg b : Nat) : (c.raise reg b).pools = c.pools := by simp [Chip.raise]
@[simp] theorem Chip.resp_raise (reg b : Nat) : (c.raise reg b).resp = c.resp := by simp [Chip.raise]
@[simp] theorem Chip.freeCtr_raise (reg b : Nat) : (c.raise reg b).freeCtr = c.freeCtr := by simp [Chip.raise]
@[simp] theorem Chip.fuses_raise (reg b : Nat) : (c.raise reg b).fuses = c.fuses := by simp [Chip.raise]
@[simp] theorem Chip.ember_raise (reg b : Nat) : (c.raise reg b).ember = c.ember := by simp [Chip.raise]
@[simp] theorem Chip.flo_raise (reg b : Nat) : (c.raise reg b).flo = c.flo := by simp [Chip.raise]
@[simp] theorem Chip.ring_raise (reg b : Nat) : (c.raise reg b).ring = c.ring := by simp [Chip.raise]
@[simp] theorem Chip.apc_raise (reg b : Nat) : (c.raise reg b).apc = c.apc := by simp [Chip.raise]
@[simp] theorem Chip.grd_raise (reg b : Nat) : (c.raise reg b).grd = c.grd := by simp [Chip.raise]
@[simp] theorem Chip.upd_raise (reg b : Nat) : (c.raise reg b).upd = c.upd := by simp [Chip.raise]
@[simp] theorem Chip.crp_raise (reg b : Nat) : (c.raise reg b).crp = c.crp := by simp [Chip.raise]
@[simp] theorem Chip.tim_raise (reg b : Nat) : (c.raise reg b).tim = c.tim := by simp [Chip.raise]
@[simp] theorem Chip.lma_raise (reg b : Nat) : (c.raise reg b).lma = c.lma := by simp [Chip.raise]
@[simp] theorem Chip.air_raise (reg b : Nat) : (c.raise reg b).air = c.air := by simp [Chip.raise]
@[simp] theorem Chip.hcx_raise (reg b : Nat) : (c.raise reg b).hcx = c.hcx := by simp [Chip.raise]
@[simp] theorem Chip.ciu_raise (reg b : Nat) : (c.raise reg b).ciu = c.ciu := by simp [Chip.raise]
@[simp] theorem Chip.bal_raise (reg b : Nat) : (c.raise reg b).bal = c.bal := by simp [Chip.raise]
@[simp] theorem Chip.nand_raise (reg b : Nat) : (c.raise reg b).nand = c.nand := by simp [Chip.raise]
@[simp] theorem Chip.clm_raise (reg b : Nat) : (c.raise reg b).clm = c.clm := by simp [Chip.raise]
@[simp] theorem Chip.bkb_raise (reg b : Nat) : (c.raise reg b).bkb = c.bkb := by simp [Chip.raise]
@[simp] theorem Chip.pair_raise (reg b : Nat) : (c.raise reg b).pair = c.pair := by simp [Chip.raise]
@[simp] theorem Chip.kiln_raise (reg b : Nat) : (c.raise reg b).kiln = c.kiln := by simp [Chip.raise]

/-! `emberDrop` -/
@[simp] theorem Chip.mem_emberDrop (typ : Nat) : (c.emberDrop typ).mem = c.mem := by simp [Chip.emberDrop]
@[simp] theorem Chip.pools_emberDrop (typ : Nat) : (c.emberDrop typ).pools = c.pools := by simp [Chip.emberDrop]
@[simp] theorem Chip.resp_emberDrop (typ : Nat) : (c.emberDrop typ).resp = c.resp := by simp [Chip.emberDrop]
@[simp] theorem Chip.freeCtr_emberDrop (typ : Nat) : (c.emberDrop typ).freeCtr = c.freeCtr := by simp [Chip.emberDrop]
@[simp] theorem Chip.fuses_emberDrop (typ : Nat) : (c.emberDrop typ).fuses = c.fuses := by simp [Chip.emberDrop]
@[simp] theorem Chip.flo_emberDrop (typ : Nat) : (c.emberDrop typ).flo = c.flo := by simp [Chip.emberDrop]
@[simp] theorem Chip.ring_emberDrop (typ : Nat) : (c.emberDrop typ).ring = c.ring := by simp [Chip.emberDrop]
@[simp] theorem Chip.apc_emberDrop (typ : Nat) : (c.emberDrop typ).apc = c.apc := by simp [Chip.emberDrop]
@[simp] theorem Chip.grd_emberDrop (typ : Nat) : (c.emberDrop typ).grd = c.grd := by simp [Chip.emberDrop]
@[simp] theorem Chip.upd_emberDrop (typ : Nat) : (c.emberDrop typ).upd = c.upd := by simp [Chip.emberDrop]
@[simp] theorem Chip.crp_emberDrop (typ : Nat) : (c.emberDrop typ).crp = c.crp := by simp [Chip.emberDrop]
@[simp] theorem Chip.tim_emberDrop (typ : Nat) : (c.emberDrop typ).tim = c.tim := by simp [Chip.emberDrop]
@[simp] theorem Chip.lma_emberDrop (typ : Nat) : (c.emberDrop typ).lma = c.lma := by simp [Chip.emberDrop]
@[simp] theorem Chip.air_emberDrop (typ : Nat) : (c.emberDrop typ).air = c.air := by simp [Chip.emberDrop]
@[simp] theorem Chip.hcx_emberDrop (typ : Nat) : (c.emberDrop typ).hcx = c.hcx := by simp [Chip.emberDrop]
@[simp] theorem Chip.ciu_emberDrop (typ : Nat) : (c.emberDrop typ).ciu = c.ciu := by simp [Chip.emberDrop]
@[simp] theorem Chip.bal_emberDrop (typ : Nat) : (c.emberDrop typ).bal = c.bal := by simp [Chip.emberDrop]
@[simp] theorem Chip.nand_emberDrop (typ : Nat) : (c.emberDrop typ).nand = c.nand := by simp [Chip.emberDrop]
@[simp] theorem Chip.clm_emberDrop (typ : Nat) : (c.emberDrop typ).clm = c.clm := by simp [Chip.emberDrop]
@[simp] theorem Chip.bkb_emberDrop (typ : Nat) : (c.emberDrop typ).bkb = c.bkb := by simp [Chip.emberDrop]
@[simp] theorem Chip.pair_emberDrop (typ : Nat) : (c.emberDrop typ).pair = c.pair := by simp [Chip.emberDrop]
@[simp] theorem Chip.kiln_emberDrop (typ : Nat) : (c.emberDrop typ).kiln = c.kiln := by simp [Chip.emberDrop]

/-! `emberPost` -/
@[simp] theorem Chip.mem_emberPost (typ : Nat) (p : List Byte) (sn m : Bool) : (c.emberPost typ p sn m).mem = c.mem := by unfold Chip.emberPost; split <;> simp
@[simp] theorem Chip.pools_emberPost (typ : Nat) (p : List Byte) (sn m : Bool) : (c.emberPost typ p sn m).pools = c.pools := by unfold Chip.emberPost; split <;> simp
@[simp] theorem Chip.resp_emberPost (typ : Nat) (p : List Byte) (sn m : Bool) : (c.emberPost typ p sn m).resp = c.resp := by unfold Chip.emberPost; split <;> simp
@[simp] theorem Chip.freeCtr_emberPost (typ : Nat) (p : List Byte) (sn m : Bool) : (c.emberPost typ p sn m).freeCtr = c.freeCtr := by unfold Chip.emberPost; split <;> simp
@[simp] theorem Chip.fuses_emberPost (typ : Nat) (p : List Byte) (sn m : Bool) : (c.emberPost typ p sn m).fuses = c.fuses := by unfold Chip.emberPost; split <;> simp
@[simp] theorem Chip.flo_emberPost (typ : Nat) (p : List Byte) (sn m : Bool) : (c.emberPost typ p sn m).flo = c.flo := by unfold Chip.emberPost; split <;> simp
@[simp] theorem Chip.ring_emberPost (typ : Nat) (p : List Byte) (sn m : Bool) : (c.emberPost typ p sn m).ring = c.ring := by unfold Chip.emberPost; split <;> simp
@[simp] theorem Chip.apc_emberPost (typ : Nat) (p : List Byte) (sn m : Bool) : (c.emberPost typ p sn m).apc = c.apc := by unfold Chip.emberPost; split <;> simp
@[simp] theorem Chip.grd_emberPost (typ : Nat) (p : List Byte) (sn m : Bool) : (c.emberPost typ p sn m).grd = c.grd := by unfold Chip.emberPost; split <;> simp
@[simp] theorem Chip.upd_emberPost (typ : Nat) (p : List Byte) (sn m : Bool) : (c.emberPost typ p sn m).upd = c.upd := by unfold Chip.emberPost; split <;> simp
@[simp] theorem Chip.crp_emberPost (typ : Nat) (p : List Byte) (sn m : Bool) : (c.emberPost typ p sn m).crp = c.crp := by unfold Chip.emberPost; split <;> simp
@[simp] theorem Chip.tim_emberPost (typ : Nat) (p : List Byte) (sn m : Bool) : (c.emberPost typ p sn m).tim = c.tim := by unfold Chip.emberPost; split <;> simp
@[simp] theorem Chip.lma_emberPost (typ : Nat) (p : List Byte) (sn m : Bool) : (c.emberPost typ p sn m).lma = c.lma := by unfold Chip.emberPost; split <;> simp
@[simp] theorem Chip.air_emberPost (typ : Nat) (p : List Byte) (sn m : Bool) : (c.emberPost typ p sn m).air = c.air := by unfold Chip.emberPost; split <;> simp
@[simp] theorem Chip.hcx_emberPost (typ : Nat) (p : List Byte) (sn m : Bool) : (c.emberPost typ p sn m).hcx = c.hcx := by unfold Chip.emberPost; split <;> simp
@[simp] theorem Chip.ciu_emberPost (typ : Nat) (p : List Byte) (sn m : Bool) : (c.emberPost typ p sn m).ciu = c.ciu := by unfold Chip.emberPost; split <;> simp
@[simp] theorem Chip.bal_emberPost (typ : Nat) (p : List Byte) (sn m : Bool) : (c.emberPost typ p sn m).bal = c.bal := by unfold Chip.emberPost; split <;> simp
@[simp] theorem Chip.nand_emberPost (typ : Nat) (p : List Byte) (sn m : Bool) : (c.emberPost typ p sn m).nand = c.nand := by unfold Chip.emberPost; split <;> simp
@[simp] theorem Chip.clm_emberPost (typ : Nat) (p : List Byte) (sn m : Bool) : (c.emberPost typ p sn m).clm = c.clm := by unfold Chip.emberPost; split <;> simp
@[simp] theorem Chip.bkb_emberPost (typ : Nat) (p : List Byte) (sn m : Bool) : (c.emberPost typ p sn m).bkb = c.bkb := by unfold Chip.emberPost; split <;> simp
@[simp] theorem Chip.pair_emberPost (typ : Nat) (p : List Byte) (sn m : Bool) : (c.emberPost typ p sn m).pair = c.pair := by unfold Chip.emberPost; split <;> simp
@[simp] theorem Chip.kiln_emberPost (typ : Nat) (p : List Byte) (sn m : Bool) : (c.emberPost typ p sn m).kiln = c.kiln := by unfold Chip.emberPost; split <;> simp

/-! `record` -/
@[simp] theorem Chip.mem_record (typ : Nat) (p : List Byte) : (c.record typ p).mem = c.mem := by simp [Chip.record]
@[simp] theorem Chip.pools_record (typ : Nat) (p : List Byte) : (c.record typ p).pools = c.pools := by simp [Chip.record]
@[simp] theorem Chip.resp_record (typ : Nat) (p : List Byte) : (c.record typ p).resp = c.resp := by simp [Chip.record]
@[simp] theorem Chip.freeCtr_record (typ : Nat) (p : List Byte) : (c.record typ p).freeCtr = c.freeCtr := by simp [Chip.record]
@[simp] theorem Chip.fuses_record (typ : Nat) (p : List Byte) : (c.record typ p).fuses = c.fuses := by simp [Chip.record]
@[simp] theorem Chip.flo_record (typ : Nat) (p : List Byte) : (c.record typ p).flo = c.flo := by simp [Chip.record]
@[simp] theorem Chip.ring_record (typ : Nat) (p : List Byte) : (c.record typ p).ring = c.ring := by simp [Chip.record]
@[simp] theorem Chip.apc_record (typ : Nat) (p : List Byte) : (c.record typ p).apc = c.apc := by simp [Chip.record]
@[simp] theorem Chip.grd_record (typ : Nat) (p : List Byte) : (c.record typ p).grd = c.grd := by simp [Chip.record]
@[simp] theorem Chip.upd_record (typ : Nat) (p : List Byte) : (c.record typ p).upd = c.upd := by simp [Chip.record]
@[simp] theorem Chip.crp_record (typ : Nat) (p : List Byte) : (c.record typ p).crp = c.crp := by simp [Chip.record]
@[simp] theorem Chip.tim_record (typ : Nat) (p : List Byte) : (c.record typ p).tim = c.tim := by simp [Chip.record]
@[simp] theorem Chip.lma_record (typ : Nat) (p : List Byte) : (c.record typ p).lma = c.lma := by simp [Chip.record]
@[simp] theorem Chip.air_record (typ : Nat) (p : List Byte) : (c.record typ p).air = c.air := by simp [Chip.record]
@[simp] theorem Chip.hcx_record (typ : Nat) (p : List Byte) : (c.record typ p).hcx = c.hcx := by simp [Chip.record]
@[simp] theorem Chip.ciu_record (typ : Nat) (p : List Byte) : (c.record typ p).ciu = c.ciu := by simp [Chip.record]
@[simp] theorem Chip.bal_record (typ : Nat) (p : List Byte) : (c.record typ p).bal = c.bal := by simp [Chip.record]
@[simp] theorem Chip.nand_record (typ : Nat) (p : List Byte) : (c.record typ p).nand = c.nand := by simp [Chip.record]
@[simp] theorem Chip.clm_record (typ : Nat) (p : List Byte) : (c.record typ p).clm = c.clm := by simp [Chip.record]
@[simp] theorem Chip.bkb_record (typ : Nat) (p : List Byte) : (c.record typ p).bkb = c.bkb := by simp [Chip.record]
@[simp] theorem Chip.pair_record (typ : Nat) (p : List Byte) : (c.record typ p).pair = c.pair := by simp [Chip.record]
@[simp] theorem Chip.kiln_record (typ : Nat) (p : List Byte) : (c.record typ p).kiln = c.kiln := by simp [Chip.record]

/-! `noteRefusal` -/
@[simp] theorem Chip.mem_noteRefusal (ini level : Nat) (wr : Bool) (addr : Nat) : (c.noteRefusal ini level wr addr).mem = c.mem := by
  simp only [Chip.noteRefusal, Chip.mem_record]
  rw [Chip.mem_when _ _ _ fun c => by simp]
  simp
@[simp] theorem Chip.pools_noteRefusal (ini level : Nat) (wr : Bool) (addr : Nat) : (c.noteRefusal ini level wr addr).pools = c.pools := by
  simp only [Chip.noteRefusal, Chip.pools_record]
  rw [Chip.pools_when _ _ _ fun c => by simp]
  simp
@[simp] theorem Chip.resp_noteRefusal (ini level : Nat) (wr : Bool) (addr : Nat) : (c.noteRefusal ini level wr addr).resp = c.resp := by
  simp only [Chip.noteRefusal, Chip.resp_record]
  rw [Chip.resp_when _ _ _ fun c => by simp]
  simp
@[simp] theorem Chip.freeCtr_noteRefusal (ini level : Nat) (wr : Bool) (addr : Nat) : (c.noteRefusal ini level wr addr).freeCtr = c.freeCtr := by
  simp only [Chip.noteRefusal, Chip.freeCtr_record]
  rw [Chip.freeCtr_when _ _ _ fun c => by simp]
  simp
@[simp] theorem Chip.fuses_noteRefusal (ini level : Nat) (wr : Bool) (addr : Nat) : (c.noteRefusal ini level wr addr).fuses = c.fuses := by
  simp only [Chip.noteRefusal, Chip.fuses_record]
  rw [Chip.fuses_when _ _ _ fun c => by simp]
  simp
@[simp] theorem Chip.flo_noteRefusal (ini level : Nat) (wr : Bool) (addr : Nat) : (c.noteRefusal ini level wr addr).flo = c.flo := by
  simp only [Chip.noteRefusal, Chip.flo_record]
  rw [Chip.flo_when _ _ _ fun c => by simp]
  simp
@[simp] theorem Chip.ring_noteRefusal (ini level : Nat) (wr : Bool) (addr : Nat) : (c.noteRefusal ini level wr addr).ring = c.ring := by
  simp only [Chip.noteRefusal, Chip.ring_record]
  rw [Chip.ring_when _ _ _ fun c => by simp]
  simp
@[simp] theorem Chip.apc_noteRefusal (ini level : Nat) (wr : Bool) (addr : Nat) : (c.noteRefusal ini level wr addr).apc = c.apc := by
  simp only [Chip.noteRefusal, Chip.apc_record]
  rw [Chip.apc_when _ _ _ fun c => by simp]
  simp
@[simp] theorem Chip.grd_noteRefusal (ini level : Nat) (wr : Bool) (addr : Nat) : (c.noteRefusal ini level wr addr).grd = c.grd := by
  simp only [Chip.noteRefusal, Chip.grd_record]
  rw [Chip.grd_when _ _ _ fun c => by simp]
  simp
@[simp] theorem Chip.upd_noteRefusal (ini level : Nat) (wr : Bool) (addr : Nat) : (c.noteRefusal ini level wr addr).upd = c.upd := by
  simp only [Chip.noteRefusal, Chip.upd_record]
  rw [Chip.upd_when _ _ _ fun c => by simp]
  simp
@[simp] theorem Chip.crp_noteRefusal (ini level : Nat) (wr : Bool) (addr : Nat) : (c.noteRefusal ini level wr addr).crp = c.crp := by
  simp only [Chip.noteRefusal, Chip.crp_record]
  rw [Chip.crp_when _ _ _ fun c => by simp]
  simp
@[simp] theorem Chip.tim_noteRefusal (ini level : Nat) (wr : Bool) (addr : Nat) : (c.noteRefusal ini level wr addr).tim = c.tim := by
  simp only [Chip.noteRefusal, Chip.tim_record]
  rw [Chip.tim_when _ _ _ fun c => by simp]
  simp
@[simp] theorem Chip.lma_noteRefusal (ini level : Nat) (wr : Bool) (addr : Nat) : (c.noteRefusal ini level wr addr).lma = c.lma := by
  simp only [Chip.noteRefusal, Chip.lma_record]
  rw [Chip.lma_when _ _ _ fun c => by simp]
  simp
@[simp] theorem Chip.air_noteRefusal (ini level : Nat) (wr : Bool) (addr : Nat) : (c.noteRefusal ini level wr addr).air = c.air := by
  simp only [Chip.noteRefusal, Chip.air_record]
  rw [Chip.air_when _ _ _ fun c => by simp]
  simp
@[simp] theorem Chip.hcx_noteRefusal (ini level : Nat) (wr : Bool) (addr : Nat) : (c.noteRefusal ini level wr addr).hcx = c.hcx := by
  simp only [Chip.noteRefusal, Chip.hcx_record]
  rw [Chip.hcx_when _ _ _ fun c => by simp]
  simp
@[simp] theorem Chip.ciu_noteRefusal (ini level : Nat) (wr : Bool) (addr : Nat) : (c.noteRefusal ini level wr addr).ciu = c.ciu := by
  simp only [Chip.noteRefusal, Chip.ciu_record]
  rw [Chip.ciu_when _ _ _ fun c => by simp]
  simp
@[simp] theorem Chip.bal_noteRefusal (ini level : Nat) (wr : Bool) (addr : Nat) : (c.noteRefusal ini level wr addr).bal = c.bal := by
  simp only [Chip.noteRefusal, Chip.bal_record]
  rw [Chip.bal_when _ _ _ fun c => by simp]
  simp
@[simp] theorem Chip.nand_noteRefusal (ini level : Nat) (wr : Bool) (addr : Nat) : (c.noteRefusal ini level wr addr).nand = c.nand := by
  simp only [Chip.noteRefusal, Chip.nand_record]
  rw [Chip.nand_when _ _ _ fun c => by simp]
  simp
@[simp] theorem Chip.clm_noteRefusal (ini level : Nat) (wr : Bool) (addr : Nat) : (c.noteRefusal ini level wr addr).clm = c.clm := by
  simp only [Chip.noteRefusal, Chip.clm_record]
  rw [Chip.clm_when _ _ _ fun c => by simp]
  simp
@[simp] theorem Chip.bkb_noteRefusal (ini level : Nat) (wr : Bool) (addr : Nat) : (c.noteRefusal ini level wr addr).bkb = c.bkb := by
  simp only [Chip.noteRefusal, Chip.bkb_record]
  rw [Chip.bkb_when _ _ _ fun c => by simp]
  simp
@[simp] theorem Chip.pair_noteRefusal (ini level : Nat) (wr : Bool) (addr : Nat) : (c.noteRefusal ini level wr addr).pair = c.pair := by
  simp only [Chip.noteRefusal, Chip.pair_record]
  rw [Chip.pair_when _ _ _ fun c => by simp]
  simp
@[simp] theorem Chip.kiln_noteRefusal (ini level : Nat) (wr : Bool) (addr : Nat) : (c.noteRefusal ini level wr addr).kiln = c.kiln := by
  simp only [Chip.noteRefusal, Chip.kiln_record]
  rw [Chip.kiln_when _ _ _ fun c => by simp]
  simp

/-! `noteRws` -/
@[simp] theorem Chip.mem_noteRws (who : Who) (reg m v : Nat) : (c.noteRws who reg m v).mem = c.mem := by
  rw [Chip.noteRws_eq]; split
  · exact c.mem_noteRefusal _ _ _ _
  · rfl
@[simp] theorem Chip.pools_noteRws (who : Who) (reg m v : Nat) : (c.noteRws who reg m v).pools = c.pools := by
  rw [Chip.noteRws_eq]; split
  · exact c.pools_noteRefusal _ _ _ _
  · rfl
@[simp] theorem Chip.resp_noteRws (who : Who) (reg m v : Nat) : (c.noteRws who reg m v).resp = c.resp := by
  rw [Chip.noteRws_eq]; split
  · exact c.resp_noteRefusal _ _ _ _
  · rfl
@[simp] theorem Chip.freeCtr_noteRws (who : Who) (reg m v : Nat) : (c.noteRws who reg m v).freeCtr = c.freeCtr := by
  rw [Chip.noteRws_eq]; split
  · exact c.freeCtr_noteRefusal _ _ _ _
  · rfl
@[simp] theorem Chip.fuses_noteRws (who : Who) (reg m v : Nat) : (c.noteRws who reg m v).fuses = c.fuses := by
  rw [Chip.noteRws_eq]; split
  · exact c.fuses_noteRefusal _ _ _ _
  · rfl
@[simp] theorem Chip.flo_noteRws (who : Who) (reg m v : Nat) : (c.noteRws who reg m v).flo = c.flo := by
  rw [Chip.noteRws_eq]; split
  · exact c.flo_noteRefusal _ _ _ _
  · rfl
@[simp] theorem Chip.ring_noteRws (who : Who) (reg m v : Nat) : (c.noteRws who reg m v).ring = c.ring := by
  rw [Chip.noteRws_eq]; split
  · exact c.ring_noteRefusal _ _ _ _
  · rfl
@[simp] theorem Chip.apc_noteRws (who : Who) (reg m v : Nat) : (c.noteRws who reg m v).apc = c.apc := by
  rw [Chip.noteRws_eq]; split
  · exact c.apc_noteRefusal _ _ _ _
  · rfl
@[simp] theorem Chip.grd_noteRws (who : Who) (reg m v : Nat) : (c.noteRws who reg m v).grd = c.grd := by
  rw [Chip.noteRws_eq]; split
  · exact c.grd_noteRefusal _ _ _ _
  · rfl
@[simp] theorem Chip.upd_noteRws (who : Who) (reg m v : Nat) : (c.noteRws who reg m v).upd = c.upd := by
  rw [Chip.noteRws_eq]; split
  · exact c.upd_noteRefusal _ _ _ _
  · rfl
@[simp] theorem Chip.crp_noteRws (who : Who) (reg m v : Nat) : (c.noteRws who reg m v).crp = c.crp := by
  rw [Chip.noteRws_eq]; split
  · exact c.crp_noteRefusal _ _ _ _
  · rfl
@[simp] theorem Chip.tim_noteRws (who : Who) (reg m v : Nat) : (c.noteRws who reg m v).tim = c.tim := by
  rw [Chip.noteRws_eq]; split
  · exact c.tim_noteRefusal _ _ _ _
  · rfl
@[simp] theorem Chip.lma_noteRws (who : Who) (reg m v : Nat) : (c.noteRws who reg m v).lma = c.lma := by
  rw [Chip.noteRws_eq]; split
  · exact c.lma_noteRefusal _ _ _ _
  · rfl
@[simp] theorem Chip.air_noteRws (who : Who) (reg m v : Nat) : (c.noteRws who reg m v).air = c.air := by
  rw [Chip.noteRws_eq]; split
  · exact c.air_noteRefusal _ _ _ _
  · rfl
@[simp] theorem Chip.hcx_noteRws (who : Who) (reg m v : Nat) : (c.noteRws who reg m v).hcx = c.hcx := by
  rw [Chip.noteRws_eq]; split
  · exact c.hcx_noteRefusal _ _ _ _
  · rfl
@[simp] theorem Chip.ciu_noteRws (who : Who) (reg m v : Nat) : (c.noteRws who reg m v).ciu = c.ciu := by
  rw [Chip.noteRws_eq]; split
  · exact c.ciu_noteRefusal _ _ _ _
  · rfl
@[simp] theorem Chip.bal_noteRws (who : Who) (reg m v : Nat) : (c.noteRws who reg m v).bal = c.bal := by
  rw [Chip.noteRws_eq]; split
  · exact c.bal_noteRefusal _ _ _ _
  · rfl
@[simp] theorem Chip.nand_noteRws (who : Who) (reg m v : Nat) : (c.noteRws who reg m v).nand = c.nand := by
  rw [Chip.noteRws_eq]; split
  · exact c.nand_noteRefusal _ _ _ _
  · rfl
@[simp] theorem Chip.clm_noteRws (who : Who) (reg m v : Nat) : (c.noteRws who reg m v).clm = c.clm := by
  rw [Chip.noteRws_eq]; split
  · exact c.clm_noteRefusal _ _ _ _
  · rfl
@[simp] theorem Chip.bkb_noteRws (who : Who) (reg m v : Nat) : (c.noteRws who reg m v).bkb = c.bkb := by
  rw [Chip.noteRws_eq]; split
  · exact c.bkb_noteRefusal _ _ _ _
  · rfl
@[simp] theorem Chip.pair_noteRws (who : Who) (reg m v : Nat) : (c.noteRws who reg m v).pair = c.pair := by
  rw [Chip.noteRws_eq]; split
  · exact c.pair_noteRefusal _ _ _ _
  · rfl
@[simp] theorem Chip.kiln_noteRws (who : Who) (reg m v : Nat) : (c.noteRws who reg m v).kiln = c.kiln := by
  rw [Chip.noteRws_eq]; split
  · exact c.kiln_noteRefusal _ _ _ _
  · rfl

/-! `noteGatedAt` -/
@[simp] theorem Chip.mem_noteGatedAt (d b ini a : Nat) (wr : Bool) : (c.noteGatedAt d b ini a wr).mem = c.mem := by
  unfold Chip.noteGatedAt; dsimp only; split; rfl; split <;> simp
@[simp] theorem Chip.pools_noteGatedAt (d b ini a : Nat) (wr : Bool) : (c.noteGatedAt d b ini a wr).pools = c.pools := by
  unfold Chip.noteGatedAt; dsimp only; split; rfl; split <;> simp
@[simp] theorem Chip.resp_noteGatedAt (d b ini a : Nat) (wr : Bool) : (c.noteGatedAt d b ini a wr).resp = c.resp := by
  unfold Chip.noteGatedAt; dsimp only; split; rfl; split <;> simp
@[simp] theorem Chip.freeCtr_noteGatedAt (d b ini a : Nat) (wr : Bool) : (c.noteGatedAt d b ini a wr).freeCtr = c.freeCtr := by
  unfold Chip.noteGatedAt; dsimp only; split; rfl; split <;> simp
@[simp] theorem Chip.fuses_noteGatedAt (d b ini a : Nat) (wr : Bool) : (c.noteGatedAt d b ini a wr).fuses = c.fuses := by
  unfold Chip.noteGatedAt; dsimp only; split; rfl; split <;> simp
@[simp] theorem Chip.flo_noteGatedAt (d b ini a : Nat) (wr : Bool) : (c.noteGatedAt d b ini a wr).flo = c.flo := by
  unfold Chip.noteGatedAt; dsimp only; split; rfl; split <;> simp
@[simp] theorem Chip.ring_noteGatedAt (d b ini a : Nat) (wr : Bool) : (c.noteGatedAt d b ini a wr).ring = c.ring := by
  unfold Chip.noteGatedAt; dsimp only; split; rfl; split <;> simp
@[simp] theorem Chip.apc_noteGatedAt (d b ini a : Nat) (wr : Bool) : (c.noteGatedAt d b ini a wr).apc = c.apc := by
  unfold Chip.noteGatedAt; dsimp only; split; rfl; split <;> simp
@[simp] theorem Chip.grd_noteGatedAt (d b ini a : Nat) (wr : Bool) : (c.noteGatedAt d b ini a wr).grd = c.grd := by
  unfold Chip.noteGatedAt; dsimp only; split; rfl; split <;> simp
@[simp] theorem Chip.upd_noteGatedAt (d b ini a : Nat) (wr : Bool) : (c.noteGatedAt d b ini a wr).upd = c.upd := by
  unfold Chip.noteGatedAt; dsimp only; split; rfl; split <;> simp
@[simp] theorem Chip.tim_noteGatedAt (d b ini a : Nat) (wr : Bool) : (c.noteGatedAt d b ini a wr).tim = c.tim := by
  unfold Chip.noteGatedAt; dsimp only; split; rfl; split <;> simp
@[simp] theorem Chip.lma_noteGatedAt (d b ini a : Nat) (wr : Bool) : (c.noteGatedAt d b ini a wr).lma = c.lma := by
  unfold Chip.noteGatedAt; dsimp only; split; rfl; split <;> simp
@[simp] theorem Chip.air_noteGatedAt (d b ini a : Nat) (wr : Bool) : (c.noteGatedAt d b ini a wr).air = c.air := by
  unfold Chip.noteGatedAt; dsimp only; split; rfl; split <;> simp
@[simp] theorem Chip.hcx_noteGatedAt (d b ini a : Nat) (wr : Bool) : (c.noteGatedAt d b ini a wr).hcx = c.hcx := by
  unfold Chip.noteGatedAt; dsimp only; split; rfl; split <;> simp
@[simp] theorem Chip.ciu_noteGatedAt (d b ini a : Nat) (wr : Bool) : (c.noteGatedAt d b ini a wr).ciu = c.ciu := by
  unfold Chip.noteGatedAt; dsimp only; split; rfl; split <;> simp
@[simp] theorem Chip.bal_noteGatedAt (d b ini a : Nat) (wr : Bool) : (c.noteGatedAt d b ini a wr).bal = c.bal := by
  unfold Chip.noteGatedAt; dsimp only; split; rfl; split <;> simp
@[simp] theorem Chip.nand_noteGatedAt (d b ini a : Nat) (wr : Bool) : (c.noteGatedAt d b ini a wr).nand = c.nand := by
  unfold Chip.noteGatedAt; dsimp only; split; rfl; split <;> simp
@[simp] theorem Chip.clm_noteGatedAt (d b ini a : Nat) (wr : Bool) : (c.noteGatedAt d b ini a wr).clm = c.clm := by
  unfold Chip.noteGatedAt; dsimp only; split; rfl; split <;> simp
@[simp] theorem Chip.bkb_noteGatedAt (d b ini a : Nat) (wr : Bool) : (c.noteGatedAt d b ini a wr).bkb = c.bkb := by
  unfold Chip.noteGatedAt; dsimp only; split; rfl; split <;> simp
@[simp] theorem Chip.pair_noteGatedAt (d b ini a : Nat) (wr : Bool) : (c.noteGatedAt d b ini a wr).pair = c.pair := by
  unfold Chip.noteGatedAt; dsimp only; split; rfl; split <;> simp
@[simp] theorem Chip.kiln_noteGatedAt (d b ini a : Nat) (wr : Bool) : (c.noteGatedAt d b ini a wr).kiln = c.kiln := by
  unfold Chip.noteGatedAt; dsimp only; split; rfl; split <;> simp

/-! `noteGated` -/
@[simp] theorem Chip.mem_noteGated (b ini a : Nat) (wr : Bool) : (c.noteGated b ini a wr).mem = c.mem := by simp [Chip.noteGated]
@[simp] theorem Chip.pools_noteGated (b ini a : Nat) (wr : Bool) : (c.noteGated b ini a wr).pools = c.pools := by simp [Chip.noteGated]
@[simp] theorem Chip.resp_noteGated (b ini a : Nat) (wr : Bool) : (c.noteGated b ini a wr).resp = c.resp := by simp [Chip.noteGated]
@[simp] theorem Chip.freeCtr_noteGated (b ini a : Nat) (wr : Bool) : (c.noteGated b ini a wr).freeCtr = c.freeCtr := by simp [Chip.noteGated]
@[simp] theorem Chip.fuses_noteGated (b ini a : Nat) (wr : Bool) : (c.noteGated b ini a wr).fuses = c.fuses := by simp [Chip.noteGated]
@[simp] theorem Chip.flo_noteGated (b ini a : Nat) (wr : Bool) : (c.noteGated b ini a wr).flo = c.flo := by simp [Chip.noteGated]
@[simp] theorem Chip.ring_noteGated (b ini a : Nat) (wr : Bool) : (c.noteGated b ini a wr).ring = c.ring := by simp [Chip.noteGated]
@[simp] theorem Chip.apc_noteGated (b ini a : Nat) (wr : Bool) : (c.noteGated b ini a wr).apc = c.apc := by simp [Chip.noteGated]
@[simp] theorem Chip.grd_noteGated (b ini a : Nat) (wr : Bool) : (c.noteGated b ini a wr).grd = c.grd := by simp [Chip.noteGated]
@[simp] theorem Chip.upd_noteGated (b ini a : Nat) (wr : Bool) : (c.noteGated b ini a wr).upd = c.upd := by simp [Chip.noteGated]
@[simp] theorem Chip.tim_noteGated (b ini a : Nat) (wr : Bool) : (c.noteGated b ini a wr).tim = c.tim := by simp [Chip.noteGated]
@[simp] theorem Chip.lma_noteGated (b ini a : Nat) (wr : Bool) : (c.noteGated b ini a wr).lma = c.lma := by simp [Chip.noteGated]
@[simp] theorem Chip.air_noteGated (b ini a : Nat) (wr : Bool) : (c.noteGated b ini a wr).air = c.air := by simp [Chip.noteGated]
@[simp] theorem Chip.hcx_noteGated (b ini a : Nat) (wr : Bool) : (c.noteGated b ini a wr).hcx = c.hcx := by simp [Chip.noteGated]
@[simp] theorem Chip.ciu_noteGated (b ini a : Nat) (wr : Bool) : (c.noteGated b ini a wr).ciu = c.ciu := by simp [Chip.noteGated]
@[simp] theorem Chip.bal_noteGated (b ini a : Nat) (wr : Bool) : (c.noteGated b ini a wr).bal = c.bal := by simp [Chip.noteGated]
@[simp] theorem Chip.nand_noteGated (b ini a : Nat) (wr : Bool) : (c.noteGated b ini a wr).nand = c.nand := by simp [Chip.noteGated]
@[simp] theorem Chip.clm_noteGated (b ini a : Nat) (wr : Bool) : (c.noteGated b ini a wr).clm = c.clm := by simp [Chip.noteGated]
@[simp] theorem Chip.bkb_noteGated (b ini a : Nat) (wr : Bool) : (c.noteGated b ini a wr).bkb = c.bkb := by simp [Chip.noteGated]
@[simp] theorem Chip.pair_noteGated (b ini a : Nat) (wr : Bool) : (c.noteGated b ini a wr).pair = c.pair := by simp [Chip.noteGated]
@[simp] theorem Chip.kiln_noteGated (b ini a : Nat) (wr : Bool) : (c.noteGated b ini a wr).kiln = c.kiln := by simp [Chip.noteGated]

/-! `postLost` -/
@[simp] theorem Chip.mem_postLost (ini : Nat) : (c.postLost ini).mem = c.mem := by simp [Chip.postLost]
@[simp] theorem Chip.pools_postLost (ini : Nat) : (c.postLost ini).pools = c.pools := by simp [Chip.postLost]
@[simp] theorem Chip.resp_postLost (ini : Nat) : (c.postLost ini).resp = c.resp := by simp [Chip.postLost]
@[simp] theorem Chip.freeCtr_postLost (ini : Nat) : (c.postLost ini).freeCtr = c.freeCtr := by simp [Chip.postLost]
@[simp] theorem Chip.fuses_postLost (ini : Nat) : (c.postLost ini).fuses = c.fuses := by simp [Chip.postLost]
@[simp] theorem Chip.flo_postLost (ini : Nat) : (c.postLost ini).flo = c.flo := by simp [Chip.postLost]
@[simp] theorem Chip.ring_postLost (ini : Nat) : (c.postLost ini).ring = c.ring := by simp [Chip.postLost]
@[simp] theorem Chip.apc_postLost (ini : Nat) : (c.postLost ini).apc = c.apc := by simp [Chip.postLost]
@[simp] theorem Chip.grd_postLost (ini : Nat) : (c.postLost ini).grd = c.grd := by simp [Chip.postLost]
@[simp] theorem Chip.upd_postLost (ini : Nat) : (c.postLost ini).upd = c.upd := by simp [Chip.postLost]
@[simp] theorem Chip.tim_postLost (ini : Nat) : (c.postLost ini).tim = c.tim := by simp [Chip.postLost]
@[simp] theorem Chip.lma_postLost (ini : Nat) : (c.postLost ini).lma = c.lma := by simp [Chip.postLost]
@[simp] theorem Chip.air_postLost (ini : Nat) : (c.postLost ini).air = c.air := by simp [Chip.postLost]
@[simp] theorem Chip.hcx_postLost (ini : Nat) : (c.postLost ini).hcx = c.hcx := by simp [Chip.postLost]
@[simp] theorem Chip.ciu_postLost (ini : Nat) : (c.postLost ini).ciu = c.ciu := by simp [Chip.postLost]
@[simp] theorem Chip.bal_postLost (ini : Nat) : (c.postLost ini).bal = c.bal := by simp [Chip.postLost]
@[simp] theorem Chip.nand_postLost (ini : Nat) : (c.postLost ini).nand = c.nand := by simp [Chip.postLost]
@[simp] theorem Chip.clm_postLost (ini : Nat) : (c.postLost ini).clm = c.clm := by simp [Chip.postLost]
@[simp] theorem Chip.bkb_postLost (ini : Nat) : (c.postLost ini).bkb = c.bkb := by simp [Chip.postLost]
@[simp] theorem Chip.pair_postLost (ini : Nat) : (c.postLost ini).pair = c.pair := by simp [Chip.postLost]
@[simp] theorem Chip.kiln_postLost (ini : Nat) : (c.postLost ini).kiln = c.kiln := by simp [Chip.postLost]

/-! `toRing`, and the notices and completions that go through it -/
/-- Where RING is reached, what a block sends to it arrives. -/
theorem Chip.toRing_reached (f : Ring → Ring) (h : c.portGated 0 = false) :
    c.toRing f = { c with ring := f c.ring } := by simp [Chip.toRing, h]

@[simp] theorem Chip.mem_toRing (f : Ring → Ring) : (c.toRing f).mem = c.mem := by unfold Chip.toRing; split <;> simp
@[simp] theorem Chip.pools_toRing (f : Ring → Ring) : (c.toRing f).pools = c.pools := by unfold Chip.toRing; split <;> simp
@[simp] theorem Chip.resp_toRing (f : Ring → Ring) : (c.toRing f).resp = c.resp := by unfold Chip.toRing; split <;> simp
@[simp] theorem Chip.freeCtr_toRing (f : Ring → Ring) : (c.toRing f).freeCtr = c.freeCtr := by unfold Chip.toRing; split <;> simp
@[simp] theorem Chip.fuses_toRing (f : Ring → Ring) : (c.toRing f).fuses = c.fuses := by unfold Chip.toRing; split <;> simp
@[simp] theorem Chip.flo_toRing (f : Ring → Ring) : (c.toRing f).flo = c.flo := by unfold Chip.toRing; split <;> simp
@[simp] theorem Chip.apc_toRing (f : Ring → Ring) : (c.toRing f).apc = c.apc := by unfold Chip.toRing; split <;> simp
@[simp] theorem Chip.grd_toRing (f : Ring → Ring) : (c.toRing f).grd = c.grd := by unfold Chip.toRing; split <;> simp
@[simp] theorem Chip.upd_toRing (f : Ring → Ring) : (c.toRing f).upd = c.upd := by unfold Chip.toRing; split <;> simp
@[simp] theorem Chip.tim_toRing (f : Ring → Ring) : (c.toRing f).tim = c.tim := by unfold Chip.toRing; split <;> simp
@[simp] theorem Chip.lma_toRing (f : Ring → Ring) : (c.toRing f).lma = c.lma := by unfold Chip.toRing; split <;> simp
@[simp] theorem Chip.air_toRing (f : Ring → Ring) : (c.toRing f).air = c.air := by unfold Chip.toRing; split <;> simp
@[simp] theorem Chip.hcx_toRing (f : Ring → Ring) : (c.toRing f).hcx = c.hcx := by unfold Chip.toRing; split <;> simp
@[simp] theorem Chip.ciu_toRing (f : Ring → Ring) : (c.toRing f).ciu = c.ciu := by unfold Chip.toRing; split <;> simp
@[simp] theorem Chip.bal_toRing (f : Ring → Ring) : (c.toRing f).bal = c.bal := by unfold Chip.toRing; split <;> simp
@[simp] theorem Chip.nand_toRing (f : Ring → Ring) : (c.toRing f).nand = c.nand := by unfold Chip.toRing; split <;> simp
@[simp] theorem Chip.clm_toRing (f : Ring → Ring) : (c.toRing f).clm = c.clm := by unfold Chip.toRing; split <;> simp
@[simp] theorem Chip.bkb_toRing (f : Ring → Ring) : (c.toRing f).bkb = c.bkb := by unfold Chip.toRing; split <;> simp
@[simp] theorem Chip.pair_toRing (f : Ring → Ring) : (c.toRing f).pair = c.pair := by unfold Chip.toRing; split <;> simp
@[simp] theorem Chip.kiln_toRing (f : Ring → Ring) : (c.toRing f).kiln = c.kiln := by unfold Chip.toRing; split <;> simp
@[simp] theorem Chip.mem_notice (t : Nat) (b : List Byte) : (c.notice t b).mem = c.mem := by simp [Chip.notice]
@[simp] theorem Chip.pools_notice (t : Nat) (b : List Byte) : (c.notice t b).pools = c.pools := by simp [Chip.notice]
@[simp] theorem Chip.resp_notice (t : Nat) (b : List Byte) : (c.notice t b).resp = c.resp := by simp [Chip.notice]
@[simp] theorem Chip.freeCtr_notice (t : Nat) (b : List Byte) : (c.notice t b).freeCtr = c.freeCtr := by simp [Chip.notice]
@[simp] theorem Chip.fuses_notice (t : Nat) (b : List Byte) : (c.notice t b).fuses = c.fuses := by simp [Chip.notice]
@[simp] theorem Chip.flo_notice (t : Nat) (b : List Byte) : (c.notice t b).flo = c.flo := by simp [Chip.notice]
@[simp] theorem Chip.apc_notice (t : Nat) (b : List Byte) : (c.notice t b).apc = c.apc := by simp [Chip.notice]
@[simp] theorem Chip.grd_notice (t : Nat) (b : List Byte) : (c.notice t b).grd = c.grd := by simp [Chip.notice]
@[simp] theorem Chip.upd_notice (t : Nat) (b : List Byte) : (c.notice t b).upd = c.upd := by simp [Chip.notice]
@[simp] theorem Chip.tim_notice (t : Nat) (b : List Byte) : (c.notice t b).tim = c.tim := by simp [Chip.notice]
@[simp] theorem Chip.lma_notice (t : Nat) (b : List Byte) : (c.notice t b).lma = c.lma := by simp [Chip.notice]
@[simp] theorem Chip.air_notice (t : Nat) (b : List Byte) : (c.notice t b).air = c.air := by simp [Chip.notice]
@[simp] theorem Chip.hcx_notice (t : Nat) (b : List Byte) : (c.notice t b).hcx = c.hcx := by simp [Chip.notice]
@[simp] theorem Chip.ciu_notice (t : Nat) (b : List Byte) : (c.notice t b).ciu = c.ciu := by simp [Chip.notice]
@[simp] theorem Chip.bal_notice (t : Nat) (b : List Byte) : (c.notice t b).bal = c.bal := by simp [Chip.notice]
@[simp] theorem Chip.nand_notice (t : Nat) (b : List Byte) : (c.notice t b).nand = c.nand := by simp [Chip.notice]
@[simp] theorem Chip.clm_notice (t : Nat) (b : List Byte) : (c.notice t b).clm = c.clm := by simp [Chip.notice]
@[simp] theorem Chip.bkb_notice (t : Nat) (b : List Byte) : (c.notice t b).bkb = c.bkb := by simp [Chip.notice]
@[simp] theorem Chip.pair_notice (t : Nat) (b : List Byte) : (c.notice t b).pair = c.pair := by simp [Chip.notice]
@[simp] theorem Chip.kiln_notice (t : Nat) (b : List Byte) : (c.notice t b).kiln = c.kiln := by simp [Chip.notice]
@[simp] theorem Chip.mem_complete (x : Cpl) : (c.complete x).mem = c.mem := by simp [Chip.complete]
@[simp] theorem Chip.pools_complete (x : Cpl) : (c.complete x).pools = c.pools := by simp [Chip.complete]
@[simp] theorem Chip.resp_complete (x : Cpl) : (c.complete x).resp = c.resp := by simp [Chip.complete]
@[simp] theorem Chip.freeCtr_complete (x : Cpl) : (c.complete x).freeCtr = c.freeCtr := by simp [Chip.complete]
@[simp] theorem Chip.fuses_complete (x : Cpl) : (c.complete x).fuses = c.fuses := by simp [Chip.complete]
@[simp] theorem Chip.flo_complete (x : Cpl) : (c.complete x).flo = c.flo := by simp [Chip.complete]
@[simp] theorem Chip.apc_complete (x : Cpl) : (c.complete x).apc = c.apc := by simp [Chip.complete]
@[simp] theorem Chip.grd_complete (x : Cpl) : (c.complete x).grd = c.grd := by simp [Chip.complete]
@[simp] theorem Chip.upd_complete (x : Cpl) : (c.complete x).upd = c.upd := by simp [Chip.complete]
@[simp] theorem Chip.tim_complete (x : Cpl) : (c.complete x).tim = c.tim := by simp [Chip.complete]
@[simp] theorem Chip.lma_complete (x : Cpl) : (c.complete x).lma = c.lma := by simp [Chip.complete]
@[simp] theorem Chip.air_complete (x : Cpl) : (c.complete x).air = c.air := by simp [Chip.complete]
@[simp] theorem Chip.hcx_complete (x : Cpl) : (c.complete x).hcx = c.hcx := by simp [Chip.complete]
@[simp] theorem Chip.ciu_complete (x : Cpl) : (c.complete x).ciu = c.ciu := by simp [Chip.complete]
@[simp] theorem Chip.bal_complete (x : Cpl) : (c.complete x).bal = c.bal := by simp [Chip.complete]
@[simp] theorem Chip.nand_complete (x : Cpl) : (c.complete x).nand = c.nand := by simp [Chip.complete]
@[simp] theorem Chip.clm_complete (x : Cpl) : (c.complete x).clm = c.clm := by simp [Chip.complete]
@[simp] theorem Chip.bkb_complete (x : Cpl) : (c.complete x).bkb = c.bkb := by simp [Chip.complete]
@[simp] theorem Chip.pair_complete (x : Cpl) : (c.complete x).pair = c.pair := by simp [Chip.complete]
@[simp] theorem Chip.kiln_complete (x : Cpl) : (c.complete x).kiln = c.kiln := by simp [Chip.complete]

/-! `dramEcc` -/
@[simp] theorem Chip.mem_dramEcc (a ini : Nat) (e : Ecc) : (c.dramEcc a ini e).mem = c.mem := by unfold Chip.dramEcc; split <;> simp
@[simp] theorem Chip.pools_dramEcc (a ini : Nat) (e : Ecc) : (c.dramEcc a ini e).pools = c.pools := by unfold Chip.dramEcc; split <;> simp
@[simp] theorem Chip.resp_dramEcc (a ini : Nat) (e : Ecc) : (c.dramEcc a ini e).resp = c.resp := by unfold Chip.dramEcc; split <;> simp
@[simp] theorem Chip.freeCtr_dramEcc (a ini : Nat) (e : Ecc) : (c.dramEcc a ini e).freeCtr = c.freeCtr := by unfold Chip.dramEcc; split <;> simp
@[simp] theorem Chip.fuses_dramEcc (a ini : Nat) (e : Ecc) : (c.dramEcc a ini e).fuses = c.fuses := by unfold Chip.dramEcc; split <;> simp
@[simp] theorem Chip.flo_dramEcc (a ini : Nat) (e : Ecc) : (c.dramEcc a ini e).flo = c.flo := by unfold Chip.dramEcc; split <;> simp
@[simp] theorem Chip.ring_dramEcc (a ini : Nat) (e : Ecc) : (c.dramEcc a ini e).ring = c.ring := by unfold Chip.dramEcc; split <;> simp
@[simp] theorem Chip.grd_dramEcc (a ini : Nat) (e : Ecc) : (c.dramEcc a ini e).grd = c.grd := by unfold Chip.dramEcc; split <;> simp
@[simp] theorem Chip.upd_dramEcc (a ini : Nat) (e : Ecc) : (c.dramEcc a ini e).upd = c.upd := by unfold Chip.dramEcc; split <;> simp
@[simp] theorem Chip.crp_dramEcc (a ini : Nat) (e : Ecc) : (c.dramEcc a ini e).crp = c.crp := by unfold Chip.dramEcc; split <;> simp
@[simp] theorem Chip.tim_dramEcc (a ini : Nat) (e : Ecc) : (c.dramEcc a ini e).tim = c.tim := by unfold Chip.dramEcc; split <;> simp
@[simp] theorem Chip.lma_dramEcc (a ini : Nat) (e : Ecc) : (c.dramEcc a ini e).lma = c.lma := by unfold Chip.dramEcc; split <;> simp
@[simp] theorem Chip.air_dramEcc (a ini : Nat) (e : Ecc) : (c.dramEcc a ini e).air = c.air := by unfold Chip.dramEcc; split <;> simp
@[simp] theorem Chip.hcx_dramEcc (a ini : Nat) (e : Ecc) : (c.dramEcc a ini e).hcx = c.hcx := by unfold Chip.dramEcc; split <;> simp
@[simp] theorem Chip.ciu_dramEcc (a ini : Nat) (e : Ecc) : (c.dramEcc a ini e).ciu = c.ciu := by unfold Chip.dramEcc; split <;> simp
@[simp] theorem Chip.bal_dramEcc (a ini : Nat) (e : Ecc) : (c.dramEcc a ini e).bal = c.bal := by unfold Chip.dramEcc; split <;> simp
@[simp] theorem Chip.nand_dramEcc (a ini : Nat) (e : Ecc) : (c.dramEcc a ini e).nand = c.nand := by unfold Chip.dramEcc; split <;> simp
@[simp] theorem Chip.clm_dramEcc (a ini : Nat) (e : Ecc) : (c.dramEcc a ini e).clm = c.clm := by unfold Chip.dramEcc; split <;> simp
@[simp] theorem Chip.bkb_dramEcc (a ini : Nat) (e : Ecc) : (c.dramEcc a ini e).bkb = c.bkb := by unfold Chip.dramEcc; split <;> simp
@[simp] theorem Chip.pair_dramEcc (a ini : Nat) (e : Ecc) : (c.dramEcc a ini e).pair = c.pair := by unfold Chip.dramEcc; split <;> simp
@[simp] theorem Chip.kiln_dramEcc (a ini : Nat) (e : Ecc) : (c.dramEcc a ini e).kiln = c.kiln := by unfold Chip.dramEcc; split <;> simp

/-! `cfgErr` -/
@[simp] theorem Chip.mem_cfgErr (b : Nat) : (c.cfgErr b).mem = c.mem := by unfold Chip.cfgErr; split <;> simp
@[simp] theorem Chip.pools_cfgErr (b : Nat) : (c.cfgErr b).pools = c.pools := by unfold Chip.cfgErr; split <;> simp
@[simp] theorem Chip.resp_cfgErr (b : Nat) : (c.cfgErr b).resp = c.resp := by unfold Chip.cfgErr; split <;> simp
@[simp] theorem Chip.freeCtr_cfgErr (b : Nat) : (c.cfgErr b).freeCtr = c.freeCtr := by unfold Chip.cfgErr; split <;> simp
@[simp] theorem Chip.fuses_cfgErr (b : Nat) : (c.cfgErr b).fuses = c.fuses := by unfold Chip.cfgErr; split <;> simp
@[simp] theorem Chip.ember_cfgErr (b : Nat) : (c.cfgErr b).ember = c.ember := by unfold Chip.cfgErr; split <;> simp
@[simp] theorem Chip.flo_cfgErr (b : Nat) : (c.cfgErr b).flo = c.flo := by unfold Chip.cfgErr; split <;> simp
@[simp] theorem Chip.ring_cfgErr (b : Nat) : (c.cfgErr b).ring = c.ring := by unfold Chip.cfgErr; split <;> simp
@[simp] theorem Chip.apc_cfgErr (b : Nat) : (c.cfgErr b).apc = c.apc := by unfold Chip.cfgErr; split <;> simp
@[simp] theorem Chip.grd_cfgErr (b : Nat) : (c.cfgErr b).grd = c.grd := by unfold Chip.cfgErr; split <;> simp
@[simp] theorem Chip.upd_cfgErr (b : Nat) : (c.cfgErr b).upd = c.upd := by unfold Chip.cfgErr; split <;> simp
@[simp] theorem Chip.crp_cfgErr (b : Nat) : (c.cfgErr b).crp = c.crp := by unfold Chip.cfgErr; split <;> simp
@[simp] theorem Chip.tim_cfgErr (b : Nat) : (c.cfgErr b).tim = c.tim := by unfold Chip.cfgErr; split <;> simp
@[simp] theorem Chip.lma_cfgErr (b : Nat) : (c.cfgErr b).lma = c.lma := by unfold Chip.cfgErr; split <;> simp
@[simp] theorem Chip.air_cfgErr (b : Nat) : (c.cfgErr b).air = c.air := by unfold Chip.cfgErr; split <;> simp
@[simp] theorem Chip.hcx_cfgErr (b : Nat) : (c.cfgErr b).hcx = c.hcx := by unfold Chip.cfgErr; split <;> simp
@[simp] theorem Chip.ciu_cfgErr (b : Nat) : (c.cfgErr b).ciu = c.ciu := by unfold Chip.cfgErr; split <;> simp
@[simp] theorem Chip.bal_cfgErr (b : Nat) : (c.cfgErr b).bal = c.bal := by unfold Chip.cfgErr; split <;> simp
@[simp] theorem Chip.nand_cfgErr (b : Nat) : (c.cfgErr b).nand = c.nand := by unfold Chip.cfgErr; split <;> simp
@[simp] theorem Chip.clm_cfgErr (b : Nat) : (c.cfgErr b).clm = c.clm := by unfold Chip.cfgErr; split <;> simp
@[simp] theorem Chip.bkb_cfgErr (b : Nat) : (c.cfgErr b).bkb = c.bkb := by unfold Chip.cfgErr; split <;> simp
@[simp] theorem Chip.pair_cfgErr (b : Nat) : (c.cfgErr b).pair = c.pair := by unfold Chip.cfgErr; split <;> simp
@[simp] theorem Chip.kiln_cfgErr (b : Nat) : (c.cfgErr b).kiln = c.kiln := by unfold Chip.cfgErr; split <;> simp

/-! `airCfgErr` -/
@[simp] theorem Chip.mem_airCfgErr (u : Nat) : (c.airCfgErr u).mem = c.mem := by simp [Chip.airCfgErr]
@[simp] theorem Chip.pools_airCfgErr (u : Nat) : (c.airCfgErr u).pools = c.pools := by simp [Chip.airCfgErr]
@[simp] theorem Chip.resp_airCfgErr (u : Nat) : (c.airCfgErr u).resp = c.resp := by simp [Chip.airCfgErr]
@[simp] theorem Chip.freeCtr_airCfgErr (u : Nat) : (c.airCfgErr u).freeCtr = c.freeCtr := by simp [Chip.airCfgErr]
@[simp] theorem Chip.fuses_airCfgErr (u : Nat) : (c.airCfgErr u).fuses = c.fuses := by simp [Chip.airCfgErr]
@[simp] theorem Chip.ember_airCfgErr (u : Nat) : (c.airCfgErr u).ember = c.ember := by simp [Chip.airCfgErr]
@[simp] theorem Chip.flo_airCfgErr (u : Nat) : (c.airCfgErr u).flo = c.flo := by simp [Chip.airCfgErr]
@[simp] theorem Chip.ring_airCfgErr (u : Nat) : (c.airCfgErr u).ring = c.ring := by simp [Chip.airCfgErr]
@[simp] theorem Chip.apc_airCfgErr (u : Nat) : (c.airCfgErr u).apc = c.apc := by simp [Chip.airCfgErr]
@[simp] theorem Chip.grd_airCfgErr (u : Nat) : (c.airCfgErr u).grd = c.grd := by simp [Chip.airCfgErr]
@[simp] theorem Chip.upd_airCfgErr (u : Nat) : (c.airCfgErr u).upd = c.upd := by simp [Chip.airCfgErr]
@[simp] theorem Chip.crp_airCfgErr (u : Nat) : (c.airCfgErr u).crp = c.crp := by simp [Chip.airCfgErr]
@[simp] theorem Chip.tim_airCfgErr (u : Nat) : (c.airCfgErr u).tim = c.tim := by simp [Chip.airCfgErr]
@[simp] theorem Chip.lma_airCfgErr (u : Nat) : (c.airCfgErr u).lma = c.lma := by simp [Chip.airCfgErr]
@[simp] theorem Chip.air_airCfgErr (u : Nat) : (c.airCfgErr u).air = c.air := by simp [Chip.airCfgErr]
@[simp] theorem Chip.hcx_airCfgErr (u : Nat) : (c.airCfgErr u).hcx = c.hcx := by simp [Chip.airCfgErr]
@[simp] theorem Chip.ciu_airCfgErr (u : Nat) : (c.airCfgErr u).ciu = c.ciu := by simp [Chip.airCfgErr]
@[simp] theorem Chip.bal_airCfgErr (u : Nat) : (c.airCfgErr u).bal = c.bal := by simp [Chip.airCfgErr]
@[simp] theorem Chip.nand_airCfgErr (u : Nat) : (c.airCfgErr u).nand = c.nand := by simp [Chip.airCfgErr]
@[simp] theorem Chip.clm_airCfgErr (u : Nat) : (c.airCfgErr u).clm = c.clm := by simp [Chip.airCfgErr]
@[simp] theorem Chip.bkb_airCfgErr (u : Nat) : (c.airCfgErr u).bkb = c.bkb := by simp [Chip.airCfgErr]
@[simp] theorem Chip.pair_airCfgErr (u : Nat) : (c.airCfgErr u).pair = c.pair := by simp [Chip.airCfgErr]
@[simp] theorem Chip.kiln_airCfgErr (u : Nat) : (c.airCfgErr u).kiln = c.kiln := by simp [Chip.airCfgErr]

/-! `freeErr` -/
@[simp] theorem Chip.mem_freeErr (p : Pool) : (c.freeErr p).mem = c.mem := by unfold Chip.freeErr; split <;> simp
@[simp] theorem Chip.pools_freeErr (p : Pool) : (c.freeErr p).pools = c.pools := by unfold Chip.freeErr; split <;> simp
@[simp] theorem Chip.resp_freeErr (p : Pool) : (c.freeErr p).resp = c.resp := by unfold Chip.freeErr; split <;> simp
@[simp] theorem Chip.freeCtr_freeErr (p : Pool) : (c.freeErr p).freeCtr = c.freeCtr := by unfold Chip.freeErr; split <;> simp
@[simp] theorem Chip.fuses_freeErr (p : Pool) : (c.freeErr p).fuses = c.fuses := by unfold Chip.freeErr; split <;> simp
@[simp] theorem Chip.ember_freeErr (p : Pool) : (c.freeErr p).ember = c.ember := by unfold Chip.freeErr; split <;> simp
@[simp] theorem Chip.flo_freeErr (p : Pool) : (c.freeErr p).flo = c.flo := by unfold Chip.freeErr; split <;> simp
@[simp] theorem Chip.ring_freeErr (p : Pool) : (c.freeErr p).ring = c.ring := by unfold Chip.freeErr; split <;> simp
@[simp] theorem Chip.apc_freeErr (p : Pool) : (c.freeErr p).apc = c.apc := by unfold Chip.freeErr; split <;> simp
@[simp] theorem Chip.grd_freeErr (p : Pool) : (c.freeErr p).grd = c.grd := by unfold Chip.freeErr; split <;> simp
@[simp] theorem Chip.upd_freeErr (p : Pool) : (c.freeErr p).upd = c.upd := by unfold Chip.freeErr; split <;> simp
@[simp] theorem Chip.crp_freeErr (p : Pool) : (c.freeErr p).crp = c.crp := by unfold Chip.freeErr; split <;> simp
@[simp] theorem Chip.tim_freeErr (p : Pool) : (c.freeErr p).tim = c.tim := by unfold Chip.freeErr; split <;> simp
@[simp] theorem Chip.lma_freeErr (p : Pool) : (c.freeErr p).lma = c.lma := by unfold Chip.freeErr; split <;> simp
@[simp] theorem Chip.air_freeErr (p : Pool) : (c.freeErr p).air = c.air := by unfold Chip.freeErr; split <;> simp
@[simp] theorem Chip.hcx_freeErr (p : Pool) : (c.freeErr p).hcx = c.hcx := by unfold Chip.freeErr; split <;> simp
@[simp] theorem Chip.ciu_freeErr (p : Pool) : (c.freeErr p).ciu = c.ciu := by unfold Chip.freeErr; split <;> simp
@[simp] theorem Chip.bal_freeErr (p : Pool) : (c.freeErr p).bal = c.bal := by unfold Chip.freeErr; split <;> simp
@[simp] theorem Chip.nand_freeErr (p : Pool) : (c.freeErr p).nand = c.nand := by unfold Chip.freeErr; split <;> simp
@[simp] theorem Chip.clm_freeErr (p : Pool) : (c.freeErr p).clm = c.clm := by unfold Chip.freeErr; split <;> simp
@[simp] theorem Chip.bkb_freeErr (p : Pool) : (c.freeErr p).bkb = c.bkb := by unfold Chip.freeErr; split <;> simp
@[simp] theorem Chip.pair_freeErr (p : Pool) : (c.freeErr p).pair = c.pair := by unfold Chip.freeErr; split <;> simp
@[simp] theorem Chip.kiln_freeErr (p : Pool) : (c.freeErr p).kiln = c.kiln := by unfold Chip.freeErr; split <;> simp

/-! `gatedAccess` and `unreached`: only counts, the record of a first access and what is noted of it. -/
@[simp] theorem Chip.mem_gatedAccess (d key ini : Nat) (wr : Bool) : (c.gatedAccess d key ini wr).mem = c.mem := by
  unfold Chip.gatedAccess Chip.dcqLost Chip.when; dsimp only; split <;> simp
@[simp] theorem Chip.pools_gatedAccess (d key ini : Nat) (wr : Bool) : (c.gatedAccess d key ini wr).pools = c.pools := by
  unfold Chip.gatedAccess Chip.dcqLost Chip.when; dsimp only; split <;> simp
@[simp] theorem Chip.resp_gatedAccess (d key ini : Nat) (wr : Bool) : (c.gatedAccess d key ini wr).resp = c.resp := by
  unfold Chip.gatedAccess Chip.dcqLost Chip.when; dsimp only; split <;> simp
@[simp] theorem Chip.freeCtr_gatedAccess (d key ini : Nat) (wr : Bool) : (c.gatedAccess d key ini wr).freeCtr = c.freeCtr := by
  unfold Chip.gatedAccess Chip.dcqLost Chip.when; dsimp only; split <;> simp
@[simp] theorem Chip.fuses_gatedAccess (d key ini : Nat) (wr : Bool) : (c.gatedAccess d key ini wr).fuses = c.fuses := by
  unfold Chip.gatedAccess Chip.dcqLost Chip.when; dsimp only; split <;> simp
@[simp] theorem Chip.flo_gatedAccess (d key ini : Nat) (wr : Bool) : (c.gatedAccess d key ini wr).flo = c.flo := by
  unfold Chip.gatedAccess Chip.dcqLost Chip.when; dsimp only; split <;> simp
@[simp] theorem Chip.ring_gatedAccess (d key ini : Nat) (wr : Bool) : (c.gatedAccess d key ini wr).ring = c.ring := by
  unfold Chip.gatedAccess Chip.dcqLost Chip.when; dsimp only; split <;> simp
@[simp] theorem Chip.apc_gatedAccess (d key ini : Nat) (wr : Bool) : (c.gatedAccess d key ini wr).apc = c.apc := by
  unfold Chip.gatedAccess Chip.dcqLost Chip.when; dsimp only; split <;> simp
@[simp] theorem Chip.grd_gatedAccess (d key ini : Nat) (wr : Bool) : (c.gatedAccess d key ini wr).grd = c.grd := by
  unfold Chip.gatedAccess Chip.dcqLost Chip.when; dsimp only; split <;> simp
@[simp] theorem Chip.upd_gatedAccess (d key ini : Nat) (wr : Bool) : (c.gatedAccess d key ini wr).upd = c.upd := by
  unfold Chip.gatedAccess Chip.dcqLost Chip.when; dsimp only; split <;> simp
@[simp] theorem Chip.tim_gatedAccess (d key ini : Nat) (wr : Bool) : (c.gatedAccess d key ini wr).tim = c.tim := by
  unfold Chip.gatedAccess Chip.dcqLost Chip.when; dsimp only; split <;> simp
@[simp] theorem Chip.lma_gatedAccess (d key ini : Nat) (wr : Bool) : (c.gatedAccess d key ini wr).lma = c.lma := by
  unfold Chip.gatedAccess Chip.dcqLost Chip.when; dsimp only; split <;> simp
@[simp] theorem Chip.air_gatedAccess (d key ini : Nat) (wr : Bool) : (c.gatedAccess d key ini wr).air = c.air := by
  unfold Chip.gatedAccess Chip.dcqLost Chip.when; dsimp only; split <;> simp
@[simp] theorem Chip.hcx_gatedAccess (d key ini : Nat) (wr : Bool) : (c.gatedAccess d key ini wr).hcx = c.hcx := by
  unfold Chip.gatedAccess Chip.dcqLost Chip.when; dsimp only; split <;> simp
@[simp] theorem Chip.ciu_gatedAccess (d key ini : Nat) (wr : Bool) : (c.gatedAccess d key ini wr).ciu = c.ciu := by
  unfold Chip.gatedAccess Chip.dcqLost Chip.when; dsimp only; split <;> simp
@[simp] theorem Chip.bal_gatedAccess (d key ini : Nat) (wr : Bool) : (c.gatedAccess d key ini wr).bal = c.bal := by
  unfold Chip.gatedAccess Chip.dcqLost Chip.when; dsimp only; split <;> simp
@[simp] theorem Chip.nand_gatedAccess (d key ini : Nat) (wr : Bool) : (c.gatedAccess d key ini wr).nand = c.nand := by
  unfold Chip.gatedAccess Chip.dcqLost Chip.when; dsimp only; split <;> simp
@[simp] theorem Chip.clm_gatedAccess (d key ini : Nat) (wr : Bool) : (c.gatedAccess d key ini wr).clm = c.clm := by
  unfold Chip.gatedAccess Chip.dcqLost Chip.when; dsimp only; split <;> simp
@[simp] theorem Chip.bkb_gatedAccess (d key ini : Nat) (wr : Bool) : (c.gatedAccess d key ini wr).bkb = c.bkb := by
  unfold Chip.gatedAccess Chip.dcqLost Chip.when; dsimp only; split <;> simp
@[simp] theorem Chip.pair_gatedAccess (d key ini : Nat) (wr : Bool) : (c.gatedAccess d key ini wr).pair = c.pair := by
  unfold Chip.gatedAccess Chip.dcqLost Chip.when; dsimp only; split <;> simp
@[simp] theorem Chip.kiln_gatedAccess (d key ini : Nat) (wr : Bool) : (c.gatedAccess d key ini wr).kiln = c.kiln := by
  unfold Chip.gatedAccess Chip.dcqLost Chip.when; dsimp only; split <;> simp
@[simp] theorem Chip.mem_unreached (key ini : Nat) (wr : Bool) : (c.unreached key ini wr).mem = c.mem := by
  unfold Chip.unreached; split <;> simp
@[simp] theorem Chip.pools_unreached (key ini : Nat) (wr : Bool) : (c.unreached key ini wr).pools = c.pools := by
  unfold Chip.unreached; split <;> simp
@[simp] theorem Chip.resp_unreached (key ini : Nat) (wr : Bool) : (c.unreached key ini wr).resp = c.resp := by
  unfold Chip.unreached; split <;> simp
@[simp] theorem Chip.freeCtr_unreached (key ini : Nat) (wr : Bool) : (c.unreached key ini wr).freeCtr = c.freeCtr := by
  unfold Chip.unreached; split <;> simp
@[simp] theorem Chip.fuses_unreached (key ini : Nat) (wr : Bool) : (c.unreached key ini wr).fuses = c.fuses := by
  unfold Chip.unreached; split <;> simp
@[simp] theorem Chip.flo_unreached (key ini : Nat) (wr : Bool) : (c.unreached key ini wr).flo = c.flo := by
  unfold Chip.unreached; split <;> simp
@[simp] theorem Chip.ring_unreached (key ini : Nat) (wr : Bool) : (c.unreached key ini wr).ring = c.ring := by
  unfold Chip.unreached; split <;> simp
@[simp] theorem Chip.apc_unreached (key ini : Nat) (wr : Bool) : (c.unreached key ini wr).apc = c.apc := by
  unfold Chip.unreached; split <;> simp
@[simp] theorem Chip.grd_unreached (key ini : Nat) (wr : Bool) : (c.unreached key ini wr).grd = c.grd := by
  unfold Chip.unreached; split <;> simp
@[simp] theorem Chip.upd_unreached (key ini : Nat) (wr : Bool) : (c.unreached key ini wr).upd = c.upd := by
  unfold Chip.unreached; split <;> simp
@[simp] theorem Chip.tim_unreached (key ini : Nat) (wr : Bool) : (c.unreached key ini wr).tim = c.tim := by
  unfold Chip.unreached; split <;> simp
@[simp] theorem Chip.lma_unreached (key ini : Nat) (wr : Bool) : (c.unreached key ini wr).lma = c.lma := by
  unfold Chip.unreached; split <;> simp
@[simp] theorem Chip.air_unreached (key ini : Nat) (wr : Bool) : (c.unreached key ini wr).air = c.air := by
  unfold Chip.unreached; split <;> simp
@[simp] theorem Chip.hcx_unreached (key ini : Nat) (wr : Bool) : (c.unreached key ini wr).hcx = c.hcx := by
  unfold Chip.unreached; split <;> simp
@[simp] theorem Chip.ciu_unreached (key ini : Nat) (wr : Bool) : (c.unreached key ini wr).ciu = c.ciu := by
  unfold Chip.unreached; split <;> simp
@[simp] theorem Chip.bal_unreached (key ini : Nat) (wr : Bool) : (c.unreached key ini wr).bal = c.bal := by
  unfold Chip.unreached; split <;> simp
@[simp] theorem Chip.nand_unreached (key ini : Nat) (wr : Bool) : (c.unreached key ini wr).nand = c.nand := by
  unfold Chip.unreached; split <;> simp
@[simp] theorem Chip.clm_unreached (key ini : Nat) (wr : Bool) : (c.unreached key ini wr).clm = c.clm := by
  unfold Chip.unreached; split <;> simp
@[simp] theorem Chip.bkb_unreached (key ini : Nat) (wr : Bool) : (c.unreached key ini wr).bkb = c.bkb := by
  unfold Chip.unreached; split <;> simp
@[simp] theorem Chip.pair_unreached (key ini : Nat) (wr : Bool) : (c.unreached key ini wr).pair = c.pair := by
  unfold Chip.unreached; split <;> simp
@[simp] theorem Chip.kiln_unreached (key ini : Nat) (wr : Bool) : (c.unreached key ini wr).kiln = c.kiln := by
  unfold Chip.unreached; split <;> simp

/-! ### Writes of one register: where it is reached the write's own effect, and elsewhere a gated access -/

@[simp] theorem Chip.onReg_reached (key ini : Nat) (f : Chip → Chip) (h : c.reaches key = true) :
    c.onReg key ini f = f c := if_pos h

@[simp] theorem Chip.onReg_unreached (key ini : Nat) (f : Chip → Chip) (h : c.reaches key = false) :
    c.onReg key ini f = c.unreached key ini true := by simp [Chip.onReg, h]

@[simp] theorem State.onReg_reached (s : State) (key ini : Nat) (f : State → State) (h : s.chip.reaches key = true) :
    s.onReg key ini f = f s := if_pos h

@[simp] theorem State.onReg_unreached (s : State) (key ini : Nat) (f : State → State)
    (h : s.chip.reaches key = false) :
    s.onReg key ini f = { s with chip := s.chip.unreached key ini true } := by simp [State.onReg, h]

@[simp] theorem onRegLc_reached (key ini : Nat) (f : Chip × LifeCycle → Chip × LifeCycle) (x : Chip × LifeCycle)
    (h : x.1.reaches key = true) : onRegLc key ini f x = f x := if_pos h

@[simp] theorem onRegLc_unreached (key ini : Nat) (f : Chip × LifeCycle → Chip × LifeCycle) (x : Chip × LifeCycle)
    (h : x.1.reaches key = false) : onRegLc key ini f x = (x.1.unreached key ini true, x.2) := by simp [onRegLc, h]

/-- With no power at the block an access leaves the chip as it is (14 Table 10). -/
theorem Chip.unreached_unpowered (key ini : Nat) (wr : Bool) (h : c.powered (key / 0x100000) = false) :
    c.unreached key ini wr = c := by simp [Chip.unreached, h]

/-! ### Memory -/

/-- A byte after a write of one byte. -/
theorem Chip.rdb_wrb (a : Nat) (b : Byte) (x : Nat) : (c.wrb a b).rdb x = if x = a then b else c.rdb x := by
  simp [Chip.rdb, Chip.wrb, Tab.get_put]

/-- A write of bytes leaves every other address. -/
theorem Chip.rdb_wrMem_outside (bs : List Byte) (a x : Nat) (h : x < a ∨ a + bs.length ≤ x) :
    (c.wrMem a bs).rdb x = c.rdb x := by
  induction bs generalizing c a with
  | nil => rfl
  | cons b bs ih =>
    simp only [List.length_cons] at h
    rw [Chip.wrMem, ih (c.wrb a b) (a + 1) (by omega), Chip.rdb_wrb, if_neg (by omega)]

/-- A write of bytes reads back. -/
theorem Chip.rdb_wrMem_inside (bs : List Byte) (a i : Nat) (h : i < bs.length) :
    (c.wrMem a bs).rdb (a + i) = bs[i] := by
  induction bs generalizing c a i with
  | nil => simp at h
  | cons b bs ih =>
    rw [Chip.wrMem]
    cases i with
    | zero => rw [Chip.rdb_wrMem_outside _ _ _ _ (by omega), Chip.rdb_wrb]; simp
    | succ i =>
      have := ih (c.wrb a b) (a + 1) i (by simpa using h)
      simpa [Nat.add_assoc, Nat.add_comm 1] using this

/-- Writing bytes changes memory alone. -/
theorem Chip.wrMem_frame (bs : List Byte) (a : Nat) : ∃ m, c.wrMem a bs = { c with mem := m } := by
  induction bs generalizing c a with
  | nil => exact ⟨c.mem, rfl⟩
  | cons b bs ih =>
    obtain ⟨m, h⟩ := ih (c.wrb a b) (a + 1)
    exact ⟨m, by rw [Chip.wrMem, h]; rfl⟩

/-- The canonical form of memory is kept by a write of one byte, of many, and by a stored transfer. -/
theorem Chip.wrb_wf (a : Nat) (b : Byte) (h : Memory.wf c.mem = true) : Memory.wf (c.wrb a b).mem = true :=
  Tab.wf_put memReset c.mem a b h

theorem Chip.wrMem_wf (bs : List Byte) (a : Nat) (h : Memory.wf c.mem = true) : Memory.wf (c.wrMem a bs).mem = true := by
  induction bs generalizing c a with
  | nil => exact h
  | cons b bs ih => exact ih (c.wrb a b) (a + 1) (c.wrb_wf a b h)

theorem Chip.mem_store (bs : List Byte) (a : Nat) : (c.store a bs).mem = (c.wrMem a bs).mem := by
  unfold Chip.store; dsimp only; split <;> rfl

theorem Chip.store_wf (bs : List Byte) (a : Nat) (h : Memory.wf c.mem = true) : Memory.wf (c.store a bs).mem = true := by
  rw [Chip.mem_store]; exact c.wrMem_wf bs a h

/-- Errors that a transfer finds change no memory. -/
theorem Chip.mem_foldl_dramEcc (fs : List (Nat × Ecc)) (ini : Nat) :
    (fs.foldl (fun c f => c.dramEcc (8 * f.1) ini f.2) c).mem = c.mem := by
  induction fs generalizing c with
  | nil => rfl
  | cons f fs ih => rw [List.foldl_cons, ih]; simp

@[simp] theorem Chip.mem_noteReach (ini : Nat) (wr : Bool) (a n : Nat) : (c.noteReach ini wr a n).mem = c.mem := by
  unfold Chip.noteReach
  split
  · rfl
  · split
    · simp
    · dsimp only
      split
      · exact c.mem_foldl_dramEcc _ _
      · simpa using c.mem_foldl_dramEcc _ _

@[simp] theorem Chip.mem_noteAccess (ini : Nat) (host wr : Bool) (a n : Nat) :
    (c.noteAccess ini host wr a n).mem = c.mem := by
  unfold Chip.noteAccess; split <;> simp

/-- A block's read leaves memory; its write keeps the canonical form. -/
theorem Chip.dmaRead_mem (ini : Nat) (host : Bool) (a n : Nat) : (c.dmaRead ini host a n).2.2.mem = c.mem := by
  simp [Chip.dmaRead]

theorem Chip.dmaWrite_wf (ini : Nat) (host : Bool) (a : Nat) (bs : List Byte) (h : Memory.wf c.mem = true) :
    Memory.wf (c.dmaWrite ini host a bs).2.mem = true := by
  unfold Chip.dmaWrite Chip.when
  dsimp only
  split
  · exact Chip.store_wf _ _ _ (by simpa using h)
  · simpa using h

/-- A transfer that the plan refuses, that reaches a gated port, or that no memory answers, writes nothing (01 R22, R27). -/
theorem Chip.dmaWrite_refused (ini : Nat) (host : Bool) (a : Nat) (bs : List Byte)
    (h : (c.judge ini host true a bs.length).done = false) : (c.dmaWrite ini host a bs).2.mem = c.mem := by
  simp [Chip.dmaWrite, Chip.when, h]

/-- A read and a write at the Seal level: the one leaves memory, the other keeps the canonical form. -/
theorem Chip.sealRead_mem (ini a n : Nat) : (c.sealRead ini a n).2.mem = c.mem := by
  unfold Chip.sealRead; split <;> simp

theorem Chip.sealWrite_wf (ini a : Nat) (bs : List Byte) (h : Memory.wf c.mem = true) :
    Memory.wf (c.sealWrite ini a bs).mem = true := by
  unfold Chip.sealWrite Chip.when
  split
  · exact h
  · split
    · exact Chip.store_wf _ _ _ (by simpa using h)
    · simpa using h

/-- Memory that a reset or a scan clears keeps the canonical form. -/
theorem Memory.wf_drop (p : Nat → Bool) (m : List Host.Cell) (h : Memory.wf m = true) :
    Memory.wf (Tab.drop p m) = true := Tab.wf_drop memReset p m h

/-- So does what of it is the host's own. -/
theorem Chip.hostMem_wf (h : Memory.wf c.mem = true) : Memory.wf c.hostMem = true := Memory.wf_drop _ _ h

theorem Memory.wf_reset : Memory.wf State.reset.chip.mem = true := rfl

end Sys2Proof.Machine
end

