-- ==== Sys2Proof/WellFormed.lean ====
section
/-!
DEFINITION. Which commands are well formed: operands that the outside can in fact supply.  A meaning is
given to the others too; statements about the chip in use may assume these checks.
-/
namespace Sys2Proof

/-- Whether an initiator makes transactions of its level (12_guard.md Table 4; 15 stands for the Guard
core, 13 and 14 are reserved). -/
def Who.wf (w : Who) : Bool :=
  match w.ini.toNat with
  | 0 | 2 | 7 | 8 | 9 | 10 | 11 => w.level == .platform
  | 1 | 3 => w.level == .host
  | 4 | 5 | 6 => w.level != .seal
  | 12 => w.level != .host
  | 15 => w.level == .seal
  | _ => false

/-- Whether a register is named at a 32-bit word. -/
def RegTarget.wf : RegTarget → Bool
  | .config off => off.toNat % 4 == 0
  | .port _ off => off.toNat % 4 == 0

/-- Whether a measurement names every channel and element once (09_legal_partition.md R269). -/
def LegMeas.wf (m : LegMeas) : Bool :=
  m.v.length == 4 && m.i2.length == 4 && m.p.length == 4 && m.q.length == 4

/-- Whether a frame can have crossed an Ethernet link (10_time_and_backbone.md R307). -/
def frameWf (frame : List Byte) : Bool := decide (14 ≤ frame.length) && decide (frame.length ≤ 9216)

/-- Whether the operands of a transaction fit each other. -/
def accessWf (write : Bool) (addr : BitVec 48) (len : BitVec 8) (data : List Byte) : Bool :=
  len != 0 && decide (addr.toNat + len.toNat ≤ 2 ^ 48) && data.length == if write then len.toNat else 0

/-- Whether a command is well formed. -/
def Instr.wf (i : Instr) : Bool :=
  match i with
  | .registerWrite target _ who => target.wf && who.wf
  | .counterRead target => target.wf
  | .busAccess write addr len data who _ => accessWf write addr len data && who.wf
  | .busTimeout _ _ who => who.wf
  | .headerDecoded _ _ soft _ => decide (soft.length ≤ 1072)
  | .frameDecoded _ soft _ gsnr => decide (soft.length ≤ 1023 * 642) && decide (gsnr.length ≤ 16)
  | .keyWindowWrite _ _ who | .keyLoadGo _ who | .keyErase _ who => who.wf
  | .clmEnable _ who _ | .mediaFormat _ who _ | .clmDisable _ who | .ckptNow _ who | .ctrlFlush _ who => who.wf
  | .legMetCfgWrite _ who | .legClkCfgWrite _ who => who.wf
  | .doorbellWrite _ offset _ who => offset.toNat % 4 == 0 && who.wf
  | .apcCoreRun _ who => who.wf
  | .personalise who | .seal who | .retire who | .clearTrip who => who.wf
  | .keyDerivation _ who | .accessPlanCommit _ who | .tamperCfgWrite _ _ who | .debugGrant _ who => who.wf
  | .muxSelect _ _ who | .deviceResetCmd _ who | .runCommand who | .rideCommand who => who.wf
  | .kilnBoot _ who | .kilnSlice _ who => who.wf
  | .emberStagingWrite offset _ who => offset.toNat % 4 == 0 && who.wf
  | .emberSoftwareWrite _ who | .clearLast who => who.wf
  | .legalSecondEdge m | .powerFailClose m _ => m.wf
  | .ethFrameReceived _ frame _ _ => frameWf frame
  | .respond _ sig _ => sig.length == 64
  | .chainHeaderPiece frame | .chainBodyPiece frame | .chainRequest frame | .chainHave frame => frameWf frame
  | .heartbeatFrame frame | .orderFrame frame | .takeoverFrame frame | .dropFrame frame | .pairLinkUp frame =>
    frameWf frame
  | _ => true

end Sys2Proof
end

