-- ==== Sys2Proof/Tests/Slice0.lean ====
section
/-!
SUPPORT. Tests: each check of well-formedness refuses an ill-formed command; a few steps with results worked out
from the specification; and, for every statement with hypotheses, a state and operands that meet them, clause by clause.
-/
namespace Sys2Proof.Tests
open Sys2Proof Sys2Proof.Machine

set_option Elab.async false
set_option linter.unusedVariables false

/-! ### Small states -/

/-- The Guard core and the host, as initiators. -/
def sealWho : Who := ⟨15, .seal⟩
def hostWho : Who := ⟨3, .host⟩

/-- The batch unit BAL, an initiator at the Platform level. -/
def balWho : Who := ⟨7, .platform⟩

/-- A kindled chip in RUN after a complete start, in which active region 0 of the access plan grants every page to every
initiator at both levels, with some registers written. -/
def run (regs : List (Nat × Nat)) : Chip :=
  regs.foldl (fun c e => c.wr e.1 e.2) <|
    { Chip.reset with
      regs := [(Reg.AP_ACTIVE 0 2, 0xFFFFFFFF), (Reg.AP_ACTIVE 0 3, 0xF), (Reg.AP_ACTIVE 0 4, 0xFFFFFFFF),
        (Reg.AP_ACTIVE 0 5, 0xFFFFFFFF), (Reg.AP_ACTIVE 0 6, 1)]
      crp := { Chip.reset.crp with startStep := 8, xaValid := true, xbValid := true, coreEn := true }
      grd := { Chip.reset.grd with kindled := true } }

/-- A state with a chip, and else as after reset. -/
def on (c : Chip) : State := { State.reset with chip := c }

/-- The same with a life-cycle state. -/
def inState (l : LcState) (c : Chip) : State :=
  { State.reset with chip := c, lc := { state := l, tripped := false, rootKilled := false, copies := List.replicate 4 ⟨l, false, false, true⟩ } }

/-- A unit that listens for its neighbour of short address 0x42. -/
def airListening : Chip :=
  ((run [(Reg.AIR_IQ_FREQ 1, 32000), (Reg.AIR_IQ_CFG 1, 1), (Reg.AIR_MAC_CTRL 1, 1), (Reg.AIR_MAC_CFG 1, 1),
    (Reg.AIR_PB_HI 1, 7), (Reg.NB_WORD 1 0 2, 0x10042)]).setPool .air1 ⟨true, []⟩).onAir 1 fun a =>
    { a with aligned := true, slot := some { asn := 7, start := 0, work := .listen 1 0xFFF, chan := 1, window := none, us := 0, ready := true, launched := false, heard := false, deaf := false } }

/-- A 64-byte entry of the CIU with SRC, DST and AUX in packet memory. -/
def entry (op flags slot len tag auxLen oslot oattr handle sc : Nat) : List Byte :=
  leBytes 1 op ++ leBytes 1 flags ++ leBytes 2 slot ++ leBytes 3 len ++ leBytes 1 tag ++ leBytes 6 0x60000000 ++ leBytes 2 auxLen ++
    leBytes 6 0x60001000 ++ leBytes 2 0 ++ leBytes 6 0x60002000 ++ leBytes 2 oslot ++ leBytes 4 oattr ++ List.replicate 16 0 ++
    leBytes 3 handle ++ leBytes 1 sc ++ List.replicate 8 0

/-- A chip in which that entry of the Seal level's queue 1 is in progress, and slot 1 holds a key of an algorithm. -/
def cipher (e : List Byte) (alg : Nat) : Chip :=
  let c := run [(Reg.CIU_CTRL, 1), (Reg.CIU_QCFG 1, 0xC0000000), (Reg.CIU_QBASE_LO 1, 0x60010000)]
  (c.onCiu fun u => { u with inflight := [⟨1, 0, e, 0, none⟩] }).setKey 1 (0x80000030 + alg) 7

/-- Sixteen and thirty-two bytes of 01, wrapped by RFC 3394 under the KEK 07 00 … 00. -/
def wrapped : List Byte :=
  [0x9D, 0x32, 0x49, 0x67, 0x7C, 0xAB, 0x37, 0xC6, 0x18, 0xB5, 0xFD, 0x59,
   0xCE, 0xE2, 0xAB, 0xA, 0x98, 0x46, 0xA1, 0x7F, 0xFF, 0x85, 0xD8, 0x48]
def wrapped32 : List Byte :=
  [0x48, 0x1, 0x17, 0x42, 0xBA, 0xB4, 0x98, 0x5, 0xD6, 0x15, 0x3B, 0xD2, 0x18, 0x98, 0x72, 0x1B, 0xD, 0x4B, 0xA8, 0x61,
   0x70, 0x83, 0x67, 0xE5, 0x85, 0x18, 0x70, 0xDA, 0x34, 0x83, 0x31, 0xCF, 0xFA, 0x4A, 0xE1, 0x1C, 0x58, 0x96, 0xE1, 0x5]

/-- A pod waits for the session keys of meter 5, whose record is read and whose context is resident. -/
def sessionWaits : Chip :=
  let c := (run [(Reg.CIU_CTRL, 1), (Reg.CIU_SESS_CTRL, 1), (Reg.APC_MREC_BASE_LO, 0x60100000)]).setKey 1 0x80000036 7
  ((c.wrMem 0x60100B00 wrapped32).wrMem 0x60100B50 [1]).setHway 20 ⟨5, true, false⟩ |>.onCiu fun u =>
    { u with misses := [⟨1023, 5, false⟩] }

/-- A chip in which BAL runs, its queue and its regions in packet memory, with some registers written. -/
def balance (regs : List (Nat × Nat)) : Chip :=
  run ([(Reg.BAL_CTRL, 1), (Reg.BAL_QCFG, 0x80000000), (Reg.BAL_QBASE_LO, 0x60000000), (Reg.BAL_BASE_LO 0, 0x60100000),
    (Reg.BAL_BASE_LO 1, 0x60120000), (Reg.BAL_BASE_LO 2, 0x60140000), (Reg.BAL_BASE_LO 4, 0x60180000),
    (Reg.BAL_BASE_LO 5, 0x601C0000)] ++ regs)

/-- A chip in which the Clamp is READY over small media, its tables and queue 0 in packet memory, with one unit of ARCHIVE,
STORE, SCRATCH and IMAGE each, and open ricks of every stream. -/
def clamp (regs : List (Nat × Nat)) : Chip :=
  let r : Rick := ⟨7, 0, [100, 0x4001, 0x8001, 0xC001, 0x10001, 0x14001, 0x18001, 0x1C001], 0, [], [], false⟩
  let e : List Byte := [2, 3, 0, 0, 0, 0, 0, 0, 0, 0, 4, 0, 0, 0, 1, 0x60]
  (run ([(Reg.CLM_CTRL, 1), (Reg.CLM_STATUS, 4), (Reg.CLM_GEOM, 0x30070), (Reg.CLM_MAP_BASE_LO, 0x60020000),
    (Reg.CLM_BLK_BASE_LO, 0x60040000), (Reg.CLM_QCFG 0, 0x80000000), (Reg.CLM_QBASE_LO 0, 0x60000000),
    (Reg.CLM_QPI 0, 1)] ++ regs)).onClm fun x => { x with
      formatted := true, sizes := [1, 1, 1, 1],
      cmds := [⟨5, 0, 1, e, none, 0, 0, 0, [], 0, []⟩]
      ricks := [0, 1, 2, 3, 4, 6].map fun k => { r with num := k, stream := k } }

/-- The anchor record of those media. -/
def anchor : Anchor := ⟨1, 0, 1, 8, 1, 0x30070, [1, 1, 1, 1], 4, 10, 8, [0], [0], [0, 0, 0, 0], 0, []⟩

/-- A legal partition that meters and serves requests, with the key of its TAGs in slot 0. -/
def metered : State :=
  { on ((({ run [] with ciu := { Ciu.reset with masks := [0] } } : Chip).setKey 0 0x800000B1 7).onGrd fun g => { g with coreHeld := false, pathCut := false }) with
    leg := { Leg.delivered with ctrl := 1 } }

/-- What the front end measures in a second. -/
def meas0 : LegMeas := ⟨[230, 0, 0, 0], [25, 0, 0, 0], [5000, 0, 0, 0], [0, 0, 0, 0], 50000, false, false⟩

/-- A chain frame of Table 8 of 13_update_and_tinder.md. -/
def chainFrame (typ src series kind : Nat) (d : List Byte) : List Byte :=
  let b := [1] ++ leBytes 1 typ ++ leBytes 2 src ++ leBytes 4 series ++ leBytes 1 kind ++ [0, 0, 0, 0, 0, 0, 0] ++ leBytes 2 d.length ++ [0, 0] ++ d
  b ++ leBytes 4 (crc32 b)

/-- A manifest of one chunk. -/
def manifest (len : Nat) (hash : List Byte) : Manifest := ⟨[], 7, len, 1, 0, [(0, 1, 0x1000000000)], [hash]⟩

/-- Node 3 of a chain, between its parent 2 and its child 4, in a state of the journal. -/
def updating (state : Nat) (m : Manifest) : Chip :=
  ((clamp [(Reg.CLM_QCFG 1, 0x80000000), (Reg.CLM_QBASE_LO 1, 0x60010000), (Reg.BKB_NODE, 3), (Reg.GRD_UPD_TBL_ADDR_LO, 0x60040000), (Reg.CRP_BKP_STATUS, 0x640000)]).onClm fun x =>
    { x with sizes := [8, 8, 8, 8], cmds := [] }).onUpd fun u =>
      { u with order := [(2, 0xFFF), (3, 2), (4, 3)], state := state, pending := some m, installed := some m }

/-- A pair frame of Table 4 of 15_kiln_and_redundancy.md, with numbers that follow those of `paired`. -/
def pairFrame (typ state : Nat) (d : List Byte) : List Byte :=
  let b := leBytes 1 typ ++ leBytes 1 state ++ leBytes 2 d.length ++ leBytes 4 1 ++ leBytes 4 0 ++ leBytes 2 5 ++ leBytes 2 9 ++ d
  b ++ leBytes 4 (crc32 b)

/-- A chip whose pair logic runs in a STATE, aligned with its partner. -/
def paired (state : Nat) (regs : List (Nat × Nat)) : Chip :=
  (run ([(Reg.BKB_PAIR_CFG, 0x82000003), (Reg.BKB_PAIR_STATUS, 0x50000 + state), (Reg.BKB_PAIR_HMASK, 0xFFFF), (Reg.BKB_NODE, 3)] ++ regs)).onPair fun p =>
    { p with aligned := true, alive := true, partner := 9, rxSeq := 0 }

/-! ### Well-formedness refuses what the outside cannot supply -/

/-- Who stands for a reserved initiator. -/
def nobody : Who := ⟨13, .platform⟩

theorem test_wf_accepts : Instr.wf (.registerWrite (.config 0x600100) 1 sealWho) = true := by decide
theorem test_wf_initiator : Instr.wf (.registerWrite (.config 0x600100) 1 nobody) = false := by decide
theorem test_wf_host_level : Instr.wf (.registerWrite (.config 0x600100) 1 ⟨3, .seal⟩) = false := by decide
theorem test_wf_word : Instr.wf (.registerWrite (.config 0x600102) 1 sealWho) = false := by decide
theorem test_wf_port_word : Instr.wf (.counterRead (.port 0 0x81)) = false := by decide
theorem test_wf_access_len : Instr.wf (.busAccess false 0x60000000 0 [] sealWho .good) = false := by decide
theorem test_wf_access_data : Instr.wf (.busAccess true 0x60000000 2 [1] sealWho .good) = false := by decide
theorem test_wf_access_top : Instr.wf (.busAccess false 0xFFFFFFFFFFFF 2 [] sealWho .good) = false := by decide
theorem test_wf_measurement : Instr.wf (.legalSecondEdge ⟨[], [], [], [], 50000, false, false⟩) = false := by decide
theorem test_wf_frame_short : Instr.wf (.chainHave [1, 2, 3]) = false := by decide
theorem test_wf_frame_long : Instr.wf (.chainHave (List.replicate 9217 0)) = false := by decide +kernel
theorem test_wf_payload : Instr.wf (.frameDecoded 0 [] 0 (List.replicate 17 0)) = false := by decide +kernel
theorem test_wf_doorbell : Instr.wf (.doorbellWrite 0 2 0 hostWho) = false := by decide
theorem test_wf_staging : Instr.wf (.emberStagingWrite 2 0 sealWho) = false := by decide
theorem test_wf_signature : Instr.wf (.respond 0 [1] true) = false := by decide
theorem test_wf_key_write : Instr.wf (.keyLoadGo 0 nobody) = false := by decide

/-! ### The algorithms at the values that their standards give -/

/-- FIPS 197, Appendix C.1. -/
theorem test_aes_fips197 : aesEnc ((List.range 16).map (BitVec.ofNat 8)) ((List.range 16).map fun i => BitVec.ofNat 8 (17 * i)) =
    [0x69, 0xC4, 0xE0, 0xD8, 0x6A, 0x7B, 0x04, 0x30, 0xD8, 0xCD, 0xB7, 0x80, 0x70, 0xB4, 0xC5, 0x5A] := by decide +kernel

/-- FIPS 180-4, the message "abc". -/
theorem test_sha256_abc : (sha256 [0x61, 0x62, 0x63]).take 8 = [0xBA, 0x78, 0x16, 0xBF, 0x8F, 0x01, 0xCF, 0xEA] := by decide +kernel

/-- The check value of CRC-32 over "123456789". -/
theorem test_crc32_check : crc32 [0x31, 0x32, 0x33, 0x34, 0x35, 0x36, 0x37, 0x38, 0x39] = 0xCBF43926 := by decide +kernel

/-- The check value of the CRC-16 of 00_scope.md R489 over "123456789". -/
theorem test_crc16_check : crc16 [0x31, 0x32, 0x33, 0x34, 0x35, 0x36, 0x37, 0x38, 0x39] = 0x29B1 := by decide +kernel

/-- Table 11 of chapter 02: header symbols, payload symbols and airtime of a 103-byte frame. -/
theorem test_tl_airtime :
    (headerSymbols 3 0, payloadSymbols 3 2 0 0xFFFF 103, airtime 3 2 0 0xFFFF 103) = (1, 3, 4160000) ∧
    (headerSymbols 0 0, payloadSymbols 0 3 0 0xFFF 103, airtime 0 3 0 0xFFF 103) = (5, 16, 16400000) ∧
    (headerSymbols 1 2, payloadSymbols 1 0 2 0xFFFF 103, airtime 1 0 2 0xFFFF 103) = (65, 719, 565760000) := by decide +kernel

/-- Table 3 of chapter 02: the first and the last carrier of band F, and how many its SYNC-A carries. -/
theorem test_tl_carriers : (carriersOf 3).head? = some 99 ∧ (carriersOf 3).getLast? = some 312 ∧
    (syncCarriers 3).length = 54 ∧ groupOfCarrier 3 312 = 15 := by decide +kernel

/-- Two bytes of a coded block in error are put right (02 R46). -/
theorem test_tl_corrects : ((rsEncode [1, 2, 3]).length = 19) ∧
    rsDecode 3 ((rsEncode [1, 2, 3]).set 1 0xFF |>.set 7 0xEE) = some ([1, 2, 3], 2) := by decide +kernel

/-- The slots of a header, coded and interleaved for band F, give the header back (02 R47–R50). -/
theorem test_tl_header :
    let h : TlHeader := ⟨2, 0, 0xFFFF, 103, 5, 3, 0x21⟩
    hcsGood h.bits = true ∧ rxHeader 3 false ((interleave 1 214 (convEncode ((List.range 80).map (bitOf h.bits)))).flatten.map
      fun b => if b then -1 else 1) = h.bits := by decide +kernel

/-- The leap day of 2024 was a Thursday. -/
theorem test_leap_day : civil (dayOf 2024 2 29) = (2024, 2, 29) ∧ weekdayOf (dayOf 2024 2 29) = 3 := by decide

/-! ### Single steps -/

/-- Whether a command ends in a next state with a property. -/
def gives (i : Instr) (s : State) (p : State → Bool) : Bool :=
  match exec i s with
  | .next t => p t
  | _ => false

/-- A power-on reset leaves POR as the one cause (14_power_clock_reset.md R421). -/
theorem test_por_cause : gives .powerOnReset (on (run [(Reg.CRP_RST_CAUSE, 4)])) (fun t => t.chip.rd Reg.CRP_RST_CAUSE == 1) = true := by
  decide +kernel

/-- A read that the plan refuses returns zero and is counted (12_guard.md R376). -/
theorem test_refused_read : gives (.busAccess false 0x60000000 2 [] balWho .good) (on { run [] with regs := [] })
    (fun t => t.chip.resp == .data [0, 0] && t.chip.rd Reg.GRD_AP_VIOL == 1) = true := by decide +kernel

/-- Bytes written to packet memory lie there in address order (00_scope.md). -/
theorem test_memory_write : gives (.busAccess true 0x60000010 2 [0xAA, 0xBB] sealWho .good) (on (run []))
    (fun t => t.chip.rdb 0x60000010 == 0xAA && t.chip.rdb 0x60000011 == 0xBB && t.chip.resp == .written) = true := by decide +kernel

/-- A read of a counter answers it and clears it (03_radio_and_network.md R72). -/
theorem test_counter_clears : gives (.counterRead (.config (BitVec.ofNat 24 Reg.LMA_NET_ACKSKIP))) (on (run [(Reg.LMA_NET_ACKSKIP, 7)]))
    (fun t => t.chip.resp == .data [7, 0, 0, 0] && t.chip.rd Reg.LMA_NET_ACKSKIP == 0) = true := by decide +kernel

/-- A step on the empty queue passes 1/256 s and leaves the queue empty. -/
theorem test_idle_step : (match step State.reset with
    | .next t => t.pending == [] && t.chip.ember.sub == State.reset.chip.ember.sub + 1
    | _ => false) = true := by decide +kernel

/-- The command at the front of the queue is the one that runs. -/
theorem test_queue_order : (match step { State.reset with pending := [.energySnapshot, .copyResume] } with
    | .next t => t.pending == [.copyResume]
    | _ => false) = true := by decide +kernel

/-- Loss of VDD_SEAL puts the device in OFF (14_power_clock_reset.md R426). -/
theorem test_seal_loss : gives .vddSealLoss (on (run [])) (fun t => t.chip.crp.power == .off) = true := by decide +kernel

/-! ### Statements with hypotheses on every state -/

theorem reset_inv : State.reset.Inv := rfl

theorem reset_tidy : State.reset.chip.Tidy := ⟨by decide +kernel, by decide +kernel⟩

theorem witness_ResetIsSound : ∃ row, regRow? Reg.GRD_EMB_CURSOR = some row ∧ row.reset = 0x20000 := by decide +kernel

theorem witness_EveryStepIsSafe : State.reset.Inv ∧ ({ State.reset with pending := [.powerOnReset] } : State).Inv := ⟨rfl, rfl⟩

/-- Clauses 1 to 4: a command that reaches neither the legal partition nor the life cycle. -/
theorem witness_BoundariesHold_commands : gives (.zcLost 0) State.reset (fun _ => true) = true ∧
    (Instr.zcLost 0).reachesLegal = false ∧ (Instr.zcLost 0).reachesLifeCycle = false ∧ (Instr.zcLost 0).isBusAccess = false := by
  decide +kernel

/-! ### Updates whose verdict rests on a hash of 64 KiB, shown without evaluating it -/

/-- A chip with another journal. -/
def withUpd (c : Chip) (u : Upd) : Chip := { c with upd := u }

theorem mapEntry_withUpd (c : Chip) (u : Upd) : (withUpd c u).mapEntry = c.mapEntry := by
  funext x
  have h : (withUpd c u).mapAddr x = c.mapAddr x := rfl
  have g (a n : Nat) : (withUpd c u).clmGet a n = c.clmGet a n := rfl
  rw [Chip.mapEntry, Chip.mapEntry, h, g]

theorem unitContent_withUpd (c : Chip) (u : Upd) : (withUpd c u).unitContent = c.unitContent := by
  funext x
  have g : (withUpd c u).nandGet = c.nandGet := rfl
  have b : (withUpd c u).clm = c.clm := rfl
  simp only [Chip.unitContent, mapEntry_withUpd, g, b]

theorem nsRead_withUpd (c : Chip) (u : Upd) (ns a n : Nat) : (withUpd c u).nsRead ns a n = c.nsRead ns a n := by
  have h : (withUpd c u).nsUnits ns a n = c.nsUnits ns a n := rfl
  have g : (withUpd c u).nsStart ns = c.nsStart ns := rfl
  simp only [Chip.nsRead, unitContent_withUpd, h, g]

theorem stagedChunk_withUpd (c : Chip) (u : Upd) (k : Nat) : (withUpd c u).stagedChunk k = c.stagedChunk k :=
  nsRead_withUpd _ _ _ _ _

theorem stagedComes_withUpd (c : Chip) (u : Upd) (k : Nat) : (withUpd c u).stagedComes k = c.stagedComes k := rfl

/-- A chip of the chain that has chunk 0 staged. -/
def staged : Chip := updating 3 (manifest 100 [])

/-- The same, with a journal whose manifest gives that chunk a hash. -/
def journal (hash : List Byte) : Chip := withUpd staged { staged.upd with pending := some (manifest 100 hash), copies := [] }

/-- The hash of the staged chunk. -/
def goodHash : List Byte := sha256 (staged.stagedChunk 0)

theorem manifest_hash (len : Nat) (hash : List Byte) : (manifest len hash).chash.getD 0 [] = hash := rfl

theorem journal_staged (hash : List Byte) : (journal hash).stagedChunk 0 = staged.stagedChunk 0 := stagedChunk_withUpd staged _ 0

/-- The copy that begins has a chunk that comes, and whether it matches is its hash's. -/
theorem journal_copies (hash : List Byte) : (journal hash).upd.pending = some (manifest 100 hash) ∧
    (journal hash).copying (manifest 100 hash) = true ∧ (journal hash).upd.write = none ∧ (journal hash).stagedComes 0 = true := by
  have g : staged.stagedComes 0 = true := by decide +kernel
  exact ⟨rfl, rfl, rfl, (stagedComes_withUpd staged _ 0).trans g⟩

theorem witness_CopyAndLoadProceed_good : sha256 ((journal goodHash).stagedChunk 0) = (manifest 100 goodHash).chash.getD 0 [] := by
  rw [journal_staged, ← goodHash, manifest_hash]

theorem witness_CopyAndLoadProceed_bad :
    sha256 ((journal (0 :: goodHash)).stagedChunk 0) ≠ (manifest 100 (0 :: goodHash)).chash.getD 0 [] := by
  rw [journal_staged, ← goodHash]
  exact fun h => List.ne_cons_self h

/-! ### A frame that carries a packet -/

/-- CRC-32 goes on over zeros. -/
def zerosCrc : Nat → Nat → Nat
  | 0, c => c
  | n + 1, 0 => zerosCrc n (crcByte 0xEDB88320 0 0)
  | n + 1, c + 1 => zerosCrc n (crcByte 0xEDB88320 (c + 1) 0)

theorem foldl_zeros (n c : Nat) : (List.replicate n (0 : Byte)).foldl (crcByte 0xEDB88320) c = zerosCrc n c := by
  induction n generalizing c with
  | zero => rfl
  | succ n ih => cases c <;> simp only [List.replicate_succ, List.foldl_cons, ih, zerosCrc]

/-- The first bytes of an ORDER frame that carries record 1 and its packet. -/
def slotHead : List Byte := [2, 1, 24, 4, 1, 0, 0, 0, 0, 0, 0, 0, 5, 0, 9, 0, 24, 4]

theorem crc_slot : crc32 (slotHead ++ List.replicate 1046 0) = 0x4FD2573E := by
  rw [crc32, List.foldl_append, foldl_zeros]
  decide +kernel

/-- An ORDER frame of record 1, whose packet is a slot of zeros. -/
def slotFrame : List Byte := slotHead ++ List.replicate 1046 0 ++ [0x3E, 0x57, 0xD2, 0x4F]

theorem slotFrame_good : pairFrameGood slotFrame = true := by
  have h : slotFrame.take (16 + leAt slotFrame 2 2) = slotHead ++ List.replicate 1046 0 := by decide +kernel
  rw [pairFrameGood, h, crc_slot]
  decide +kernel

theorem witness_PairKeepsLockStep_5 : pairFrameGood slotFrame = true ∧
    (let s : State := on ((paired 2 [(Reg.BKB_PAIR_PB_HI, 7)]).setPool .pair ⟨true, []⟩); let f : List Byte := slotFrame;
      (decide (s.chip.pairRuns = true ∧ s.chip.pair.aligned = true ∧ s.chip.outranked f = false ∧ leAt f 1 1 ≠ 4 ∧
        (s.chip.pairState = 4 → leAt f 1 1 ≠ 2) ∧ leAt f 0 1 = 2 ∧ s.chip.pairState = 2 ∧ leAt f 4 4 = s.chip.pair.rxSeq + 1 ∧
        s.chip.pair.rxPart = [] ∧ leAt f 2 2 = 1048 ∧ leAt f 16 2 = 1048 ∧ (s.chip.poolFind .pair 1).isSome = true)) : Bool) = true :=
  ⟨slotFrame_good, by decide +kernel⟩

/-! ### For every statement, clause by clause, a state and operands that meet its hypotheses together -/

/-- Clauses 1, 2, 3, 4, 5, 6, 7, 9, 10. -/
theorem witness_BusAccessesAreJudged :
    (let s : State := on (run []); let off : BitVec 24 := BitVec.ofNat 24 (Reg.PIC_PRIO 3); (decide (s.chip.powered 6 = true) &&
      (decide (off.toNat % 4 = 0) && (decide (s.chip.gatedIn off.toNat = none) && (decide (plainApc off.toNat = true) &&
      (match (regRow? off.toNat) with
       | some _ => (true) | _ => false))))) : Bool) = true ∧
    (let s : State := on (run [(Reg.LMA_NET_ACKSKIP, 7)]); let off : BitVec 24 := BitVec.ofNat 24 Reg.LMA_NET_ACKSKIP;
      (decide (s.chip.powered (off.toNat / 0x100000) = true) && (decide (off.toNat % 4 = 0) && (decide (s.chip.gatedIn off.toNat = none) &&
      (decide (off.toNat / 0x100000 ≠ 8) && (decide (idxOf (Reg.PIC_CLAIM 0) 8 8 off.toNat = none) && (match (regRow? off.toNat) with
       | some row => ((decide (row.rc ≠ 0))) | _ => false)))))) : Bool) = true ∧
    (let s : State := on (run []); (decide (s.chip.portGated 5 = false)) : Bool) = true ∧
    (let s : State := on (run []); let a : BitVec 48 := 0x601FFFFE; let d : List Byte := [1, 2]; let w : Who := sealWho;
      (decide (s.busReaches w .seal = true) && (decide (d ≠ []) && (decide (s.chip.gatedMemory .packetBuffer = none) &&
      (decide (0x60000000 ≤ a.toNat) && (decide (a.toNat + d.length ≤ 0x60200000)))))) : Bool) = true ∧
    (let s : State := on (run []); let a : BitVec 48 := 0x60000000; let n : BitVec 8 := 4; let w : Who := sealWho;
      (decide (s.busReaches w .seal = true) && (decide (n ≠ 0) && (decide (s.chip.gatedMemory .packetBuffer = none) &&
      (decide (0x60000000 ≤ a.toNat) && (decide (a.toNat + n.toNat ≤ 0x60200000)))))) : Bool) = true ∧
    (let s : State := on (run []); let a : BitVec 48 := 0x70000000; let n : BitVec 8 := 1; let w : Who := sealWho; (let l := (Level.seal);
      decide (s.busReaches w l = true) && (decide (s.chip.busAllows { w with level := l } false a.toNat n.toNat = true) &&
      (decide (n ≠ 0) && (decide (s.chip.regionOf a.toNat = .nowhere) &&
      (decide (s.chip.regionOf (a.toNat + n.toNat - 1) = .nowhere)))))) : Bool) = true ∧
    (let s : State := on (run []); let a : BitVec 48 := 0x800000000000; let n : BitVec 8 := 8; let w : Who := sealWho;
      (decide (s.busReaches w .seal = true) && (decide (s.chip.powered 12 = true) && (decide (n ≠ 0) &&
      (decide (0x800000000000 ≤ a.toNat) && (decide (a.toNat + n.toNat ≤ 0x1000000000000) &&
      (decide (s.chip.hostUp = false))))))) : Bool) = true ∧
    (let s : State := on (run []); (decide (s.chip.reaches Reg.CRP_NRG_CTRL = true)) : Bool) = true ∧
    (let s : State := on ((run []).onCrp fun x => { x with snapping := true }); (decide (s.chip.crp.snapping = true)) : Bool) = true := by decide +kernel

/-- Clause 1. -/
theorem witness_RefusedTransactionsHaveNoEffect :
    (let s : State := on { run [] with regs := [] }; let wr : Bool := false; let a : BitVec 48 := 0x60000000; let n : BitVec 8 := 4;
      let d : List Byte := []; let w : Who := balWho; (let l := (Level.platform); decide (s.busReaches w l = true) &&
      (decide (s.chip.busAllows { w with level := l } wr a.toNat (if wr then d.length else n.toNat) = false))) : Bool) = true := by decide +kernel

/-- Clauses 1, 2, 3, 4, 5, 6, 7, 8, 9, 10. -/
theorem witness_LanesReceiveFrames :
    (let s : State := on (run []); (decide (s.chip.lmaUp = true)) : Bool) = true ∧
    (let s : State := on (run []); (decide (s.chip.lmaUp = true)) : Bool) = true ∧
    (let s : State := on (run [(Reg.LMA_CTRL, 1), (Reg.LMA_IN_CFG 3, 1)]); let input : Fin 4 := 3; let band : Fin 4 := 0;
      (decide ((s.chip.lmaUp && s.chip.bit Reg.LMA_CTRL 0 && s.chip.bit (Reg.LMA_IN_CFG input) 0 && !s.chip.blanked input band) = true)) : Bool) = true ∧
    (let s : State := on ((run []).setLane 23 { Lane.initial with phase := .header }); let n : Fin 24 := 23;
      (decide (s.chip.lmaUp = true) && (decide ((s.chip.lane n).phase = .header))) : Bool) = true ∧
    (let s : State := on ((run []).setLane 23 { Lane.initial with phase := .payload }); let n : Fin 24 := 23;
      (decide (s.chip.lmaUp = true) && (decide ((s.chip.lane n).phase = .payload))) : Bool) = true ∧
    (let s : State := on (((run [(Reg.LMA_PB_HI, 7)]).setLane 23 { Lane.initial with phase := .held, frame := some ⟨[], [], 0, false⟩ }).setPool .lma ⟨true, []⟩);
      let n : Fin 24 := 23; (decide (s.chip.lmaUp = true) && (decide ((s.chip.lane n).phase = .held) && (match ((s.chip.lane n).frame) with
       | some f => ((decide (s.chip.lma.direct = false) && (match (s.chip.poolFind .lma 1) with
       | some slot => ((decide ((s.chip.portGated 5 || s.chip.allocRoom 0) = true) &&
      (decide (s.chip.judge 8 false true (slotAddr slot) (f.record.length + f.payload.length) = .ok)))) | _ => false))) | _ => false))) : Bool) = true ∧
    (let s : State := on ((run []).setLane 23 { Lane.initial with phase := .held }); let n : Fin 24 := 23; (decide (s.chip.lmaUp = true) &&
      (decide ((s.chip.lane n).phase = .held))) : Bool) = true ∧
    (let s : State := on (run []); let n : Fin 24 := 23; (decide (s.chip.reaches (Reg.LMA_LANE_CFG n) = true)) : Bool) = true ∧
    (let s : State := on (run []); let n : Fin 24 := 23; (decide (s.chip.lmaUp = true) &&
      (decide ((s.chip.lane n).phase = .idle))) : Bool) = true ∧
    (let s : State := on ((run []).onCrp fun x => { x with closed := [2] }); (decide (s.chip.lmaUp = false)) : Bool) = true := by decide +kernel

/-- Clauses 1, 2, 3, 4, 5, 6, 7. -/
theorem witness_PackingQueueServes :
    (let s : State := on ((run []).onLma fun l => { l with storing := [⟨1, 0, false, false, false, 0, 0, 0, 0, 0, 0⟩] });
      let a : AllocOp := ⟨1, 0, false, false, false, 0, 0, 0, 0, 0, 0⟩; let rest : List AllocOp := [];
      (decide (s.chip.lma.storing = a :: rest) && (decide (s.chip.lmaClocked = true) && (decide (s.chip.portGated 5 = false) &&
      (decide (s.chip.allocRoom 0 = true) && (decide (s.chip.pairState ≠ 2)))))) : Bool) = true ∧
    (let s : State := on (run []); let p : Pool := .pair; (decide (s.chip.reaches p.freeReg = true)) : Bool) = true ∧
    (let s : State := on ((run []).onLma fun l => { l with direct := true }); (decide (s.chip.reaches Reg.LMA_PQ_DATA = true) &&
      (decide (s.chip.lma.direct = true))) : Bool) = true ∧
    (let s : State := on (run []); (decide (s.chip.reaches Reg.LMA_PQ_DATA = true) && (decide (s.chip.lma.direct = false))) : Bool) = true ∧
    (let s : State := on ((run []).onLma fun l => { l with stalled := true, pq := [[5, 6]] }); (decide (s.chip.lmaUp = true) &&
      (decide (s.chip.lma.stalled = true) && (match (s.chip.lma.pq) with
       | (_ :: _) :: _ => (true) | _ => false))) : Bool) = true ∧
    (let s : State := on ((run []).onLma fun l => { l with direct := true }); (decide (s.chip.reaches Reg.LMA_PQ_CTRL = true) &&
      (decide (s.chip.lma.direct = true))) : Bool) = true ∧
    (let s : State := on (run []); (decide (s.chip.lmaUp = true)) : Bool) = true := by decide +kernel

/-- Clauses 1, 2, 3, 4, 5, 6, 7, 8, 9, 10. -/
theorem witness_ChainsTransmitRequests :
    (let s : State := on (run []); let n : Fin 3 := 2; (decide (s.chip.reaches (Reg.LMA_TX_CFG n) = true)) : Bool) = true ∧
    (let s : State := on ((run [(Reg.LMA_CTRL, 1), (Reg.LMA_TX_CFG 2, 0x80000000), (Reg.LMA_TXQ_BASE_LO 2, 0x60000000), (Reg.LMA_TXQ_PI 2, 1)]).wrMem 0x60000010 [4, 0, 0, 0, 1]);
      let n : Fin 3 := 2; (decide ((s.chip.lmaUp && s.chip.working && (s.chip.chain n).tx.isNone) = true) &&
      (decide (s.chip.fl (Reg.LMA_TXQ_PI n) 5 0 ≠ s.chip.fl (Reg.LMA_TXQ_CI n) 5 0) &&
      (decide ((s.chip.bit Reg.LMA_CTRL 0 && !s.chip.bit Reg.LMA_CTRL 1 && s.chip.bit (Reg.LMA_TX_CFG n) 31) = true) &&
      (decide (s.chip.judge 8 false false (s.chip.txqAddr n) 32 = .ok) && (let r := (s.chip.rdMem (s.chip.txqAddr n) 32);
      (decide (requestInvalid r = false) && (decide ((leAt r 0 8 = 0 ∨ s.chip.time.toNat ≤ leAt r 0 8 + 50000)) &&
      (decide (s.chip.beaconHolds (s.chip.fl (Reg.LMA_TX_CFG n) 30 29) (if leAt r 0 8 = 0 then s.chip.time.toNat else leAt r 0 8) (airtime (fld (leAt r 18 1) 5 4) (fld (leAt r 18 1) 1 0) (fld (leAt r 18 1) 3 2) (leAt r 20 2) (leAt r 16 2 % 1024)) = false))))))))) : Bool) = true ∧
    (let s : State := on ((run [(Reg.LMA_CTRL, 1), (Reg.LMA_TX_CFG 2, 0x80000000)]).setChain 2 { LineChain.initial with tx := some { kind := .request, band := 0, mode := 0, gmask := 0xFFF, crel := 0, snid := 0, zco := 0, payload := [1], launchAt := 50, sentAt := none, header := 0, wave := [], atten := 0, clip := 0 } });
      let n : Fin 3 := 2; let τ : BitVec 64 := 50050; (decide ((s.chip.lineTxOn && s.chip.bit (Reg.LMA_TX_CFG n) 31) = true) &&
      (match ((s.chip.chain n).tx) with
       | some x => ((decide (x.sentAt = none) &&
      (decide (s.chip.beaconHolds (s.chip.fl (Reg.LMA_TX_CFG n) 30 29) τ.toNat (airtime x.band (x.mode % 4) (x.mode / 4) x.gmask x.payload.length) = false) &&
      (decide ((x.launchAt = 0 ∨ (x.launchAt.toNat ≤ τ.toNat + 100 ∧ τ.toNat ≤ x.launchAt.toNat + 50000))))))) | _ => false)) : Bool) = true ∧
    (let s : State := on (run []); (decide (s.chip.lmaUp = true)) : Bool) = true ∧
    (let s : State := on ((run []).setChain 2 { LineChain.initial with tx := some { kind := .request, band := 0, mode := 0, gmask := 0xFFF, crel := 0, snid := 0, zco := 0, payload := [1], launchAt := 50, sentAt := some 50, header := 0, wave := [], atten := 0, clip := 0 } });
      let ref : Fin 3 := 0; let n : Fin 3 := 2; let τ : BitVec 64 := 1000; (decide (s.chip.lmaUp = true) &&
      (decide (s.chip.chainRef n = ref) && (match ((s.chip.chain n).tx) with
       | some x => ((match (x.sentAt) with
       | some t₀ => ((let z := (τ - BitVec.ofNat 64 (s.chip.fl (Reg.LMA_ZC_COMP ref) 15 0)); (decide (t₀.toNat ≤ z.toNat) &&
      (decide (z.toNat ≤ t₀.toNat + 640000))))) | _ => false)) | _ => false))) : Bool) = true ∧
    (let s : State := on ((run []).setChain 2 { LineChain.initial with tx := some { kind := .request, band := 0, mode := 0, gmask := 0, crel := 0, snid := 0, zco := 0, payload := [1], launchAt := 0, sentAt := some 5, header := 0, wave := [], atten := 0, clip := 0 } });
      let n : Fin 3 := 2; (decide (s.chip.lmaUp = true) && (match ((s.chip.chain n).tx) with
       | some x => ((match (x.sentAt) with
       | some _ => (true) | _ => false)) | _ => false)) : Bool) = true ∧
    (let s : State := on (run []); (decide (s.chip.reaches Reg.LMA_CTRL = true)) : Bool) = true ∧
    (let s : State := on ((run [(Reg.LMA_CTRL, 2)]).setChain 2 { LineChain.initial with tx := some { kind := .request, band := 0, mode := 0, gmask := 0, crel := 0, snid := 0, zco := 0, payload := [1], launchAt := 0, sentAt := some 5, header := 0, wave := [], atten := 0, clip := 0 } });
      let n : Fin 3 := 2; (decide (s.chip.lmaUp = true) && (decide (s.chip.bit Reg.LMA_CTRL 1 = true) && (match ((s.chip.chain n).tx) with
       | some x => ((match (x.sentAt) with
       | some _ => (true) | _ => false)) | _ => false))) : Bool) = true ∧
    (let s : State := on (run []); (decide (s.chip.reaches Reg.LMA_PH_LOAD = true)) : Bool) = true ∧
    (let s : State := on ((run [(Reg.LMA_CTRL, 1), (Reg.LMA_TX_CFG 2, 0x80000000)]).setChain 2 { LineChain.initial with tx := some { kind := .request, band := 0, mode := 0, gmask := 0xFFF, crel := 0, snid := 0, zco := 0, payload := [1], launchAt := 50, sentAt := none, header := 0, wave := [], atten := 0, clip := 0 } });
      let n : Fin 3 := 2; let τ : BitVec 64 := 50051; (decide ((s.chip.lineTxOn && s.chip.bit (Reg.LMA_TX_CFG n) 31) = true) &&
      (match ((s.chip.chain n).tx) with
       | some x => ((decide (x.sentAt = none) && (decide (x.launchAt ≠ 0) &&
      (decide (x.launchAt.toNat + 50000 < τ.toNat))))) | _ => false)) : Bool) = true := by decide +kernel

/-- Clauses 1, 2, 3, 4, 5. -/
theorem witness_CellsSendBeaconsAndAcks :
    (let s : State := on (run []); let k : Fin 12 := 11; (decide (s.chip.reaches (Reg.LMA_CELL_CFG k) = true)) : Bool) = true ∧
    (let s : State := on (run [(Reg.LMA_CTRL, 1), (Reg.LMA_CELL_CFG 11, 0x80000000), (Reg.LMA_NET_CTRL, 1)]); let k : Fin 12 := 11;
      let τ : BitVec 64 := 0; (decide ((s.chip.lineTxOn && s.chip.cellOn k) = true) && (decide (s.chip.fl Reg.LMA_NET_CTRL 1 0 = 1) &&
      (decide (s.chip.beaconDue k τ.toNat = true) && (decide (s.chip.time.toNat ≤ τ.toNat))))) : Bool) = true ∧
    (let s : State := on { run [] with tim := { (run []).tim with now := 9 } }; let τ : BitVec 64 := 8;
      (decide (τ.toNat < s.chip.time.toNat)) : Bool) = true ∧
    (let s : State := on ((run [(Reg.LMA_NET_CTRL, 5)]).onLma fun l => { l with acks := [⟨11, 0xFFFE, 1, 0⟩] });
      (decide (s.chip.lmaUp = true) && (match (s.chip.lma.acks) with
       | a :: _ => ((decide (s.chip.ackWanted a.dest = true))) | _ => false)) : Bool) = true ∧
    (let s : State := on ((run [(Reg.LMA_NET_CTRL, 5)]).onLma fun l => { l with acks := [⟨11, 5, 1, 0⟩] }); (decide (s.chip.lmaUp = true) &&
      (match (s.chip.lma.acks) with
       | a :: _ => ((decide (s.chip.ackWanted a.dest = false))) | _ => false)) : Bool) = true := by decide +kernel

/-- Clauses 1, 2, 3, 4, 5, 6, 7, 8, 9. -/
theorem witness_RoutingTableFollowsTheRules :
    (let s : State := on (run [(Reg.RT_WORD 0x7FFF 0, 0x80008000)]); let v : Word := 0x7FFF;
      (decide (s.chip.reaches Reg.LMA_RT_LOSS = true) &&
      (decide ((s.chip.rtValid (v.toNat % 2 ^ 15) && s.chip.rtDirect (v.toNat % 2 ^ 15)) = true))) : Bool) = true ∧
    (let s : State := on (run []); (decide (s.chip.lmaUp = true)) : Bool) = true ∧
    (let s : State := on (run []); (decide (s.chip.lmaUp = true)) : Bool) = true ∧
    (let s : State := on (run []); let d : BitVec 15 := 0x7FFF; (decide (s.chip.reaches (Reg.RT_WORD d.toNat 0) = true)) : Bool) = true ∧
    (let s : State := on (run []); let d : BitVec 15 := 0x7FFF; let w : Fin 4 := 3; (decide (w ≠ 0) &&
      (decide (s.chip.reaches (Reg.RT_WORD d.toNat w) = true))) : Bool) = true ∧
    (let s : State := on (run [(Reg.LMA_NET_STATUS, 1)]); (decide (s.chip.lmaUp = true) &&
      (decide (s.chip.bit Reg.LMA_NET_STATUS 0 = true))) : Bool) = true ∧
    (let s : State := on (run []); (decide (s.chip.reaches Reg.LMA_RT_OFFER = true) &&
      (decide (s.chip.bit Reg.LMA_NET_STATUS 0 = false))) : Bool) = true ∧
    (let s : State := on (run [(Reg.LMA_NET_STATUS, 1)]); (decide (s.chip.reaches Reg.LMA_RT_OFFER = true) &&
      (decide (s.chip.bit Reg.LMA_NET_STATUS 0 = true))) : Bool) = true ∧
    (let s : State := on (run [(Reg.LMA_CELL_CFG 11, 0x80000000), (Reg.LMA_NET_CTRL, 2)]); let k : Fin 12 := 11; let τ : BitVec 64 := 0;
      (decide ((s.chip.lmaUp && s.chip.cellOn k) = true) && (decide (s.chip.fl Reg.LMA_NET_CTRL 1 0 = 2) &&
      (decide (s.chip.beaconDue k τ.toNat = true) && (decide (s.chip.beaconSent k τ.toNat = true))))) : Bool) = true := by decide +kernel

/-- Clauses 1, 2, 3, 4, 5, 6, 7, 8, 9. -/
theorem witness_AirUnitsAreConfigured :
    (let s : State := on (run [(Reg.AIR_IQ_FREQ 1, 32000), (Reg.AIR_IQ_CFG 1, 1)]); let u : Fin 2 := 1;
      (decide ((s.chip.airUp && s.chip.bit (Reg.AIR_IQ_CFG u) 0 && s.chip.iqPresent u) = true)) : Bool) = true ∧
    (let s : State := on ((run [(Reg.AIR_IQ_FREQ 1, 32000), (Reg.AIR_IQ_CFG 1, 1)]).onAir 1 fun a => { a with aligned := true });
      let u : Fin 2 := 1; (decide ((s.chip.airUnit u).aligned = true)) : Bool) = true ∧
    (let s : State := on (run []); (decide (s.chip.airUp = true)) : Bool) = true ∧
    (let s : State := on ((run [(Reg.AIR_IQ_FREQ 1, 32000)]).onAir 1 fun a => { a with slot := some { asn := 7, start := 0, work := .idle, chan := 1, window := none, us := 0, ready := true, launched := false, heard := false, deaf := false } });
      let u : Fin 2 := 1; let alt : Bool := true; (let r := ((if alt then Reg.AIR_PHY_ALT u else Reg.AIR_PHY_CFG u));
      (decide (s.chip.reaches r = true))) : Bool) = true ∧
    (let s : State := on (run [(Reg.AIR_IQ_FREQ 1, 65535)]); let u : Fin 2 := 1; (decide (s.chip.reaches (Reg.AIR_MAC_CTRL u) = true) &&
      (decide (s.chip.bit (Reg.AIR_MAC_CTRL u) 0 = false) &&
      (decide ((s.chip.phyFits u (s.chip.rd (Reg.AIR_PHY_CFG u)) && s.chip.phyFits u (s.chip.rd (Reg.AIR_PHY_ALT u)) && !s.chip.poolsOverlap (airPool u) .lma && !s.chip.poolsOverlap .air0 .air1) = true)))) : Bool) = true ∧
    (let s : State := on (run [(Reg.AIR_MAC_CTRL 1, 1), (Reg.AIR_MAC_CFG 1, 1)]); let u : Fin 2 := 1;
      (decide (s.chip.reaches (Reg.AIR_MAC_CTRL u) = true) && (decide (s.chip.bit (Reg.AIR_MAC_CTRL u) 0 = true))) : Bool) = true ∧
    (let s : State := on (run []); let u : Fin 2 := 1; (decide (s.chip.reaches (Reg.AIR_SCR_RUN u) = true)) : Bool) = true ∧
    (let s : State := on ((run [(Reg.AIR_IQ_FREQ 1, 32000), (Reg.AIR_IQ_CFG 1, 1)]).onAir 1 fun a => { a with scripts := [(2, .slot)] });
      let u : Fin 2 := 1; let miso : List Byte := []; let irq : List (BitVec 24) := []; (match ((s.chip.airUnit u).scripts) with
       | e :: _ => ((let c := (s.chip.inForce u); true)) | _ => false) : Bool) = true ∧
    (let s : State := on (run []); let u : Fin 2 := 1; let v : Word := 0x80000001;
      (decide (s.chip.reaches (Reg.AIR_HOP_CTRL u) = true)) : Bool) = true := by decide +kernel

/-- Clauses 1, 2, 3, 4, 5, 6, 7, 8, 9, 10, 11, 12, 13, 14, 15, 16. -/
theorem witness_AirSlotsCarryFrames :
    (let s : State := on (run [(Reg.AIR_MAC_CTRL 1, 1), (Reg.AIR_MAC_CFG 1, 1)]); let u : Fin 2 := 1; let τ : BitVec 64 := 0;
      (decide ((s.chip.airOn u && !s.chip.airUnsynced u && !s.chip.airResync u) = true) &&
      (decide ((s.chip.airRadio u = true ∨ s.chip.time.toNat ≤ τ.toNat)) && (match (s.chip.asnAt u τ.toNat) with
       | some _ => (true) | _ => false))) : Bool) = true ∧
    (let s : State := on (run [(Reg.AIR_MAC_CTRL 1, 1)]); let u : Fin 2 := 1; let τ : BitVec 64 := 0; (decide (s.chip.airRuns u = true) &&
      (decide (s.chip.airRole u = 0) && (decide ((s.chip.airRadio u = true ∨ s.chip.time.toNat ≤ τ.toNat)) &&
      (decide ((s.chip.asnAt u τ.toNat).isSome = true))))) : Bool) = true ∧
    (let s : State := on ((run [(Reg.AIR_IQ_FREQ 1, 32000), (Reg.AIR_IQ_CFG 1, 1), (Reg.AIR_MAC_CTRL 1, 1), (Reg.AIR_MAC_CFG 1, 1), (Reg.AIR_EB_CFG 1, 3)]).onAir 1 fun a => { a with slot := some { asn := 7, start := 0, work := .beacon 5, chan := 1, window := none, us := 0, ready := true, launched := false, heard := false, deaf := false } });
      let u : Fin 2 := 1; (match ((s.chip.airUnit u).slot) with
       | some x => ((let c := (s.chip.inForce u); (decide ((!x.launched && !x.deaf && x.ready && c.airMaySend u && c.iqPresent u) = true) &&
      (match (x.work) with
       | .beacon _ => ((let f := (c.ebFrame u x.asn); (let h := (macHdr f); (let sec := (c.bit (Reg.AIR_EB_CFG u) 16);
      (decide (0 < c.fl (Reg.AIR_EB_CFG u) 7 0) &&
      (decide ((!sec || (h.secured && h.supported && c.rd (Reg.AIR_TXFC u) != 0xFFFFFFFF)) = true) &&
      (let key := (c.airKey (c.airKeySlot u 0xFFF h) true); (decide ((!sec || key.isSome) = true) &&
      (decide (c.dwellOk u x.chan (airUs (c.rd (Reg.AIR_PHY_CFG u)) (f.length + (if sec then micLen h.level else 0) + fcsLen (c.rd (Reg.AIR_PHY_CFG u)))) = true)))))))))) | _ => false)))) | _ => false) : Bool) = true ∧
    (let s : State := on ((run [(Reg.AIR_IQ_FREQ 1, 32000), (Reg.AIR_IQ_CFG 1, 1), (Reg.AIR_MAC_CTRL 1, 1), (Reg.AIR_MAC_CFG 1, 1)]).onAir 1 fun a => { a with slot := some { asn := 7, start := 0, work := .beacon 5, chan := 1, window := none, us := 0, ready := false, launched := false, heard := false, deaf := false } });
      let u : Fin 2 := 1; (match ((s.chip.airUnit u).slot) with
       | some x => ((let c := (s.chip.inForce u);
      (decide ((!x.launched && !x.deaf && !x.ready && c.airMaySend u && c.iqPresent u) = true) &&
      (decide (x.work.sends = true))))) | _ => false) : Bool) = true ∧
    (let s : State := on ((run [(Reg.AIR_IQ_FREQ 1, 32000), (Reg.AIR_IQ_CFG 1, 1), (Reg.AIR_MAC_CTRL 1, 1), (Reg.AIR_MAC_CFG 1, 1)]).onAir 1 fun a => { a with aligned := true, slot := some { asn := 7, start := 0, work := .listen 1 0xFFF, chan := 1, window := none, us := 0, ready := true, launched := false, heard := false, deaf := false } });
      let u : Fin 2 := 1; let alt : Bool := false; let ms : Bool := true; let τ : BitVec 64 := 3000000; let psdu : List Byte := [];
      (let c := (s.chip.inForce u); (decide ((c.airOn u && c.iqPresent u && (c.airUnit u).aligned && c.bit (Reg.AIR_IQ_CFG u) 0 &&
      (!alt || c.bit (Reg.AIR_PHY_ALT u) 31)) = true) && (let phy := (c.rd (if alt then Reg.AIR_PHY_ALT u else Reg.AIR_PHY_CFG u));
      (decide ((c.airListens u (τ.toNat - c.fl (Reg.AIR_IQ_COMP u) 15 0 - leadTime phy)).isSome = true) &&
      (decide ((ms = true ∨ psdu ≠ withFcs phy (psdu.take (psdu.length - fcsLen phy))))))))) : Bool) = true ∧
    (let s : State := on (airListening); let u : Fin 2 := 1; let alt : Bool := false; let τ : BitVec 64 := 3000000;
      let psdu : List Byte := withFcs (airListening.airPhy 1 false) [65, 160, 9, 67, 0, 1, 2]; (let c := (s.chip.inForce u);
      (let p := ([65, 160, 9, 67, 0, 1, 2]); decide (c.airTakes u alt τ psdu p = true) && (let h := (macHdr p);
      (decide (c.nbOf u h.src = none) && (decide ((h.secured = true ∨ c.bit (Reg.AIR_MAC_CFG u) 3 = false))))))) : Bool) = true ∧
    (let s : State := on (airListening.wr (Reg.AIR_MAC_CFG 1) 9); let u : Fin 2 := 1; let alt : Bool := false; let τ : BitVec 64 := 3000000;
      let psdu : List Byte := withFcs (airListening.airPhy 1 false) [65, 160, 9, 67, 0, 1, 2]; (let c := (s.chip.inForce u);
      (let p := ([65, 160, 9, 67, 0, 1, 2]); decide (c.airTakes u alt τ psdu p = true) && (let h := (macHdr p);
      (decide (c.nbOf u h.src = none) && (decide (h.secured = false) && (decide (c.bit (Reg.AIR_MAC_CFG u) 3 = true) &&
      (decide ((h.typ = 1 ∨ h.typ = 3)) && (decide ((c.portGated 5 || c.allocRoom (1 + u)) = true) &&
      (match (c.poolFind (airPool u) ((64 + p.length + 1023) / 1024)) with
       | some slot => ((decide (c.judge 9 false true (slotAddr slot) (64 + p.length) = .ok))) | _ => false))))))))) : Bool) = true ∧
    (let s : State := on ((airListening.wr (Reg.NB_WORD 1 0 2) 0x410042).wr (Reg.NB_WORD 1 0 3) 5); let u : Fin 2 := 1;
      let alt : Bool := false; let τ : BitVec 64 := 3000000;
      let psdu : List Byte := withFcs (airListening.airPhy 1 false) [73, 160, 9, 66, 0, 13, 4, 0, 0, 0, 1, 1, 2, 3, 4, 5];
      (let c := (s.chip.inForce u); (let p := ([73, 160, 9, 66, 0, 13, 4, 0, 0, 0, 1, 1, 2, 3, 4, 5]);
      decide (c.airTakes u alt τ psdu p = true) && (let h := (macHdr p); (match (c.nbOf u h.src) with
       | some i => ((decide (h.secured = true) && (decide (c.nb u i 2 22 22 = 1) && (match (h.fc) with
       | some f => ((decide ((f < c.rd (Reg.NB_WORD u i 3) ∨ f = c.rd (Reg.NB_WORD u i 3) ∧ (h.dsn.any fun d => d != c.nb u i 2 31 24) = true ∨ f = 0xFFFFFFFF)))) | _ => false)))) | _ => false)))) : Bool) = true ∧
    (let s : State := on (airListening); let u : Fin 2 := 1; let alt : Bool := false; let τ : BitVec 64 := 3000000;
      let psdu : List Byte := withFcs (airListening.airPhy 1 false) [73, 160, 9, 66, 0, 13, 4, 0, 0, 0, 1, 1, 2, 3, 4, 5];
      (let c := (s.chip.inForce u); (let p := ([73, 160, 9, 66, 0, 13, 4, 0, 0, 0, 1, 1, 2, 3, 4, 5]);
      decide (c.airTakes u alt τ psdu p = true) && (let h := (macHdr p); (match (c.nbOf u h.src) with
       | some i => ((decide (h.secured = true) && (decide (c.airReplayed u i h = false) &&
      (decide ((h.supported = false ∨ ((c.airKey (c.airKeySlot u i h) false).bind fun key => airOpen key (c.nbEui u i) h p) = none)))))) | _ => false)))) : Bool) = true ∧
    (let s : State := on (airListening.wr (Reg.NB_WORD 1 0 2) 0x09210042); let u : Fin 2 := 1; let alt : Bool := false;
      let τ : BitVec 64 := 3000000; let psdu : List Byte := withFcs (airListening.airPhy 1 false) [65, 160, 9, 66, 0, 1, 2];
      (let c := (s.chip.inForce u); (let p := ([65, 160, 9, 66, 0, 1, 2]); decide (c.airTakes u alt τ psdu p = true) &&
      (let h := (macHdr p); (match (c.nbOf u h.src) with
       | some i => ((match (h.dsn) with
       | some d => ((decide (d = c.nb u i 2 31 24) &&
      (decide ((if h.secured then h.fc = some (c.rd (Reg.NB_WORD u i 3)) ∧ c.airReplayed u i h = false ∧ h.supported = true ∧ ((c.airKey (c.airKeySlot u i h) false).bind fun key => airOpen key (c.nbEui u i) h p).isSome = true else c.nb u i 2 21 21 = 1)) &&
      (match (c.airListens u (τ.toNat - c.fl (Reg.AIR_IQ_COMP u) 15 0 - leadTime (c.airPhy u alt))) with
       | some _ => (true) | _ => false)))) | _ => false)) | _ => false)))) : Bool) = true ∧
    (let s : State := on (airListening); let u : Fin 2 := 1; let alt : Bool := false; let τ : BitVec 64 := 3000000;
      let psdu : List Byte := withFcs (airListening.airPhy 1 false) [65, 160, 9, 66, 0, 1, 2]; (let c := (s.chip.inForce u);
      (let p := ([65, 160, 9, 66, 0, 1, 2]); decide (c.airTakes u alt τ psdu p = true) && (let h := (macHdr p);
      (decide ((h.typ = 1 ∨ h.typ = 3)) && (match (c.nbOf u h.src) with
       | some i => ((decide ((c.nbPeer u i = false ∨ c.pairState ≠ 5)) && (let b := (p.drop h.len);
      decide ((if h.secured then c.airReplayed u i h = false ∧ h.supported = true ∧ (h.fc ≠ some (c.rd (Reg.NB_WORD u i 3)) ∨ (h.dsn.any fun d => d != c.nb u i 2 31 24) = true) ∧ ((c.airKey (c.airKeySlot u i h) false).bind fun key => airOpen key (c.nbEui u i) h p) = some b else b = p.drop h.len ∧ (c.nb u i 2 21 21 = 0 ∨ h.dsn ≠ some (c.nb u i 2 31 24)))) &&
      (let d := (p.take h.len ++ b); (decide ((c.portGated 5 || c.allocRoom (1 + u)) = true) &&
      (match (c.poolFind (airPool u) ((64 + d.length + 1023) / 1024)) with
       | some slot => ((decide (c.judge 9 false true (slotAddr slot) (64 + d.length) = .ok))) | _ => false)))))) | _ => false))))) : Bool) = true ∧
    (let s : State := on ((run [(Reg.AIR_IQ_FREQ 1, 32000), (Reg.AIR_IQ_CFG 1, 1), (Reg.AIR_MAC_CTRL 1, 1), (Reg.AIR_MAC_CFG 1, 1)]).onAir 1 fun a => { a with ack := some ⟨[2, 0, 5], 1⟩ });
      let u : Fin 2 := 1; (match ((s.chip.airUnit u).ack) with
       | some _ => ((let c := (s.chip.inForce u); (decide ((c.airMaySend u && c.iqPresent u) = true)))) | _ => false) : Bool) = true ∧
    (let s : State := on ((run [(Reg.AIR_IQ_FREQ 1, 32000), (Reg.AIR_IQ_CFG 1, 1)]).onAir 1 fun a => { a with wait := some ⟨3, 63, 0, false, some 9, 0⟩, reqs := [{ q := 3, idx := 63, entry := List.replicate 32 0, tries := 0, fc := none, sentAt := 0, since := some 0 }] });
      let u : Fin 2 := 1; let dsn : Byte := 9; let τ : BitVec 64 := 1000000; (let c := (s.chip.inForce u);
      (match ((s.chip.airUnit u).wait) with
       | some w => ((decide ((w.dsn.all fun d => d == dsn.toNat) = true) && (decide (c.ackInWindow u τ.toNat w = true) &&
      (match (((s.chip.airUnit u).reqs.find? fun (r : AirReq) => r.q == w.q && r.idx == w.idx)) with
       | some _ => (true) | _ => false)))) | _ => false)) : Bool) = true ∧
    (let s : State := on ((run [(Reg.AIR_IQ_FREQ 1, 32000), (Reg.AIR_IQ_CFG 1, 1)]).onAir 1 fun a => { a with wait := some ⟨3, 63, 0, false, some 9, 0⟩ });
      let u : Fin 2 := 1; (match ((s.chip.airUnit u).wait) with
       | some _ => (true) | _ => false) : Bool) = true ∧
    (let s : State := on ((run [(Reg.AIR_IQ_FREQ 1, 32000), (Reg.AIR_IQ_CFG 1, 1), (Reg.AIR_TXQ_EXPIRE 1, 0)]).onAir 1 fun a => { a with reqs := [{ q := 3, idx := 63, entry := List.replicate 32 0, tries := 0, fc := none, sentAt := 0, since := some 0 }] });
      let u : Fin 2 := 1; let q : Fin 4 := 3; let idx : Fin 64 := 63; (let c := (s.chip.inForce u);
      (match (((s.chip.airUnit u).reqs.find? fun (r : AirReq) => r.q == q.val && r.idx == idx.val)) with
       | some r => ((match (r.since) with
       | some since => ((decide (since.toNat + c.rd (Reg.AIR_TXQ_EXPIRE u) * 1000000 ≤ s.chip.time.toNat))) | _ => false)) | _ => false)) : Bool) = true ∧
    (let s : State := on (((run ([(Reg.AIR_IQ_FREQ 1, 32000), (Reg.AIR_IQ_CFG 1, 1), (Reg.AIR_MAC_CTRL 1, 1), (Reg.AIR_MAC_CFG 1, 1)])).wrMem 0x60000000 [65, 160, 9, 66, 0, 1, 2]).onAir 1 fun a => { a with slot := some { asn := 7, start := 0, work := .send 3 63 5 0xFFF, chan := 1, window := none, us := 0, ready := true, launched := false, heard := false, deaf := false }, reqs := [{ q := 3, idx := 63, entry := [0, 0, 0, 0, 0, 0, 0, 0, 0, 0, 0, 96, 0, 0, 0, 0, 7, 0, 255, 15, 0, 0, 0, 0, 0, 0, 0, 0, 0, 0, 0, 0], tries := 0, fc := none, sentAt := 0, since := some 0 }] });
      let u : Fin 2 := 1; (match ((s.chip.airUnit u).slot) with
       | some x => ((let c := (s.chip.inForce u); (decide ((!x.launched && !x.deaf && x.ready && c.airMaySend u && c.iqPresent u) = true) &&
      (match (x.work) with
       | .send q idx _ _ => ((match (((s.chip.airUnit u).reqs.find? fun (r : AirReq) => r.q == q && r.idx == idx)) with
       | some r => ((let d := (c.dmaRead 9 false r.buf r.len); (let h := (macHdr d.2.1); (decide (c.reqInvalid u r h d.1 = false) &&
      (decide (r.secure = false) &&
      (decide (c.dwellOk u x.chan (c.reqUs u r) = true))))))) | _ => false)) | _ => false)))) | _ => false) : Bool) = true := by decide +kernel

/-- Clauses 1, 2, 3, 4, 5, 6, 7, 8, 9. -/
theorem witness_AirUnitsKeepTime :
    (let s : State := on ((run [(Reg.AIR_IQ_FREQ 1, 32000), (Reg.AIR_IQ_CFG 1, 1), (Reg.AIR_MAC_CTRL 1, 1), (Reg.AIR_MAC_CFG 1, 1), (Reg.NB_WORD 1 0 2, 0x90000), (Reg.AIR_CELL_WORD 1 2, 0x40000000)]).onAir 1 fun a => { a with slot := some { asn := 7, start := 0, work := .listen 1 0, chan := 1, window := none, us := 0, ready := true, launched := false, heard := false, deaf := false } });
      let u : Fin 2 := 1; (let k := (1); let i := (0); decide (s.chip.missesBeacon u k i = true) &&
      (decide (s.chip.nbMiss u i ≠ 2))) : Bool) = true ∧
    (let s : State := on ((run [(Reg.AIR_IQ_FREQ 1, 32000), (Reg.AIR_IQ_CFG 1, 1), (Reg.AIR_MAC_CTRL 1, 1), (Reg.AIR_MAC_CFG 1, 1), (Reg.NB_WORD 1 0 2, 0x90000), (Reg.NB_WORD 1 0 6, 0x200000), (Reg.AIR_CELL_WORD 1 2, 0x40000000)]).onAir 1 fun a => { a with slot := some { asn := 7, start := 0, work := .listen 1 0, chan := 1, window := none, us := 0, ready := true, launched := false, heard := false, deaf := false } });
      let u : Fin 2 := 1; (let k := (1); let i := (0); decide (s.chip.missesBeacon u k i = true) && (decide (s.chip.nbMiss u i = 2) &&
      (let c := (s.chip.inForce u); (decide (c.airRadio u = false) &&
      (decide ((c.airRole u == 2 && c.nbPeer u i) = false)))))) : Bool) = true ∧
    (let s : State := on ((paired 2 [(Reg.BKB_PAIR_CFG, 0x83000003), (Reg.AIR_IQ_FREQ 1, 32000), (Reg.AIR_IQ_CFG 1, 1), (Reg.AIR_MAC_CTRL 1, 1), (Reg.AIR_MAC_CFG 1, 2), (Reg.NB_WORD 1 0 2, 0x190000), (Reg.NB_WORD 1 0 6, 0x200000), (Reg.AIR_CELL_WORD 1 2, 0x40000000)]).onAir 1 fun a => { a with slot := some { asn := 7, start := 0, work := .listen 1 0, chan := 1, window := none, us := 0, ready := true, launched := false, heard := false, deaf := false } });
      let u : Fin 2 := 1; (let k := (1); let i := (0); decide (s.chip.missesBeacon u k i = true) && (decide (s.chip.nbMiss u i = 2) &&
      (decide ((s.chip.airUnit u).held = []) && (decide (s.chip.airRadio u = false) &&
      (decide ((s.chip.airRole u == 2 && s.chip.nbPeer u i) = true) && (decide (s.chip.pairState = 2) &&
      (decide (s.chip.bit Reg.BKB_PAIR_CFG 24 = true) &&
      (decide ((s.chip.bit Reg.BKB_PAIR_STATUS 10 = false ∨ s.chip.bit Reg.BKB_PAIR_CFG 27 = true)))))))))) : Bool) = true ∧
    (let s : State := on ((run [(Reg.AIR_IQ_FREQ 1, 32000), (Reg.AIR_IQ_CFG 1, 1), (Reg.AIR_MAC_CTRL 1, 1), (Reg.AIR_MAC_CFG 1, 5), (Reg.NB_WORD 1 0 2, 0x90000), (Reg.NB_WORD 1 0 6, 0x200000), (Reg.AIR_CELL_WORD 1 2, 0x40000000)]).onAir 1 fun a => { a with anchor := some (7, 0), source := some 0, slot := some { asn := 7, start := 0, work := .listen 1 0, chan := 1, window := none, us := 0, ready := true, launched := false, heard := false, deaf := false } });
      let u : Fin 2 := 1; (let k := (1); let i := (0); decide (s.chip.missesBeacon u k i = true) && (decide (s.chip.nbMiss u i = 2) &&
      (decide ((s.chip.inForce u).airRadio u = true)))) : Bool) = true ∧
    (let s : State := on (run [(Reg.AIR_MAC_CTRL 1, 1), (Reg.AIR_MAC_CFG 1, 1), (Reg.AIR_STATUS 1, 8)]); let u : Fin 2 := 1;
      (let c := (s.chip.inForce u); (decide ((c.airOn u && (c.airResync u || c.airUnsynced u)) = true))) : Bool) = true ∧
    (let s : State := on (run [(Reg.AIR_MAC_CTRL 1, 1), (Reg.AIR_MAC_CFG 1, 1), (Reg.AIR_STATUS 1, 8), (Reg.AIR_SRCH 1, 0)]);
      let u : Fin 2 := 1; (let c := (s.chip.inForce u); (decide ((s.chip.airResync u && !(s.chip.airUnit u).resyncTold) = true) &&
      (decide ((s.chip.airUnit u).resyncAt.toNat + c.fl (Reg.AIR_SRCH u) 15 0 * 1000000000 ≤ s.chip.time.toNat)))) : Bool) = true ∧
    (let s : State := on (run [(Reg.AIR_MAC_CTRL 1, 1), (Reg.AIR_MAC_CFG 1, 1), (Reg.NB_WORD 1 4095 2, 0x50000), (Reg.AIR_SRCH 1, 0)]);
      let u : Fin 2 := 1; let n : BitVec 12 := 4095; (let c := (s.chip.inForce u); (decide ((c.airOn u && c.nbValid u n.toNat) = true) &&
      (decide (s.chip.nbState u n.toNat = 2) &&
      (decide (c.fl (Reg.AIR_SRCH u) 15 0 * 1000 ≤ (msOf s.chip.time.toNat + 2 ^ 32 - s.chip.rd (Reg.NB_WORD u n.toNat 7)) % 2 ^ 32))))) : Bool) = true ∧
    (let s : State := on (run [(Reg.AIR_DWELL_CFG 1, 1)]); let u : Fin 2 := 1; let τ : BitVec 64 := 10000000; (let c := (s.chip.inForce u);
      (decide (c.dwellMode u ≠ 0) && (decide (τ.toNat % c.dwellStep u = 0)))) : Bool) = true ∧
    (let s : State := on (run []); let u : Fin 2 := 1; (decide (s.chip.reaches (Reg.AIR_MAC_CTRL u) = true)) : Bool) = true := by decide +kernel

/-- Clauses 1, 2, 3, 4, 5, 6, 7, 8, 9, 10, 11. -/
theorem witness_AesModesFollowTheirStandards :
    (let s : State := on (cipher (entry 0x1 0 1 16 16 0 2 0x81 0 0) 1); let q : Fin 8 := 1; let i : BitVec 10 := 0;
      (match (s.chip.jobAt 0x01 q i.toNat) with
       | some r => ((match (s.chip.aesKey r false) with
       | .inr key => ((let e := (r.fields); (decide (1 ≤ e.len) && (decide ((bitOf e.flags 1 = true ∨ e.len % 16 = 0)) &&
      (let out := (ecb (aesEnc key) (if bitOf e.flags 1 then pkcsPad (s.chip.rdMem e.src e.len) else s.chip.rdMem e.src e.len));
      (decide (s.chip.jobCan r [(e.src, e.len)] out.length = true))))))) | _ => false)) | _ => false) : Bool) = true ∧
    (let s : State := on (cipher (entry 0x2 0 1 16 16 0 2 0x81 0 0) 1); let q : Fin 8 := 1; let i : BitVec 10 := 0;
      (match (s.chip.jobAt 0x02 q i.toNat) with
       | some r => ((match (s.chip.aesKey r true) with
       | .inr key => ((let e := (r.fields); (decide (1 ≤ e.len) && (decide (bitOf e.flags 1 = false) && (decide (e.len % 16 = 0) &&
      (let out := (ecb (aesDec key) (s.chip.rdMem e.src e.len));
      (decide (s.chip.jobCan r [(e.src, e.len)] out.length = true)))))))) | _ => false)) | _ => false) : Bool) = true ∧
    (let s : State := on (cipher (entry 0x3 0 1 16 16 0 2 0x81 0 0) 1); let q : Fin 8 := 1; let i : BitVec 10 := 0;
      (match (s.chip.jobAt 0x03 q i.toNat) with
       | some r => ((match (s.chip.aesKey r false) with
       | .inr key => ((let e := (r.fields); (decide (1 ≤ e.len) && (decide ((bitOf e.flags 1 = true ∨ e.len % 16 = 0)) &&
      (let out := (cbcEnc key e.iv (if bitOf e.flags 1 then pkcsPad (s.chip.rdMem e.src e.len) else s.chip.rdMem e.src e.len));
      (decide (s.chip.jobCan r [(e.src, e.len)] out.length = true))))))) | _ => false)) | _ => false) : Bool) = true ∧
    (let s : State := on (cipher (entry 0x4 2 1 16 16 0 2 0x81 0 0) 1); let q : Fin 8 := 1; let i : BitVec 10 := 0;
      (match (s.chip.jobAt 0x04 q i.toNat) with
       | some r => ((match (s.chip.aesKey r true) with
       | .inr _ => ((let e := (r.fields); (decide (1 ≤ e.len) && (decide (e.len % 16 = 0) &&
      (decide (bitOf e.flags 1 = true)))))) | _ => false)) | _ => false) : Bool) = true ∧
    (let s : State := on (cipher (entry 0x5 0 1 16 16 0 2 0x81 0 0) 1); let q : Fin 8 := 1; let i : BitVec 10 := 0;
      (match (s.chip.jobAt 0x05 q i.toNat) with
       | some r => ((match (s.chip.aesKey r false) with
       | .inr key => ((let e := (r.fields); (decide (1 ≤ e.len) && (let out := (ctr 128 key e.iv (s.chip.rdMem e.src e.len));
      (decide (s.chip.jobCan r [(e.src, e.len)] out.length = true)))))) | _ => false)) | _ => false) : Bool) = true ∧
    (let s : State := on (cipher (entry 0x6 0 1 16 16 0 2 0x81 0 0) 1); let q : Fin 8 := 1; let i : BitVec 10 := 0;
      (match (s.chip.jobAt 0x06 q i.toNat) with
       | some r => ((match (s.chip.aesKey r false) with
       | .inr key => ((let e := (r.fields); (match (tagSize e.tagLen 16 [4, 8, 12, 13, 14, 15, 16]) with
       | some n => ((let ct := (gcmData key (e.iv.take 12) (s.chip.rdMem e.src e.len));
      (let out := (ct ++ (gcmTag key (e.iv.take 12) (s.chip.rdMem e.aux e.auxLen) ct).take n);
      (decide (s.chip.jobCan r [(e.src, e.len), (e.aux, e.auxLen)] out.length = true))))) | _ => false))) | _ => false)) | _ => false) : Bool) = true ∧
    (let s : State := on (cipher (entry 0x7 0 1 16 16 0 2 0x81 0 0) 1); let q : Fin 8 := 1; let i : BitVec 10 := 0;
      (match (s.chip.jobAt 0x07 q i.toNat) with
       | some r => ((match (s.chip.aesKey r true) with
       | .inr _ => ((let e := (r.fields); (match (tagSize e.tagLen 16 [4, 8, 12, 13, 14, 15, 16]) with
       | some _ => (true) | _ => false))) | _ => false)) | _ => false) : Bool) = true ∧
    (let s : State := on (cipher (entry 0x8 0 1 16 16 0 2 0x81 0 0) 1); let q : Fin 8 := 1; let i : BitVec 10 := 0;
      (match (s.chip.jobAt 0x08 q i.toNat) with
       | some r => ((match (s.chip.aesKey r false) with
       | .inr key => ((let e := (r.fields); (decide ([0, 4, 8, 16].contains e.tagLen = true) && (decide (e.len ≤ 65535) &&
      (let p := (s.chip.rdMem e.src e.len); (let a := (s.chip.rdMem e.aux e.auxLen);
      (let out := (ccmData key (e.iv.take 13) p ++ (ccmTag key (e.iv.take 13) (ccmMac key (e.iv.take 13) a p e.tagLen)).take e.tagLen);
      (decide (s.chip.jobCan r [(e.src, e.len), (e.aux, e.auxLen)] out.length = true) &&
      (decide (out ≠ [])))))))))) | _ => false)) | _ => false) : Bool) = true ∧
    (let s : State := on (cipher (entry 0x9 0 1 16 16 0 2 0x81 0 0) 1); let q : Fin 8 := 1; let i : BitVec 10 := 0;
      (match (s.chip.jobAt 0x09 q i.toNat) with
       | some r => ((match (s.chip.aesKey r true) with
       | .inr key => ((let e := (r.fields); (decide ([0, 4, 8, 16].contains e.tagLen = true) &&
      (decide (e.len ≤ 65535))))) | _ => false)) | _ => false) : Bool) = true ∧
    (let s : State := on (cipher (entry 0xa 0 1 16 16 0 2 0x81 0 0) 1); let q : Fin 8 := 1; let i : BitVec 10 := 0;
      (match (s.chip.jobAt 0x0A q i.toNat) with
       | some r => ((match (s.chip.aesKey r false) with
       | .inr key => ((let e := (r.fields); (match (tagSize e.tagLen 16 (upFrom 4 13)) with
       | some n => ((let out := ((cmac key (s.chip.rdMem e.src e.len)).take n);
      (decide (s.chip.jobCan r [(e.src, e.len)] out.length = true)))) | _ => false))) | _ => false)) | _ => false) : Bool) = true ∧
    (let s : State := on (cipher (entry 0xb 0 1 16 16 0 2 0x81 0 0) 1); let q : Fin 8 := 1; let i : BitVec 10 := 0;
      (match (s.chip.jobAt 0x0B q i.toNat) with
       | some r => ((match (s.chip.aesKey r true) with
       | .inr _ => ((let e := (r.fields); (match (tagSize e.tagLen 16 (upFrom 4 13)) with
       | some n => ((decide (bitOf e.flags 0 = false) &&
      (decide (s.chip.jobCan r [(e.src, e.len + n)] 0 = true)))) | _ => false))) | _ => false)) | _ => false) : Bool) = true := by decide +kernel

/-- Clauses 1, 2, 3, 4, 5, 6, 7, 8, 9, 10, 11, 12, 13, 14. -/
theorem witness_DigestsSignaturesAndKeysAreGiven :
    (let s : State := on (cipher (entry 0x10 0 1 16 16 0 2 0x81 0 0) 1); let q : Fin 8 := 1; let i : BitVec 10 := 0;
      (match (s.chip.jobAt 0x10 q i.toNat) with
       | some r => ((decide (s.chip.jobCan r [(r.fields.src, r.fields.len)] 32 = true))) | _ => false) : Bool) = true ∧
    (let s : State := on (cipher (entry 0x11 0 1 16 16 0 2 0x81 0 0) 1); let q : Fin 8 := 1; let i : BitVec 10 := 0;
      (match (s.chip.jobAt 0x11 q i.toNat) with
       | some r => ((decide (s.chip.jobCan r [(r.fields.src, r.fields.len)] 48 = true))) | _ => false) : Bool) = true ∧
    (let s : State := on (cipher (entry 0x12 0 1 16 16 0 2 0x81 0 0) 4); let q : Fin 8 := 1; let i : BitVec 10 := 0;
      (match (s.chip.jobAt 0x12 q i.toNat) with
       | some r => ((match (s.chip.reqKey r [4] (some false)) with
       | .inr _ => ((decide (s.chip.jobCan r [(r.fields.src, r.fields.len)] 32 = true))) | _ => false)) | _ => false) : Bool) = true ∧
    (let s : State := on (cipher (entry 0x13 0 1 16 16 0 2 0x81 0 0) 4); let q : Fin 8 := 1; let i : BitVec 10 := 0;
      (match (s.chip.jobAt 0x13 q i.toNat) with
       | some r => ((match (s.chip.reqKey r [4] (some false)) with
       | .inr _ => ((decide (s.chip.jobCan r [(r.fields.src, r.fields.len)] 48 = true))) | _ => false)) | _ => false) : Bool) = true ∧
    (let s : State := on (cipher (entry 0x18 0 1 16 16 0 2 0x81 0 0) 6); let q : Fin 8 := 1; let i : BitVec 10 := 0;
      (match (s.chip.jobAt 0x18 q i.toNat) with
       | some r => ((decide (r.fields.len % 8 = 0) && (decide (16 ≤ r.fields.len) && (decide (r.fields.len ≤ 512) &&
      (match (s.chip.kekKey r false) with
       | .inr _ => ((decide (s.chip.jobCan r [(r.fields.src, r.fields.len)] (r.fields.len + 8) = true))) | _ => false))))) | _ => false) : Bool) = true ∧
    (let s : State := on (cipher (entry 0x30 8 1 32 16 0 2 0x81 0 0) 8); let q : Fin 8 := 1; let i : BitVec 10 := 0;
      (match (s.chip.jobAt 0x30 q i.toNat) with
       | some r => ((match (s.chip.ecKey r false) with
       | .inr k => ((decide (s.chip.bit Reg.CIU_STATUS 2 = false) && (decide (bitOf r.fields.flags 3 = true) &&
      (decide (r.fields.len = k.1.bytes) &&
      (decide (s.chip.jobCan r [(r.fields.src, r.fields.len)] (2 * k.1.bytes) = true)))))) | _ => false)) | _ => false) : Bool) = true ∧
    (let s : State := on ((cipher (entry 0x31 8 1 32 16 64 2 0x81 0 0) 8).wrMem 0x60002000 (beBytes 32 curve256.gx ++ beBytes 32 curve256.gy));
      let q : Fin 8 := 1; let i : BitVec 10 := 0; (match (s.chip.jobAt 0x31 q i.toNat) with
       | some r => ((match (pubCurve r.fields.auxLen) with
       | some cv => ((decide (bitOf r.fields.flags 3 = true) && (decide (r.fields.len = cv.bytes) &&
      (let x := (beVal (s.chip.rdMem r.fields.aux cv.bytes)); (let y := (beVal (s.chip.rdMem (r.fields.aux + cv.bytes) cv.bytes));
      (decide (cv.onCurve x y = true) &&
      (decide (s.chip.jobCan r [(r.fields.aux, r.fields.auxLen), (r.fields.src, r.fields.len + 2 * cv.bytes)] 0 = true)))))))) | _ => false)) | _ => false) : Bool) = true ∧
    (let s : State := on (cipher (entry 0x38 0 1 16 16 0 2 0x81 0 0) 1); let q : Fin 8 := 1; let i : BitVec 10 := 0;
      (match (s.chip.jobAt 0x38 q i.toNat) with
       | some r => ((decide (s.chip.bit Reg.CIU_STATUS 2 = false) &&
      (decide (s.chip.jobCan r [] r.fields.len = true)))) | _ => false) : Bool) = true ∧
    (let s : State := on ((cipher (entry 0x19 0 1 24 16 0 2 0x81 0 0) 6).wrMem 0x60000000 wrapped); let q : Fin 8 := 1;
      let i : BitVec 10 := 0; (match (s.chip.jobAt 0x19 q i.toNat) with
       | some r => ((let e := (r.fields); (decide ((e.len = 24 ∨ e.len = 40)) && (decide (e.len = algBytes (attrAlg e.oattr) + 8) &&
      (match (s.chip.kekKey r true) with
       | .inr key => ((match (keyUnwrap key (s.chip.rdMem e.src e.len)) with
       | some _ => ((decide (attrAlg e.oattr ≠ 8) && (decide (s.chip.oslotStatus r = 1) &&
      (decide (s.chip.jobCan r [(e.src, e.len)] 0 = true))))) | _ => false)) | _ => false))))) | _ => false) : Bool) = true ∧
    (let s : State := on (cipher (entry 0x28 0 1 16 16 0 2 0x81 0 0) 5); let q : Fin 8 := 1; let i : BitVec 10 := 0;
      (match (s.chip.jobAt 0x28 q i.toNat) with
       | some r => ((let e := (r.fields); (decide (attrAlg e.oattr ≠ 8) && (decide (attrAlg e.oattr ≠ 9) &&
      (match (s.chip.reqKey r [5, 11] none) with
       | .inr _ => ((decide (s.chip.oslotStatus r = 1) &&
      (decide (s.chip.jobCan r [(e.aux, e.auxLen)] 0 = true)))) | _ => false))))) | _ => false) : Bool) = true ∧
    (let s : State := on (cipher (entry 0x29 0 1 16 16 0 2 0x81 0 0) 5); let q : Fin 8 := 1; let i : BitVec 10 := 0;
      (match (s.chip.jobAt 0x29 q i.toNat) with
       | some r => ((let e := (r.fields); (decide (attrAlg e.oattr ≠ 8) && (decide (attrAlg e.oattr ≠ 9) &&
      (match (s.chip.reqKey r [5, 11] none) with
       | .inr _ => ((decide (s.chip.oslotStatus r = 1) &&
      (decide (s.chip.jobCan r [(e.aux, e.auxLen)] 0 = true)))) | _ => false))))) | _ => false) : Bool) = true ∧
    (let s : State := on ((cipher (entry 0x32 0 1 16 16 64 2 0x81 0 0) 8).wrMem 0x60002000 (beBytes 32 curve256.gx ++ beBytes 32 curve256.gy));
      let q : Fin 8 := 1; let i : BitVec 10 := 0; (match (s.chip.jobAt 0x32 q i.toNat) with
       | some r => ((let e := (r.fields); (decide (r.ctx = false) && (decide (attrAlg e.oattr ≠ 8) && (decide (attrAlg e.oattr ≠ 9) &&
      (match (s.chip.ecKey r true) with
       | .inr k => ((decide (e.auxLen = 2 * k.1.bytes) && (decide (s.chip.oslotStatus r = 1) &&
      (let x := (beVal (s.chip.rdMem e.aux k.1.bytes)); (let y := (beVal (s.chip.rdMem (e.aux + k.1.bytes) k.1.bytes));
      (decide (k.1.onCurve x y = true) &&
      (decide (s.chip.jobCan r [(e.aux, e.auxLen)] 0 = true)))))))) | _ => false)))))) | _ => false) : Bool) = true ∧
    (let s : State := on (cipher (entry 0x33 0 1 16 16 0 2 0x88 0 0) 1); let q : Fin 8 := 1; let i : BitVec 10 := 0;
      (match (s.chip.jobAt 0x33 q i.toNat) with
       | some r => ((decide (attrAlg r.fields.oattr = 8) && (decide (s.chip.bit Reg.CIU_STATUS 2 = false) &&
      (decide (s.chip.oslotStatus r = 1) && (decide (s.chip.jobCan r [] 64 = true)))))) | _ => false) : Bool) = true ∧
    (let s : State := on (cipher (entry 0x39 0 1 16 16 0 2 0x81 0 0) 1); let q : Fin 8 := 1; let i : BitVec 10 := 0;
      (match (s.chip.jobAt 0x39 q i.toNat) with
       | some r => ((decide (attrAlg r.fields.oattr ≠ 8) && (decide (attrAlg r.fields.oattr ≠ 9) &&
      (decide (s.chip.bit Reg.CIU_STATUS 2 = false) && (decide (s.chip.oslotStatus r = 1) &&
      (decide (s.chip.jobCan r [] 0 = true))))))) | _ => false) : Bool) = true := by decide +kernel

/-- Clauses 1, 2. -/
theorem witness_DlmsCountersOnlyGrow :
    (let s : State := on (((((cipher (entry 0x20 1 1 17 16 0 2 0x81 5 0) 3).wrMem 0x60000000 [0x30, 0, 0, 0, 1]).setKey (sessSlot 5 0) 0x80000033 9).setSessOwner (sessSlot 5 0) (some 5)).setHway (ctxIndex 5 0) ⟨5, true, false⟩);
      let q : Fin 8 := 1; let i : BitVec 10 := 0; (match (s.chip.jobAt 0x20 q i.toNat) with
       | some r => ((let e := (r.fields); (match (s.chip.resident e.handle) with
       | some n => ((decide (r.ctx = true) && (decide (s.chip.queueLevel r.queue ≠ 0) && (decide (s.chip.portGated 6 = false) &&
      (let d := (s.chip.rdMem e.src e.len); (let sc := (leAt d 0 1);
      (decide (dlmsPolicy sc (s.chip.ctx n 4 1 % 4) (s.chip.ctx n 4 1) e.len = true) &&
      (match (s.chip.dlmsKeys e.handle (s.chip.ctx n 4 1 % 4)) with
       | some _ => ((decide (e.len ≤ 4096) && (decide (s.chip.jobCan r [(e.src, e.len)] e.len = true) &&
      (decide ((e.dst + e.len ≤ 0x40000000 ∨ 0x40400000 ≤ e.dst)) &&
      (decide ((s.chip.jobEntry r + 64 ≤ 0x40000000 ∨ 0x40400000 ≤ s.chip.jobEntry r))))))) | _ => false)))))))) | _ => false))) | _ => false) : Bool) = true ∧
    (let s : State := on (((((cipher (entry 0x21 1 1 16 16 0 2 0x81 5 48) 3).setKey (sessSlot 5 0) 0x80000033 9).setSessOwner (sessSlot 5 0) (some 5)).setHway (ctxIndex 5 0) ⟨5, true, false⟩).setCtx (ctxIndex 5 0) 0x18 4 9);
      let q : Fin 8 := 1; let i : BitVec 10 := 0; (match (s.chip.jobAt 0x21 q i.toNat) with
       | some r => ((let e := (r.fields); (match (s.chip.resident e.handle) with
       | some n => ((decide (r.ctx = true) && (decide (s.chip.queueLevel r.queue ≠ 0) && (decide (s.chip.portGated 6 = false) &&
      (match (s.chip.dlmsKeys e.handle (s.chip.ctx n 4 1 % 4)) with
       | some ks => ((let tx := (s.chip.ctx n 0x14 4); (decide (tx ≠ s.chip.ctx n 0x18 4) && (decide (tx ≠ 0xFFFFFFFF) &&
      (let p := (dlmsSeal ks.1 ks.2 (s.chip.rdMem (ctxAddr n + 8) 8 ++ beBytes 4 (tx + 1)) (BitVec.ofNat 8 e.sc) (s.chip.rdMem e.src e.len));
      (let out := (leBytes 1 e.sc ++ beBytes 4 (tx + 1) ++ p.1 ++ p.2); (decide (s.chip.jobCan r [(e.src, e.len)] out.length = true) &&
      (decide ((e.dst + out.length ≤ 0x40000000 ∨ 0x40400000 ≤ e.dst)) &&
      (decide ((s.chip.jobEntry r + 64 ≤ 0x40000000 ∨ 0x40400000 ≤ s.chip.jobEntry r))))))))))) | _ => false))))) | _ => false))) | _ => false) : Bool) = true := by decide +kernel

/-- Clauses 1, 2, 3, 4, 5, 6, 7, 8, 9, 10. -/
theorem witness_KeyRegisterKeepsKeys :
    (let s : State := on (run []); let i : Fin 9 := 8;
      (decide (s.chip.reaches (if i.val < 8 then Reg.CIU_KEY_LOAD i.val else Reg.CIU_KEY_ATTR) = true)) : Bool) = true ∧
    (let s : State := on (run []); let v : Word := 0x80000000; let who : Who := sealWho; (decide (s.chip.reaches Reg.CIU_KEY_CMD = true) &&
      (decide (who.level ≠ .host) && (decide (s.chip.keyBusy = false) &&
      (decide ((s.chip.ciu.winOwner = none ∨ s.chip.ciu.winOwner = some who.level)) && (decide (bitOf v.toNat 31 = true)))))) : Bool) = true ∧
    (let s : State := on ((run []).onCiu fun u => { u with loads := [⟨8191, false, 0x81, 7, true, 0⟩] });
      (match (s.chip.ciu.loads.find? s.chip.loadReady) with
       | some _ => (true) | _ => false) : Bool) = true ∧
    (let s : State := on ((run []).onCiu fun u => { u with winOwner := some .seal }); (decide (s.chip.ciu.winOwner ≠ none) &&
      (decide (s.chip.keyBusy = false))) : Bool) = true ∧
    (let s : State := on (run []); (decide (s.chip.reaches Reg.CIU_KEY_ERASE = true)) : Bool) = true ∧
    (let s : State := on (run [(Reg.CIU_CTRL, 0x1F01)]); let det : Fin 5 := 4; (decide (s.chip.coreOff = false) &&
      (decide (s.chip.bit Reg.CIU_CTRL (8 + det) = true))) : Bool) = true ∧
    (let s : State := on ((run []).onCiu fun u => { u with erasing := some .alarm }); (decide (s.chip.ciu.erasing ≠ none)) : Bool) = true ∧
    (let s : State := on (run []); (decide (s.chip.reaches Reg.CIU_CTRL = true) && (decide (s.chip.tamperLine = false) &&
      (decide (s.chip.fl Reg.CIU_ALARM 4 0 = 0) &&
      (decide ((s.chip.ciu.masks ≠ [] ∨ s.chip.bit Reg.CIU_STATUS 2 = false)))))) : Bool) = true ∧
    (let s : State := on (run []); (decide (s.chip.reaches Reg.CIU_CTRL = true)) : Bool) = true ∧
    (let s : State := on (run []); (decide (s.chip.reaches Reg.CIU_CTRL = true)) : Bool) = true := by decide +kernel

/-- Clauses 1, 2, 3, 4, 5, 6, 7, 8, 9, 10. -/
theorem witness_ContextsAndSessionsAreFound :
    (let s : State := on ((run [(Reg.APC_HCX_CTRL, 1)]).onFlo fun f => { f with reqs := [.hcx 1023 5] });
      (decide (s.chip.bit Reg.APC_HCX_CTRL 0 = true) && (decide (s.chip.hcxUp = true) && (decide (s.chip.hcx.waiting = []) &&
      (match ((s.chip.flo.reqs.find? fun r => match r with | .hcx _ _ => true | _ => false)) with
       | some (.hcx _ h) => ((decide (s.chip.flushing h.toNat = false))) | _ => false)))) : Bool) = true ∧
    (let s : State := on ((run [(Reg.APC_MREC_BASE_LO, 0x60100000), (Reg.APC_HCX_CTRL, 1)]).onHcx fun h => { h with moves := [⟨20, 5, [], none, []⟩] });
      let n : BitVec 14 := 20; (match ((s.chip.hcx.moves.find? fun m => m.way == n.toNat && m.out.isNone)) with
       | some m => ((decide (s.chip.hcxUp = true) && (decide (s.chip.resident m.handle.toNat = none) &&
      (decide (s.chip.judge 11 false false (s.chip.recordAddr m.handle) 512 = .ok))))) | _ => false) : Bool) = true ∧
    (let s : State := on ((run [(Reg.APC_MREC_BASE_LO, 0x60100000), (Reg.APC_HCX_CTRL, 1)]).onHcx fun h => { h with moves := [⟨20, 5, [], some (7, List.replicate 256 0), []⟩] });
      let n : BitVec 14 := 20; (match ((s.chip.hcx.moves.find? fun m => m.way == n.toNat && m.out.isSome)) with
       | some m => ((decide (s.chip.hcxUp = true) && (match (m.out) with
       | some o => ((decide ((s.chip.hcx.moves.find? fun m => m.writes o.1.toNat) = some m) &&
      (decide (s.chip.judge 11 false true (s.chip.recordAddr o.1) o.2.length = .ok)))) | _ => false))) | _ => false) : Bool) = true ∧
    (let s : State := on (run []); (decide (s.chip.reaches Reg.APC_HCX_FLUSH = true)) : Bool) = true ∧
    (let s : State := on (((run [(Reg.APC_MREC_BASE_LO, 0x60100000), (Reg.APC_HCX_CTRL, 1)]).onHcx fun h => { h with flush := some ⟨5, false, true⟩ }).setHway 20 ⟨5, true, false⟩);
      (match (s.chip.hcx.flush) with
       | some f => ((decide (s.chip.hcxUp = true) &&
      (decide ((if (s.chip.resident f.handle.toNat).isSome then f.written else (s.chip.writeBuffer f.handle.toNat).isNone) = true)))) | _ => false) : Bool) = true ∧
    (let s : State := on ((run [(Reg.CIU_CTRL, 1), (Reg.CIU_SESS_CTRL, 1)]).onFlo fun f => { f with reqs := [.key 1023 5] });
      (decide (s.chip.sessUp = true) && (match ((s.chip.flo.reqs.find? fun r => match r with | .key _ _ => true | _ => false)) with
       | some (.key _ _) => (true) | _ => false)) : Bool) = true ∧
    (let s : State := on sessionWaits; let p : BitVec 10 := 1023; (match ((s.chip.ciu.misses.find? fun m => m.pod == p)) with
       | some m => ((match (s.chip.resident m.handle.toNat) with
       | some n => ((decide (s.chip.sessUp = true) && (decide (s.chip.ctx n 4 1 % 4 < 2) &&
      (decide (s.chip.sessFind m.handle.toNat = none) && (match (s.chip.sessChoose m.handle.toNat false) with
       | some w => ((decide (s.chip.judge 5 false false (s.chip.recordAddr m.handle + 0x100) 82 = .ok) &&
      (match (((s.chip.sessEraseWay m.handle.toNat w).unwrapSession (s.chip.ctx n 4 1 % 4) (s.chip.rdMem (s.chip.recordAddr m.handle + 0x100) 80) (s.chip.rdLe (s.chip.recordAddr m.handle + 0x150) 2 % 2 ^ 15))) with
       | some _ => (true) | _ => false))) | _ => false))))) | _ => false)) | _ => false) : Bool) = true ∧
    (let s : State := on (run []); (decide (s.chip.reaches Reg.CIU_SESS_INVAL = true) &&
      (decide (s.chip.ciu.sessInval = []))) : Bool) = true ∧
    (let s : State := on ((run [(Reg.CIU_CTRL, 1), (Reg.CIU_QCFG 1, 0xC0000000), (Reg.CIU_QBASE_LO 1, 0x60010000), (Reg.CIU_QPI 1, 1)]).wrMem 0x60010000 (entry 0x10 0 1 16 16 0 2 0x81 0 0));
      (decide (s.chip.ciuUp = true) && (decide (s.chip.bit Reg.CIU_CTRL 1 = false) && (decide (s.chip.ciu.erasing = none) &&
      (decide (s.chip.ciu.inflight.length < 256) && (match (s.chip.nextQueue) with
       | some x => ((decide ((x.1 = 7 → s.chip.cryBound = false)) && (let a := (s.chip.queueEntry x.1 (s.chip.fetchedIdx x.1));
      (decide (s.chip.judge 5 (s.chip.queueLevel x.1 == 0) false a 64 = .ok) &&
      (decide (ciuOps.contains (leAt (s.chip.rdMem a 64) 0 1) = true) &&
      (decide (bitOf (leAt (s.chip.rdMem a 64) 1 1) 2 = false))))))) | _ => false))))) : Bool) = true ∧
    (let s : State := on (((run [(Reg.APC_MREC_BASE_LO, 0x60100000), (Reg.APC_HCX_CTRL, 1)]).onHcx fun h => { h with flush := some ⟨5, true, false⟩ }).setHway 20 ⟨5, true, false⟩);
      let n : BitVec 14 := 20; (match (s.chip.hcx.flush) with
       | some f => ((decide (f.written = false) && (decide (s.chip.resident f.handle.toNat = some n.toNat) &&
      (decide ((s.chip.hcx.moves.all fun m => m.way != n.toNat) = true) && (decide (s.chip.pinned f.handle.toNat = false) &&
      (decide (s.chip.hcxUp = true) && (decide (s.chip.writeBuffer f.handle.toNat = none) &&
      (decide (s.chip.judge 11 false true (s.chip.recordAddr f.handle) 256 = .ok))))))))) | _ => false) : Bool) = true := by decide +kernel

/-- Clauses 1, 2, 3. -/
theorem witness_PodsAreAllocatedAndBound :
    (let s : State := on (((run [(Reg.FLO_CTRL, 1), (Reg.FLO_POOL_CFG, 0), (Reg.FLO_CLASS_CFG 1, 0x80000000)]).setAllocQueue 5 [⟨1, 5, false, false, false, 0, 0, 0, 0, 0, 0⟩]).onFlo fun f => { f with freeList := [5] });
      (decide (s.chip.pair.queue = []) && (decide (s.chip.pairState ≠ 2) && (match (s.chip.allocSource) with
       | some q => ((match (s.chip.allocQueue q) with
       | a :: _ => ((decide (s.chip.replayWait a = false) && (match (s.chip.flo.freeList) with
       | _ :: _ => (true) | _ => false))) | _ => false)) | _ => false))) : Bool) = true ∧
    (let s : State := on (((run []).setPod 1023 { Pod.initial with cord := some 4095 }).onFlo fun f => { f with unbound := [1023] });
      (match (s.chip.flo.unbound) with
       | n :: _ => ((match ((s.chip.pod n.toNat).cord) with
       | some k => ((decide (((s.chip.cord k.toNat).next - (s.chip.cord k.toNat).rel).toNat < 256))) | _ => false)) | _ => false) : Bool) = true ∧
    (let s : State := on (((run [(Reg.FLO_POD_TMO, 1)]).setPod 1023 { Pod.initial with state := .wait })); let p : BitVec 10 := 1023;
      (decide ((s.chip.pod p.toNat).state = .wait) && (decide (s.chip.fl Reg.FLO_POD_TMO 23 0 ≠ 0))) : Bool) = true := by decide +kernel

/-- Clauses 1, 2, 3, 4, 5, 6. -/
theorem witness_OperandsFillTheirSlots :
    (let s : State := on (((run []).setPod 1023 { Pod.initial with state := .wait, slots := [⟨4, none⟩, ⟨5, none⟩, ⟨6, none⟩] }));
      let p : BitVec 10 := 1023; let kind : BitVec 4 := 5; (decide (s.chip.portGated 5 = false) &&
      (decide ((kind = 6 → (s.chip.pod p.toNat).staleFmt = 0)) && (decide (kind ≠ 4) && (match ((s.chip.pod p.toNat).slotFor kind) with
       | some _ => (true) | _ => false)))) : Bool) = true ∧
    (let s : State := on (((run []).setPod 1023 { Pod.initial with state := .wait, slots := [⟨4, none⟩, ⟨5, none⟩, ⟨6, none⟩] }));
      let p : BitVec 10 := 1023; let kind : BitVec 4 := 9; let status : Byte := 0; (decide (s.chip.portGated 5 = false) &&
      (let x := (s.chip.pod p.toNat); (decide ((kind = 6 ∧ 0 < x.staleFmt ∨ x.slotFor kind = none))))) : Bool) = true ∧
    (let s : State := on (run []); let v : Word := 0; (decide (s.chip.reaches (Reg.FLO_OPND_POST 3) = true) &&
      (let b := (wordsBytes (s.chip.flo.post ++ [v])); (decide (isAlloc b = false)))) : Bool) = true ∧
    (let s : State := on ((run []).onFlo fun f => { f with post := [0x01000001, 0, 0] }); let v : Word := 0;
      (decide (s.chip.reaches (Reg.FLO_OPND_POST 3) = true) && (decide (s.chip.pairState ≠ 2) &&
      (let b := (wordsBytes (s.chip.flo.post ++ [v])); (decide (isAlloc b = true))))) : Bool) = true ∧
    (let s : State := on ((run []).setFcore 23 { FlowCore.initial with post := [0x01000001, 0, 0] }); let n : Fin 24 := 23;
      let v : Word := 0; (let b := (wordsBytes ((s.chip.fcore n).post ++ [v])); (decide (isAlloc b = true))) : Bool) = true ∧
    (let s : State := on (((run []).setPod 1023 { Pod.initial with state := .wait, slots := [⟨4, none⟩, ⟨5, none⟩, ⟨6, none⟩] }).onFlo fun f => { f with reqs := [.fmt 1023 255] });
      let pod : BitVec 10 := 1023; let i : BitVec 8 := 255; (decide (s.chip.balUp = true) && (decide (s.chip.portGated 5 = false) &&
      (match (s.chip.flo.reqs) with
       | .fmt pod i :: _ => ((decide ((s.chip.pod pod.toNat).staleFmt = 0) &&
      (decide ((s.chip.pod pod.toNat).slotFor 6 = some 2)))) | _ => false))) : Bool) = true := by decide +kernel

/-- Clauses 1, 2, 3. -/
theorem witness_PodsAreDispatchedAndReleased :
    (let s : State := on (((run [(Reg.FLO_CTRL, 1), (Reg.FLO_CORE_CFG 23, 0x80000000), (Reg.FLO_CORE_CLASS_HI 23, 0x80000000)]).setPod 1023 { Pod.initial with state := .ready }).setReady 63 [1023]);
      (decide (s.chip.working = true) && (decide (s.chip.bit Reg.FLO_CTRL 0 = true) && (decide (s.chip.bit Reg.FLO_CTRL 2 = false) &&
      (match (s.chip.chooseClass.map (·.1)) with
       | some k => ((match (s.chip.readyList k) with
       | p :: _ => ((match ((s.chip.affine p.toNat).or (s.chip.leastLoaded k)) with
       | some _ => (true) | _ => false)) | _ => false)) | _ => false)))) : Bool) = true ∧
    (let s : State := on ((run [(Reg.FLO_CLASS_CFG 1, 0x8007F000)]).setPod 1023 { Pod.initial with state := .done, binding := .unordered, cpl := List.replicate 16 0 });
      (decide (s.chip.duePods true = []) && (match (s.chip.nextDue.map (·.1)) with
       | some _ => ((match (s.chip.nextDue.map (·.2)) with
       | some p => ((decide (s.chip.destOf p = none) &&
      (decide ((p.cpl.getD 1 0).toNat % 256 = 0)))) | _ => false)) | _ => false)) : Bool) = true ∧
    (let s : State := on ((run [(Reg.FLO_CLASS_CFG 0, 0x80000000)]).setPod 1023 { Pod.initial with state := .done, binding := .unordered, cpl := List.replicate 16 0 });
      (decide (s.chip.duePods true = []) && (decide (s.chip.portGated 0 = false) && (match (s.chip.nextDue.map (·.1)) with
       | some _ => ((match (s.chip.nextDue.map (·.2)) with
       | some p => (true) | _ => false)) | _ => false))) : Bool) = true := by decide +kernel

/-- Clauses 1, 2, 3, 4, 5, 6, 7, 8. -/
theorem witness_FlowCoresRunOnePod :
    (let s : State := on ((run [(Reg.FLO_CORE_CFG 23, 0x80000000)]).setFcore 23 { FlowCore.initial with inbox := [(7, 1023)] });
      let n : Fin 24 := 23; (decide (s.chip.coreHeld n = false) && (decide ((s.chip.fcore n).run = none) &&
      (match ((s.chip.fcore n).inbox) with
       | _ :: _ => (true) | _ => false))) : Bool) = true ∧
    (let s : State := on ((run []).setFcore 23 { FlowCore.initial with stalled := true, inbox := [(7, 1023)] }); let n : Fin 24 := 23;
      (decide ((s.chip.fcore n).stalled = true) && (match ((s.chip.fcore n).inbox) with
       | _ :: _ => (true) | _ => false)) : Bool) = true ∧
    (let s : State := on ((run []).setFcore 23 { FlowCore.initial with run := some (7, 1023) }); let n : Fin 24 := 23;
      (match ((s.chip.fcore n).run) with
       | some _ => (true) | _ => false) : Bool) = true ∧
    (let s : State := on (run []); let n : Fin 24 := 23; (decide ((s.chip.fcore n).run = none)) : Bool) = true ∧
    (let s : State := on ((run []).setFcore 23 { FlowCore.initial with run := some (7, 1023) }); let n : Fin 24 := 23;
      (match ((s.chip.fcore n).run) with
       | some _ => (true) | _ => false) : Bool) = true ∧
    (let s : State := on ((run []).setFcore 23 { FlowCore.initial with run := some (7, 1023) }); let n : Fin 24 := 23;
      (match ((s.chip.fcore n).run) with
       | some _ => (true) | _ => false) : Bool) = true ∧
    (let s : State := on (run []); let n : Fin 24 := 23; (decide (s.chip.reaches (Reg.FLO_CORE_CFG n) = true)) : Bool) = true ∧
    (let s : State := on (run []); let n : Fin 24 := 23; (decide (s.chip.reaches (Reg.FLO_CORE_CFG n) = true)) : Bool) = true := by decide +kernel

/-- Clauses 1, 2, 3, 4, 5, 6, 7, 8. -/
theorem witness_BalanceRequestsComplete :
    (let s : State := on ((balance [(Reg.BAL_QPI, 1)]));
      (decide ((s.chip.balUp && s.chip.bit Reg.BAL_CTRL 0 && !s.chip.bit Reg.BAL_CTRL 1 && s.chip.bit Reg.BAL_QCFG 31) = true) &&
      (decide (s.chip.bal.image = none) && (decide (s.chip.bal.reqs.length < 64) &&
      (decide (s.chip.bal.fetched ≠ s.chip.fl Reg.BAL_QPI 9 0 % s.chip.balqSize) &&
      (decide (s.chip.judge 7 false false (s.chip.balqAddr s.chip.bal.fetched) 32 = .ok)))))) : Bool) = true ∧
    (let s : State := on (((balance []).onBal fun b => { b with reqs := [⟨1023, [0, 0, 0, 0, 0, 0, 0, 0, 0, 0, 0, 0x60, 0, 0, 4, 0, 0, 0, 0x10, 0x60, 0, 0, 3, 0] ++ List.replicate 8 0, true⟩] }));
      let i : BitVec 10 := 1023; (decide (s.chip.balUp = true) && (match (s.chip.bal.reqs) with
       | q :: _ => ((decide (q.idx = i.toNat) && (decide (q.refused = true)))) | _ => false)) : Bool) = true ∧
    (let s : State := on (((balance []).onBal fun b => { b with reqs := [⟨1023, [0, 0, 0, 0, 0, 0, 0, 0, 0, 0, 0, 0x60, 0, 0, 4, 0, 0, 0, 0x10, 0x60, 0, 0, 3, 0] ++ List.replicate 8 0, false⟩] }));
      let i : BitVec 10 := 1023; (decide (s.chip.balUp = true) && (decide (s.chip.portGated 5 = false) && (match (s.chip.bal.reqs) with
       | q :: _ => ((decide (q.idx = i.toNat) && (decide (q.refused = false) &&
      (decide (s.chip.judge 7 false true (s.chip.balqAddr q.idx) 32 = .ok) &&
      (decide (s.chip.podApart q.pod (s.chip.balqAddr q.idx) 32 = true) && (match ((s.chip.balJudge q).1) with
       | .inl _ => (true) | _ => false)))))) | _ => false))) : Bool) = true ∧
    (let s : State := on ((((balance []).onBal fun b => { b with reqs := [⟨1023, [0, 0, 0, 0, 0, 0, 0, 0, 0, 0, 0, 0x60, 0, 0, 4, 0, 0, 0, 0x10, 0x60, 0, 0, 3, 0] ++ List.replicate 8 0, false⟩] }).wrMem 0x60100000 [0, 1]).wrMem (ctxAddr 3) [0, 0, 0x10]);
      let i : BitVec 10 := 1023; (decide (s.chip.balUp = true) && (decide (s.chip.portGated 5 = false) && (match (s.chip.bal.reqs) with
       | q :: _ => ((decide (q.idx = i.toNat) && (decide (q.refused = false) &&
      (decide (s.chip.judge 7 false true (s.chip.balqAddr q.idx) 32 = .ok) &&
      (decide (s.chip.podApart q.pod (s.chip.balqAddr q.idx) 32 = true) && (match ((s.chip.balJudge q).1) with
       | .inr x => ((match (scopesOf x.1 x.2) with
       | some scopes => (true) | _ => false)) | _ => false)))))) | _ => false))) : Bool) = true ∧
    (let s : State := on ((balance [])); let v : Word := 0x80000001; (decide (s.chip.reaches Reg.BAL_IMG_CMD = true) &&
      (decide (s.chip.balUp = true) && (decide (s.chip.bal.image = none) && (decide (v.getLsbD 31 = true) &&
      (decide (v.toNat % 4 = 1)))))) : Bool) = true ∧
    (let s : State := on ((balance [])); let v : Word := 0x80000002; (decide (s.chip.reaches Reg.BAL_IMG_CMD = true) &&
      (decide (s.chip.balUp = true) && (decide (s.chip.bal.image = none) && (decide (v.getLsbD 31 = true) &&
      (decide (v.toNat % 4 = 2)))))) : Bool) = true ∧
    (let s : State := on ((balance [(Reg.BAL_IMG_ADDR_LO, 0x60000000)]).onBal fun b => { b with image := some 2 });
      (decide (s.chip.balUp = true) && (decide (s.chip.bal.reqs = []) && (decide (s.chip.bal.image = some 2) &&
      (let a := (s.chip.rd Reg.BAL_IMG_ADDR_LO + s.chip.fl Reg.BAL_IMG_ADDR_HI 15 0 * 2 ^ 32); (let n := (leAt (s.chip.rdMem a 64) 8 4);
      (decide (s.chip.judge 7 false false a (64 + n) = .ok) &&
      (decide (s.chip.judge 7 false true (s.chip.balBase 1) 65536 = .ok)))))))) : Bool) = true ∧
    (let s : State := on ((balance [(Reg.BAL_IMG_ADDR_LO, 0x60000000)]).onBal fun b => { b with image := some 1 });
      (decide (s.chip.balUp = true) && (decide (s.chip.bal.reqs = []) && (decide (s.chip.bal.image = some 1) &&
      (let a := (s.chip.rd Reg.BAL_IMG_ADDR_LO + s.chip.fl Reg.BAL_IMG_ADDR_HI 15 0 * 2 ^ 32); (let n := (leAt (s.chip.rdMem a 64) 8 4);
      (decide (s.chip.judge 7 false false a (64 + n) = .ok) &&
      (decide (s.chip.judge 7 false true (s.chip.balBase 0) 131072 = .ok)))))))) : Bool) = true := by decide +kernel

/-- Clauses 1, 2, 3, 4, 5, 6, 7. -/
theorem witness_MembershipFollowsCommands :
    (let s : State := on ((balance [(Reg.BAL_MEMB_ARG, 9), (Reg.GROUP_WORD 9 0, 1), (Reg.GROUP_WORD 9 2, 0x10000), (Reg.GROUP_WORD 9 5, 7)]).wrMem (0x60140000 + 0x80 * 7) [0, 0, 0x10, 0, 9, 0, 0]);
      let v : Word := 0x80000007; (decide (s.chip.reaches Reg.BAL_MEMB_CMD = true) && (decide (s.chip.balUp = true) &&
      (decide (v.getLsbD 31 = true) && (let h := (v.toNat % 2 ^ 20);
      (decide ((∀ n ∈ s.chip.linked h, s.chip.judge 7 false true (s.chip.membAddr n) 128 = .ok))))))) : Bool) = true ∧
    (let s : State := on ((balance [(Reg.GROUP_WORD 9 0, 1), (Reg.GROUP_WORD 9 2, 0x10000), (Reg.GROUP_WORD 9 5, 7)]).wrMem (0x60140000 + 0x80 * 7) [0, 0, 0x10, 0, 9, 0, 0]);
      let v : Word := 0x80000007; (decide (s.chip.reaches Reg.BAL_MEMB_CMD = true) && (decide (s.chip.balUp = true) &&
      (decide (v.getLsbD 31 = true) && (let h := (v.toNat % 2 ^ 20); (match (s.chip.groupOf h) with
       | some _ => ((decide ((∀ n ∈ s.chip.linked h, s.chip.judge 7 false true (s.chip.membAddr n) 128 = .ok)))) | _ => false))))) : Bool) = true ∧
    (let s : State := on ((balance [(Reg.GROUP_WORD 9 0, 1), (Reg.GROUP_WORD 9 2, 0x10000), (Reg.GROUP_WORD 9 5, 7)]).wrMem (0x60140000 + 0x80 * 7) [0, 0, 0x10, 0, 9, 0, 0]);
      let v : Word := 0x80000007; (decide (s.chip.reaches Reg.BAL_MEMB_CMD = true) && (decide (s.chip.balUp = true) &&
      (decide (v.getLsbD 31 = true) && (let h := (v.toNat % 2 ^ 20); (match (s.chip.groupOf h) with
       | some _ => ((decide (s.chip.judge 7 false true (s.chip.membAddr h) 128 = .ok))) | _ => false))))) : Bool) = true ∧
    (let s : State := on ((balance [(Reg.GROUP_WORD 9 0, 1), (Reg.GROUP_WORD 9 2, 0x10000), (Reg.GROUP_WORD 9 5, 7)]).wrMem (0x60140000 + 0x80 * 7) [0, 0, 0x10, 0, 9, 0, 0]);
      let v : Word := 0x80000007; (decide (s.chip.reaches Reg.BAL_MEMB_CMD = true) && (decide (s.chip.balUp = true) &&
      (decide (v.getLsbD 31 = true) && (let h := (v.toNat % 2 ^ 20); (match (s.chip.groupOf h) with
       | some _ => ((decide (s.chip.judge 7 false true (s.chip.membAddr h) 128 = .ok))) | _ => false))))) : Bool) = true ∧
    (let s : State := on (((balance [(Reg.GROUP_WORD 9 0, 1), (Reg.GROUP_WORD 9 2, 0x10000), (Reg.GROUP_WORD 9 5, 7)]).wrMem (0x60140000 + 0x80 * 7) [0, 0, 0x10, 0, 9, 0, 0]).onLma fun l => { l with notices := [⟨7, 2, 0, true, 0⟩] });
      (decide (s.chip.balUp = true) && (match (s.chip.lma.notices) with
       | n :: _ => ((decide (n.hvalid = true) && (let h := (n.handle.toNat); (match (s.chip.groupOf h) with
       | some _ => ((decide (bitOf (leAt (s.chip.memb h).1 6 1) 0 = false) &&
      (decide (s.chip.judge 7 false true (s.chip.membAddr h) 128 = .ok)))) | _ => false)))) | _ => false)) : Bool) = true ∧
    (let s : State := on (((balance [(Reg.GROUP_WORD 9 0, 0x201), (Reg.GROUP_WORD 9 1, 0x40), (Reg.GROUP_WORD 9 2, 0x10000), (Reg.GROUP_WORD 9 5, 7), (Reg.GROUP_WORD 10 0, 1)]).wrMem (0x60140000 + 0x80 * 7) [0, 0, 0x10, 0, 9, 0, 1]).onLma fun l => { l with notices := [⟨7, 2, 0, true, 0⟩] });
      (decide (s.chip.balUp = true) && (match (s.chip.lma.notices) with
       | n :: _ => ((decide (n.hvalid = true) && (let h := (n.handle.toNat); (match (s.chip.groupOf h) with
       | some g => ((decide (bitOf (leAt (s.chip.memb h).1 6 1) 0 = true) && (match (s.chip.familyBase g) with
       | some b => ((decide (n.rel < 6) && (decide (s.chip.pmap b n.rel < 6) && (let u := (b + s.chip.pmap b n.rel); (decide (u ≠ g) &&
      (decide (u < 4096) && (decide (s.chip.grpOn u = true) && (decide (s.chip.members u < 1024) &&
      (decide ((∀ n ∈ s.chip.linked h, s.chip.judge 7 false true (s.chip.membAddr n) 128 = .ok)) &&
      (let slot := (s.chip.balBase 5 + 64 * s.chip.rd Reg.BAL_RPT_PI);
      (decide ((∀ n ∈ s.chip.linked h, slot + 64 ≤ s.chip.membAddr n ∨ s.chip.membAddr n + 128 ≤ slot))))))))))))) | _ => false))) | _ => false)))) | _ => false)) : Bool) = true ∧
    (let s : State := on ((balance [(Reg.GROUP_WORD 9 0, 1), (Reg.GROUP_WORD 9 2, 0x10000), (Reg.GROUP_WORD 9 5, 7)]).wrMem (0x60140000 + 0x80 * 7) [0, 0, 0x10, 0, 9, 0, 0]);
      let v : Word := 0x10009; (decide (s.chip.reaches Reg.BAL_GRP_CMD = true) && (decide (s.chip.balUp = true) &&
      (decide (v.getLsbD 16 = true) && (let g := (v.toNat % 4096); (let a := (s.chip.balBase 4 + g * 2048);
      (decide (s.chip.judge 7 false true a 2048 = .ok))))))) : Bool) = true := by decide +kernel

/-- Clauses 1, 2, 3. -/
theorem witness_IntervalsAndDaysClose :
    (let s : State := on ((balance []).onBal fun b => { b with nextOpen := some (-100) });
      (decide ((s.chip.balUp && s.chip.bit Reg.BAL_CTRL 0) = true) && (decide (s.chip.bal.dayDue = none) && (let k := (s.chip.kOpen);
      (decide ((k + 1 + s.chip.lag) * s.chip.ivl ≤ s.chip.utc))))) : Bool) = true ∧
    (let s : State := on (((balance [(Reg.GROUP_WORD 9 0, 1), (Reg.GROUP_WORD 9 2, 0x10000), (Reg.GROUP_WORD 9 5, 7)]).wrMem (0x60140000 + 0x80 * 7) [0, 0, 0x10, 0, 9, 0, 0]).onBal fun b => { b with nextOpen := some (-100) });
      (decide ((s.chip.balUp && s.chip.bit Reg.BAL_CTRL 0) = true) && (decide (s.chip.bal.dayDue = none) && (let k := (s.chip.kOpen);
      (decide ((k + 1 + s.chip.lag) * s.chip.ivl ≤ s.chip.utc) && (match (s.chip.grpsOn) with
       | [g] => ((let f := (s.chip.feederOf (miLen s.leg.metCfg.toNat) (s.leg.copies.filter fun y => s.chip.copyIvl y == k) g k);
      true)) | _ => false))))) : Bool) = true ∧
    (let s : State := on ((balance []).onBal fun b => { b with dayDue := some 0 });
      (decide ((s.chip.balUp && s.chip.bit Reg.BAL_CTRL 0) = true) && (match (s.chip.bal.dayDue) with
       | some _ => (true) | _ => false)) : Bool) = true := by decide +kernel

/-- Clauses 1, 2, 3, 4, 5, 6, 7, 8, 9, 10. -/
theorem witness_ClampStartsAndStops :
    (let s : State := on ((run [(Reg.CLM_GEOM, 0x12FF38BA)]).onNand fun n => { n with anchors := [anchor] }); let v : Word := 1;
      let found : List PageFound := []; (decide (v.getLsbD 0 = true) && (decide (s.chip.clmState = 0) && (decide (s.chip.clmUp = true) &&
      (decide (s.chip.reaches Reg.CLM_CTRL = true))))) : Bool) = true ∧
    (let s : State := on ((clamp [])); let v : Word := 0; (decide (v.getLsbD 0 = false) && (decide (s.chip.bit Reg.CLM_CTRL 0 = true) &&
      (decide (s.chip.clm.stopping = false) && (decide (s.chip.reaches Reg.CLM_CTRL = true))))) : Bool) = true ∧
    (let s : State := on ((clamp [])); let v : Word := 0x21; (decide (v.getLsbD 0 = true) && (decide (v.getLsbD 5 = true) &&
      (decide (s.chip.clmState ≠ 0) && (decide (s.chip.reaches Reg.CLM_CTRL = true))))) : Bool) = true ∧
    (let s : State := on ((clamp [])); let v : Word := 9; (decide (v.getLsbD 0 = true) && (decide (v.getLsbD 3 = true) &&
      (decide (s.chip.bit Reg.CLM_CTRL 3 = false) && (decide (s.chip.clmState ≠ 0) &&
      (decide (s.chip.reaches Reg.CLM_CTRL = true)))))) : Bool) = true ∧
    (let s : State := on ((clamp [(Reg.CLM_STATUS, 2)]).onClm fun x => { x with anchor := some anchor }); (decide (s.chip.clmUp = true) &&
      (decide (s.chip.clmState = 2) && (match (s.chip.clm.anchor) with
       | some _ => (true) | _ => false))) : Bool) = true ∧
    (let s : State := on ((clamp [(Reg.CLM_STATUS, 3)]).onClm fun x => { x with anchor := some anchor }); (decide (s.chip.clmUp = true) &&
      (decide (s.chip.clmState = 3) && (match (s.chip.clm.anchor) with
       | some _ => (true) | _ => false))) : Bool) = true ∧
    (let s : State := on ((clamp []).onClm fun x => { x with opened := 300 }); (decide ((s.chip.clmReady && s.chip.working) = true) &&
      (decide (max 1 (s.chip.fl Reg.CLM_CKPT_CFG 7 0) ≤ s.chip.clm.opened))) : Bool) = true ∧
    (let s : State := on (((clamp []).setBlkState (((clamp []).anchorBlock 0).getD 0) 1).onClm fun x => { x with ckpt := some 5 });
      let duds : List (BitVec 17) := []; (decide (s.chip.clmReady = true) && (decide (s.chip.clm.stopping = false) &&
      (match (s.chip.clm.ckpt) with
       | some n => ((decide (s.chip.anchorPlace.isSome = true) &&
      (decide ((s.chip.ckptWrite (duds.map (·.toNat)) n).isSome = true)))) | _ => false))) : Bool) = true ∧
    (let s : State := on ((clamp [(Reg.CLM_STATUS, 6), (Reg.CLM_NS_SIZE 0, 4), (Reg.CLM_NS_SIZE 1, 4)])); let v : Word := 1;
      let w : Who := sealWho; (decide (w.level = .seal) && (decide (v.getLsbD 0 = true) && (decide (s.chip.clmUp = true) &&
      (decide (s.chip.reaches Reg.CLM_MEDIA_CMD = true) &&
      (decide ((s.chip.clmState = 6 ∨ ((s.chip.clmState = 4 ∨ s.chip.clmState = 5) ∧ v.getLsbD 1 = true))) &&
      (let sizes := ((List.range 4).map (fun n => s.chip.fl (Reg.CLM_NS_SIZE n) 27 0));
      (decide (sizes.foldl (· + ·) 0 ≤ 7 * s.chip.rawPages / 8)))))))) : Bool) = true ∧
    (let s : State := on ((run []).onCrp fun x => { x with power := .ride }); (decide (s.chip.crp.power = .ride) &&
      (decide (s.chip.crp.flushed = false))) : Bool) = true := by decide +kernel

/-- Clauses 1, 2, 3, 4, 5, 6, 7, 8, 9. -/
theorem witness_ClampServesCommands :
    (let s : State := on ((clamp []).onBal fun b => { b with out := [⟨5, [List.replicate 24 1]⟩] }); (decide (s.chip.clmTaking = true) &&
      (decide (s.chip.batchRefused = false) && (match (s.chip.bal.out) with
       | b :: _ => ((decide (b.records ≠ []))) | _ => false))) : Bool) = true ∧
    (let s : State := on ((clamp []).onClm fun x => { x with batches := [⟨5, [List.replicate 24 1]⟩], slot := 169 });
      (decide ((s.chip.clmTaking && !s.chip.batchRefused) = true) && (decide (s.chip.clm.merge = none) && (decide (s.chip.clmState = 4) &&
      (decide (s.chip.clm.slot < 170) && (decide (s.chip.clm.head < 4 * s.chip.nsSize 0) && (decide (s.chip.portGated 5 = false) &&
      (match (s.chip.clm.batches) with
       | _ :: _ => (true) | _ => false))))))) : Bool) = true ∧
    (let s : State := on ((clamp [(Reg.CLM_STATUS, 2)]).onClm fun x => { x with batches := [⟨5, [List.replicate 24 1]⟩] });
      (decide (s.chip.clmTaking = true) && (decide (s.chip.clm.merge = none) && (decide (s.chip.clm.batches ≠ []) &&
      (decide ((s.chip.clmState = 2 ∨ s.chip.clmState = 3)))))) : Bool) = true ∧
    (let s : State := on (((clamp []).wrMem 0x60000000 [1, 3, 0, 0, 0, 0, 0, 0, 0, 0, 4, 0, 0, 0, 1, 0x60]).wrMem 0x6002000C [1, 0x40, 0, 0x80]);
      let q : Fin 3 := 0; (decide (s.chip.clmTaking = true) && (decide (s.chip.clm.cmds.length < 32) && (match (s.chip.clmHead q) with
       | some x => ((let k := (x.1); (decide (k.op = 1) && (decide (s.chip.cmdJudge k = 0) && (decide (s.chip.cmdWaits k = false) &&
      (decide (s.chip.clm.reads.length < mostReads) && (decide ((∀ j ∈ s.chip.clm.cmds, j.n ≠ k.n)) && (match (s.chip.cmdUnits k) with
       | [u] => ((decide ((s.chip.clm.buf.any fun y => y.unit == u) = false) && (match (entryPage (s.chip.mapEntry u)) with
       | some _ => (true) | _ => false))) | _ => false)))))))) | _ => false))) : Bool) = true ∧
    (let s : State := on ((clamp []).wrMem 0x60000000 [2, 3, 0, 0, 0, 0, 0, 0, 0, 0, 4, 0, 0, 0, 1, 0x60]); let q : Fin 3 := 0;
      (decide (s.chip.clmTaking = true) && (decide (s.chip.clm.cmds.length < 32) && (match (s.chip.clmHead q) with
       | some x => ((let k := (x.1); (decide (k.op = 2) && (decide (s.chip.cmdJudge k = 0) && (decide (s.chip.cmdWaits k = false) &&
      (decide (s.chip.clm.merge = none) && (decide ((∀ j ∈ s.chip.clm.cmds, j.n ≠ k.n)) && (decide (k.owner = none) &&
      (match (s.chip.cmdUnits k) with
       | [u] => ((decide (k.count = 4) && (decide (k.first % 4 = 0) && (decide (s.chip.wbRoom [u] = true) &&
      (decide (s.chip.judge 6 (k.queue == 2) false k.buffer 16384 = .ok)))))) | _ => false))))))))) | _ => false))) : Bool) = true ∧
    (let s : State := on ((clamp []).wrMem 0x60000000 [3, 3, 0, 0, 0, 0, 0, 0, 0, 0, 4, 0, 0, 0, 1, 0x60]); let q : Fin 3 := 0;
      (decide (s.chip.clmTaking = true) && (decide (s.chip.clm.cmds.length < 32) && (match (s.chip.clmHead q) with
       | some x => ((let k := (x.1); (decide (k.op = 3) && (decide (s.chip.cmdWaits k = false) &&
      (decide ((∀ j ∈ s.chip.clm.cmds, j.n ≠ k.n))))))) | _ => false))) : Bool) = true ∧
    (let s : State := on ((clamp []).wrMem 0x60000000 [4, 2, 0, 0, 0, 0, 0, 0, 0, 0, 4, 0, 0, 0, 1, 0x60]); let q : Fin 3 := 0;
      (decide (s.chip.clmTaking = true) && (decide (s.chip.clm.cmds.length < 32) && (match (s.chip.clmHead q) with
       | some x => ((let k := (x.1); (decide (k.op = 4) && (decide (s.chip.cmdJudge k = 0) &&
      (decide (s.chip.cmdWaits k = false)))))) | _ => false))) : Bool) = true ∧
    (let s : State := on ((clamp []).wrMem 0x60000000 [5, 3, 0, 0, 0, 0, 0, 0, 0, 0, 4, 0, 0, 0, 1, 0x60]); let q : Fin 3 := 0;
      (decide (s.chip.clmTaking = true) && (decide (s.chip.clm.cmds.length < 32) && (match (s.chip.clmHead q) with
       | some x => ((let k := (x.1); (decide (k.op = 5) && (decide ((∀ j ∈ s.chip.clm.cmds, j.n ≠ k.n)))))) | _ => false))) : Bool) = true ∧
    (let s : State := on ((clamp [])); (decide (s.chip.clmUp = true) && (match (s.chip.clm.cmds.find? s.chip.cmdReady) with
       | some k => ((decide (k.owner = none) && (decide (s.chip.judge 6 false true (s.chip.clmqAddr k.queue k.idx) 32 = .ok) &&
      (decide ((!k.flag 0 || !s.chip.portGated 5) = true) &&
      (decide ((!k.flag 0 || s.chip.podApart k.pod (s.chip.clmqAddr k.queue k.idx) 32) = true)))))) | _ => false)) : Bool) = true := by decide +kernel

/-- Clauses 1, 2, 3, 4, 5, 6, 7, 8. -/
theorem witness_MediaWorkKeepsUnits :
    (let s : State := on ((clamp []).onClm fun x => { x with buf := [⟨3, 7, [1], none⟩], nextSeq := 9 }); let duds : List (BitVec 17) := [];
      (decide (s.chip.clmReady = true) && (match (s.chip.nextJob) with
       | some (.unit u) => ((decide (u.seq < s.chip.clm.nextSeq) &&
      (match (s.chip.rickFor (duds.map (·.toNat)) (writeStream (s.chip.nsOf u.unit))) with
       | (some _, _) => (true) | _ => false))) | _ => false)) : Bool) = true ∧
    (let s : State := on ((clamp []).onClm fun x => { x with markers := [⟨1, 7⟩] }); let duds : List (BitVec 17) := [];
      (decide (s.chip.clmReady = true) && (match (s.chip.nextJob) with
       | some (.mark _) => ((match (s.chip.rickFor (duds.map (·.toNat)) 6) with
       | (some _, _) => (true) | _ => false)) | _ => false)) : Bool) = true ∧
    (let s : State := on ((clamp []).onClm fun x => { x with verify := [⟨9, 2, [], 0, [], [], false⟩] });
      (decide (s.chip.clmReady = true) && (match (s.chip.clm.verify) with
       | r :: _ => ((decide ((s.chip.crp.power ≠ .ride ∨ r.failed = [])))) | _ => false)) : Bool) = true ∧
    (let s : State := on (((clamp [(Reg.CLM_CTRL, 5)]).onClm fun x => { x with reads := [⟨0x4001, .sectors 5 3⟩] }).onNand fun n => { n with pages := [(0x4001, ⟨3, 3, 0, 6, 7, 1, [1]⟩)] });
      let cws : List CwRead := []; (decide (s.chip.clmReady = true) && (match (s.chip.clm.reads) with
       | r :: _ => ((match (r.use) with
       | .sectors n _ => ((decide ((s.chip.nandGet r.ppa).isSome = true) && (decide (cws.contains .fail = false) &&
      (match (s.chip.clm.cmds.find? (fun k => k.n == n)) with
       | some k => ((decide (k.owner = none) &&
      (decide (s.chip.judge 6 (k.queue == 2) true k.buffer 1048576 = .ok)))) | _ => false)))) | _ => false)) | _ => false)) : Bool) = true ∧
    (let s : State := on ((clamp []).onClm fun x => { x with buf := [⟨3, 7, [1], none⟩] }); let sys : Bool := false;
      (decide (s.chip.clmReady = true) &&
      (match ((if sys then s.chip.clm.ckpt.map fun _ => 6 else (s.chip.nextJob.map s.chip.jobStream).or s.chip.padStream)) with
       | some stream => ((match (s.chip.openOf stream) with
       | some _ => (true) | _ => false)) | _ => false)) : Bool) = true ∧
    (let s : State := on ((clamp []).onClm fun x => { x with erasing := [0x4001] }); (decide (s.chip.clmReady = true) &&
      (match (s.chip.eraseNext) with
       | some _ => (true) | _ => false)) : Bool) = true ∧
    (let s : State := on ((clamp []).onClm fun x => { x with erasing := [0x4001] }); (decide (s.chip.clmReady = true) &&
      (match (s.chip.eraseNext) with
       | some _ => (true) | _ => false)) : Bool) = true ∧
    (let s : State := on ((clamp [])); (decide (s.chip.mayCollect = true)) : Bool) = true := by decide +kernel

/-- Clauses 1, 2, 3, 5, 6. -/
theorem witness_LegalClockRegistersEnergy :
    (let s : State := metered; (decide (s.leg.adjusts = []) && (decide (s.chip.crp.power ≠ .off))) : Bool) = true ∧
    (let s : State := { metered with chip := metered.chip.onCrp fun x => { x with power := .off } };
      (decide (s.chip.crp.power = .off)) : Bool) = true ∧
    (let s : State := metered; let m : LegMeas := meas0; (decide (s.chip.crp.power = .run) && (decide (s.leg.regs.energy.length = 54) &&
      (decide (s.leg.metering s.chip.fuses.headEnd (s.lc.state == .retired) = true)))) : Bool) = true ∧
    (let s : State := metered; (decide (s.leg.pfail = false)) : Bool) = true ∧
    (let s : State := { metered with leg := { metered.leg with accounts := [(3, { valid := true, handle := 5, state := 1, plan := 0, friendly := 0, ecAuto := false, ecActive := false, credit := 0, ecLimit := 0, lowTh := 0, lastEnd := 0, topupSeq := 0, dayCharged := 0, noticeT := 0, good := true })] } };
      (decide (Tab.wf (fun _ => Account.zero) s.leg.accounts = true) && (match (localTime s.leg.active s.leg.secs) with
       | (_, _) => (true))) : Bool) = true := by decide +kernel

/-- Clauses 3, 4, 5, 6, 7. -/
theorem witness_LegalConfigurationIsLogged :
    (let s : State := { metered with leg := { metered.leg with metPending := some 0x29 } }; (match (s.leg.metPending) with
       | some _ => (true) | _ => false) : Bool) = true ∧
    (let s : State := metered; let w : Who := sealWho; (decide (w.level = .seal)) : Bool) = true ∧
    (let s : State := metered; let w : Who := sealWho; (decide (w.level = .seal)) : Bool) = true ∧
    (let w : Who := hostWho; (decide (w.level ≠ .seal)) : Bool) = true ∧
    (let w : Who := hostWho; (decide (w.level ≠ .seal)) : Bool) = true := by decide +kernel

/-- Clauses 1, 2, 3, 4, 5, 6, 7. -/
theorem witness_LegalReadsAndClockAreServed :
    (let s : State := metered; (let g := (s.leg.observe s.lc.tripped); (decide (s.legalServed g = true))) : Bool) = true ∧
    (let s : State := metered; (let g := (s.leg.observe s.lc.tripped); (decide (s.legalServed g = true))) : Bool) = true ∧
    (let s : State := metered; (let g := (s.leg.observe s.lc.tripped); (decide (s.legalServed g = true))) : Bool) = true ∧
    (let s : State := metered; (let g := (s.leg.observe s.lc.tripped); (decide (s.legalServed g = true))) : Bool) = true ∧
    (let s : State := metered; (let g := (s.leg.observe s.lc.tripped); (decide (s.legalServed g = true))) : Bool) = true ∧
    (let s : State := metered; let rq : Word := 0; let time : BitVec 40 := 0; let tag : BitVec 64 := 10163859327816284718;
      (let req := (legalBody 0x10 rq (leBytes 5 time.toNat) (leBytes 8 tag.toNat)); (let g := (s.leg.observe s.lc.tripped);
      (decide (s.admits g .clock 0x10 req = true) && (let d := ((time.toNat : Int) - (g.secs + 1)); true)))) : Bool) = true ∧
    (let s : State := metered; let rq : Word := 0; let delta : BitVec 32 := 0; let tag : BitVec 64 := 3550975411227148567;
      (let req := (legalBody 0x11 rq (leBytes 4 delta.toNat) (leBytes 8 tag.toNat)); (let g := (s.leg.observe s.lc.tripped);
      (decide (s.admits g .clock 0x11 req = true) && (let d := (delta.toInt); true)))) : Bool) = true := by decide +kernel

/-- Clauses 1, 2, 3, 4, 5, 6, 7, 8, 9. -/
theorem witness_LegalParametersAreSet :
    (let s : State := metered; let rq : Word := 0; let body : List Byte := []; let tag : BitVec 64 := 11321093606380378731;
      (decide (body.length < 60000) && (let req := (legalBody 0x12 rq body (leBytes 8 tag.toNat)); (let g := (s.leg.observe s.lc.tripped);
      (decide (s.admits g .param 0x12 req = true))))) : Bool) = true ∧
    (let s : State := metered; let rq : Word := 0; let time : BitVec 40 := 0; let tag : BitVec 64 := 6558802951859528430;
      (let req := (legalBody 0x13 rq (leBytes 5 time.toNat) (leBytes 8 tag.toNat)); (let g := (s.leg.observe s.lc.tripped);
      (decide (s.admits g .param 0x13 req = true)))) : Bool) = true ∧
    (let s : State := metered; let rq : Word := 0; let c : Bool := false; let k : Byte := 0; let e : BitVec 40 := 0;
      let tag : BitVec 64 := 115482181565468236;
      (let req := (legalBody 0x14 rq ([BitVec.ofNat 8 (b2n c), k] ++ leBytes 5 e.toNat) (leBytes 8 tag.toNat));
      (let g := (s.leg.observe s.lc.tripped); (decide (s.admits g .param 0x14 req = true)))) : Bool) = true ∧
    (let s : State := metered; let rq : Word := 0; let tag : BitVec 64 := 17761653415351201683;
      (let req := (legalBody 0x15 rq [] (leBytes 8 tag.toNat)); (let g := (s.leg.observe s.lc.tripped);
      (decide (s.admits g .param 0x15 req = true)))) : Bool) = true ∧
    (let s : State := metered; let rq : Word := 0; let v : Word := 0; let tag : BitVec 64 := 4918560586755769123;
      (let req := (legalBody 0x16 rq (leBytes 4 v.toNat) (leBytes 8 tag.toNat)); (let g := (s.leg.observe s.lc.tripped);
      (decide (s.admits g .param 0x16 req = true)))) : Bool) = true ∧
    (let s : State := metered; let rq : Word := 0; let data : List Byte := []; let tag : BitVec 64 := 7915842477969190010;
      (decide (data.length < 60000) && (let req := (legalBody 0x17 rq data (leBytes 8 tag.toNat)); (let g := (s.leg.observe s.lc.tripped);
      (decide (s.admits g .param 0x17 req = true))))) : Bool) = true ∧
    (let s : State := metered; let rq : Word := 0; let n : Byte := 0; let body : List Byte := [];
      let tag : BitVec 64 := 14853338565317409643; (decide (body.length < 60000) &&
      (let req := (legalBody 0x18 rq (n :: body) (leBytes 8 tag.toNat)); (let g := (s.leg.observe s.lc.tripped);
      (decide (s.admits g .param 0x18 req = true))))) : Bool) = true ∧
    (let s : State := metered; let rq : Word := 0; let n : Byte := 0; let body : List Byte := [];
      let tag : BitVec 64 := 16624004789239902905; (decide (body.length < 60000) &&
      (let req := (legalBody 0x19 rq (n :: body) (leBytes 8 tag.toNat)); (let g := (s.leg.observe s.lc.tripped);
      (decide (s.admits g .param 0x19 req = true))))) : Bool) = true ∧
    (let s : State := metered; let rq : Word := 0; let seq : BitVec 32 := 0; let tag : BitVec 64 := 10142645917578765449;
      (let req := (legalBody 0x1A rq (leBytes 4 seq.toNat) (leBytes 8 tag.toNat)); (let g := (s.leg.observe s.lc.tripped);
      (decide (s.admits g .param 0x1A req = true) && (let upTo := (min seq.toNat g.logMark); true)))) : Bool) = true := by decide +kernel

/-- Clauses 1, 2, 3, 4, 5, 6. -/
theorem witness_LedgerFollowsRequests :
    (let s : State := metered; (let g := (s.leg.observe s.lc.tripped); (decide (s.legalServed g = true))) : Bool) = true ∧
    (let s : State := metered; let a : BitVec 16 := 0; (let g := (s.leg.observe s.lc.tripped);
      (decide (s.legalServed g = true))) : Bool) = true ∧
    (let s : State := metered; let rq : Word := 0; let a : BitVec 16 := 0; let n : BitVec 64 := 0; let seq : BitVec 32 := 0;
      let tag : BitVec 64 := 9182505608559484989;
      (let req := (legalBody 0x22 rq (leBytes 2 a.toNat ++ leBytes 8 n.toNat ++ leBytes 4 seq.toNat) (leBytes 8 tag.toNat));
      (let g := (s.leg.observe s.lc.tripped); (decide (s.admits g .vending 0x22 req = true)))) : Bool) = true ∧
    (let s : State := metered; let rq : Word := 0; let a : BitVec 16 := 0; let tag : BitVec 64 := 199151655300903754;
      (let req := (legalBody 0x23 rq (leBytes 2 a.toNat) (leBytes 8 tag.toNat)); (let g := (s.leg.observe s.lc.tripped);
      (decide (s.admits g .vending 0x23 req = true)))) : Bool) = true ∧
    (let s : State := metered; let a : BitVec 16 := 0; let e : BitVec 32 := 5; let len : BitVec 16 := 3; let n : BitVec 32 := 2;
      (let g := (s.leg.observe s.lc.tripped); (decide (s.legalServed g = true) && (let x := (g.account a.toNat);
      (let tar := (tariffOf g.active (((e.toNat : Int) - len.toNat) * 60)); true)))) : Bool) = true ∧
    (let s : State := metered; let a : BitVec 16 := 0; (let g := (s.leg.observe s.lc.tripped);
      (decide (s.legalServed g = true))) : Bool) = true := by decide +kernel

/-- Clauses 1, 2, 3. -/
theorem witness_PortsCarryFrames :
    (let s : State := on (run [(Reg.BKB_CTRL, 1), (Reg.BKB_PORT_CFG 1, 0xA0000000)]); let p : Fin 2 := 1; let phase : BitVec 16 := 0x8000;
      (decide (s.chip.portUp p = true)) : Bool) = true ∧
    (let s : State := on ((run [(Reg.BKB_CTRL, 1), (Reg.BKB_PORT_CFG 1, 0xA0000000), (Reg.BKB_TXQ_CFG 1 3, 0x80000000), (Reg.BKB_TXQ_BASE_LO 1 3, 0x60000000), (Reg.BKB_TXQ_PI 1 3, 1)]).wrMem 0x60000000 [0, 0, 1, 0x60, 0, 0, 60]);
      let p : Fin 2 := 1; let phase : BitVec 16 := 0; (decide (s.chip.portUp p = true) && (decide ((s.chip.port p).tx = none) &&
      (decide ((s.chip.port p).pauseUntil.toNat ≤ s.chip.time.toNat) && (match (s.chip.txNext p) with
       | some n => ((decide ((!s.chip.outputsGated || n.1 == 0) = true) && (let a := (s.chip.txqHead p n.1);
      (decide (s.chip.judge 10 false false a 32 = .ok) && (let e := (s.chip.rdMem a 32); (let len := (leAt e 6 2 % 2 ^ 14);
      (decide (s.chip.judge 10 false false (leAt e 0 6) len = .ok) && (let f := (s.chip.rdMem (leAt e 0 6) len);
      (decide (s.chip.txValid p e f = true)))))))))) | _ => false)))) : Bool) = true ∧
    (let s : State := on ((run [(Reg.BKB_TXQ_BASE_LO 1 3, 0x60000000)]).onPort 1 fun p => { p with tx := some ⟨3, [], [], false, 0, 0⟩ });
      let p : Fin 2 := 1; (match ((s.chip.port p).tx) with
       | some x => ((let a := (s.chip.txqHead p x.queue); (decide (s.chip.judge 10 false true a 32 = .ok)))) | _ => false) : Bool) = true := by decide +kernel

/-- Clauses 1, 2, 3. -/
theorem witness_RelayedBlocksAreIngested :
    (let s : State := on ((run [(Reg.BKB_NODE, 5)]).onBkb fun b => { b with arrived := [⟨1, [], leBytes 4 0 ++ leBytes 2 0xFFF ++ leBytes 2 5 ++ leBytes 4 1 ++ List.replicate 4 0, 0, 0, false⟩] });
      (match (s.chip.bkb.arrived) with
       | x :: _ => ((let b := (x.block); (decide (leAt b 6 2 % 4096 = s.chip.fl Reg.BKB_NODE 11 0) && (let n := (leAt b 4 2 % 4096);
      true)))) | _ => false) : Bool) = true ∧
    (let s : State := on (((run [(Reg.BKB_NODE, 5), (Reg.BKB_PB_HI, 7)]).setPool .bkb ⟨true, []⟩).onBkb fun b => { b with ingest := [⟨leBytes 4 0x500007 ++ List.replicate 8 0 ++ leBytes 2 4 ++ [0, 0, 1, 2, 3, 4], 0, 0, 0⟩] });
      (match (s.chip.bkb.ingest) with
       | x :: _ => ((decide (s.chip.gated 1 = false) && (decide (s.chip.bit Reg.BKB_CTRL 1 = false) && (let smn := (leAt x.data x.off 4);
      (decide (smn / 2 ^ 20 = s.chip.fl Reg.BKB_NODE 11 0) && (decide (s.chip.portGated 5 = false) && (decide (s.chip.allocRoom 3 = true) &&
      (decide (s.chip.pairState ≠ 2) && (let len := (leAt x.data (x.off + 12) 2);
      (match (s.chip.poolFind .bkb (if len ≤ 960 then 1 else (64 + len + 1023) / 1024)) with
       | some slot => ((decide (s.chip.judge 10 false true (slotAddr slot) (64 + (slice x.data (x.off + 16) len).length) = .ok))) | _ => false)))))))))) | _ => false) : Bool) = true ∧
    (let s : State := on (run [(Reg.BKB_STATUS, 16)]); (decide (s.chip.bit Reg.BKB_STATUS 4 = true)) : Bool) = true := by decide +kernel

/-- Clauses 1, 2, 3, 4, 5. -/
theorem witness_NetworkTimeIsDisciplined :
    (let s : State := on (run []); (decide (s.chip.reaches Reg.BKB_TIM_INC_HI = true)) : Bool) = true ∧
    (let s : State := on (run []); let v : Word := 2; (decide (v.getLsbD 4 = false) && (decide (v.getLsbD 5 = false) &&
      (decide (s.chip.reaches Reg.BKB_TIM_CTRL = true)))) : Bool) = true ∧
    (let s : State := on (run []); let v : Word := 0x22; (decide (v.getLsbD 4 = false) && (decide (v.getLsbD 5 = true) &&
      (decide (s.chip.reaches Reg.BKB_TIM_CTRL = true)))) : Bool) = true ∧
    (let s : State := on (run []); let v : Word := 0x12; (decide (v.getLsbD 4 = true) && (decide (v.getLsbD 5 = false) &&
      (decide (s.chip.reaches Reg.BKB_TIM_CTRL = true)))) : Bool) = true ∧
    (let s : State := on ((run []).onTim fun t => { t with slewing := true }); (decide (s.chip.tim.slewing = true)) : Bool) = true := by decide +kernel

/-- Clauses 1, 2, 3, 4, 5, 6, 7, 8. -/
theorem witness_ComparatorsFireInTime :
    (let s : State := on (run [(Reg.BKB_CMP_TGT_LO 15, 5)]); let n : Fin 16 := 15; let v : Word := 0x80000000;
      (decide (v.getLsbD 31 = true) && (decide (s.chip.bit (Reg.BKB_CMP_CFG n) 31 = false) &&
      (decide ((s.chip.cmpPer n ≠ 0 ∨ s.chip.time.toNat ≤ s.chip.cmpTgt n)) &&
      (decide (s.chip.reaches (Reg.BKB_CMP_CFG n) = true))))) : Bool) = true ∧
    (let s : State := on ((run [(Reg.BKB_CMP_TGT_LO 15, 5)]).onTim fun t => { t with now := 6 }); let n : Fin 16 := 15;
      let v : Word := 0x80000000; (decide (v.getLsbD 31 = true) && (decide (s.chip.bit (Reg.BKB_CMP_CFG n) 31 = false) &&
      (decide (s.chip.cmpPer n = 0) && (decide (s.chip.cmpTgt n < s.chip.time.toNat) &&
      (decide (s.chip.reaches (Reg.BKB_CMP_CFG n) = true)))))) : Bool) = true ∧
    (let s : State := on (run [(Reg.BKB_CMP_CFG 15, 0x80000000)]); let n : Fin 16 := 15; (decide (s.chip.gated 1 = false) &&
      (decide (s.chip.bit (Reg.BKB_CMP_CFG n) 31 = true) && (decide (s.chip.cmpNext n ≤ s.chip.time.toNat)))) : Bool) = true ∧
    (let s : State := on (run []); (decide (s.chip.bkb.outs.length = 4)) : Bool) = true ∧
    (let s : State := on (run []); let n : Fin 16 := 15; (decide (s.chip.bit (Reg.BKB_CMP_CFG n) 31 = false) &&
      (decide (s.chip.reaches (Reg.BKB_CMP_TGT_HI n) = true))) : Bool) = true ∧
    (let s : State := on (run []); let n : Fin 16 := 15; (decide (s.chip.bit (Reg.BKB_CMP_CFG n) 31 = false) &&
      (decide (s.chip.reaches (Reg.BKB_CMP_PER_HI n) = true))) : Bool) = true ∧
    (let s : State := on ((run []).onCrp fun x => { x with closed := [1] }); let x : BitVec 64 := 0;
      (decide (s.chip.gated 1 = true)) : Bool) = true ∧
    (let s : State := on (run []); (decide (s.chip.gated 1 = false)) : Bool) = true := by decide +kernel

/-- Clauses 3, 4, 5, 6, 7, 8, 9, 10, 11. -/
theorem witness_HostReachesItsRings :
    (let s : State := on (run []); let p : Fin 72 := 63; let off : BitVec 12 := 0; let w : Who := hostWho; (decide (p.val < 64) &&
      (decide (s.chip.powered 12 = true) &&
      (decide ((s.chip.planAllows w.num (w.level == .host) true (doorbellAddr p off.toNat) 4 || w.level == .seal) = true) &&
      (decide (s.chip.gated 0 = false))))) : Bool) = true ∧
    (let s : State := on (run []); let p : Fin 72 := 71; let off : BitVec 12 := 0; let w : Who := hostWho; (decide (64 ≤ p.val) &&
      (decide (s.chip.powered 12 = true) &&
      (decide ((s.chip.planAllows w.num (w.level == .host) true (doorbellAddr p off.toNat) 4 || w.level == .seal) = true) &&
      (decide (s.chip.gated 0 = false))))) : Bool) = true ∧
    (let s : State := on { run [] with regs := [] }; let p : Fin 72 := 71; let off : BitVec 12 := 0; let w : Who := hostWho;
      (decide ((s.chip.planAllows w.num (w.level == .host) true (doorbellAddr p off.toNat) 4 || w.level == .seal) = false)) : Bool) = true ∧
    (let s : State := on (run [(Reg.RING_RP_BIND 63, 1), (Reg.RING_RP_SQ_CFG 63, 0x80000000), (Reg.RING_RP_CQ_CFG 63, 0x80000000), (Reg.RING_RP_SQ_BASE_LO 63, 0x60000000), (Reg.RING_RP_CQ_BASE_LO 63, 0x60010000)]);
      let p : Fin 64 := 63; (decide (s.chip.service p ≠ 0) && (decide (s.chip.reaches (ringCfg (.sq p)) = true))) : Bool) = true ∧
    (let s : State := on (run [(Reg.RING_RP_BIND 63, 1), (Reg.RING_RP_SQ_CFG 63, 0x80000000), (Reg.RING_RP_CQ_CFG 63, 0x80000000), (Reg.RING_RP_SQ_BASE_LO 63, 0x60000000), (Reg.RING_RP_CQ_BASE_LO 63, 0x60010000)]);
      let p : Fin 64 := 63; (decide (s.chip.service p ≠ 0) && (decide (s.chip.reaches (ringCfg (.cq p)) = true))) : Bool) = true ∧
    (let s : State := on (run []); let e : Fin 8 := 7; (decide (s.chip.reaches (ringCfg (.evt e)) = true)) : Bool) = true ∧
    (let s : State := on (run []); let v : BitVec 7 := 127; (decide (s.chip.reaches (Reg.MSIX_WORD v.toNat 3) = true)) : Bool) = true ∧
    (let s : State := on { run [] with crp := { (run []).crp with closed := [0] } }; let p : Fin 72 := 71; let off : BitVec 12 := 0;
      let w : Who := sealWho;
      (decide ((s.chip.planAllows w.num (w.level == .host) true (doorbellAddr p off.toNat) 4 || w.level == .seal) = true) &&
      (decide ((s.chip.powered 12 = false ∨ s.chip.gated 0 = true)))) : Bool) = true ∧
    (let s : State := on { run [] with crp := { (run []).crp with closed := [0] } }; let x : RingSel := .evt 7;
      (decide (s.chip.reaches (ringCfg x) = false) && (decide (s.chip.crp.power ≠ .off) &&
      (decide (s.chip.crp.power ≠ .dormant)))) : Bool) = true := by decide +kernel

/-- Clauses 1, 2, 3. -/
theorem witness_DescriptorsReachTheirTarget :
    (let s : State := on ((run [(Reg.RING_CTRL, 1), (Reg.RING_RP_BIND 63, 21), (Reg.RING_RP_SQ_CFG 63, 0x80000000), (Reg.RING_RP_CQ_CFG 63, 0x80000000), (Reg.RING_RP_SQ_BASE_LO 63, 0x60000000), (Reg.RING_RP_CQ_BASE_LO 63, 0x60010000)]).setRpair 63 { RingPair.initial with sqPi := 1 });
      (decide ((s.chip.ringUp && !s.chip.bit Reg.RING_CTRL 2 && s.chip.working) = true) &&
      (match ((((List.range 64).map fun i => (s.chip.ring.fetchTurn + 1 + i) % 64).find? s.chip.fetchable)) with
       | some p => ((let r := (s.chip.pairRead p (s.chip.ringBase (Reg.RING_RP_SQ_BASE_LO p) (Reg.RING_RP_SQ_BASE_HI p) + 64 * (s.chip.rpair p).sqCi) 64);
      (let d := (r.2.1); (let k := (s.chip.service p);
      (decide ((k ≠ 1 ∧ k ≠ 7) ∨ r.1 ≠ .ok ∨ descValid k d = false)))))) | _ => false)) : Bool) = true ∧
    (let s : State := on ((((run [(Reg.RING_CTRL, 1), (Reg.RING_RP_BIND 63, 17), (Reg.RING_RP_SQ_CFG 63, 0x80000000), (Reg.RING_RP_CQ_CFG 63, 0x80000000), (Reg.RING_RP_SQ_BASE_LO 63, 0x60000000), (Reg.RING_RP_CQ_BASE_LO 63, 0x60010000), (Reg.RING_PB_HI, 7)]).setRpair 63 { RingPair.initial with sqPi := 1 }).setPool .ring ⟨true, []⟩).wrMem 0x60000000 [1, 2, 3, 4, 0, 0, 0, 0, 0, 0, 0, 0, 0, 0, 0, 0, 0, 0, 2, 0x60, 0, 0, 0, 0, 64, 0]);
      (decide ((s.chip.ringUp && !s.chip.bit Reg.RING_CTRL 2 && s.chip.working) = true) &&
      (match ((((List.range 64).map fun i => (s.chip.ring.fetchTurn + 1 + i) % 64).find? s.chip.fetchable)) with
       | some p => ((decide ((s.chip.service p = 1 ∨ s.chip.service p = 7)) && (decide (s.chip.pairState ≠ 2) &&
      (decide (s.chip.portGated 5 = false) &&
      (let r := (s.chip.pairRead p (s.chip.ringBase (Reg.RING_RP_SQ_BASE_LO p) (Reg.RING_RP_SQ_BASE_HI p) + 64 * (s.chip.rpair p).sqCi) 64);
      (decide (r.1 = .ok) && (let d := (r.2.1); (decide (descValid (s.chip.service p) d = true) && (match (s.chip.poolFind .ring 1) with
       | some slot => ((let q := (r.2.2.pairRead p (leAt d 16 8) (leAt d 24 2)); (decide (q.1 = .ok) &&
      (decide (q.2.2.judge 4 false true (slotAddr slot) (64 + q.2.1.length) = .ok))))) | _ => false))))))))) | _ => false)) : Bool) = true ∧
    (let s : State := { metered with chip := metered.chip.onRing fun r => { r with lgl := [⟨63, 5, 0x60000000, 8, 0x60001000, 64⟩] } };
      (decide (s.legalServed s.leg = true) && (decide (s.chip.portGated 0 = false) && (match (s.chip.ring.lgl) with
       | _ :: _ => (true) | _ => false))) : Bool) = true := by decide +kernel

/-- Clauses 1, 2, 5, 6, 7, 8. -/
theorem witness_CompletionsAndNoticesAreWritten :
    (let s : State := on ((run [(Reg.RING_CTRL, 1)]).onRing fun r => { r with cpls := [⟨63, 5, 1, 1, [], false, 0⟩] });
      (decide (s.chip.ringUp = true) && (match (s.chip.nextCpl) with
       | some k => ((decide ((s.chip.bit (Reg.RING_RP_CQ_CFG k.pair) 31 && !s.chip.outputsGated) = false))) | _ => false)) : Bool) = true ∧
    (let s : State := on ((run [(Reg.RING_CTRL, 1), (Reg.RING_RP_BIND 63, 17), (Reg.RING_RP_SQ_CFG 63, 0x80000000), (Reg.RING_RP_CQ_CFG 63, 0x80000000), (Reg.RING_RP_SQ_BASE_LO 63, 0x60000000), (Reg.RING_RP_CQ_BASE_LO 63, 0x60010000)]).onRing fun r => { r with cpls := [⟨63, 5, 1, 1, [], false, 0⟩] });
      (decide (s.chip.ringUp = true) && (match (s.chip.nextCpl) with
       | some k => ((decide ((s.chip.bit (Reg.RING_RP_CQ_CFG k.pair) 31 && !s.chip.outputsGated) = true) &&
      (match (s.chip.cqAddr k.pair) with
       | some a => ((decide (s.chip.judge 4 (s.chip.pairHost k.pair) true a 64 = .ok) && (let x := (s.chip.rpair k.pair);
      true))) | _ => false))) | _ => false)) : Bool) = true ∧
    (let s : State := on ((run [(Reg.RING_CTRL, 1)]).onRing fun r => { r with posted := [⟨0x103, 5, [1]⟩] });
      (decide (s.chip.ringUp = true) && (decide (s.chip.outputsGated = false) && (decide (s.chip.ring.queued = []) &&
      (decide ((∀ e : Fin 8, (s.chip.evt e).lost = 0)) && (match (s.chip.ring.posted) with
       | _ :: _ => (true) | _ => false))))) : Bool) = true ∧
    (let s : State := on (balance [(Reg.RING_CTRL, 1), (Reg.RING_RP_BIND 63, 0x16), (Reg.RING_RP_CQ_CFG 63, 0x80000000), (Reg.RING_RP_CQ_BASE_LO 63, 0x60010000), (Reg.BAL_RPT_PI, 1)]);
      (decide (s.chip.balUp = true) && (decide (s.chip.gated 0 = false) && (decide (s.chip.outputsGated = false) &&
      (decide (s.chip.bal.reports = []) && (decide (s.chip.rd Reg.BAL_RPT_CI ≠ s.chip.rd Reg.BAL_RPT_PI) && (match (s.chip.blnPairs) with
       | p :: rest => ((decide (rest = []) && (decide (s.chip.cqRingFull p = false) && (match (s.chip.cqAddr p) with
       | some a => ((decide (s.chip.judge 4 (s.chip.pairHost p) true a 64 = .ok) &&
      (let b := (s.chip.balBase 5 + 64 * s.chip.rd Reg.BAL_RPT_CI);
      (decide (s.chip.judge 7 false false b 64 = .ok))))) | _ => false)))) | _ => false)))))) : Bool) = true ∧
    (let s : State := on (run []); (decide (s.chip.reaches Reg.RING_IOMMU_INVAL = true)) : Bool) = true ∧
    (let s : State := on ((run [(Reg.RING_CTRL, 1)]).onRing fun r => { r with inval := true });
      (decide (s.chip.ring.inval = true)) : Bool) = true := by decide +kernel

/-- Clauses 1, 2, 3, 4, 5, 6, 7, 8, 9, 10. -/
theorem witness_ClusterIsServed :
    (let s : State := on (run []); let w : Who := sealWho; (decide (w.level = .seal) &&
      (decide (s.chip.reaches Reg.APC_CORE_RUN = true))) : Bool) = true ∧
    (let s : State := on (run []); let w : Who := hostWho; (decide (w.level ≠ .seal) &&
      (decide (s.chip.reaches Reg.APC_CORE_RUN = true))) : Bool) = true ∧
    (let s : State := on (run []); let h : Fin 4 := 3; (decide (h.val ∉ s.chip.apc.started)) : Bool) = true ∧
    (let s : State := on ((run []).onApc fun a => { a with started := [3] }); let h : Fin 4 := 3; let m : Bool := true;
      (decide (h.val ∈ s.chip.apc.started) && (let x := (2 * h.val + b2n m);
      (decide (s.chip.reaches (Reg.PIC_CLAIM x) = true)))) : Bool) = true ∧
    (let s : State := on ((run []).onApc fun a => { a with started := [3] }); let h : Fin 4 := 3; let m : Bool := true;
      (decide (h.val ∈ s.chip.apc.started) && (let x := (2 * h.val + b2n m);
      (decide (s.chip.reaches (Reg.PIC_CLAIM x) = true)))) : Bool) = true ∧
    (let s : State := on (run []); (decide (s.chip.bit Reg.APC_DDR_CFG 31 = false) &&
      (decide (s.chip.reaches Reg.APC_DDR_CFG = true))) : Bool) = true ∧
    (let s : State := on (run [(Reg.APC_DDR_CFG, 0x80000000), (Reg.APC_DDR_STATUS, 8)]); (decide (s.chip.bit Reg.APC_DDR_CFG 31 = true) &&
      (decide (s.chip.bit Reg.APC_DDR_STATUS 3 = true))) : Bool) = true ∧
    (let s : State := on (run [(Reg.APC_DDR_CFG, 0x80000000), (Reg.APC_DDR_STATUS, 8)]); (decide (s.chip.bit Reg.APC_DDR_CFG 31 = true) &&
      (decide (s.chip.bit Reg.APC_DDR_STATUS 3 = true))) : Bool) = true ∧
    (let s : State := on (run []); (decide (s.chip.reaches Reg.APC_DDR_CFG = true)) : Bool) = true ∧
    (let s : State := on (run [(Reg.APC_DDR_CFG, 0x80000000), (Reg.APC_DDR_STATUS, 9)]); let w : BitVec 31 := 1;
      (let a := (0x1000000000 + 8 * w.toNat); (decide (s.chip.regionOf a = .dram) &&
      (decide (s.chip.bit Reg.APC_DDR_STATUS 0 = true)))) : Bool) = true := by decide +kernel

/-- Clauses 1, 2, 3, 4, 5, 6, 7, 8, 9, 10, 11. -/
theorem witness_LifeCycleMovesAsTabled :
    (let s : State := on ((run []).onCrp fun x => { x with startStep := 3 }); (decide (s.chip.crp.startStep = 3) &&
      (decide (s.chip.crp.rstLow = false) && (decide ((s.chip.crp.power = .run ∨ s.chip.crp.power = .trim))))) : Bool) = true ∧
    (let s : State := on ((run []).onGrd fun g => { g with kindled := false }); (decide (s.lc.state = .blank) &&
      (decide (s.chip.grd.kindled = false) && (decide (4 ≤ s.chip.crp.startStep) && (decide (s.chip.coreOff = false) &&
      (decide (s.chip.crp.deferred = false)))))) : Bool) = true ∧
    (let s : State := on ((run []).onGrd fun g => { g with kindled := false }); (decide (s.lc.state = .blank) &&
      (decide (s.chip.grd.kindled = false) && (decide (4 ≤ s.chip.crp.startStep) && (decide (s.chip.coreOff = false))))) : Bool) = true ∧
    (let s : State := on ((run []).onGrd fun g => { g with kindled := false, entropyWait := true }); (decide (s.lc.state = .blank) &&
      (decide (s.chip.grd.kindled = false) && (decide (4 ≤ s.chip.crp.startStep) && (decide (s.chip.coreOff = false) &&
      (decide (s.chip.grd.entropyWait = true)))))) : Bool) = true ∧
    (let s : State := on ((run []).onGrd fun g => { g with kindled := false, entropyWait := true }); (decide (s.lc.state = .blank) &&
      (decide (s.chip.grd.kindled = false) && (decide (4 ≤ s.chip.crp.startStep) && (decide (s.chip.coreOff = false) &&
      (decide (s.chip.grd.entropyWait = true)))))) : Bool) = true ∧
    (let s : State := on (run []); let w : Who := sealWho; (decide (w.level = .seal) && (decide (s.chip.kindling s.lc = false) &&
      (decide (s.chip.reaches Reg.GRD_LC_CMD = true)))) : Bool) = true ∧
    (let s : State := on (run []); let w : Who := sealWho; (decide (w.level = .seal) && (decide (s.chip.kindling s.lc = false) &&
      (decide (s.chip.reaches Reg.GRD_LC_CMD = true)))) : Bool) = true ∧
    (let s : State := on (run []); let w : Who := sealWho; (decide (w.level = .seal) && (decide (s.chip.kindling s.lc = false) &&
      (decide (s.chip.reaches Reg.GRD_LC_CMD = true)))) : Bool) = true ∧
    (let s : State := on (run []); let w : Who := sealWho; (decide (w.level = .seal) && (decide (s.chip.kindling s.lc = false) &&
      (decide (s.chip.reaches Reg.GRD_LC_CMD = true)))) : Bool) = true ∧
    (let s : State := on ((run []).onGrd fun g => { g with kindled := false }); (decide (s.chip.kindling s.lc = true) &&
      (decide (s.chip.reaches Reg.GRD_LC_CMD = true))) : Bool) = true ∧
    (let s : State := on (run []); let w : Who := hostWho; (decide (w.level ≠ .seal) && (decide (s.chip.kindling s.lc = false) &&
      (decide (s.chip.reaches Reg.GRD_LC_CMD = true)))) : Bool) = true := by decide +kernel

/-- Clauses 1, 2, 3, 4, 5, 6, 7, 8. -/
theorem witness_DerivationsAndPlanFollow :
    (let s : State := on (run []); let v : Word := 0x80000005; let w : Who := sealWho; (decide (w.level = .seal) &&
      (decide (s.chip.grd.kdf = none) && (decide (v.getLsbD 31 = true) && (decide (s.chip.reaches Reg.GRD_KDF_CMD = true))))) : Bool) = true ∧
    (let s : State := on ((run []).onGrd fun g => { g with root := some (List.replicate 32 7), kdf := some ⟨5, 0x81, [1, 2], false, 0⟩ });
      let v : Word := 0x80000005; let w : Who := sealWho; (decide (w.level = .seal) && (decide (s.chip.grd.kdf ≠ none) &&
      (decide (v.getLsbD 31 = true) && (decide (s.chip.reaches Reg.GRD_KDF_CMD = true))))) : Bool) = true ∧
    (let s : State := on (run []); let v : Word := 0x8005; let w : Who := sealWho; (decide (w.level = .seal) &&
      (decide (v.getLsbD 31 = false) && (decide (s.chip.reaches Reg.GRD_KDF_CMD = true)))) : Bool) = true ∧
    (let s : State := on (run []); let w : Who := hostWho; (decide (w.level ≠ .seal) &&
      (decide (s.chip.reaches Reg.GRD_KDF_CMD = true))) : Bool) = true ∧
    (let s : State := on ((run [(Reg.CIU_CTRL, 1)]).onGrd fun g => { g with root := some (List.replicate 32 7), kdf := some ⟨5, 0x81, [1, 2], false, 0⟩ });
      (match (s.chip.grd.kdf) with
       | some k => ((match (s.chip.grd.root) with
       | some root => ((decide ((s.chip.ciu.inflight.any fun r => decide (r.order < k.since) && s.chip.names r (s.chip.touched k.slot (attrAlg k.attr.toNat))) = false) &&
      (decide (s.chip.bit Reg.CIU_CTRL 0 = true) && (decide (s.chip.kdfLocked k.slot (attrAlg k.attr.toNat) = false) &&
      (let alg := (attrAlg k.attr.toNat); (decide (alg ≠ 0) && (decide (alg ≠ 10) && (decide (alg < 12) &&
      (decide ((alg = 9 → k.slot % 2 = 0))))))))))) | _ => false)) | _ => false) : Bool) = true ∧
    (let s : State := on ((run [(Reg.CIU_CTRL, 1)]).onGrd fun g => { g with root := some (List.replicate 32 7), kdf := some ⟨5, 0x88, [1, 2], true, 0⟩ });
      (match (s.chip.grd.kdf) with
       | some k => ((match (s.chip.grd.root) with
       | some root => ((decide ((s.chip.ciu.inflight.any fun r => decide (r.order < k.since) && s.chip.names r (s.chip.touched k.slot (attrAlg k.attr.toNat))) = false) &&
      (decide (s.chip.bit Reg.CIU_CTRL 0 = true) && (decide (s.chip.kdfLocked k.slot (attrAlg k.attr.toNat) = false) &&
      (decide (k.pub = true) && (let alg := (attrAlg k.attr.toNat);
      (decide ((alg = 8 ∨ alg = 9))))))))) | _ => false)) | _ => false) : Bool) = true ∧
    (let s : State := on (run []); let v : Word := 1; let w : Who := sealWho; (decide (w.level = .seal) && (decide (v.getLsbD 0 = true) &&
      (decide (s.chip.reaches Reg.GRD_AP_CTRL = true)))) : Bool) = true ∧
    (let s : State := on (run []); let w : Who := hostWho; (decide (w.level ≠ .seal) &&
      (decide (s.chip.reaches Reg.GRD_AP_CTRL = true))) : Bool) = true := by decide +kernel

/-- Clauses 1, 2, 3, 4, 5, 6, 7. -/
theorem witness_TamperSourcesAct :
    (let s : State := on (run []); let i : Fin 11 := 10; (decide (s.chip.crp.power ≠ .off) &&
      (decide (((i.val = 8 → s.chip.fl Reg.CIU_ALARM 4 0 ≠ 0) ∧ (i.val = 9 → 8 ≤ s.chip.grd.refusals))) &&
      (decide (s.chip.grd.present.contains i.val = false)))) : Bool) = true ∧
    (let s : State := on ((run []).onCrp fun x => { x with power := .off }); let i : Fin 11 := 10; (decide (s.chip.crp.power = .off) &&
      (decide (((i.val = 8 → s.chip.fl Reg.CIU_ALARM 4 0 ≠ 0) ∧ (i.val = 9 → 8 ≤ s.chip.grd.refusals))) &&
      (decide (s.chip.grd.present.contains i.val = false)))) : Bool) = true ∧
    (let s : State := on ((run []).onGrd fun g => { g with present := [10] }); let i : Fin 11 := 10;
      (decide (s.chip.grd.present.contains i.val = true)) : Bool) = true ∧
    (let s : State := on ((run []).onGrd fun g => { g with present := [8] }); let i : Fin 11 := 8;
      (decide ((i.val = 8 → s.chip.fl Reg.CIU_ALARM 4 0 = 0)) && (decide (s.chip.grd.present.contains i.val = true))) : Bool) = true ∧
    (let s : State := inState .sealed (run [(Reg.GRD_TMP_CFG 10, 3)]); let i : Fin 11 := 10; let v : Word := 0; let w : Who := sealWho;
      (decide (w.level = .seal) && (decide (s.lc.state = .sealed) &&
      (decide ((fld v.toNat 1 0 < s.chip.fl (Reg.GRD_TMP_CFG i) 1 0 ∨ (s.chip.bit (Reg.GRD_TMP_CFG i) 8 = true ∧ v.getLsbD 8 = false) ∨ s.chip.fl (Reg.GRD_TMP_CFG i) 7 4 < fld v.toNat 7 4 ∨ s.chip.bit (Reg.GRD_TMP_CFG i) 3 ≠ v.getLsbD 3)) &&
      (decide (s.chip.reaches (Reg.GRD_TMP_CFG i) = true))))) : Bool) = true ∧
    (let s : State := on (run []); let i : Fin 11 := 0; let w : Who := sealWho; (decide (w.level = .seal) &&
      (decide (s.lc.state ≠ .sealed) && (decide (s.chip.reaches (Reg.GRD_TMP_CFG i) = true)))) : Bool) = true ∧
    (let s : State := on (run []); let i : Fin 11 := 0; let w : Who := hostWho; (decide (w.level ≠ .seal) &&
      (decide (s.chip.reaches (Reg.GRD_TMP_CFG i) = true))) : Bool) = true := by decide +kernel

/-- Clauses 1, 2, 3, 4, 5, 6, 7, 8, 9, 10. -/
theorem witness_DebugPortIsGuarded :
    (let s : State := on (run []); (decide (s.chip.crp.power ≠ .dormant) && (decide (s.chip.crp.power ≠ .off))) : Bool) = true ∧
    (let s : State := on (run []); (decide (s.chip.crp.power ≠ .dormant) && (decide (s.chip.crp.power ≠ .off))) : Bool) = true ∧
    (let s : State := on (run []); (decide (s.chip.crp.power ≠ .dormant) && (decide (s.chip.crp.power ≠ .off))) : Bool) = true ∧
    (let s : State := on (run []); (decide (s.chip.crp.power ≠ .dormant) && (decide (s.chip.crp.power ≠ .off))) : Bool) = true ∧
    (let s : State := on ((run []).onGrd fun g => { g with backoff := true }); (decide (s.chip.grd.backoff = true)) : Bool) = true ∧
    (let s : State := on (run []); let q : Byte := 0; let fresh : Bool := false; (decide (s.chip.dbgPortUp = true) &&
      (decide (s.chip.grd.backoff = false) && (decide (s.chip.grd.refusals ≠ 7) &&
      (decide ((s.chip.grd.challenge = none ∨ fresh = false ∨ s.chip.dbgPermits s.lc q.toNat = false)) &&
      (decide (s.chip.grd.dbg ≠ .opened)))))) : Bool) = true ∧
    (let s : State := inState .sealed ((run []).onGrd fun g => { g with challenge := some [] }); let q : Byte := 1;
      (decide (s.chip.dbgPortUp = true) && (decide (s.chip.grd.backoff = false) && (decide (s.chip.grd.challenge ≠ none) &&
      (decide (s.chip.dbgPermits s.lc q.toNat = true) && (decide (s.lc.state ≠ .blank)))))) : Bool) = true ∧
    (let s : State := on ((run []).onGrd fun g => { g with challenge := some [], kindled := true }); let q : Byte := 2;
      (decide (s.chip.dbgPortUp = true) && (decide (s.chip.grd.backoff = false) && (decide (s.chip.grd.challenge ≠ none) &&
      (decide (s.chip.dbgPermits s.lc q.toNat = true) && (decide (s.lc.state = .blank)))))) : Bool) = true ∧
    (let s : State := on (run []); let v : Word := 0x80000000; let w : Who := sealWho; (decide (w.level = .seal) &&
      (decide (v.getLsbD 31 = true) && (decide (s.chip.reaches Reg.GRD_DBG_GRANT = true)))) : Bool) = true ∧
    (let s : State := on (run []); let w : Who := hostWho; (decide (w.level ≠ .seal) &&
      (decide (s.chip.reaches Reg.GRD_DBG_GRANT = true))) : Bool) = true := by decide +kernel

/-- Clauses 1, 2, 3, 4, 5, 6, 7. -/
theorem witness_UpdatesAreJudged :
    (let s : State := on ((updating 0 (manifest 100 [])).wrMem 0x60040004 [3]); (let a := (s.chip.tableAddr);
      (decide ((s.chip.reach false a 64).done = true) && (let h := (s.chip.rdMem a 64); (decide (tableKind (imgKind h) = true) &&
      (let n := (imageLen (min 1048576 (leAt h 8 4))); (decide (((s.chip.sealRead 15 a 64).2.reach false a n).done = true) &&
      (let b := (s.chip.rdMem a n); (decide (s.chip.reaches Reg.GRD_UPD_CMD = true))))))))) : Bool) = true ∧
    (let s : State := on (updating 0 (manifest 100 [])); (decide ((s.chip.reach false s.chip.tableAddr 64).done = true) &&
      (decide (tableKind (imgKind (s.chip.rdMem s.chip.tableAddr 64)) = false) &&
      (decide (s.chip.reaches Reg.GRD_UPD_CMD = true)))) : Bool) = true ∧
    (let s : State := on (run []); (decide (s.chip.reaches Reg.GRD_UPD_CMD = true)) : Bool) = true ∧
    (let s : State := { on (updating 4 (manifest 100 [])) with leg := { Leg.delivered with secs := 450 } };
      (decide (s.chip.upd.state = 4) && (decide (s.refusals = 0) && (decide (s.chip.clmReady = true) && (match (s.chip.upd.pending) with
       | some m => ((let c := ((s.chip.setFl Reg.GRD_UPD_STATUS 22 16 0).installPending.holdCores); (match (c.readChunks m.chunks) with
       | (some _, _) => ((decide (s.chip.reaches Reg.GRD_UPD_CMD = true))) | _ => false))) | _ => false)))) : Bool) = true ∧
    (let s : State := { on ((updating 4 (manifest 100 [])).wr Reg.CLM_STATUS 0) with leg := { Leg.delivered with secs := 450 } };
      (decide (s.chip.upd.state = 4) && (decide (s.refusals = 0) && (match (s.chip.upd.pending) with
       | some m => ((decide ((s.chip.clmReady = false ∨ ((s.chip.setFl Reg.GRD_UPD_STATUS 22 16 0).installPending.holdCores.readChunks m.chunks).1 = none)) &&
      (decide (s.chip.reaches Reg.GRD_UPD_CMD = true)))) | _ => false))) : Bool) = true ∧
    (let s : State := on (updating 0 (manifest 100 [])); (decide (s.chip.upd.state ≠ 4 ∨ s.refusals ≠ 0) &&
      (decide (s.chip.reaches Reg.GRD_UPD_CMD = true))) : Bool) = true ∧
    (let s : State := on (run []); (decide (s.chip.reaches Reg.GRD_UPD_CMD = true)) : Bool) = true := by decide +kernel

/-- Clauses 1, 2, 3, 4, 5, 6, 7, 8. -/
theorem witness_ImagesTravelTheChain :
    (let s : State := on (updating 0 (manifest 100 [])); let f : List Byte := []; (decide (s.chip.chainTakes f 1 = false)) : Bool) = true ∧
    (let s : State := on (updating 0 (manifest 100 [])); let f : List Byte := chainFrame 1 2 7 16 [1, 2];
      (decide (s.chip.chainTakes f 1 = true) && (let got := (s.chip.arrivedWith f); (decide (imageWhole got = false)))) : Bool) = true ∧
    (let s : State := on (updating 0 (manifest 100 [])); let f : List Byte := chainFrame 1 2 7 16 (List.replicate 192 0);
      (decide (s.chip.chainTakes f 1 = true) && (let got := (s.chip.arrivedWith f); (decide (imageWhole got = true) &&
      (let b := (got.map (·.2)); true)))) : Bool) = true ∧
    (let s : State := on (updating 1 (manifest 100 [])); let f : List Byte := chainFrame 2 4 7 16 [1, 2];
      (decide (chainFcrcGood f = true) && (decide (s.chip.chainAddressed f 2 = false))) : Bool) = true ∧
    (let s : State := on (updating 1 (manifest 100 [])); let f : List Byte := List.replicate 24 1; (decide (chainFcrcGood f = false) &&
      (match (s.chip.upd.pending) with
       | some _ => (true) | _ => false)) : Bool) = true ∧
    (let s : State := on (updating 1 (manifest 100 [])); let f : List Byte := chainFrame 2 2 7 16 [1, 2];
      (decide (s.chip.chainTakes f 2 = true) && (decide (leAt f 8 1 = 16) && (match (s.chip.upd.pending) with
       | some m => ((decide (s.chip.chunkWanted m f = true) && (let got := (s.chip.chunkWith f); (let k := (leAt f 10 2);
      (decide ((got.filter fun e => decide (e.1 < m.chunkLen k)).length ≠ m.chunkLen k)))))) | _ => false))) : Bool) = true ∧
    (let s : State := on (updating 1 (manifest 2 [])); let f : List Byte := chainFrame 2 2 7 16 [1, 2];
      (decide (s.chip.chainTakes f 2 = true) && (decide (leAt f 8 1 = 16) && (match (s.chip.upd.pending) with
       | some m => ((decide (s.chip.chunkWanted m f = true) && (let got := (s.chip.chunkWith f); (let k := (leAt f 10 2);
      (let have' := ((got.filter fun e => decide (e.1 < m.chunkLen k)));
      (decide (have'.length = m.chunkLen k))))))) | _ => false))) : Bool) = true ∧
    (let s : State := on (updating 1 (manifest 100 [])); let f : List Byte := chainFrame 3 4 7 16 [];
      (decide (s.chip.chainTakes f 3 = true) && (match (s.chip.upd.pending) with
       | some _ => (true) | _ => false)) : Bool) = true := by decide +kernel

/-- Clauses 1, 2, 4, 5, 6. -/
theorem witness_CopyAndLoadProceed :
    (let s : State := on ((updating 3 (manifest 100 [])).onUpd fun u => { u with write := some (0, 1) }); (match (s.chip.upd.pending) with
       | some m => ((decide (s.chip.copying m = true) && (match (s.chip.upd.write) with
       | some (_, _) => (true) | _ => false))) | _ => false) : Bool) = true ∧
    (let s : State := on (updating 3 (manifest 100 [])); (match (s.chip.upd.pending) with
       | some _ => ((decide (s.chip.upd.write = none))) | _ => false) : Bool) = true ∧
    (let s : State := on (updating 5 (manifest 100 [])); (decide (s.chip.upd.state = 5) && (match (s.chip.upd.pending) with
       | some _ => (true) | _ => false)) : Bool) = true ∧
    (let s : State := on (updating 3 (manifest 100 [])); (decide (s.chip.upd.state ≠ 5) &&
      (decide ((s.chip.upd.state = 3 ∨ s.chip.clmReady = false)))) : Bool) = true ∧
    (let s : State := on (updating 0 (manifest 100 [])); (decide (s.chip.clmReady = true) && (decide (s.chip.upd.state ≠ 3) &&
      (decide (s.chip.upd.state ≠ 5) && (let a := ((if s.chip.upd.state = 4 then s.chip.installPending else s.chip));
      (match (a.upd.installed) with
       | some m => ((match (a.holdCores.readChunks m.chunks) with
       | (_, _) => (true))) | _ => false))))) : Bool) = true := by decide +kernel

/-- Clauses 1, 2, 4, 5, 6. -/
theorem witness_ClockLossIsRiddenThrough :
    (let s : State := on (run []); (decide (s.chip.crp.xaValid = true) && (decide (s.chip.crp.power ≠ .dormant) &&
      (decide (s.chip.crp.power ≠ .off)))) : Bool) = true ∧
    (let s : State := on ((run []).onCrp fun x => { x with xaValid := false }); (decide (s.chip.crp.xaValid = false) &&
      (decide (s.chip.crp.power ≠ .dormant) && (decide (s.chip.crp.power ≠ .off) && (decide (3 ≤ s.chip.crp.startStep))))) : Bool) = true ∧
    (let s : State := on (run []); (decide (s.chip.crp.xbValid = true) && (decide (s.chip.crp.power ≠ .off))) : Bool) = true ∧
    (let s : State := on ((run []).onCrp fun x => { x with xbValid := false }); (decide (s.chip.crp.xbValid = false) &&
      (decide (s.chip.crp.power ≠ .off))) : Bool) = true ∧
    (let s : State := on (run [(Reg.CRP_PLL_STATUS 4, 2)]); let p : Fin 5 := 4; (decide (s.chip.bit (Reg.CRP_PLL_STATUS p) 1 = true) &&
      (decide ((if p.val = 3 then s.chip.crp.xbValid else s.chip.fl (Reg.CRP_MUX_SEL 9) 1 0 == 1 || s.chip.crp.xaValid) = true))) : Bool) = true := by decide +kernel

/-- Clauses 1, 2, 3, 4, 5, 6, 7, 8, 9. -/
theorem witness_MultiplexersAndTrimFollow :
    (let s : State := on (run []); let m : Fin 10 := 8; let w : Who := sealWho; (decide (m.val ≠ 9) &&
      (decide ((m.val = 8 → w.level = .seal)) && (decide (s.chip.reaches (Reg.CRP_MUX_SEL m) = true)))) : Bool) = true ∧
    (let s : State := on (run []); let m : Fin 10 := 9; let w : Who := sealWho; (decide ((m.val = 9 ∨ (m.val = 8 ∧ w.level ≠ .seal))) &&
      (decide (s.chip.reaches (Reg.CRP_MUX_SEL m) = true))) : Bool) = true ∧
    (let s : State := on ((run []).onCrp fun x => { x with switches := [(3, ⟨0, 1, false, false⟩)] }); let m : Fin 10 := 3;
      (match (s.chip.switchOf m) with
       | some _ => (true) | _ => false) : Bool) = true ∧
    (let s : State := on ((run []).onCrp fun x => { x with switches := [(3, ⟨0, 1, false, false⟩)] }); let m : Fin 10 := 3;
      (decide (3 ≤ m.val) && (decide (m.val ≤ 7) && (match (s.chip.switchOf m) with
       | some x => ((decide (x.forced = false))) | _ => false))) : Bool) = true ∧
    (let s : State := on ((run []).onCrp fun x => { x with switches := [(3, ⟨0, 1, true, false⟩)] }); let m : Fin 10 := 3;
      (match (s.chip.switchOf m) with
       | some x => ((decide (x.forced = true) && (decide (s.chip.crp.rideWaits = false)))) | _ => false) : Bool) = true ∧
    (let s : State := on ((run []).onCrp fun x => { x with switches := [(3, ⟨0, 1, true, false⟩)], rideWaits := true });
      let m : Fin 10 := 3; (match (s.chip.switchOf m) with
       | some x => ((decide (x.forced = true) && (decide (s.chip.crp.rideWaits = true) &&
      (decide ((∀ e ∈ s.chip.crp.switches, e.2.forced = true → e.1 = m.val)))))) | _ => false) : Bool) = true ∧
    (let s : State := on (run [(Reg.CRP_TRIM_CFG, 1)]); (decide (s.chip.bit Reg.CRP_TRIM_CFG 0 = true) &&
      (decide (3 ≤ s.chip.crp.startStep) && (decide (s.chip.crp.trim = none) && (decide (s.chip.crp.power ≠ .dormant) &&
      (decide (s.chip.crp.power ≠ .off)))))) : Bool) = true ∧
    (let s : State := on ((run []).onCrp fun x => { x with trim := some 3, trimRef := 1 }); let e : BitVec 32 := 0;
      (match (s.chip.crp.trim) with
       | some _ => ((decide (s.chip.refUsable s.chip.crp.trimRef = true) && (let x := (nExpected s.chip.crp.trimRef e.toNat);
      (decide (x ≠ 0))))) | _ => false) : Bool) = true ∧
    (let s : State := on ((run []).onCrp fun x => { x with trim := some 3, trimRef := 2 }); let e : BitVec 32 := 0;
      (decide (s.chip.crp.trim ≠ none) &&
      (decide ((s.chip.refUsable s.chip.crp.trimRef = false ∨ nExpected s.chip.crp.trimRef e.toNat = 0)))) : Bool) = true := by decide +kernel

/-- Clauses 1, 3, 4. -/
theorem witness_BlocksGateAndReset :
    (let s : State := on (run []); (decide (s.chip.kilnHolds = []) && (decide (s.chip.reaches Reg.CRP_CLK_GATE = true))) : Bool) = true ∧
    (let s : State := on ((run []).onGrd fun g => { g with present := [8] }); let v : Word := 0x10; (decide (s.chip.kilnHolds = []) &&
      (decide (v.getLsbD 4 = true) && (decide (s.chip.bit Reg.CRP_BLK_RST 4 = false) && (decide (s.chip.grd.present.contains 8 = true) &&
      (decide (s.chip.reaches Reg.CRP_BLK_RST = true)))))) : Bool) = true ∧
    (let s : State := on (run []); let v : Word := 0; (decide (s.chip.kilnHolds = []) &&
      (decide ((s.chip.grd.present.contains 8 = true → s.chip.fl Reg.CIU_ALARM 4 0 ≠ 0 ∧ (v.getLsbD 4 = false ∨ s.chip.bit Reg.CRP_BLK_RST 4 = true))) &&
      (decide (s.chip.reaches Reg.CRP_BLK_RST = true)))) : Bool) = true := by decide +kernel

/-- Clauses 2, 3, 4, 5, 6. -/
theorem witness_ResetCausesAreRecorded :
    (let s : State := on ((run []).onCrp fun x => { x with power := .dormant, startStep := 2 }); (decide (s.chip.crp.startStep = 2) &&
      (decide (s.chip.crp.coreEn = true) && (decide (s.chip.crp.power ≠ .off)))) : Bool) = true ∧
    (let s : State := on (run []); (decide (3 ≤ s.chip.crp.startStep) &&
      (decide ((s.chip.crp.power = .run ∨ s.chip.crp.power = .trim ∨ s.chip.crp.power = .hold)))) : Bool) = true ∧
    (let s : State := on (run []); let v : Word := 1; let w : Who := sealWho; (decide (w.level = .seal) && (decide (v.getLsbD 0 = true) &&
      (decide ((s.chip.crp.power = .run ∨ s.chip.crp.power = .trim ∨ s.chip.crp.power = .hold)) &&
      (decide (s.chip.reaches Reg.CRP_RST_CMD = true))))) : Bool) = true ∧
    (let s : State := on ((run [(Reg.CRP_WDT_CFG, 0x80000000)]).onCrp fun x => { x with wdtFirst := true });
      (decide (s.chip.bit Reg.CRP_WDT_CFG 31 = true) && (decide ((s.chip.crp.power = .run ∨ s.chip.crp.power = .trim)) &&
      (decide (s.chip.crp.wdtFirst = true)))) : Bool) = true ∧
    (let s : State := on ((run []).onCrp fun x => { x with switches := [(3, ⟨0, 1, true, false⟩)] }); let m : Fin 10 := 3;
      (match (s.chip.switchOf m) with
       | some x => ((decide (x.forced = true) && (decide (s.chip.crp.rideWaits = false)))) | _ => false) : Bool) = true := by decide +kernel

/-- Clauses 1, 2, 3, 4, 5, 6, 8, 9, 10, 11, 12. -/
theorem witness_ResetsKeepTheRetainedSet :
    (let s : State := on (run []); (decide (((s.chip.grd.present.all fun i => i < 11) = true))) : Bool) = true ∧
    (let s : State := on ((run []).onCrp fun x => { x with coreEn := false });
      (decide (s.chip.crp.power = .off ∨ s.chip.crp.coreEn = false)) : Bool) = true ∧
    (let s : State := on ((run []).onCrp fun x => { x with startStep := 1 }); (decide (s.chip.crp.power ≠ .off) &&
      (decide (s.chip.crp.coreEn = true) && (decide (s.chip.crp.startStep = 1)))) : Bool) = true ∧
    (let s : State := on ((run []).onCrp fun x => { x with power := .dormant, startStep := 2 }); (decide (s.chip.crp.startStep = 2) &&
      (decide (s.chip.crp.coreEn = true) && (decide (s.chip.crp.power ≠ .off)))) : Bool) = true ∧
    (let s : State := on (run []); (decide (3 ≤ s.chip.crp.startStep) &&
      (decide ((s.chip.crp.power = .run ∨ s.chip.crp.power = .trim ∨ s.chip.crp.power = .hold)))) : Bool) = true ∧
    (let s : State := State.reset; (decide (s.chip.crp.startStep < 3)) : Bool) = true ∧
    (let s : State := on (run []); let v : Word := 1; let w : Who := sealWho; (decide (w.level = .seal) && (decide (v.getLsbD 0 = true) &&
      (decide ((s.chip.crp.power = .run ∨ s.chip.crp.power = .trim ∨ s.chip.crp.power = .hold)) &&
      (decide (s.chip.reaches Reg.CRP_RST_CMD = true))))) : Bool) = true ∧
    (let s : State := on (run []); let v : Word := 0; let w : Who := hostWho; (decide ((w.level ≠ .seal ∨ v.getLsbD 0 = false)) &&
      (decide (s.chip.reaches Reg.CRP_RST_CMD = true))) : Bool) = true ∧
    (let s : State := on (run []); (decide (s.chip.reaches Reg.CRP_WDT_CFG = true)) : Bool) = true ∧
    (let s : State := on (run []); (decide (s.chip.reaches Reg.CRP_WDT_KICK = true)) : Bool) = true ∧
    (let s : State := on ((run [(Reg.CRP_WDT_CFG, 0x80000000)]).onCrp fun x => { x with wdtFirst := true });
      (decide (s.chip.bit Reg.CRP_WDT_CFG 31 = true) && (decide ((s.chip.crp.power = .run ∨ s.chip.crp.power = .trim)))) : Bool) = true := by decide +kernel

/-- Clauses 1, 2, 3, 5, 6, 7, 8, 9, 10, 11, 12, 16, 17. -/
theorem witness_PowerStatesMoveAsTabled :
    (let s : State := on (run []); (decide (s.chip.reaches Reg.CRP_PWR_CMD = true)) : Bool) = true ∧
    (let s : State := on ((run []).onCrp fun x => { x with holdEntry := true }); (decide (s.chip.crp.holdEntry = true) &&
      (decide (s.chip.clm.buf = []))) : Bool) = true ∧
    (let s : State := on (run []); (decide (s.chip.reaches Reg.CRP_PWR_CMD = true)) : Bool) = true ∧
    (let s : State := inState .sealed (run []); let w : Who := sealWho; (decide (w.level = .seal) &&
      (decide (s.chip.kindling s.lc = false) && (decide ((s.chip.crp.switches.any (·.2.forced)) = false) &&
      (decide ((s.chip.crp.power = .run ∨ s.chip.crp.power = .trim ∨ s.chip.crp.power = .hold)) && (decide (s.chip.crp.coreEn = true) &&
      (decide (s.chip.reaches Reg.CRP_PWR_CMD = true))))))) : Bool) = true ∧
    (let s : State := on (run []); let w : Who := hostWho; (decide (w.level ≠ .seal ∨ s.chip.canRide = false) &&
      (decide (s.chip.reaches Reg.CRP_PWR_CMD = true))) : Bool) = true ∧
    (let s : State := on ((run []).onCrp fun x => { x with coreEn := false }); (decide (s.chip.canRide = false)) : Bool) = true ∧
    (let s : State := on (run []); (decide ((s.chip.crp.power = .run ∨ s.chip.crp.power = .trim ∨ s.chip.crp.power = .hold)) &&
      (decide (s.chip.crp.coreEn = true))) : Bool) = true ∧
    (let s : State := on ((run []).onCrp fun x => { x with coreEn := false }); (decide (s.chip.canRide = false)) : Bool) = true ∧
    (let s : State := on (run []); (decide ((s.chip.crp.power = .run ∨ s.chip.crp.power = .trim ∨ s.chip.crp.power = .hold)) &&
      (decide (s.chip.crp.coreEn = true))) : Bool) = true ∧
    (let s : State := on ((run []).onCrp fun x => { x with power := .ride, flushed := true }); (decide (s.chip.crp.power = .ride) &&
      (decide (s.chip.crp.flushed = true) && (decide (s.chip.crp.descent = 0) && (decide (s.chip.crp.startStep = 8))))) : Bool) = true ∧
    (let s : State := on (run []); (decide (s.chip.crp.power ≠ .ride ∨ s.chip.crp.flushed = false ∨ s.chip.crp.descent ≠ 0)) : Bool) = true ∧
    (let s : State := on (run []); (decide (s.chip.crp.power ≠ .dormant) && (decide (s.chip.crp.power ≠ .off))) : Bool) = true ∧
    (let s : State := on (run []); (decide (s.chip.crp.power ≠ .dormant) && (decide (s.chip.crp.power ≠ .off) &&
      (decide (3 ≤ s.chip.crp.startStep)))) : Bool) = true := by decide +kernel

/-- Clauses 1, 2, 3, 4, 5, 6, 7. -/
theorem witness_KilnRunsAndReports :
    (let s : State := on (run []); let v : Word := 0xA0000000; (decide (fld v.toNat 30 29 = 1) && (decide (v.getLsbD 31 = true) &&
      (decide (s.chip.kiln.run = none) && (decide (s.chip.reaches Reg.CRP_KLN_CTRL = true))))) : Bool) = true ∧
    (let s : State := on (run []); let v : Word := 0xC0C00000; (decide (fld v.toNat 30 29 = 2) && (decide (v.getLsbD 31 = true) &&
      (decide (s.chip.kiln.run = none) && (decide (s.chip.reaches Reg.CRP_KLN_CTRL = true))))) : Bool) = true ∧
    (let s : State := on ((run []).onKiln fun k => { k with run := some ⟨false, [12], false, [], 1, 3, [], none⟩ }); let n : BitVec 20 := 0;
      let mv : BitVec 10 := 0; (match (s.chip.kiln.run) with
       | some r => ((decide (r.checked = false) && (decide (r.stop = none) &&
      (decide ((n.toNat < 396000 ∨ 404000 < n.toNat ∨ s.chip.crp.xaValid = false ∨ mv.toNat < 780 ∨ 820 < mv.toNat)))))) | _ => false) : Bool) = true ∧
    (let s : State := on ((run []).onKiln fun k => { k with run := some ⟨false, [12], false, [], 1, 3, [], none⟩ });
      let n : BitVec 20 := 400000; let mv : BitVec 10 := 800; (match (s.chip.kiln.run) with
       | some r => ((decide (r.checked = false) && (decide (r.stop = none) && (decide (396000 ≤ n.toNat) && (decide (n.toNat ≤ 404000) &&
      (decide (s.chip.crp.xaValid = true) && (decide (780 ≤ mv.toNat) && (decide (mv.toNat ≤ 820) && (decide (s.chip.ciu.inflight = []) &&
      (decide (s.chip.ciu.misses = []))))))))))) | _ => false) : Bool) = true ∧
    (let s : State := on ((run []).onKiln fun k => { k with run := some ⟨false, [12], true, [], 1, 3, [], none⟩ }); let p : Fin 13 := 12;
      (match (s.chip.kiln.run) with
       | some r => ((decide (r.checked = true) && (decide (r.stop = none) && (decide (r.parts.contains p.val = true) &&
      (let k := (Tab.get (fun _ => 0) r.done p.val); (decide (k < r.count))))))) | _ => false) : Bool) = true ∧
    (let s : State := on ((run []).onKiln fun k => { k with run := some ⟨false, [12], true, [], 1, 3, [], none⟩ });
      (match (s.chip.kiln.run) with
       | some r => ((decide (r.checked = true))) | _ => false) : Bool) = true ∧
    (let s : State := on ((run []).onKiln fun k => { k with run := some ⟨false, [12], true, [(12, 3)], 1, 3, [], none⟩ });
      (match (s.chip.kiln.run) with
       | some r => ((decide ((r.checked = true ∨ r.stop ≠ none)) && (decide (r.over = true) && (decide (s.chip.kiln.rstDue = []) &&
      (decide (s.chip.kiln.gateDue = []) && (decide (s.chip.tamperLine = s.chip.lineWanted s.lc))))))) | _ => false) : Bool) = true := by decide +kernel

/-- Clauses 1, 2, 3, 4, 6, 7, 9, 10, 11. -/
theorem witness_PairKeepsLockStep :
    (let s : State := on (paired 1 []); (decide (s.chip.pairRuns = true)) : Bool) = true ∧
    (let s : State := on (paired 1 []); let f : List Byte := [1, 2, 3]; (decide (s.chip.pairRuns = true) &&
      (decide (s.chip.pair.aligned = true) && (decide (pairFrameGood f = false)))) : Bool) = true ∧
    (let s : State := on (paired 1 []); let f : List Byte := pairFrame 1 2 (leBytes 2 1 ++ leBytes 2 0 ++ leBytes 8 0);
      (decide ((s.chip.pairRuns = true ∧ s.chip.pair.aligned = true ∧ pairFrameGood f = true ∧ s.chip.outranked f = false ∧ leAt f 1 1 ≠ 4 ∧ (s.chip.pairState = 4 → leAt f 1 1 ≠ 2))) &&
      (decide (leAt f 0 1 = 1) && (decide ((s.chip.pairState ≠ 2 ∨ leAt f 16 2 &&& s.chip.fl Reg.BKB_PAIR_HMASK 15 0 = 0))))) : Bool) = true ∧
    (let s : State := on (paired 2 []); let f : List Byte := pairFrame 2 1 (leBytes 2 24 ++ List.replicate 22 0);
      (decide ((s.chip.pairRuns = true ∧ s.chip.pair.aligned = true ∧ pairFrameGood f = true ∧ s.chip.outranked f = false ∧ leAt f 1 1 ≠ 4 ∧ (s.chip.pairState = 4 → leAt f 1 1 ≠ 2))) &&
      (decide (leAt f 0 1 = 2) && (decide (s.chip.pairState = 2) && (decide (leAt f 4 4 = s.chip.pair.rxSeq + 1) &&
      (decide (s.chip.pair.rxPart = []) && (decide (leAt f 2 2 = 24) && (decide (leAt f 16 2 = 24)))))))) : Bool) = true ∧
    (let s : State := on (paired 2 []); let f : List Byte := pairFrame 4 1 [];
      (decide ((s.chip.pairRuns = true ∧ s.chip.pair.aligned = true ∧ pairFrameGood f = true ∧ s.chip.outranked f = false ∧ leAt f 1 1 ≠ 4 ∧ (s.chip.pairState = 4 → leAt f 1 1 ≠ 2))) &&
      (decide (leAt f 0 1 = 4) && (decide (s.chip.pairState = 2)))) : Bool) = true ∧
    (let s : State := on (paired 1 []); (decide (s.chip.pairRuns = true)) : Bool) = true ∧
    (let s : State := on (paired 1 []); (decide (s.chip.pairRuns = true) && (decide (s.chip.pairState = 1))) : Bool) = true ∧
    (let s : State := on ((paired 1 []).onPair fun p => { p with streaming := true, replay := [⟨1, []⟩] });
      (decide (s.chip.pairRuns = true) && (decide (s.chip.pairState = 1) && (decide (s.chip.pair.streaming = true) &&
      (decide (s.chip.pair.replay ≠ []))))) : Bool) = true ∧
    (let s : State := on (paired 1 []); (decide (s.chip.reaches Reg.BKB_PAIR_CMD = true)) : Bool) = true := by decide +kernel

/-- Clauses 1, 2, 3, 4, 5, 6, 7, 8, 9, 10, 11. -/
theorem witness_PairFailsOver :
    (let s : State := on (paired 2 []); let f : List Byte := pairFrame 1 1 (leBytes 2 1 ++ leBytes 2 0 ++ leBytes 8 0);
      (decide ((s.chip.pairRuns = true ∧ s.chip.pair.aligned = true ∧ pairFrameGood f = true ∧ s.chip.outranked f = false ∧ leAt f 1 1 ≠ 4 ∧ (s.chip.pairState = 4 → leAt f 1 1 ≠ 2))) &&
      (decide (leAt f 0 1 = 1) && (decide (s.chip.pairState = 2) && (decide (s.chip.bit Reg.BKB_PAIR_CFG 25 = true) &&
      (decide (leAt f 16 2 &&& s.chip.fl Reg.BKB_PAIR_HMASK 15 0 ≠ 0) &&
      (decide ((s.chip.bit Reg.BKB_PAIR_STATUS 10 = false ∨ s.chip.bit Reg.BKB_PAIR_CFG 27 = true)))))))) : Bool) = true ∧
    (let s : State := on (paired 2 []); (decide (s.chip.pairRuns = true)) : Bool) = true ∧
    (let s : State := on (paired 2 []); (decide (s.chip.pairState = 2) &&
      (decide ((s.chip.bit Reg.BKB_PAIR_STATUS 10 = false ∨ s.chip.bit Reg.BKB_PAIR_CFG 27 = true)) &&
      (decide (s.chip.reaches Reg.BKB_PAIR_CMD = true)))) : Bool) = true ∧
    (let s : State := on (paired 1 []); (decide (s.chip.pairState ≠ 2) && (decide (s.chip.reaches Reg.BKB_PAIR_CMD = true))) : Bool) = true ∧
    (let s : State := on (paired 1 []); let f : List Byte := pairFrame 3 2 []; (decide (s.chip.pairRuns = true) &&
      (decide (s.chip.pair.aligned = true) && (decide (pairFrameGood f = true) && (decide (leAt f 0 1 = 3) &&
      (decide (s.chip.primarySide = true)))))) : Bool) = true ∧
    (let s : State := on (paired 1 []); (decide (s.chip.primarySide = true) &&
      (decide (s.chip.reaches Reg.BKB_PAIR_CMD = true))) : Bool) = true ∧
    (let s : State := on (paired 2 []); (decide (s.chip.primarySide = false) &&
      (decide (s.chip.reaches Reg.BKB_PAIR_CMD = true))) : Bool) = true ∧
    (let s : State := on (paired 1 []); (decide (s.chip.pairState ≠ 4 ∨ s.chip.pairUp = true)) : Bool) = true ∧
    (let s : State := on ((paired 4 []).onPair fun p => { p with alive := false }); (decide (s.chip.pairState = 4) &&
      (decide (s.chip.pairUp = false))) : Bool) = true ∧
    (let s : State := on ((paired 5 []).onPair fun p => { p with saved := some ⟨false, 2, [false, false], [1, 1]⟩ });
      (decide (s.chip.pairState = 5) && (match (s.chip.pair.saved) with
       | some x => ((decide (x.lineRole < 4))) | _ => false)) : Bool) = true ∧
    (let s : State := on (run []); (decide (s.chip.reaches Reg.BKB_PAIR_CFG = true)) : Bool) = true := by decide +kernel

/-- Clauses 1, 2, 3, 5, 7, 8. -/
theorem witness_EmberRecordsAreWritten :
    (let s : State := on ((run []).onEmber fun e => { e with intake := [⟨0xA01, 1, 0, 0, 1, 0, [1, 2, 3], false⟩] });
      (match (s.chip.ember.intake) with
       | r :: _ => ((decide (s.chip.ember.snapDue = []) && (decide (s.chip.crp.power ≠ .off) && (decide (r.payload.length ≤ 4080) &&
      (decide (s.chip.ember.head % 16 = 0) && (decide (lastStart ≤ s.chip.ember.head) &&
      (decide (s.chip.ember.head < lastEnd)))))))) | _ => false) : Bool) = true ∧
    (let s : State := on ((run []).onEmber fun e => { e with snapDue := [⟨0xA01, 1, 0, 0, 1, 0, [1, 2, 3], false⟩] });
      (decide (s.chip.ember.snapDue ≠ [] ∨ s.chip.ember.intake = [] ∨ s.chip.crp.power = .off)) : Bool) = true ∧
    (let s : State := on ((run []).onEmber fun e => { e with snapDue := [⟨0xA01, 1, 0, 0, 1, 0, [1, 2, 3], false⟩] });
      (match (s.chip.ember.snapDue) with
       | _ :: _ => ((decide (s.chip.crp.power ≠ .off) && (decide ((∀ x ∈ s.chip.ember.snaps, x.1 < 8))))) | _ => false) : Bool) = true ∧
    (let s : State := on (run []); (decide (s.chip.crp.power ≠ .off) && (decide (s.chip.ember.intake.length < 28))) : Bool) = true ∧
    (let s : State := on (run []); let off : BitVec 12 := 0xFFC;
      (decide (s.chip.reaches (Reg.GRD_EMB_STAGE (off.toNat / 4)) = true)) : Bool) = true ∧
    (let s : State := on (run []); let v : Word := 0x80004C01; let w : Who := sealWho; (decide (w.level ≠ .host) &&
      (decide (bitOf v.toNat 31 = true) && (decide (s.chip.ember.stageOwner = none ∨ s.chip.ember.stageOwner = some w.level) &&
      (decide (s.chip.reaches Reg.GRD_EMB_WCMD = true))))) : Bool) = true := by decide +kernel

/-- Clauses 1, 2, 3, 4, 5, 6. -/
theorem witness_EmberIsReadAndCleared :
    (let s : State := on (run []); (decide (s.chip.reaches Reg.GRD_EMB_CMD = true)) : Bool) = true ∧
    (let s : State := on (run []); (decide (s.chip.reaches Reg.GRD_EMB_CMD = true)) : Bool) = true ∧
    (let s : State := on (run []); (decide (s.chip.reaches Reg.GRD_EMB_CMD = true)) : Bool) = true ∧
    (let s : State := on (run []); (decide (s.chip.reaches Reg.GRD_EMB_CMD = true)) : Bool) = true ∧
    (let s : State := on (run []); let v : Word := 0; (decide (s.chip.reaches Reg.GRD_EMB_CURSOR = true)) : Bool) = true ∧
    (let s : State := on (run []); (decide (s.chip.reaches Reg.GRD_EMB_CMD = true)) : Bool) = true := by decide +kernel

/-- Clause 2. -/
theorem witness_StepTakesTheFrontCommand :
    (let s : State := State.reset; (decide (s.pending = [])) : Bool) = true := by decide +kernel

/-- Clauses 5, 6. -/
theorem witness_BoundariesHold :
    (let w : Who := hostWho; (decide (w.level ≠ .seal)) : Bool) = true ∧
    (let s : State := on (run []); let w : Who := hostWho; (decide (s.chip.levelOf w ≠ some .seal)) : Bool) = true := by decide +kernel

end Sys2Proof.Tests
end

section
/-!
The energy snapshot (01 R34): a shadow is two 32-bit registers, so it shows the low 64 bits of its counter.
-/
namespace Sys2Proof.Machine

/-! ### 64-bit values in two registers -/

/-- A write of two registers leaves a value held in two others. -/
theorem Chip.rd64_wr64_other (c : Chip) {lo hi lo' hi' : Nat} (v : Nat) (h : lo' ≠ lo ∧ lo' ≠ hi ∧ hi' ≠ lo ∧ hi' ≠ hi) :
    (c.wr64 lo hi v).rd64 lo' hi' = c.rd64 lo' hi' := by
  simp [Chip.rd64, Chip.wr64, Chip.rd_wr, h]

/-- A write of one bit leaves a value held in two other registers. -/
theorem Chip.rd64_setBit_other (c : Chip) {r lo hi : Nat} (b : Nat) (on : Bool) (h : lo ≠ r ∧ hi ≠ r) :
    (c.setBit r b on).rd64 lo hi = c.rd64 lo hi := by
  simp [Chip.rd64, Chip.rd_setBit_other, h]

/-- Two registers keep the low 64 bits of what they are given. -/
theorem Chip.rd64_wr64_same (c : Chip) {lo hi : Nat} (v : Nat) (h : lo ≠ hi) :
    (c.wr64 lo hi v).rd64 lo hi = v % 2 ^ 64 := by
  rw [Chip.rd64, Chip.wr64, Chip.rd_wr_other _ _ h, Chip.rd_wr_same, Chip.rd_wr_same]
  omega

/-! ### The snapshot -/

/-- The fold by which a snapshot fills the shadows `l` changes the register file alone. -/
theorem Chip.crp_foldl_shadow (l all : List Nat) (c : Chip) :
    (l.foldl (fun c n => c.wr64 (Reg.CRP_NRG_CNT n) (Reg.CRP_NRG_CNT_HI n) (all.getD n 0)) c).crp = c.crp := by
  induction l generalizing c with
  | nil => rfl
  | cons m l ih => rw [List.foldl_cons, ih, Chip.crp_wr64]

/-- A shadow that is not among those filled stays. -/
theorem Chip.rd64_foldl_shadow_other (l all : List Nat) (c : Chip) {n : Nat} (h : n ∉ l) :
    (l.foldl (fun c n => c.wr64 (Reg.CRP_NRG_CNT n) (Reg.CRP_NRG_CNT_HI n) (all.getD n 0)) c).rd64
      (Reg.CRP_NRG_CNT n) (Reg.CRP_NRG_CNT_HI n) = c.rd64 (Reg.CRP_NRG_CNT n) (Reg.CRP_NRG_CNT_HI n) := by
  induction l generalizing c with
  | nil => rfl
  | cons m l ih =>
    obtain ⟨hm, hl⟩ : n ≠ m ∧ n ∉ l := by simpa using h
    rw [List.foldl_cons, ih _ hl]
    exact Chip.rd64_wr64_other _ _ (by simp only [Reg.CRP_NRG_CNT, Reg.CRP_NRG_CNT_HI]; omega)

/-- A shadow among those filled shows the low 64 bits of its counter. -/
theorem Chip.rd64_foldl_shadow (l all : List Nat) (c : Chip) {n : Nat} (h : n ∈ l) :
    (l.foldl (fun c n => c.wr64 (Reg.CRP_NRG_CNT n) (Reg.CRP_NRG_CNT_HI n) (all.getD n 0)) c).rd64
      (Reg.CRP_NRG_CNT n) (Reg.CRP_NRG_CNT_HI n) = all.getD n 0 % 2 ^ 64 := by
  induction l generalizing c with
  | nil => cases h
  | cons m l ih =>
    rw [List.foldl_cons]
    by_cases hl : n ∈ l
    · exact ih _ hl
    · obtain rfl : n = m := (List.mem_cons.1 h).resolve_right hl
      rw [Chip.rd64_foldl_shadow_other l all _ hl]
      exact Chip.rd64_wr64_same _ _ (by simp [Reg.CRP_NRG_CNT, Reg.CRP_NRG_CNT_HI])

/-- With ENABLE at 0 no counter moves (01 Table 11). -/
theorem Chip.energyDraw_disabled (c : Chip) (h : c.bit Reg.CRP_NRG_CTRL 8 = false) : c.energyDraw = c := by
  simp [Chip.energyDraw, h]

/-- A snapshot moves the counters by what has been drawn, and by nothing else. -/
theorem Chip.energy_energySnapshot (c : Chip) (h : c.crp.snapping = false) :
    c.energySnapshot.crp.energy = c.energyDraw.crp.energy := by
  rw [Chip.energySnapshot, h, if_neg Bool.false_ne_true, Chip.crp_setBit, Chip.crp_wr64, Chip.crp_foldl_shadow, Chip.crp_onCrp]

/-- After a snapshot the shadow of a subsystem shows the low 64 bits of its counter (01 R33, R34). -/
theorem Chip.rd64_energySnapshot (c : Chip) (h : c.crp.snapping = false) (n : Fin 12) :
    c.energySnapshot.rd64 (Reg.CRP_NRG_CNT n) (Reg.CRP_NRG_CNT_HI n) = c.energySnapshot.crp.energy.getD n 0 % 2 ^ 64 := by
  rw [c.energy_energySnapshot h, Chip.energySnapshot, h, if_neg Bool.false_ne_true,
    Chip.rd64_setBit_other _ _ _ (by simp only [Reg.CRP_NRG_CNT, Reg.CRP_NRG_CNT_HI, Reg.CRP_NRG_CTRL]; omega),
    Chip.rd64_wr64_other _ _ (by simp only [Reg.CRP_NRG_CNT, Reg.CRP_NRG_CNT_HI, Reg.CRP_NRG_RDG, Reg.CRP_NRG_RDG_HI]; omega)]
  exact Chip.rd64_foldl_shadow (List.range 12) _ _ (List.mem_range.2 n.isLt)

/-- A snapshot whose register is reached runs. -/
theorem exec_energySnapshot_reached (s : State) (h : s.chip.reaches Reg.CRP_NRG_CTRL = true) :
    exec .energySnapshot s = .next { s with chip := s.chip.energySnapshot } := by
  show execEnergySnapshot s = _
  rw [execEnergySnapshot, State.onChip, Chip.onReg_reached _ _ _ _ h]

/-- Refutes O1, by its clause on the energy snapshot. The clause asks of every state that each shadow equals its counter,
and only for the count of readings does it suppose that the counter fits 64 bits. With ENABLE at 0 the snapshot does not
bring a subsystem's counter below 2 ^ 64 either: in the state after reset with counting off and counter 0 at 2 ^ 64, a value
to which no command counts, the shadow shows 0. -/
theorem not_busAccessesAreJudged : ¬ Obligations.BusAccessesAreJudged := by
  unfold Obligations.BusAccessesAreJudged
  rintro ⟨-, -, -, -, -, -, -, -, snapshot, -⟩
  let c : Chip := (State.reset.chip.wr Reg.CRP_NRG_CTRL 0).onCrp fun x => { x with energy := [2 ^ 64] }
  have reached : c.reaches Reg.CRP_NRG_CTRL = true := by decide +kernel
  have idle : c.crp.snapping = false := rfl
  have off : c.bit Reg.CRP_NRG_CTRL 8 = false := by decide +kernel
  have full : c.energySnapshot.crp.energy = [2 ^ 64] := by
    rw [c.energy_energySnapshot idle, c.energyDraw_disabled off]; rfl
  obtain ⟨t, ran, shown⟩ := snapshot { State.reset with chip := c } reached
  obtain rfl := Host.Outcome.next.inj ((exec_energySnapshot_reached { State.reset with chip := c } reached).symm.trans ran)
  rw [if_neg (by simp [idle])] at shown
  obtain ⟨-, -, shadows, -⟩ := shown
  have wrong := shadows 0
  rw [c.rd64_energySnapshot idle, full] at wrong
  exact absurd wrong (by decide)

end Sys2Proof.Machine
end

section
/-!
A refused transaction (01 R27; 12 R376): what counting, latching and recording a refusal changes, and what it leaves.
-/
namespace Sys2Proof.Machine

variable (c : Chip)

/-! ### What a register reads after the shared operations on it -/

theorem Chip.rdW_wr64_other {lo hi r : Nat} (v : Nat) (h : r ≠ lo ∧ r ≠ hi) : (c.wr64 lo hi v).rdW r = c.rdW r := by
  simp [Chip.wr64, Chip.rdW_wr, h]

/-- An interrupt pends in its own word of PIC_PEND alone. -/
theorem Chip.rdW_irq_other {src r : Nat} (h : r ≠ Reg.PIC_PEND (src / 32)) : (c.irq src).rdW r = c.rdW r := by
  unfold Chip.irq Chip.when
  split
  · exact (c.rdW_wr _ _ r).trans (if_neg h)
  · rfl

theorem Chip.rdW_raise_other {reg b r : Nat} (h : r ≠ reg ∧ r ≠ Reg.PIC_PEND ((144 + reg / 0x100000) / 32)) :
    (c.raise reg b).rdW r = c.rdW r := by
  rw [Chip.raise, Chip.rdW_irq_other _ h.2, Chip.setBit, Chip.rdW_wr, if_neg h.1]

/-- A status event sets its bit of a register that is not the word of PIC_PEND in which its summary pends. -/
theorem Chip.bit_raise_same {reg b : Nat} (hb : b < 32) (h : reg ≠ Reg.PIC_PEND ((144 + reg / 0x100000) / 32)) :
    (c.raise reg b).bit reg b = true := by
  rw [Chip.bit, Chip.rd, Chip.raise, Chip.rdW_irq_other _ h]
  exact c.bit_setBit_same reg b true hb

theorem Chip.rd_bump_same (r : Nat) : (c.bump r).rd r = satInc (c.rd r) := by
  rw [Chip.bump, Chip.rd_wr_same, satInc]
  omega

theorem Chip.rdW_answer (a : Resp) (r : Nat) : (c.answer a).rdW r = c.rdW r := rfl

theorem Chip.emberRoom_answer (a : Resp) (typ : Nat) (snap : Bool) : (c.answer a).emberRoom typ snap = c.emberRoom typ snap := rfl

/-! ### Operations that change the register file alone -/

/-- `d` is `c` but for the register file. -/
def Chip.RegsOnly (c d : Chip) : Prop := ∃ rs, d = { c with regs := rs }

theorem Chip.RegsOnly.trans {c d e : Chip} (h : c.RegsOnly d) (k : d.RegsOnly e) : c.RegsOnly e := by
  obtain ⟨_, rfl⟩ := h
  obtain ⟨_, rfl⟩ := k
  exact ⟨_, rfl⟩

theorem Chip.RegsOnly.ember {c d : Chip} (h : c.RegsOnly d) : d.ember = c.ember := by
  obtain ⟨_, rfl⟩ := h
  rfl

theorem Chip.regsOnly_wr (r v : Nat) : c.RegsOnly (c.wr r v) := ⟨_, rfl⟩

theorem Chip.regsOnly_wr64 (lo hi v : Nat) : c.RegsOnly (c.wr64 lo hi v) := (c.regsOnly_wr _ _).trans (Chip.regsOnly_wr _ _ _)

theorem Chip.regsOnly_when (b : Bool) {f : Chip → Chip} (h : ∀ c : Chip, c.RegsOnly (f c)) : c.RegsOnly (c.when b f) := by
  cases b
  · exact ⟨_, rfl⟩
  · exact h c

theorem Chip.regsOnly_raise (reg b : Nat) : c.RegsOnly (c.raise reg b) :=
  (c.regsOnly_wr _ _).trans (Chip.regsOnly_when _ _ fun c => c.regsOnly_wr _ _)

/-! ### What a record changes (16 R461, R462) -/

/-- The frame of a record: register file and log. -/
theorem Chip.record_frame (typ : Nat) (p : List Byte) :
    ∃ rs e, c.record typ p = { c with regs := rs, ember := e } := by
  unfold Chip.record Chip.emberPost
  split
  · exact ⟨_, _, rfl⟩
  · obtain ⟨_, noted⟩ := (c.regsOnly_wr _ _).trans (Chip.regsOnly_raise (c.bump Reg.GRD_EMB_DROP) Reg.GRD_EMB_STATUS 1)
    unfold Chip.emberDrop
    rw [noted]
    exact ⟨_, _, rfl⟩

/-- A record, kept or dropped, leaves every register but those of a drop. -/
theorem Chip.rdW_record_other {r : Nat} (typ : Nat) (p : List Byte) (h : r ∉ recordRegs) :
    (c.record typ p).rdW r = c.rdW r := by
  simp only [recordRegs, List.mem_cons, List.not_mem_nil, or_false, not_or] at h
  obtain ⟨notDrop, notStatus, notPend⟩ := h
  unfold Chip.record Chip.emberPost
  split
  · rfl
  · exact ((c.bump Reg.GRD_EMB_DROP).rdW_raise_other ⟨notStatus, notPend⟩).trans ((c.rdW_wr _ _ r).trans (if_neg notDrop))

/-- A record for which there is room joins the intake. -/
theorem Chip.intake_record (typ : Nat) (p : List Byte) (room : c.emberRoom typ false = true) :
    ((c.record typ p).ember.intake.map fun x => (x.typ, x.payload)) =
      (c.ember.intake.map fun x => (x.typ, x.payload)) ++ [(typ, p)] := by
  simp [Chip.record, Chip.emberPost, room]

/-! ### What a refusal changes (12 R376) -/

/-- The chip once a refusal is counted and, where none stands, latched; its record comes after. -/
def Chip.refusalLatched (ini level : Nat) (wr : Bool) (addr : Nat) : Chip :=
  ((c.bump Reg.GRD_AP_VIOL).raise Reg.GRD_STATUS 6).when (!((c.bump Reg.GRD_AP_VIOL).raise Reg.GRD_STATUS 6).bit Reg.GRD_AP_VINFO 31)
    fun c => (c.wr Reg.GRD_AP_VINFO (2 ^ 31 + 32 * b2n wr + 16 * b2n (level == 2) + ini)).wr64
      Reg.GRD_AP_VADDR_LO Reg.GRD_AP_VADDR_HI addr

/-- The registers that counting and latching a refusal write. -/
def refusalRegs : List Nat :=
  [Reg.GRD_AP_VIOL, Reg.GRD_STATUS, Reg.PIC_PEND 4, Reg.GRD_AP_VINFO, Reg.GRD_AP_VADDR_LO, Reg.GRD_AP_VADDR_HI]

/-- A refusal is counted and latched, and then recorded. -/
theorem Chip.noteRefusal_eq (ini level : Nat) (wr : Bool) (addr : Nat) : c.noteRefusal ini level wr addr =
    (c.refusalLatched ini level wr addr).record 0xA05
      (leBytes 1 ini ++ leBytes 1 level ++ leBytes 1 (b2n wr) ++ leBytes 6 addr) := rfl

theorem Chip.regsOnly_refusalLatched (ini level : Nat) (wr : Bool) (addr : Nat) :
    c.RegsOnly (c.refusalLatched ini level wr addr) :=
  ((c.regsOnly_wr _ _).trans (Chip.regsOnly_raise _ _ _)).trans
    (Chip.regsOnly_when _ _ fun c => (c.regsOnly_wr _ _).trans (Chip.regsOnly_wr64 _ _ _ _))

/-- The latch of a refusal leaves every register that is not its own. -/
theorem Chip.rdW_refusalLatched_latch {r : Nat} (ini level : Nat) (wr : Bool) (addr : Nat)
    (h : r ≠ Reg.GRD_AP_VINFO ∧ r ≠ Reg.GRD_AP_VADDR_LO ∧ r ≠ Reg.GRD_AP_VADDR_HI) :
    (c.refusalLatched ini level wr addr).rdW r = ((c.bump Reg.GRD_AP_VIOL).raise Reg.GRD_STATUS 6).rdW r := by
  unfold Chip.refusalLatched Chip.when
  split
  · rw [Chip.rdW_wr64_other _ _ h.2, Chip.rdW_wr, if_neg h.1]
  · rfl

theorem Chip.rdW_refusalLatched_other {r : Nat} (ini level : Nat) (wr : Bool) (addr : Nat) (h : r ∉ refusalRegs) :
    (c.refusalLatched ini level wr addr).rdW r = c.rdW r := by
  simp only [refusalRegs, List.mem_cons, List.not_mem_nil, or_false, not_or] at h
  obtain ⟨notCount, notStatus, notPend, notLatch⟩ := h
  rw [c.rdW_refusalLatched_latch _ _ _ _ notLatch, Chip.rdW_raise_other _ ⟨notStatus, notPend⟩, Chip.bump, Chip.rdW_wr,
    if_neg notCount]

/-- A refusal is counted once. -/
theorem Chip.rd_viol_noteRefusal (ini level : Nat) (wr : Bool) (addr : Nat) :
    (c.noteRefusal ini level wr addr).rd Reg.GRD_AP_VIOL = satInc (c.rd Reg.GRD_AP_VIOL) := by
  rw [Chip.noteRefusal_eq, Chip.rd, Chip.rdW_record_other _ _ _ (by decide), Chip.rdW_refusalLatched_latch _ _ _ _ _ (by decide),
    Chip.rdW_raise_other _ (by decide)]
  exact c.rd_bump_same _

/-- A refusal shows in GRD_STATUS. -/
theorem Chip.bit_status_noteRefusal (ini level : Nat) (wr : Bool) (addr : Nat) :
    (c.noteRefusal ini level wr addr).bit Reg.GRD_STATUS 6 = true := by
  rw [Chip.noteRefusal_eq, Chip.bit, Chip.rd, Chip.rdW_record_other _ _ _ (by decide),
    Chip.rdW_refusalLatched_latch _ _ _ _ _ (by decide)]
  exact Chip.bit_raise_same _ (by decide) (by decide)

/-- The frame of a refusal: register file and log. -/
theorem Chip.noteRefusal_frame (ini level : Nat) (wr : Bool) (addr : Nat) :
    ∃ rs e, c.noteRefusal ini level wr addr = { c with regs := rs, ember := e } := by
  obtain ⟨_, latched⟩ := c.regsOnly_refusalLatched ini level wr addr
  rw [Chip.noteRefusal_eq, latched]
  exact Chip.record_frame _ _ _

/-- A refusal leaves every register but its own and those of a drop. -/
theorem Chip.rdW_noteRefusal_other {r : Nat} (ini level : Nat) (wr : Bool) (addr : Nat) (h : r ∉ recordRegs ++ refusalRegs) :
    (c.noteRefusal ini level wr addr).rdW r = c.rdW r := by
  obtain ⟨notRecord, notRefusal⟩ : r ∉ recordRegs ∧ r ∉ refusalRegs := by simpa using h
  rw [Chip.noteRefusal_eq, Chip.rdW_record_other _ _ _ notRecord, c.rdW_refusalLatched_other _ _ _ _ notRefusal]

/-- A refusal for whose record there is room is recorded. -/
theorem Chip.intake_noteRefusal (ini level : Nat) (wr : Bool) (addr : Nat) (room : c.emberRoom 0xA05 false = true) :
    ((c.noteRefusal ini level wr addr).ember.intake.map fun x => (x.typ, x.payload)) =
      (c.ember.intake.map fun x => (x.typ, x.payload)) ++
        [(0xA05, leBytes 1 ini ++ leBytes 1 level ++ leBytes 1 (b2n wr) ++ leBytes 6 addr)] := by
  have same : (c.refusalLatched ini level wr addr).ember = c.ember := (c.regsOnly_refusalLatched ini level wr addr).ember
  rw [Chip.noteRefusal_eq, Chip.intake_record _ _ _ (by rw [Chip.emberRoom, same]; exact room), same]

/-! ### The transaction -/

/-- How a transaction that has no effect is answered: a write as written, a read with zeros (01 R27). -/
def quietAnswer (wr : Bool) (len : Nat) : Resp := if wr then .written else .data (List.replicate len 0)

theorem quietAnswer_ne_busError (wr : Bool) (len : Nat) : quietAnswer wr len ≠ .busError := by
  cases wr <;> simp [quietAnswer]

/-- Only a bus error is a fault in a core. -/
theorem Chip.coreFault_of_resp (who : Who) (wr : Bool) (h : c.resp ≠ .busError) : c.coreFault who wr = c := by
  rw [Chip.coreFault, if_pos (Or.inl h)]

/-- A transaction that reaches the plan is served at the level of its initiator. -/
theorem State.busAccess_of_busReaches (s : State) (wr : Bool) (w : Who) (l : Level) (addr len : Nat) (d : List Byte) (e : Ecc)
    (t : State) (reaches : s.busReaches w l = true)
    (served : { s with chip := s.chip.answer .none }.busServe wr { w with level := l } addr (if wr then d.length else len) d e = t) :
    s.busAccess wr w addr len d e = { t with chip := t.chip.coreFault w wr } := by
  subst served
  simp only [State.busReaches, Bool.and_eq_true, Bool.or_eq_true, bne_iff_ne, beq_iff_eq, Bool.not_eq_true'] at reaches
  obtain ⟨⟨⟨powered, level⟩, free⟩, linked⟩ := reaches
  have held : ¬((s.chip.answer .none).crp.power = .off ∨ (w.num = 15 ∧ (s.chip.answer .none).kindling s.lc = true)) := by
    rintro (off | ⟨guard, kindling⟩)
    · exact powered off
    · exact free.elim (· guard) fun h => Bool.false_ne_true (h.symm.trans kindling)
  have up : ¬(w.num = 3 ∧ (!(s.chip.answer .none).pcieUp) = true) := fun ⟨pcie, down⟩ => by
    have same : (s.chip.answer .none).pcieUp = s.chip.pcieUp := rfl
    simp [same, linked.resolve_left (· pcie)] at down
  have bar : ¬(w.num = 3 ∧ (!(s.chip.answer .none).barUp) = true) := fun ⟨pcie, down⟩ => by
    have same : (s.chip.answer .none).barUp = s.chip.barUp := rfl
    simp [same, linked.resolve_left (· pcie)] at down
  have level' : (s.chip.answer .none).levelOf w = some l := level
  simp only [State.busAccess, if_neg held, level', if_neg up, if_neg bar]

/-- A transaction that the plan refuses is noted and answered, and nothing more. -/
theorem State.busServe_refused (s : State) (wr : Bool) (w : Who) (addr len : Nat) (d : List Byte) (e : Ecc)
    (refused : s.chip.busAllows w wr addr len = false) :
    s.busServe wr w addr len d e =
      { s with chip := (s.chip.noteRefusal w.num w.level.code wr addr).answer (quietAnswer wr len) } := by
  simp [State.busServe, refused, quietAnswer]

/-- A transaction that the plan refuses leaves what the refusal does, and its quiet answer; no core takes a fault. -/
theorem State.busAccess_refused (s : State) (wr : Bool) (w : Who) (l : Level) (addr len : Nat) (d : List Byte) (e : Ecc)
    (reaches : s.busReaches w l = true)
    (refused : s.chip.busAllows { w with level := l } wr addr (if wr then d.length else len) = false) :
    s.busAccess wr w addr len d e =
      { s with chip := ((s.chip.answer .none).noteRefusal w.num l.code wr addr).answer (quietAnswer wr len) } := by
  have width : quietAnswer wr (if wr then d.length else len) = quietAnswer wr len := by cases wr <;> rfl
  rw [s.busAccess_of_busReaches wr w l addr len d e _ reaches (State.busServe_refused _ wr _ _ _ _ _ refused), width,
    Chip.coreFault_of_resp _ _ _ (quietAnswer_ne_busError wr len)]
  rfl

theorem exec_busAccess (wr : Bool) (a : BitVec 48) (n : BitVec 8) (d : List Byte) (w : Who) (e : Ecc) (s : State) :
    exec (.busAccess wr a n d w e) s = .next { s.busAccess wr w a.toNat n.toNat d e with pending := s.pending } := rfl

/-- Registers that a refusal may change are among those of transfers. -/
theorem mem_transferRegs_of_refusal {r : Nat} (h : r ∈ recordRegs ++ refusalRegs) : r ∈ transferRegs := by
  have within : ∀ r ∈ recordRegs ++ refusalRegs, r ∈ transferRegs := by decide
  exact within r h

/-- Settles O2: such a transaction comes down to the note of its refusal (12 R376) and a quiet answer. -/
theorem refusedTransactionsHaveNoEffect : Obligations.RefusedTransactionsHaveNoEffect := by
  unfold Obligations.RefusedTransactionsHaveNoEffect
  intro s wr a n d w e l reaches refused
  have access := s.busAccess_refused wr w l a.toNat n.toNat d e reaches refused
  have counted := (s.chip.answer .none).rd_viol_noteRefusal w.num l.code wr a.toNat
  have shown := (s.chip.answer .none).bit_status_noteRefusal w.num l.code wr a.toNat
  have recorded := (s.chip.answer .none).intake_noteRefusal w.num l.code wr a.toNat
  have others := fun r => (s.chip.answer .none).rdW_noteRefusal_other (r := r) w.num l.code wr a.toNat
  obtain ⟨rs, x, frame⟩ := (s.chip.answer .none).noteRefusal_frame w.num l.code wr a.toNat
  generalize (s.chip.answer .none).noteRefusal w.num l.code wr a.toNat = noted at *
  refine ⟨{ s with chip := noted.answer (quietAnswer wr n.toNat) }, ?_, rfl, ?_, ?_, fun room => ?_, ?_, fun r other => ?_⟩
  · rw [exec_busAccess, access]
  · rw [Chip.rd_answer, counted, Chip.rd_answer]
  · rw [Chip.bit_answer, shown]
  · rw [State.Posted, Chip.ember_answer, recorded ((Chip.emberRoom_answer _ _ _ _).trans room), Chip.ember_answer]
  · subst frame
    rfl
  · have apart : r ∉ recordRegs ++ refusalRegs := fun own => by simp [mem_transferRegs_of_refusal own] at other
    rw [Chip.rdW_answer, others r apart, Chip.rdW_answer]

end Sys2Proof.Machine
end

section
/-!
A write from below the Seal level that reaches the legal partition (12 R377, R378): a write of CIU_ALARM has tamper source 8
follow the alarm that stands.
-/
namespace Sys2Proof.Machine

/-! ### A trip, and how the legal partition sees it -/

/-- A source that is set to trip and has not been met trips when its condition shows (12 R377). -/
theorem tripped_tamperSense {i : Nat} {x : Chip × LifeCycle} (unmet : i ∉ x.1.grd.present)
    (trips : (x.1.stands i).tmpAction i = 3) : (tamperSense i true x).2.tripped = true := by
  have begins : tamperSense i true x = tamperAct i (x.1.stands i, x.2) := by simp [tamperSense, tamperBegin, unmet]
  rw [begins, tamperAct]
  simp only [trips]
  cases (x.1.stands i).bit (Reg.GRD_TMP_CFG i) 8 <;> simp [tripSet, rootKill, LifeCycle.commit]

/-- The notice of a full log leaves what the engine has seen of the trip. -/
theorem Leg.tripSeen_tell90 (g : Leg) : g.tell90.tripSeen = g.tripSeen := by
  rw [Leg.tell90]
  split
  · split <;> rfl
  · rfl

/-- An entry in the legal log leaves what the engine has seen of the trip. -/
theorem Leg.tripSeen_logM (g : Leg) (typ : Nat) (old new : List Byte) : (g.logM typ old new).tripSeen = g.tripSeen := by
  rw [Leg.logM]
  split
  · rfl
  · exact Leg.tripSeen_tell90 _

/-- The engine has seen what it observes. -/
theorem Leg.tripSeen_observe (g : Leg) (tripped : Bool) : (g.observe tripped).tripSeen = tripped := by
  rw [Leg.observe]
  split
  case isTrue news => rw [Leg.tripSeen_logM]; exact (Bool.and_eq_true_iff.1 news).1.symm
  case isFalse => rfl

/-- A trip is seen by the legal engine at once (12 R378). -/
theorem State.tripSeen_guard (s : State) {x : Chip × LifeCycle} (h : x.2.tripped ≠ s.lc.tripped) :
    (s.guard x).leg.tripSeen = x.2.tripped := by
  rw [State.guard, if_neg h]
  exact Leg.tripSeen_observe _ _

/-! ### A write of CIU_ALARM -/

/-- After a write of CIU_ALARM tamper source 8 follows what DET shows (12 Table 6). -/
theorem State.writeConfig_ciuAlarm (s : State) (who : Who) (v : Nat) :
    s.writeConfig who Reg.CIU_ALARM v = s.guard (tamperSense 8
      ((s.chip.writeCiu who Reg.CIU_ALARM v).fl Reg.CIU_ALARM 4 0 != 0) (s.chip.writeCiu who Reg.CIU_ALARM v, s.lc)) := by
  have held : (regRow? Reg.CIU_ALARM).isNone = false := by decide +kernel
  rw [State.writeConfig, held]
  rfl

/-- A write of CIU_ALARM after which an alarm shows that source 8 has not met, and for which it is set to trip, is seen by the
legal engine as a trip. -/
theorem State.tripSeen_writeConfig_ciuAlarm (s : State) (who : Who) (v : Nat) {d : Chip}
    (written : s.chip.writeCiu who Reg.CIU_ALARM v = d) (alarm : d.fl Reg.CIU_ALARM 4 0 ≠ 0) (unmet : 8 ∉ d.grd.present)
    (trips : (d.stands 8).tmpAction 8 = 3) (quiet : s.lc.tripped = false) :
    (s.writeConfig who Reg.CIU_ALARM v).leg.tripSeen = true := by
  subst written
  have tripped := tripped_tamperSense (x := (s.chip.writeCiu who Reg.CIU_ALARM v, s.lc)) unmet trips
  rw [State.writeConfig_ciuAlarm, bne_iff_ne.2 alarm, State.tripSeen_guard _ (by simp [tripped, quiet]), tripped]

/-- After a complete start, with nothing tripped, CIU_ALARM.DET shows an alarm that tamper source 8 has not met, and the ACTION of
source 8 is 3. -/
def alarmUnmet : State :=
  { State.reset with chip :=
    ((State.reset.chip.onCrp fun x => { x with startStep := 8 }).wr Reg.CIU_ALARM 1).wr (Reg.GRD_TMP_CFG 8) 3 }

/-- A core of the cluster at the Platform level. -/
def platformCore : Who := ⟨0, .platform⟩

theorem reaches_alarmUnmet : alarmUnmet.chip.reaches Reg.CIU_ALARM = true := by decide +kernel

/-- A write of 0 to CIU_ALARM from the Platform level reaches the legal partition of `alarmUnmet`. -/
theorem tripSeen_alarmUnmet : (alarmUnmet.writeConfig platformCore Reg.CIU_ALARM 0).leg.tripSeen = true :=
  State.tripSeen_writeConfig_ciuAlarm _ _ _ rfl (by decide +kernel) (by decide +kernel) (by decide +kernel) rfl

/-- A write of a register that is reached runs the register's own rule. -/
theorem exec_registerWrite_reached (s : State) (off : BitVec 24) (v : Word) (w : Who)
    (h : s.chip.reaches (off.toNat / 4 * 4) = true) :
    exec (.registerWrite (.config off) v w) s =
      .next { s.writeConfig w (off.toNat / 4 * 4) v.toNat with pending := s.pending } := by
  show execRegisterWrite (.config off) v w s = _
  rw [execRegisterWrite, State.onAll]
  simp only [State.cfgWrite, State.onReg_reached _ _ _ _ h]

/-- Refutes O60, by its clause on writes of a register from below the Seal level. The clause asks of every state that such a write
leave the legal partition, also of one in which CIU_ALARM.DET shows an alarm that tamper source 8 has not met; the commands that
set DET have source 8 meet it at once. In such a state a write of 0 to CIU_ALARM by a core of the cluster, which clears no alarm,
has source 8 meet it; set to trip, it trips the device, and the legal engine sees and logs that (12 R377, R378). -/
theorem not_boundariesHold : ¬ Obligations.BoundariesHold := by
  unfold Obligations.BoundariesHold
  rintro ⟨-, -, -, -, write, -⟩
  obtain ⟨t, ran, kept⟩ := write alarmUnmet (BitVec.ofNat 24 Reg.CIU_ALARM) 0 platformCore (by decide)
  obtain rfl := Host.Outcome.next.inj ((exec_registerWrite_reached alarmUnmet (BitVec.ofNat 24 Reg.CIU_ALARM) 0 platformCore
    reaches_alarmUnmet).symm.trans ran)
  have seen : alarmUnmet.leg.tripSeen = true := (congrArg Leg.tripSeen kept).symm.trans tripSeen_alarmUnmet
  exact absurd seen (by decide)

end Sys2Proof.Machine
end

section
/-!
Cells of the line network: their enabling, their beacons and their acknowledgements (03 R73, R74, R78–R80, R89), and what the
start of a frame on a chain leaves as it was (02 R61, R63).
-/
namespace Sys2Proof.Machine

variable (c : Chip)

/-! ### Registers apart from one another -/

/-- The configuration of a cell is no cell's status. -/
theorem cellCfg_ne_cellStat (j k : Nat) : Reg.LMA_CELL_CFG j ≠ Reg.LMA_CELL_STAT k := by
  simp only [Reg.LMA_CELL_CFG, Reg.LMA_CELL_STAT]
  omega

theorem cellSkip_ne_cellStat (j k : Nat) : Reg.LMA_CELL_SKIP j ≠ Reg.LMA_CELL_STAT k := by
  simp only [Reg.LMA_CELL_SKIP, Reg.LMA_CELL_STAT]
  omega

theorem cellStat_injective {j k : Nat} (h : Reg.LMA_CELL_STAT j = Reg.LMA_CELL_STAT k) : j = k := by
  simp only [Reg.LMA_CELL_STAT] at h
  omega

/-- The configuration of a chain lies below the registers of the cells. -/
theorem txCfg_lt_cells {n : Nat} (h : n < 3) : Reg.LMA_TX_CFG n < 0x202000 := by
  simp only [Reg.LMA_TX_CFG]
  omega

/-- The registers in which a lane shows its phase and the frames it abandons. -/
def laneReg (r : Nat) : Bool := (List.range 24).any fun m => r == Reg.LMA_LANE_STAT m || r == Reg.LMA_LANE_ABAN m

theorem laneReg_eq_false {r m : Nat} (h : laneReg r = false) (hm : m < 24) :
    r ≠ Reg.LMA_LANE_STAT m ∧ r ≠ Reg.LMA_LANE_ABAN m := by
  simpa using List.any_eq_false.1 h m (List.mem_range.2 hm)

/-- The registers of the cells and of the network are no lane's. -/
theorem laneReg_of_le {r : Nat} (h : 0x202000 ≤ r) : laneReg r = false := by
  refine List.any_eq_false.2 fun m hm => ?_
  have := List.mem_range.1 hm
  simp only [Reg.LMA_LANE_STAT, Reg.LMA_LANE_ABAN, Bool.or_eq_true, beq_iff_eq]
  omega

theorem laneReg_cellStat (k : Nat) : laneReg (Reg.LMA_CELL_STAT k) = false :=
  laneReg_of_le (by simp only [Reg.LMA_CELL_STAT]; omega)

/-! ### Registers after one is counted up or set in part -/

theorem Chip.rdW_setFl_other {r r' : Nat} (hi lo v : Nat) (h : r' ≠ r) : (c.setFl r hi lo v).rdW r' = c.rdW r' :=
  (c.rdW_wr _ _ _).trans (if_neg h)

theorem Chip.rdW_setBit_other {r r' : Nat} (b : Nat) (on : Bool) (h : r' ≠ r) : (c.setBit r b on).rdW r' = c.rdW r' :=
  c.rdW_setFl_other _ _ _ h

theorem Chip.rdW_bump_other {r r' : Nat} (h : r' ≠ r) : (c.bump r).rdW r' = c.rdW r' :=
  (c.rdW_wr _ _ _).trans (if_neg h)

theorem Chip.rd_congr {c d : Chip} {r : Nat} (h : d.rdW r = c.rdW r) : d.rd r = c.rd r := congrArg BitVec.toNat h

theorem Chip.fl_congr {c d : Chip} {r hi lo : Nat} (h : d.rdW r = c.rdW r) : d.fl r hi lo = c.fl r hi lo := by
  rw [Chip.fl, Chip.rd_congr h, Chip.fl]

theorem Chip.bit_congr {c d : Chip} {r b : Nat} (h : d.rdW r = c.rdW r) : d.bit r b = c.bit r b := by
  rw [Chip.bit, Chip.rd_congr h, Chip.bit]

/-! ### What the end of a frame on a lane changes -/

/-- `d` is `c` but for the lanes, the gains, the free values drawn and the lanes' registers. -/
def Chip.LanesOnly (c d : Chip) : Prop :=
  (∃ rs ls gs n, d = { c with regs := rs, lma := { c.lma with lanes := ls, gains := gs }, freeCtr := n }) ∧
  ∀ r, laneReg r = false → d.rdW r = c.rdW r

theorem Chip.LanesOnly.refl : c.LanesOnly c := ⟨⟨_, _, _, _, rfl⟩, fun _ _ => rfl⟩

theorem Chip.LanesOnly.trans {c d e : Chip} (h : c.LanesOnly d) (k : d.LanesOnly e) : c.LanesOnly e := by
  obtain ⟨⟨_, _, _, _, rfl⟩, hr⟩ := h
  obtain ⟨⟨_, _, _, _, rfl⟩, kr⟩ := k
  exact ⟨⟨_, _, _, _, rfl⟩, fun r apart => (kr r apart).trans (hr r apart)⟩

theorem Chip.LanesOnly.chain {c d : Chip} (h : c.LanesOnly d) (n : Nat) : d.chain n = c.chain n := by
  obtain ⟨⟨_, _, _, _, rfl⟩, -⟩ := h
  rfl

theorem Chip.lanesOnly_setLane {m : Nat} (x : Lane) (hm : m < 24) : c.LanesOnly (c.setLane m x) :=
  ⟨⟨_, _, _, _, rfl⟩, fun _ apart => Chip.rdW_setFl_other _ _ _ _ (laneReg_eq_false apart hm).1⟩

theorem Chip.lanesOnly_bump_aban {m : Nat} (hm : m < 24) : c.LanesOnly (c.bump (Reg.LMA_LANE_ABAN m)) :=
  ⟨⟨_, _, _, _, rfl⟩, fun _ apart => c.rdW_bump_other (laneReg_eq_false apart hm).2⟩

theorem Chip.lanesOnly_gainFollow (input : Nat) : c.LanesOnly (c.gainFollow input) := by
  unfold Chip.gainFollow
  split
  · exact ⟨⟨_, _, _, _, rfl⟩, fun _ _ => rfl⟩
  · exact .refl c

theorem Chip.lanesOnly_laneIdle {m : Nat} (hm : m < 24) : c.LanesOnly (c.laneIdle m) := by
  unfold Chip.laneIdle Chip.laneLeaves
  dsimp only
  split
  · exact (c.lanesOnly_setLane _ hm).trans (Chip.lanesOnly_gainFollow _ _)
  · exact c.lanesOnly_setLane _ hm

/-- Lanes that abandon their frames change nothing else (02 R61). -/
theorem Chip.lanesOnly_abandonOn (input : Nat) (bands : List Nat) : c.LanesOnly (c.abandonOn input bands) := by
  refine List.foldlRecOn (motive := c.LanesOnly) _ _ (.refl c) fun d hd m hm => hd.trans ?_
  dsimp only [Chip.when]
  split
  · exact (d.lanesOnly_bump_aban (List.mem_range.1 hm)).trans (Chip.lanesOnly_laneIdle _ (List.mem_range.1 hm))
  · exact .refl d

/-! ### The start of a frame on a chain -/

/-- `d` is `c` but for the register file, the LMA and the free values drawn. -/
def Chip.LineOnly (c d : Chip) : Prop := ∃ rs l n, d = { c with regs := rs, lma := l, freeCtr := n }

theorem Chip.LineOnly.trans {c d e : Chip} (h : c.LineOnly d) (k : d.LineOnly e) : c.LineOnly e := by
  obtain ⟨_, _, _, rfl⟩ := h
  obtain ⟨_, _, _, rfl⟩ := k
  exact ⟨_, _, _, rfl⟩

theorem Chip.lineOnly_wr (r v : Nat) : c.LineOnly (c.wr r v) := ⟨_, _, _, rfl⟩

theorem Chip.lineOnly_onLma (f : Lma → Lma) : c.LineOnly (c.onLma f) := ⟨_, _, _, rfl⟩

/-- Changes within the LMA that leave all registers but those that `may` admits, in the terms of a claim. -/
theorem State.onlyIn_of_lineOnly (s : State) {d : Chip} {may : Nat → Bool} (h : s.chip.LineOnly d)
    (k : ∀ r, may r = false → d.rdW r = s.chip.rdW r) :
    s.OnlyIn { s with chip := d } may fun c => { c with regs := d.regs, lma := d.lma, freeCtr := d.freeCtr } := by
  obtain ⟨_, _, _, rfl⟩ := h
  exact ⟨rfl, k⟩

/-- The start of a frame is the lanes' abandoning theirs, after the chain has taken it. -/
theorem Chip.lanesOnly_txStart (n : Nat) (x : LineTx) (t : BitVec 64) : ∃ zco blank,
    (c.setChain n { c.chain n with tx := some (x.launched (c.rd (Reg.LMA_TX_CFG n)) zco t), blank := blank }).LanesOnly
      (c.txStart n x t) :=
  ⟨_, _, Chip.lanesOnly_abandonOn _ _ _⟩

theorem Chip.lineOnly_txStart (n : Nat) (x : LineTx) (t : BitVec 64) : c.LineOnly (c.txStart n x t) := by
  obtain ⟨_, _, ⟨_, _, _, _, started⟩, -⟩ := c.lanesOnly_txStart n x t
  rw [started]
  exact ⟨_, _, _, rfl⟩

theorem Chip.rdW_txStart_other (n : Nat) (x : LineTx) (t : BitVec 64) {r : Nat} (h : laneReg r = false) :
    (c.txStart n x t).rdW r = c.rdW r := by
  obtain ⟨_, _, -, others⟩ := c.lanesOnly_txStart n x t
  exact others r h

theorem Chip.acks_txStart (n : Nat) (x : LineTx) (t : BitVec 64) : (c.txStart n x t).lma.acks = c.lma.acks := by
  obtain ⟨_, _, ⟨_, _, _, _, started⟩, -⟩ := c.lanesOnly_txStart n x t
  rw [started]
  rfl

theorem Chip.chain_setChain_same (n : Nat) (x : LineChain) : (c.setChain n x).chain n = x := Tab.get_put_same _ _ _ _

/-- The chain sends the frame that it was given. -/
theorem Chip.tx_txStart (n : Nat) (x : LineTx) (t : BitVec 64) :
    ∃ zco, ((c.txStart n x t).chain n).tx = some (x.launched (c.rd (Reg.LMA_TX_CFG n)) zco t) := by
  obtain ⟨zco, _, started⟩ := c.lanesOnly_txStart n x t
  exact ⟨zco, congrArg LineChain.tx ((started.chain n).trans (c.chain_setChain_same n _))⟩

/-! ### The chain of an input -/

/-- Two searches of a list by tests that agree on it find the same. -/
theorem find?_eq_of_agree {p q : Nat → Bool} {l : List Nat} (h : ∀ n ∈ l, p n = q n) : l.find? p = l.find? q := by
  induction l with
  | nil => rfl
  | cons n l ih =>
    have first : p n = q n := h n List.mem_cons_self
    have rest : l.find? p = l.find? q := ih fun m hm => h m (List.mem_cons_of_mem n hm)
    rw [List.find?_cons, List.find?_cons, first, rest]

/-- Which chain serves an input is a matter of the chains' configurations alone. -/
theorem Chip.chainOf_congr {c d : Chip} (h : ∀ n < 3, d.rdW (Reg.LMA_TX_CFG n) = c.rdW (Reg.LMA_TX_CFG n)) (input : Nat) :
    d.chainOf input = c.chainOf input :=
  find?_eq_of_agree fun n hn => by
    have kept := h n (List.mem_range.1 hn)
    rw [Chip.bit_congr kept, Chip.fl_congr kept]

/-- Whether a cell is enabled and no chain is bound to its input (03 R74). -/
def Chip.lacksChain (c : Chip) (k : Nat) : Bool := c.cellOn k && (c.chainOf (c.cellInput k)).isNone

/-- NO_CHAIN of one cell is shown. -/
def Chip.noChainAt (c : Chip) (k : Nat) : Chip := c.setBit (Reg.LMA_CELL_STAT k) 17 (c.lacksChain k)

theorem Chip.noChain_eq : c.noChain = (List.range 12).foldl Chip.noChainAt c := rfl

/-- To show NO_CHAIN of a cell leaves what it is shown from. -/
theorem Chip.lacksChain_noChainAt (j k : Nat) : (c.noChainAt k).lacksChain j = c.lacksChain j := by
  have cfg : (c.noChainAt k).rdW (Reg.LMA_CELL_CFG j) = c.rdW (Reg.LMA_CELL_CFG j) :=
    c.rdW_setBit_other _ _ (cellCfg_ne_cellStat j k)
  have chains : ∀ n < 3, (c.noChainAt k).rdW (Reg.LMA_TX_CFG n) = c.rdW (Reg.LMA_TX_CFG n) := fun n hn =>
    c.rdW_setBit_other _ _ (by have := txCfg_lt_cells hn; simp only [Reg.LMA_CELL_STAT]; omega)
  rw [Chip.lacksChain, Chip.cellOn, Chip.bit_congr cfg, Chip.cellInput, Chip.rd_congr cfg, Chip.chainOf_congr chains]
  rfl

/-- NO_CHAIN of a cell that is shown no more stands. -/
theorem Chip.bit_foldl_noChainAt_other (l : List Nat) {j : Nat} (h : j ∉ l) :
    (l.foldl Chip.noChainAt c).bit (Reg.LMA_CELL_STAT j) 17 = c.bit (Reg.LMA_CELL_STAT j) 17 := by
  induction l generalizing c with
  | nil => rfl
  | cons k l ih =>
    obtain ⟨hk, hl⟩ : j ≠ k ∧ j ∉ l := by simpa using h
    rw [List.foldl_cons, ih _ hl]
    exact c.bit_setBit_other _ _ _ _ _ (by decide) (.inl fun same => hk (cellStat_injective same))

theorem Chip.bit_foldl_noChainAt (l : List Nat) {j : Nat} (h : j ∈ l) :
    (l.foldl Chip.noChainAt c).bit (Reg.LMA_CELL_STAT j) 17 = c.lacksChain j := by
  induction l generalizing c with
  | nil => cases h
  | cons k l ih =>
    rw [List.foldl_cons]
    by_cases hl : j ∈ l
    · exact (ih _ hl).trans (c.lacksChain_noChainAt j k)
    · obtain rfl : j = k := (List.mem_cons.1 h).resolve_right hl
      rw [Chip.bit_foldl_noChainAt_other _ _ hl]
      exact c.bit_setBit_same _ _ _ (by decide)

/-- NO_CHAIN shows each cell that is enabled and has no chain (03 R74). -/
theorem Chip.bit_noChain (j : Fin 12) : c.noChain.bit (Reg.LMA_CELL_STAT j) 17 = c.lacksChain j := by
  rw [Chip.noChain_eq]
  exact c.bit_foldl_noChainAt _ (List.mem_range.2 j.isLt)

theorem Chip.regsOnly_noChain : c.RegsOnly c.noChain :=
  List.foldlRecOn (motive := c.RegsOnly) _ _ ⟨_, rfl⟩ fun _ hd _ _ => hd.trans (Chip.regsOnly_wr _ _ _)

theorem Chip.rdW_noChain_other {r : Nat} (h : r ∉ (List.range 12).map Reg.LMA_CELL_STAT) : c.noChain.rdW r = c.rdW r := by
  refine List.foldlRecOn (motive := fun d : Chip => d.rdW r = c.rdW r) _ _ rfl fun d hd k hk => ?_
  exact (d.rdW_setBit_other _ _ fun same => h (List.mem_map.2 ⟨k, hk, same.symm⟩)).trans hd

/-! ### A write of a cell's configuration (03 R73) -/

/-- The fields of LMA_CELL_CFG as a write gives them. -/
def cellWord (v : Nat) : Nat := fld v 31 31 * 2 ^ 31 + fld v 27 16 * 2 ^ 16 + fld v 14 10 * 2 ^ 10

/-- A number with fields at bits 31, 27 to 16 and 14 to 10, bit by bit. -/
theorem testBit_cellFields {x y z : Nat} (hy : y < 2 ^ 12) (hz : z < 2 ^ 5) (i : Nat) :
    (x * 2 ^ 31 + y * 2 ^ 16 + z * 2 ^ 10).testBit i =
      if i < 31 then if i < 16 then if i < 10 then false else z.testBit (i - 10) else y.testBit (i - 16)
      else x.testBit (i - 31) := by
  have shape : x * 2 ^ 31 + y * 2 ^ 16 + z * 2 ^ 10 = 2 ^ 31 * x + (2 ^ 16 * y + (2 ^ 10 * z + 0)) := by omega
  rw [shape, Nat.testBit_two_pow_mul_add _ (by omega), Nat.testBit_two_pow_mul_add _ (by omega),
    Nat.testBit_two_pow_mul_add _ (by omega), Nat.zero_testBit]

theorem ofNat_cellWord (v : Word) : BitVec.ofNat 32 (cellWord v.toNat) = v &&& 0x8FFF7C00#32 := by
  have mask : (0x8FFF7C00#32).toNat = (2 ^ 1 - 1) * 2 ^ 31 + (2 ^ 12 - 1) * 2 ^ 16 + (2 ^ 5 - 1) * 2 ^ 10 := by decide
  refine BitVec.eq_of_getLsbD_eq fun i hi => ?_
  rw [BitVec.getLsbD_ofNat, BitVec.getLsbD_and, ← BitVec.testBit_toNat (x := 0x8FFF7C00#32), mask, cellWord,
    testBit_cellFields (fld_lt _ 27 16) (fld_lt _ 14 10), testBit_cellFields (by decide) (by decide)]
  simp only [Nat.testBit_two_pow_sub_one, fld_testBit, ← BitVec.testBit_toNat]
  grind

/-- Whether a write would enable a second cell on an input and band. -/
def Chip.cellClash (c : Chip) (k v : Nat) : Bool :=
  bitOf v 31 && (List.range 12).any fun j =>
    j != k && c.cellOn j && c.cellInput j == cfgInput v && c.cellBand j == cfgBand v

/-- The chip once the configuration of a cell is stored, or stored without ENABLE. -/
def Chip.cellStored (c : Chip) (k v : Nat) : Chip :=
  if c.cellClash k v then (c.wr (Reg.LMA_CELL_CFG k) (putBit (cellWord v) 31 false)).cfgErr 2
  else c.wr (Reg.LMA_CELL_CFG k) (cellWord v)

theorem Chip.cellStored_clash {k v : Nat} (h : c.cellClash k v = true) :
    c.cellStored k v = (c.wr (Reg.LMA_CELL_CFG k) (putBit (cellWord v) 31 false)).raise Reg.LMA_STATUS 8 := by
  rw [Chip.cellStored, if_pos h, Chip.cfgErr]

theorem Chip.cellStored_clear {k v : Nat} (h : c.cellClash k v = false) :
    c.cellStored k v = c.wr (Reg.LMA_CELL_CFG k) (cellWord v) := by
  rw [Chip.cellStored, if_neg (by simp [h])]

/-- A write of a cell's configuration stores it, shows NO_CHAIN, and leaves the configuration in force or replaces it. -/
theorem Chip.cellCfgWrite_eq (k v : Nat) : c.cellCfgWrite k v =
    if ((c.cellStored k v).noChain.cellOn k && bitOf ((c.cellStored k v).noChain.cellCfg k) 31 &&
      (c.fl Reg.LMA_NET_CTRL 1 0 == 1 || c.fl Reg.LMA_NET_CTRL 1 0 == 2)) = true
    then (c.cellStored k v).noChain else (c.cellStored k v).noChain.cellApply k := by
  rw [Chip.cellCfgWrite, Chip.cellStored, Chip.cellClash, cellWord]

theorem Chip.cellCfgWrite_cases (k v : Nat) :
    c.cellCfgWrite k v = (c.cellStored k v).noChain ∨ c.cellCfgWrite k v = (c.cellStored k v).noChain.cellApply k := by
  rw [Chip.cellCfgWrite_eq]
  exact (Classical.em _).imp (fun applies => if_pos applies) fun applies => if_neg applies

theorem Chip.rdW_cellApply (k r : Nat) : (c.cellApply k).rdW r = c.rdW r := rfl

theorem Chip.rdW_cellCfgWrite (k v r : Nat) : (c.cellCfgWrite k v).rdW r = (c.cellStored k v).noChain.rdW r := by
  obtain same | applied := c.cellCfgWrite_cases k v
  · rw [same]
  · rw [applied, Chip.rdW_cellApply]

theorem Chip.cellCfg_cellApply (k : Nat) : (c.cellApply k).cellCfg k = c.rd (Reg.LMA_CELL_CFG k) := by
  rw [Chip.cellCfg, Chip.lineCell, Chip.cellApply, Chip.setLineCell, Chip.lma_onLma, Tab.get_put_same, Chip.rd]

/-- Where the device neither coordinates nor stands by, what is written is in force at once (log entry 89). -/
theorem Chip.cellCfg_cellCfgWrite (k v : Nat) (h : c.fl Reg.LMA_NET_CTRL 1 0 = 0) :
    (c.cellCfgWrite k v).cellCfg k = (c.cellCfgWrite k v).rd (Reg.LMA_CELL_CFG k) := by
  rw [Chip.cellCfgWrite_eq, if_neg (by simp [h]), Chip.cellCfg_cellApply, Chip.rd_congr (Chip.rdW_cellApply _ k _)]

theorem Chip.regsOnly_cellStored (k v : Nat) : c.RegsOnly (c.cellStored k v) := by
  cases h : c.cellClash k v
  case true =>
    rw [c.cellStored_clash h]
    exact (c.regsOnly_wr _ _).trans (Chip.regsOnly_raise _ _ _)
  case false =>
    rw [c.cellStored_clear h]
    exact c.regsOnly_wr _ _

theorem Chip.rdW_cellStored_other {k v r : Nat} (h : r ∉ [Reg.LMA_CELL_CFG k, Reg.LMA_STATUS, Reg.PIC_PEND 4]) :
    (c.cellStored k v).rdW r = c.rdW r := by
  simp only [List.mem_cons, List.not_mem_nil, or_false, not_or] at h
  obtain ⟨notCfg, notStatus, notPend⟩ := h
  cases clash : c.cellClash k v
  case true =>
    rw [c.cellStored_clash clash, Chip.rdW_raise_other _ ⟨notStatus, notPend⟩, Chip.rdW_wr, if_neg notCfg]
  case false => rw [c.cellStored_clear clash, Chip.rdW_wr, if_neg notCfg]

/-- A register of the cells is neither the status of the LMA nor a word of PIC_PEND. -/
theorem cellCfg_ne_status (k : Fin 12) : Reg.LMA_CELL_CFG k ≠ Reg.LMA_STATUS ∧ Reg.LMA_CELL_CFG k ≠ Reg.PIC_PEND 4 := by
  simp only [Reg.LMA_CELL_CFG, Reg.LMA_STATUS, Reg.PIC_PEND]
  omega

/-- A second cell on an input and band stays disabled. -/
theorem Chip.cellOn_cellStored_clash {k : Fin 12} {v : Nat} (h : c.cellClash k v = true) :
    (c.cellStored k v).cellOn k = false := by
  rw [c.cellStored_clash h, Chip.cellOn, Chip.bit_congr (Chip.rdW_raise_other _ (cellCfg_ne_status k)), Chip.bit,
    Chip.rd_wr_same, bitOf_mod _ _ _ (by decide)]
  exact bitOf_putBit_same _ _ _

/-- A second cell on an input and band is shown in CFG_ERR. -/
theorem Chip.bit_status_cellStored_clash {k v : Nat} (h : c.cellClash k v = true) :
    (c.cellStored k v).bit Reg.LMA_STATUS 8 = true := by
  rw [c.cellStored_clash h]
  exact Chip.bit_raise_same _ (by decide) (by decide)

theorem Chip.rdW_cellStored_clear {k : Nat} {v : Word} (h : c.cellClash k v.toNat = false) :
    (c.cellStored k v.toNat).rdW (Reg.LMA_CELL_CFG k) = v &&& 0x8FFF7C00#32 := by
  rw [c.cellStored_clear h, Chip.rdW_wr, if_pos rfl, ofNat_cellWord]

theorem Chip.chainOf_cellStored (k : Fin 12) (v input : Nat) : (c.cellStored k v).chainOf input = c.chainOf input :=
  Chip.chainOf_congr (fun n hn => c.rdW_cellStored_other (by
    simp only [Reg.LMA_TX_CFG, Reg.LMA_CELL_CFG, Reg.LMA_STATUS, Reg.PIC_PEND, List.mem_cons, List.not_mem_nil, or_false, not_or]
    omega)) input

theorem Chip.rdW_cellCfg_noChain (k : Nat) : c.noChain.rdW (Reg.LMA_CELL_CFG k) = c.rdW (Reg.LMA_CELL_CFG k) := by
  refine c.rdW_noChain_other fun mem => ?_
  obtain ⟨j, -, same⟩ := List.mem_map.1 mem
  exact cellCfg_ne_cellStat k j same.symm

theorem Chip.rdW_cellCfg_cellCfgWrite (k v j : Nat) :
    (c.cellCfgWrite k v).rdW (Reg.LMA_CELL_CFG j) = (c.cellStored k v).rdW (Reg.LMA_CELL_CFG j) :=
  (c.rdW_cellCfgWrite k v _).trans (Chip.rdW_cellCfg_noChain _ j)

theorem Chip.cellOn_cellCfgWrite (k v j : Nat) : (c.cellCfgWrite k v).cellOn j = (c.cellStored k v).cellOn j :=
  Chip.bit_congr (c.rdW_cellCfg_cellCfgWrite k v j)

theorem Chip.cellInput_cellCfgWrite (k v j : Nat) : (c.cellCfgWrite k v).cellInput j = (c.cellStored k v).cellInput j :=
  congrArg cfgInput (Chip.rd_congr (c.rdW_cellCfg_cellCfgWrite k v j))

theorem Chip.bit_status_cellCfgWrite (k v : Nat) :
    (c.cellCfgWrite k v).bit Reg.LMA_STATUS 8 = (c.cellStored k v).bit Reg.LMA_STATUS 8 :=
  Chip.bit_congr ((c.rdW_cellCfgWrite k v _).trans (Chip.rdW_noChain_other _ (by decide)))

theorem Chip.rdW_cellCfgWrite_other {k v r : Nat} (notStored : r ∉ [Reg.LMA_CELL_CFG k, Reg.LMA_STATUS, Reg.PIC_PEND 4])
    (notShown : r ∉ (List.range 12).map Reg.LMA_CELL_STAT) : (c.cellCfgWrite k v).rdW r = c.rdW r := by
  rw [Chip.rdW_cellCfgWrite, Chip.rdW_noChain_other _ notShown, Chip.rdW_cellStored_other _ notStored]

/-- The frame of a write of a cell's configuration: register file and cells. -/
theorem Chip.cellCfgWrite_frame (k v : Nat) :
    ∃ rs cells, c.cellCfgWrite k v = { c with regs := rs, lma := { c.lma with cells := cells } } := by
  obtain ⟨rs, stored⟩ := (c.regsOnly_cellStored k v).trans (Chip.regsOnly_noChain _)
  obtain same | applied := c.cellCfgWrite_cases k v
  · rw [same, stored]
    exact ⟨rs, c.lma.cells, rfl⟩
  · rw [applied, stored]
    exact ⟨rs, (Chip.cellApply { c with regs := rs } k).lma.cells, rfl⟩

/-! ### A beacon (03 R74, R78–R80) -/

/-- The chip once the configuration of a cell whose beacon falls due is in force and LMA_CELL_STAT shows that beacon's BSN and
MIN_BI. -/
def Chip.beaconBegun (c : Chip) (k t : Nat) : Chip :=
  ((c.cellApply k).setFl (Reg.LMA_CELL_STAT k) 15 0 (c.bsnAt k t)).minBi k

/-- The chip once LMA_CELL_STAT shows NO_CHAIN of such a cell too. -/
def Chip.beaconShown (c : Chip) (k t : Nat) : Chip :=
  (c.beaconBegun k t).setBit (Reg.LMA_CELL_STAT k) 17 (c.chainOf (c.cellInput k)).isNone

/-- A cell's beacon as its chain is given it. -/
def Chip.beaconTx (c : Chip) (k : Nat) (t : BitVec 64) : LineTx :=
  { kind := .beacon k, band := c.cellBand k, mode := 4 * c.beaconRep k, gmask := fullMask (c.cellBand k), crel := 0,
    snid := c.cellSnid k, zco := 4095, payload := c.beaconPayload k t.toNat, launchAt := t, sentAt := none,
    header := 0, wave := [], atten := 0, clip := 0 }

theorem Chip.rdW_minBi_other (k : Nat) {r : Nat} (h : r ≠ Reg.LMA_CELL_STAT k) : (c.minBi k).rdW r = c.rdW r :=
  c.rdW_setBit_other _ _ h

theorem Chip.beaconAirtime_congr {c d : Chip} {k : Nat} (h : d.rdW (Reg.LMA_CELL_CFG k) = c.rdW (Reg.LMA_CELL_CFG k)) :
    d.beaconAirtime k = c.beaconAirtime k := by
  rw [Chip.beaconAirtime, Chip.cellBand, Chip.beaconRep, Chip.rd_congr h, Chip.bit_congr h]
  rfl

/-- The least interval of a cell is a matter of its configuration alone. -/
theorem Chip.minExp_congr {c d : Chip} {k : Nat} (h : d.rdW (Reg.LMA_CELL_CFG k) = c.rdW (Reg.LMA_CELL_CFG k)) :
    d.minExp k = c.minExp k := by
  rw [Chip.minExp, Chip.beaconAirtime_congr h, Chip.minExp]

theorem Chip.setExp_congr {c d : Chip} {k : Nat} (h : d.rdW (Reg.LMA_CELL_CFG k) = c.rdW (Reg.LMA_CELL_CFG k)) :
    d.setExp k = c.setExp k := by
  rw [Chip.setExp, Chip.fl_congr h, Chip.setExp]

theorem Chip.rdW_beaconBegun_other (k t : Nat) {r : Nat} (h : r ≠ Reg.LMA_CELL_STAT k) :
    (c.beaconBegun k t).rdW r = c.rdW r := by
  rw [Chip.beaconBegun, Chip.rdW_minBi_other _ _ h, Chip.rdW_setFl_other _ _ _ _ h, Chip.rdW_cellApply]

theorem Chip.rdW_beaconShown_other (k t : Nat) {r : Nat} (h : r ≠ Reg.LMA_CELL_STAT k) :
    (c.beaconShown k t).rdW r = c.rdW r :=
  (Chip.rdW_setBit_other _ _ _ h).trans (c.rdW_beaconBegun_other k t h)

theorem Chip.fl_bsn_beaconShown (k t : Nat) :
    (c.beaconShown k t).fl (Reg.LMA_CELL_STAT k) 15 0 = c.bsnAt k t % 2 ^ 16 := by
  rw [Chip.beaconShown, Chip.beaconBegun, Chip.fl_setBit_other _ _ _ _ _ _ _ (by decide) (.inr (.inl (by decide))), Chip.minBi,
    Chip.fl_setBit_other _ _ _ _ _ _ _ (by decide) (.inr (.inl (by decide)))]
  exact Chip.fl_setFl_same _ _ _ _ _ (by decide) (by decide)

theorem Chip.bit_minBi_beaconShown (k t : Nat) :
    (c.beaconShown k t).bit (Reg.LMA_CELL_STAT k) 16 = decide (c.setExp k < c.minExp k) := by
  have cfg : ((c.cellApply k).setFl (Reg.LMA_CELL_STAT k) 15 0 (c.bsnAt k t)).rdW (Reg.LMA_CELL_CFG k) =
      c.rdW (Reg.LMA_CELL_CFG k) := Chip.rdW_setFl_other _ _ _ _ (cellCfg_ne_cellStat k k)
  rw [Chip.beaconShown, Chip.beaconBegun, Chip.bit_setBit_other _ _ _ _ _ _ (by decide) (.inr (by decide)), Chip.minBi,
    Chip.bit_setBit_same _ _ _ _ (by decide), Chip.setExp_congr cfg, Chip.minExp_congr cfg]

theorem Chip.bit_noChain_beaconShown (k t : Nat) :
    (c.beaconShown k t).bit (Reg.LMA_CELL_STAT k) 17 = (c.chainOf (c.cellInput k)).isNone :=
  Chip.bit_setBit_same _ _ _ _ (by decide)

theorem Chip.lineOnly_beaconShown (k t : Nat) : c.LineOnly (c.beaconShown k t) :=
  (((c.lineOnly_onLma _).trans (Chip.lineOnly_wr _ _ _)).trans (Chip.lineOnly_wr _ _ _)).trans (Chip.lineOnly_wr _ _ _)

/-- What a beacon shows in its cell's registers leaves the chains. -/
theorem Chip.chain_beaconShown (k t n : Nat) : (c.beaconShown k t).chain n = c.chain n := by
  rw [Chip.chain, Chip.beaconShown, Chip.lma_setBit, Chip.beaconBegun, Chip.minBi, Chip.lma_setBit, Chip.lma_setFl]
  rfl

/-- A beacon that begins leaves the chain of its cell's input. -/
theorem Chip.chainOf_beaconBegun (k t : Nat) :
    (c.beaconBegun k t).chainOf ((c.beaconBegun k t).cellInput k) = c.chainOf (c.cellInput k) := by
  have cfg := c.rdW_beaconBegun_other k t (cellCfg_ne_cellStat k k)
  have chains : ∀ n < 3, (c.beaconBegun k t).rdW (Reg.LMA_TX_CFG n) = c.rdW (Reg.LMA_TX_CFG n) := fun n hn =>
    c.rdW_beaconBegun_other k t (by have := txCfg_lt_cells hn; simp only [Reg.LMA_CELL_STAT]; omega)
  rw [Chip.chainOf_congr chains, Chip.cellInput, Chip.rd_congr cfg, Chip.cellInput]

/-- A beacon that falls due and that nothing halts is skipped where its cell has no chain (03 R74). -/
theorem Chip.beaconLaunch_noChain (k : Nat) (t : BitVec 64) (due : c.beaconFalls k t.toNat = true)
    (free : c.bit Reg.LMA_CTRL 1 = false) (chain : c.chainOf (c.cellInput k) = none) :
    c.beaconLaunch k t = (c.beaconShown k t.toNat).bump (Reg.LMA_CELL_SKIP k) := by
  have begun := (c.chainOf_beaconBegun k t.toNat).trans chain
  rw [Chip.beaconBegun] at begun
  rw [Chip.beaconLaunch, if_neg (by simp [due, free])]
  simp only [begun]
  rw [Chip.beaconShown, chain, Chip.beaconBegun, Option.isNone_none]

/-- Such a beacon is skipped where the chain is sending (03 R79), and else started. -/
theorem Chip.beaconLaunch_chain (k : Nat) (t : BitVec 64) (due : c.beaconFalls k t.toNat = true)
    (free : c.bit Reg.LMA_CTRL 1 = false) {n : Nat} (chain : c.chainOf (c.cellInput k) = some n) : c.beaconLaunch k t =
    if ((c.chain n).tx.any fun x => x.sentAt.isSome) = true then (c.beaconShown k t.toNat).bump (Reg.LMA_CELL_SKIP k)
    else (c.beaconShown k t.toNat).txStart n ((c.beaconShown k t.toNat).beaconTx k t) t := by
  have begun := (c.chainOf_beaconBegun k t.toNat).trans chain
  rw [Chip.beaconBegun] at begun
  rw [Chip.beaconLaunch, if_neg (by simp [due, free]), ← c.chain_beaconShown k t.toNat n]
  simp only [begun]
  rw [Chip.beaconShown, chain, Chip.beaconBegun, Option.isNone_some, Chip.beaconTx]

/-- A beacon that falls due changes, past what LMA_CELL_STAT shows of it, the count of those skipped or what the start of a frame
does. -/
theorem Chip.beaconLaunch_frame (k : Nat) (t : BitVec 64) (due : c.beaconFalls k t.toNat = true)
    (free : c.bit Reg.LMA_CTRL 1 = false) :
    (c.beaconShown k t.toNat).LineOnly (c.beaconLaunch k t) ∧
    ∀ r, r ≠ Reg.LMA_CELL_SKIP k → laneReg r = false → (c.beaconLaunch k t).rdW r = (c.beaconShown k t.toNat).rdW r := by
  have skipped : ∀ d : Chip, d.LineOnly (d.bump (Reg.LMA_CELL_SKIP k)) ∧
      ∀ r, r ≠ Reg.LMA_CELL_SKIP k → laneReg r = false → (d.bump (Reg.LMA_CELL_SKIP k)).rdW r = d.rdW r :=
    fun d => ⟨d.lineOnly_wr _ _, fun _ apart _ => d.rdW_bump_other apart⟩
  cases chain : c.chainOf (c.cellInput k)
  case none =>
    rw [c.beaconLaunch_noChain k t due free chain]
    exact skipped _
  case some n =>
    rw [c.beaconLaunch_chain k t due free chain]
    split
    · exact skipped _
    · exact ⟨Chip.lineOnly_txStart _ _ _ _, fun _ _ apart => Chip.rdW_txStart_other _ _ _ _ apart⟩

/-- A beacon skipped is counted once. -/
theorem Chip.rd_skip_beaconShown (k t : Nat) :
    ((c.beaconShown k t).bump (Reg.LMA_CELL_SKIP k)).rd (Reg.LMA_CELL_SKIP k) = satInc (c.rd (Reg.LMA_CELL_SKIP k)) := by
  rw [Chip.rd_bump_same, Chip.rd_congr (c.rdW_beaconShown_other k t (cellSkip_ne_cellStat k k))]

theorem Chip.bit_halt_of_lineTxOn (h : c.lineTxOn = true) : c.bit Reg.LMA_CTRL 1 = false := by
  simp only [Chip.lineTxOn, Bool.and_eq_true, Bool.not_eq_true'] at h
  exact h.2

/-- Where the transmitters work, a beacon of an enabled cell of a coordinator falls due at each time of its schedule that the
network time has not passed. -/
theorem Chip.beaconFalls_of_due {k t : Nat} (on : c.lineTxOn = true) (cell : c.cellOn k = true)
    (role : c.fl Reg.LMA_NET_CTRL 1 0 = 1) (due : c.beaconDue k t = true) (now : c.time.toNat ≤ t) :
    c.beaconFalls k t = true := by
  simp only [Chip.lineTxOn, Bool.and_eq_true, Bool.not_eq_true'] at on
  obtain ⟨⟨⟨up, works⟩, enabled⟩, -⟩ := on
  simp [Chip.beaconFalls, up, works, enabled, cell, role, due, now]

/-- A time that the network time has passed has no launch. -/
theorem Chip.beaconLaunch_passed (k : Nat) (t : BitVec 64) (h : t.toNat < c.time.toNat) : c.beaconLaunch k t = c := by
  have passed : c.beaconFalls k t.toNat = false := by simp [Chip.beaconFalls, h]
  rw [Chip.beaconLaunch, passed, if_pos (by simp)]

/-! ### An acknowledgement (03 R89, R100, R102) -/

/-- The chip once the acknowledgement due has left the queue. -/
def Chip.ackTaken (c : Chip) (rest : List AckDue) : Chip := c.onLma fun l => { l with acks := rest }

theorem Chip.chainOf_ackTaken (rest : List AckDue) (input : Nat) : (c.ackTaken rest).chainOf input = c.chainOf input :=
  Chip.chainOf_congr (fun _ _ => rfl) input

theorem Chip.ackWanted_ackTaken (rest : List AckDue) (dest : Nat) : (c.ackTaken rest).ackWanted dest = c.ackWanted dest := rfl

theorem Chip.cellCfg_ackTaken (rest : List AckDue) (k : Nat) : (c.ackTaken rest).cellCfg k = c.cellCfg k := rfl

theorem Chip.ackFrame_ackTaken (rest : List AckDue) (a : AckDue) (t : BitVec 64) :
    (c.ackTaken rest).ackFrame a t = c.ackFrame a t := rfl

/-- What becomes of the acknowledgement due once it has left the queue. -/
theorem Chip.autoack_eq {t : BitVec 64} {a : AckDue} {rest : List AckDue} (due : c.lma.acks = a :: rest) : c.autoack t =
    if c.ackWanted a.dest = false then c.ackTaken rest
    else match c.chainOf (cfgInput (c.cellCfg a.cell)) with
      | none => (c.ackTaken rest).bump Reg.LMA_NET_ACKSKIP
      | some n =>
        if c.chainFree n (cfgInput (c.cellCfg a.cell)) t.toNat (c.ackFrame a t) = true
        then (c.ackTaken rest).txStart n (c.ackFrame a t) t
        else (c.ackTaken rest).bump Reg.LMA_NET_ACKSKIP := by
  rw [Chip.autoack, due, ← c.ackWanted_ackTaken rest, ← c.chainOf_ackTaken rest, ← c.cellCfg_ackTaken rest,
    ← c.ackFrame_ackTaken rest, Chip.ackTaken]
  simp only [Bool.not_eq_true'] <;> rfl

/-- An acknowledgement due changes, past the queue of those due, the count of those skipped or what the start of a frame does. -/
theorem Chip.autoack_frame {t : BitVec 64} {a : AckDue} {rest : List AckDue} (due : c.lma.acks = a :: rest) :
    (c.autoack t).lma.acks = rest ∧ c.LineOnly (c.autoack t) ∧
    ∀ r, r ≠ Reg.LMA_NET_ACKSKIP → laneReg r = false → (c.autoack t).rdW r = c.rdW r := by
  have taken : c.LineOnly (c.ackTaken rest) := c.lineOnly_onLma _
  have skipped : ((c.ackTaken rest).bump Reg.LMA_NET_ACKSKIP).lma.acks = rest ∧
      c.LineOnly ((c.ackTaken rest).bump Reg.LMA_NET_ACKSKIP) ∧
      ∀ r, r ≠ Reg.LMA_NET_ACKSKIP → laneReg r = false → ((c.ackTaken rest).bump Reg.LMA_NET_ACKSKIP).rdW r = c.rdW r :=
    ⟨rfl, taken.trans (Chip.lineOnly_wr _ _ _), fun _ apart _ => Chip.rdW_bump_other _ apart⟩
  rw [c.autoack_eq due]
  split
  · exact ⟨rfl, taken, fun _ _ _ => rfl⟩
  · split
    · exact skipped
    · split
      · exact ⟨Chip.acks_txStart _ _ _ _, taken.trans (Chip.lineOnly_txStart _ _ _ _),
          fun _ _ apart => Chip.rdW_txStart_other _ _ _ _ apart⟩
      · exact skipped

theorem Chip.rd_skip_ackTaken (rest : List AckDue) :
    ((c.ackTaken rest).bump Reg.LMA_NET_ACKSKIP).rd Reg.LMA_NET_ACKSKIP = satInc (c.rd Reg.LMA_NET_ACKSKIP) :=
  Chip.rd_bump_same _ _

/-! ### The commands -/

theorem exec_cellCfgWrite_reached (s : State) (k : Fin 12) (v : Word) (h : s.chip.reaches (Reg.LMA_CELL_CFG k) = true) :
    exec (.cellCfgWrite k v) s = .next { s with chip := s.chip.cellCfgWrite k v.toNat } := by
  show execCellCfgWrite k v s = _
  rw [execCellCfgWrite, State.onChip, Chip.onReg_reached _ _ _ _ h]

theorem exec_beaconLaunch (s : State) (k : Fin 12) (t : BitVec 64) :
    exec (.beaconLaunch k t) s = .next { s with chip := s.chip.beaconLaunch k t } := rfl

theorem exec_autoack_up (s : State) (t : BitVec 64) (h : s.chip.lmaUp = true) :
    exec (.autoack t) s = .next { s with chip := s.chip.autoack t } := by
  show execAutoack t s = _
  rw [execAutoack, State.onChip, Chip.when, if_pos h]

/-- Settles O6: what is stored of a cell's configuration and what a beacon shows are followed through the registers, and the start
of a frame comes down to what the lanes abandon for it. -/
theorem cellsSendBeaconsAndAcks : Obligations.CellsSendBeaconsAndAcks := by
  unfold Obligations.CellsSendBeaconsAndAcks
  refine ⟨?write, ?launch, ?passed, ?ack, ?dropped⟩
  case write =>
    intro s k v reached
    refine ⟨_, exec_cellCfgWrite_reached s k v reached, ?stored, s.chip.cellCfg_cellCfgWrite k v.toNat, fun j => ?noChain, ?frame,
      fun r apart => ?others⟩
    case stored =>
      split
      case isTrue clash =>
        exact ⟨(s.chip.cellOn_cellCfgWrite k v.toNat k).trans (s.chip.cellOn_cellStored_clash clash),
          (s.chip.bit_status_cellCfgWrite k v.toNat).trans (s.chip.bit_status_cellStored_clash clash)⟩
      case isFalse clear =>
        exact (s.chip.rdW_cellCfg_cellCfgWrite k v.toNat k).trans (s.chip.rdW_cellStored_clear (Bool.eq_false_iff.2 clear))
    case noChain =>
      rw [Chip.bit_congr (s.chip.rdW_cellCfgWrite k v.toNat _), Chip.bit_noChain, Chip.lacksChain, Chip.chainOf_cellStored,
        Chip.cellOn_cellCfgWrite, Chip.cellInput_cellCfgWrite]
    case frame =>
      obtain ⟨_, _, written⟩ := s.chip.cellCfgWrite_frame k v.toNat
      rw [written]
    case others =>
      obtain ⟨notStored, notShown⟩ : r ∉ [Reg.LMA_CELL_CFG k, Reg.LMA_STATUS, Reg.PIC_PEND 4] ∧
          r ∉ (List.range 12).map Reg.LMA_CELL_STAT := by
        simpa only [List.contains_eq_mem, decide_eq_false_iff_not, List.mem_append, not_or] using apart
      exact s.chip.rdW_cellCfgWrite_other notStored notShown
  case launch =>
    intro s k t on role due now
    obtain ⟨txOn, cell⟩ : s.chip.lineTxOn = true ∧ s.chip.cellOn k = true := by simpa using on
    have free := s.chip.bit_halt_of_lineTxOn txOn
    have falls := s.chip.beaconFalls_of_due txOn cell role due now
    obtain ⟨line, others⟩ := s.chip.beaconLaunch_frame k t falls free
    have stat := others (Reg.LMA_CELL_STAT k) (cellSkip_ne_cellStat k k).symm (laneReg_cellStat k)
    refine ⟨_, exec_beaconLaunch s k t, ?bsn, ?minBi, fun chain => ⟨?noChain, ?skipped⟩, fun n chain => ?started, ?frame⟩
    case bsn => exact (Chip.fl_congr stat).trans (s.chip.fl_bsn_beaconShown k t.toNat)
    case minBi => exact (Chip.bit_congr stat).trans (s.chip.bit_minBi_beaconShown k t.toNat)
    case noChain => rw [Chip.bit_congr stat, Chip.bit_noChain_beaconShown, chain, Option.isNone_none]
    case skipped => rw [s.chip.beaconLaunch_noChain k t falls free chain, Chip.rd_skip_beaconShown]
    case started =>
      rw [s.chip.beaconLaunch_chain k t falls free chain]
      split
      case isTrue => exact s.chip.rd_skip_beaconShown k t.toNat
      case isFalse =>
        obtain ⟨zco, sent⟩ := (s.chip.beaconShown k t.toNat).tx_txStart n ((s.chip.beaconShown k t.toNat).beaconTx k t) t
        rw [sent]
        exact decide_eq_true ⟨rfl, rfl⟩
    case frame =>
      refine s.onlyIn_of_lineOnly ((s.chip.lineOnly_beaconShown k t.toNat).trans line) fun r apart => ?_
      obtain ⟨⟨notStat, notSkip⟩, notLane⟩ : (r ≠ Reg.LMA_CELL_STAT k ∧ r ≠ Reg.LMA_CELL_SKIP k) ∧ laneReg r = false := by
        rwa [Bool.or_eq_false_iff, Bool.or_eq_false_iff, beq_eq_false_iff_ne, beq_eq_false_iff_ne] at apart
      exact (others r notSkip notLane).trans (s.chip.rdW_beaconShown_other k t.toNat notStat)
  case passed =>
    intro s k t passed
    refine ⟨_, exec_beaconLaunch s k t, ?_⟩
    rw [s.chip.beaconLaunch_passed k t passed]
  case ack =>
    intro s t up a rest due wanted
    obtain ⟨left, line, others⟩ := s.chip.autoack_frame (t := t) due
    refine ⟨_, exec_autoack_up s t up, left, ?outcome, s.onlyIn_of_lineOnly line fun r apart => ?frame⟩
    case outcome =>
      rw [s.chip.autoack_eq due, if_neg (by simp [wanted])]
      cases chain : s.chip.chainOf (cfgInput (s.chip.cellCfg a.cell))
      case none => exact s.chip.rd_skip_ackTaken rest
      case some n =>
        dsimp only
        split
        case isTrue =>
          obtain ⟨zco, sent⟩ := (s.chip.ackTaken rest).tx_txStart n (s.chip.ackFrame a t) t
          rw [sent]
          exact decide_eq_true ⟨rfl, rfl, rfl, rfl, rfl, rfl⟩
        case isFalse => exact s.chip.rd_skip_ackTaken rest
    case frame =>
      obtain ⟨notSkip, notLane⟩ : r ≠ Reg.LMA_NET_ACKSKIP ∧ laneReg r = false := by
        rwa [Bool.or_eq_false_iff, beq_eq_false_iff_ne] at apart
      exact others r notSkip notLane
  case dropped =>
    intro s t up a rest due unwanted
    refine ⟨_, exec_autoack_up s t up, ?_⟩
    rw [s.chip.autoack_eq due, if_pos unwanted, Chip.ackTaken]
    rfl

end Sys2Proof.Machine
end

section
/-!
The Air Units: an operand that a standby drops takes its frame's slots with it (15 R447), and a request completes at the consumer
index of whatever queue it names (04 R119).
-/
namespace Sys2Proof.Machine

/-- A chip after a complete start, with some registers written. -/
def Chip.startedWith (regs : List (Nat × Nat)) : Chip :=
  regs.foldl (fun c e => c.wr e.1 e.2) (State.reset.chip.onCrp fun x => { x with startStep := 8 })

/-! ### The commands -/

theorem exec_airDisable_reached (s : State) (u : Fin 2) (h : s.chip.reaches (Reg.AIR_MAC_CTRL u) = true) :
    exec (.airDisable u) s = .next { s with chip := s.chip.airDisable u } := by
  show execAirDisable u s = _
  rw [execAirDisable, State.onChip, Chip.onReg_reached _ _ _ _ h]

theorem exec_airHaltTx_reached (s : State) (u : Fin 2) (h : s.chip.reaches (Reg.AIR_MAC_CTRL u) = true) :
    exec (.airHaltTx u) s = .next { s with chip := s.chip.airHalt u } := by
  show execAirHaltTx u s = _
  rw [execAirHaltTx, State.onChip, Chip.onReg_reached _ _ _ _ h]

/-! ### A frame that a standby accepts -/

/-- A standby (BKB_PAIR_STATUS.STATE = 2) whose unit 0, in ROLE 2 and open to stations that it does not know, listens on a 2-FSK
PHY. Slots 0–7 are the unit's pool, and region 0 of the access plan grants them to the blocks. -/
def standbyListening : State :=
  { State.reset with chip :=
    ((Chip.startedWith [(Reg.BKB_PAIR_STATUS, 2), (Reg.AIR_IQ_FREQ 0, 32000), (Reg.AIR_IQ_CFG 0, 1), (Reg.AIR_MAC_CTRL 0, 1),
      (Reg.AIR_MAC_CFG 0, 10), (Reg.AIR_PB_HI 0, 7), (Reg.AP_ACTIVE 0 2, 0xFFFFFFFF), (Reg.AP_ACTIVE 0 4, 0xFFFFFFFF),
      (Reg.AP_ACTIVE 0 6, 1)]).setPool .air0 ⟨true, []⟩).onAir 0 fun a =>
        { a with aligned := true, slot := some ⟨7, 0, .listen 1 0xFFF, 1, none, 0, true, false, false, false⟩ } }

/-- A data frame in clear to everyone, from short address 0x43. -/
def strangerFrame : List Byte := [65, 160, 9, 67, 0, 1, 2]

/-- The same as its PSDU. -/
def strangerPsdu : List Byte := withFcs (standbyListening.chip.airPhy 0 false) strangerFrame

/-- The unit takes the frame, which comes from no neighbour, and finds room for it and its operand. -/
theorem standbyListening_takes :
    (standbyListening.chip.inForce 0).airTakes 0 false 3000000#64 strangerPsdu strangerFrame = true ∧
    (standbyListening.chip.inForce 0).nbOf 0 (macHdr strangerFrame).src = none ∧
    (macHdr strangerFrame).secured = false ∧ (macHdr strangerFrame).typ = 1 ∧
    (standbyListening.chip.inForce 0).bit (Reg.AIR_MAC_CFG 0) 3 = true ∧
    ((standbyListening.chip.inForce 0).portGated 5 || (standbyListening.chip.inForce 0).allocRoom 1) = true ∧
    (standbyListening.chip.inForce 0).poolFind .air0 1 = some 0 ∧
    (standbyListening.chip.inForce 0).judge 9 false true (slotAddr 0) 71 = .ok := by
  decide +kernel

/-- The standby once the frame has come. -/
def standbyHeard : State :=
  { standbyListening with chip := standbyListening.chip.inSlot 0 fun c => c.airReceived 0 false false 3000000 strangerPsdu 0 0 }

theorem exec_airFrameReceived_standbyListening :
    exec (.airFrameReceived 0 false false 3000000#64 strangerPsdu 0 0) standbyListening = .next standbyHeard := rfl

/-- The operand is dropped and counted, and the slot that took the frame is free again (R447). -/
theorem standbyHeard_drops : standbyHeard.chip.rd Reg.BKB_PAIR_LOCALDROP = 1 ∧ standbyHeard.chip.slotFree .air0 0 = true := by
  decide +kernel

/-- Refutes O9, by its clause on a frame in clear from an unknown source. Like the clause on a frame from a neighbour it says that
the slot is not free once the frame is accepted, also of a standby; but in STANDBY the operand is dropped and the frame's slots
return to their pool (15 R447), as `standbyListening` shows. -/
theorem not_airSlotsCarryFrames : ¬ Obligations.AirSlotsCarryFrames := by
  unfold Obligations.AirSlotsCarryFrames
  rintro ⟨-, -, -, -, -, -, unknown, -⟩
  obtain ⟨takes, stranger, clear, data, accepted, room, found, writable⟩ := standbyListening_takes
  obtain ⟨t, ran, -, -, taken, -⟩ := unknown standbyListening 0 false 3000000#64 strangerPsdu 0 0 _ rfl _ takes _ rfl stranger
    clear accepted (.inl data) room 0 found writable
  obtain rfl := Host.Outcome.next.inj (exec_airFrameReceived_standbyListening.symm.trans ran)
  obtain ⟨-, free⟩ := standbyHeard_drops
  exact Bool.false_ne_true (taken.symm.trans free)

/-! ### A request of a queue beyond the four -/

/-- A queue number that AirReq and AirAwait can hold; the queues of a unit are 0–3. -/
def strayQueue : Nat := 0x10000

/-- Unit 0 is enabled, and a request of `strayQueue` awaits its acknowledgement. -/
def strayWait : State :=
  { State.reset with chip := (Chip.startedWith [(Reg.AIR_MAC_CTRL 0, 1)]).onAir 0 fun a =>
    { a with reqs := [⟨strayQueue, 0, [], 1, none, 0, none⟩], wait := some ⟨strayQueue, 0, 0, false, none, 0⟩ } }

/-- What stands for the consumer index of such a queue lies outside the unit's window and is no register of transfers. -/
theorem strayIndex_apart : (Chip.airRegs 0 (Reg.AIR_TXQ_CI 0 strayQueue) ||
    transferRegs.contains (Reg.AIR_TXQ_CI 0 strayQueue)) = false := by
  decide

theorem reaches_strayWait : strayWait.chip.reaches (Reg.AIR_MAC_CTRL 0) = true := by decide +kernel

theorem enabled_strayWait : strayWait.chip.bit (Reg.AIR_MAC_CTRL 0) 0 = true := by decide +kernel

/-- Disabling completes the request, and that word moves on as AIR_TXQ_CI does (R119). -/
theorem rdW_airDisable_strayWait :
    (strayWait.chip.airDisable 0).rdW (Reg.AIR_TXQ_CI 0 strayQueue) ≠ strayWait.chip.rdW (Reg.AIR_TXQ_CI 0 strayQueue) := by
  decide +kernel

/-- So it does on HALT_TX. -/
theorem rdW_airHalt_strayWait :
    (strayWait.chip.airHalt 0).rdW (Reg.AIR_TXQ_CI 0 strayQueue) ≠ strayWait.chip.rdW (Reg.AIR_TXQ_CI 0 strayQueue) := by
  decide +kernel

/-- Refutes O8, by the frame of its clause on disabling a unit. The clause lets only registers in the window of the unit and those
of transfers change, and asks this of every state, also of one, which no command gives, in which the request that awaits its
acknowledgement is of a queue beyond 3: disabling completes it, and the word that moves on for it lies outside the window. -/
theorem not_airUnitsAreConfigured : ¬ Obligations.AirUnitsAreConfigured := by
  unfold Obligations.AirUnitsAreConfigured
  rintro ⟨-, -, -, -, -, disable, -⟩
  obtain ⟨t, ran, -, -, -, -, -, -, -, -, -, kept⟩ := disable strayWait 0 reaches_strayWait enabled_strayWait
  obtain rfl := Host.Outcome.next.inj ((exec_airDisable_reached strayWait 0 reaches_strayWait).symm.trans ran)
  exact rdW_airDisable_strayWait (kept _ strayIndex_apart)

/-- Refutes O10, by the frame of its clause on HALT_TX. As the clause of O8 on disabling, it asks of every state that registers
outside the window of the unit and those of transfers stay, also of one, which no command gives, in which the request that HALT_TX
completes is of a queue beyond 3. -/
theorem not_airUnitsKeepTime : ¬ Obligations.AirUnitsKeepTime := by
  unfold Obligations.AirUnitsKeepTime
  rintro ⟨-, -, -, -, -, -, -, -, halt⟩
  obtain ⟨t, ran, -, -, -, -, -, kept⟩ := halt strayWait 0 reaches_strayWait
  obtain rfl := Host.Outcome.next.inj ((exec_airHaltTx_reached strayWait 0 reaches_strayWait).symm.trans ran)
  exact rdW_airHalt_strayWait (kept _ strayIndex_apart)

end Sys2Proof.Machine
end

section
/-!
The Clamp: an ADN operand is shown where its pod's core puts it (06 Table 6), a READ of more sectors than a command may ask for
leaves the memory that was judged (08 R245), and a rick that closes takes every open rick of its number with it (08 R240).
-/
namespace Sys2Proof.Machine

/-! ### The commands -/

theorem exec_archiveBatchAccepted (s : State) :
    exec .archiveBatchAccepted s = .next { s with chip := s.chip.batchAccepted } := rfl

theorem exec_pageReadDone (cws : List CwRead) (s : State) :
    exec (.pageReadDone cws) s = .next { s with chip := s.chip.pageRead cws } := rfl

/-- No erase fails as a checkpoint completes. -/
theorem exec_checkpointComplete_noDuds (s : State) :
    exec (.checkpointComplete []) s = .next { s with chip := s.chip.ckptComplete [] } := rfl

/-- Registers of a Clamp that is READY while region 0 of the access plan grants every page at the Platform level. -/
def readyRegs : List (Nat × Nat) :=
  [(Reg.CLM_STATUS, 4), (Reg.AP_ACTIVE 0 2, 0xFFFFFFFF), (Reg.AP_ACTIVE 0 4, 0xFFFFFFFF), (Reg.AP_ACTIVE 0 6, 1)]

/-! ### An operand for a pod of a core beyond the 24 -/

/-- A core number that a pod can hold; the flow cores are 0–23. -/
def strayCore : Nat := 24

/-- A pod in the inbox of `strayCore` that expects an ADN operand. -/
def adnPod : Pod :=
  { Pod.initial with state := .queued, core := strayCore, slots := [⟨9, none⟩, ⟨0, none⟩, ⟨0, none⟩] }

/-- The Clamp is READY, and a batch of one record waits whose ADN operand goes to that pod. -/
def batchForStrayCore : State :=
  { State.reset with chip :=
    (((Chip.startedWith readyRegs).setPod 5 adnPod).setFcore strayCore { FlowCore.initial with inbox := [(0, 5)] }).onClm fun x =>
      { x with sizes := [1], batches := [⟨5, [[1]]⟩] } }

/-- The byte that shows the KIND of slot 1 in that inbox entry (06 Table 7). -/
def strayKind : Nat := inboxAddr strayCore 0 + 0x23

/-- The batch is taken up, and the memory of the 24 flow cores ends below the byte. -/
theorem batchForStrayCore_accepted :
    (batchForStrayCore.chip.clmTaking && !batchForStrayCore.chip.batchRefused) = true ∧ batchForStrayCore.chip.clmState = 4 ∧
    batchForStrayCore.chip.clm.slot < 170 ∧ batchForStrayCore.chip.clm.head < 4 * batchForStrayCore.chip.nsSize 0 ∧
    batchForStrayCore.chip.portGated 5 = false ∧ 0x50300000 ≤ strayKind := by
  decide +kernel

/-- The operand is written beyond the memory of the flow cores. -/
theorem rdb_strayKind_batchAccepted :
    batchForStrayCore.chip.batchAccepted.rdb strayKind ≠ batchForStrayCore.chip.rdb strayKind := by
  decide +kernel

/-- Refutes O24, by the frame of its clause on a batch that goes to the archive head. The clause lets memory change in the flow
cores' memory alone, and asks this of every state, also of one, which no command gives, in which the pod that the batch's ADN
operand goes to lies in the inbox of a core beyond 23: its inbox entry lies above that memory. -/
theorem not_clampServesCommands : ¬ Obligations.ClampServesCommands := by
  unfold Obligations.ClampServesCommands
  rintro ⟨-, batch, -⟩
  obtain ⟨taking, ready, slot, head, port, beyond⟩ := batchForStrayCore_accepted
  obtain ⟨t, ran, -, kept, -⟩ := batch batchForStrayCore taking rfl ready slot head port _ _ rfl
  obtain rfl := Host.Outcome.next.inj ((exec_archiveBatchAccepted batchForStrayCore).symm.trans ran)
  exact rdb_strayKind_batchAccepted (kept strayKind (.inr beyond))

/-! ### A READ that reaches beyond a mebibyte -/

/-- A READ of 65,535 sectors into packet memory, one page read of which is in progress; a command asks for 256 at most (R245). -/
def overlongRead : ClmCmd :=
  { n := 0, queue := 0, idx := 0, owner := none, status := 0, seq := 0, nlost := 0, waits := [], reads := 1, todo := []
    entry := [1, 3, 0, 0] ++ leBytes 6 0 ++ leBytes 2 65535 ++ leBytes 6 0x60000000 ++ List.replicate 14 0 }

/-- The Clamp is READY with housekeeping halted, and the page read brings unit 256 of that READ, which goes 4 MiB above its
buffer. -/
def overlongReading : State :=
  { State.reset with chip :=
    ((Chip.startedWith ((Reg.CLM_CTRL, 4) :: readyRegs)).onClm fun x => { x with
      cmds := [overlongRead], reads := [⟨0, .sectors 0 256⟩] }).onNand fun n => { n with
        pages := [(0, ⟨1024, 3, 3, 1, 0, 0, [1]⟩)] } }

/-- A mebibyte from the buffer on can be written. -/
theorem overlongReading_served :
    overlongReading.chip.clmReady = true ∧ overlongReading.chip.bit Reg.CLM_CTRL 2 = true ∧
    overlongReading.chip.clm.cmds = [overlongRead] ∧ overlongReading.chip.clm.reads = [⟨0, .sectors 0 256⟩] ∧
    (overlongReading.chip.nandGet 0).isSome = true ∧
    overlongReading.chip.judge 6 (overlongRead.queue == 2) true overlongRead.buffer 1048576 = .ok := by
  decide +kernel

/-- Unit 256 cannot be written where it goes, and the READ ends with STATUS 5. -/
theorem status_pageRead_overlongReading : (overlongReading.chip.pageRead []).clm.cmds.map (·.status) = [5] := by
  decide +kernel

/-- Refutes O25, by its clause on a page read for a READ. The clause says that the command keeps its STATUS where a mebibyte from
its buffer on can be written, which covers the 256 sectors that a command may ask for; but it asks this of every state, also of
one, which no command gives, in which the READ in progress asks for more. -/
theorem not_mediaWorkKeepsUnits : ¬ Obligations.MediaWorkKeepsUnits := by
  unfold Obligations.MediaWorkKeepsUnits
  rintro ⟨-, -, -, read, -⟩
  obtain ⟨ready, halted, cmds, reads, present, writable⟩ := overlongReading_served
  obtain ⟨t, ran, -, -, served, -⟩ := read overlongReading [] ready _ _ reads 0 256 rfl present rfl overlongRead
    (by rw [cmds]; rfl) rfl writable
  obtain rfl := Host.Outcome.next.inj ((exec_pageReadDone [] overlongReading).symm.trans ran)
  obtain ⟨-, kept⟩ := served halted rfl rfl (by rw [cmds]; decide)
  have status := congrArg (List.map (·.status)) kept
  dsimp only at status
  rw [status_pageRead_overlongReading, cmds] at status
  exact absurd status (by decide)

/-! ### Two open ricks of one number -/

/-- An open rick of number 0 in block 1 of each channel. -/
def rickZero (stream pos : Nat) : Rick :=
  { num := 0, stream := stream, blocks := (List.range 8).map fun ch => ch * 2 ^ 14 + 1, pos := pos, par := [zeroPage], failed := []
    noParity := false }

/-- The Clamp is READY over media of three blocks a channel, of one row each, and a checkpoint is in progress. The reserve of
stream 7 and the rick of system pages, which has one place left, are both number 0. The first block takes anchor records. -/
def sharedNumber : State :=
  { State.reset with chip :=
    ((Chip.startedWith ((Reg.CLM_GEOM, 0x20) :: (Reg.CLM_BLK_BASE_LO, 0x60000000) :: readyRegs)).onClm fun x => { x with
      ckpt := some 0, ricks := [rickZero 7 0, rickZero 6 6], nextRick := 1 }).wrMem 0x60000003 [1] }

/-- The checkpoint completes. -/
theorem sharedNumber_completes :
    sharedNumber.chip.clmReady = true ∧ sharedNumber.chip.clm.stopping = false ∧ sharedNumber.chip.anchorPlace.isSome = true ∧
    (sharedNumber.chip.ckptWrite [] 0).isSome = true ∧ (sharedNumber.chip.openOf 7).isSome = true := by
  decide +kernel

/-- The page of the block table fills the rick of system pages, and the reserve, of the same number, leaves the open ricks with it:
another reserve is opened, and counted. -/
theorem opened_ckptComplete_sharedNumber : (sharedNumber.chip.ckptComplete []).clm.opened = 1 := by
  decide +kernel

/-- Refutes O23, by its clause on the completion of a checkpoint. The clause says that no rick is opened after the checkpoint where
stream 7 has its reserve, and asks this of every state, also of one in which the reserve has the number of the open rick of stream
6, as the wrap of the 32-bit numbers allows while the reserve stays open: a rick closes by its number, so where the checkpoint
closes that of stream 6 the reserve is gone too, and another is opened. -/
theorem not_clampStartsAndStops : ¬ Obligations.ClampStartsAndStops := by
  unfold Obligations.ClampStartsAndStops
  rintro ⟨-, -, -, -, -, -, -, complete, -⟩
  obtain ⟨ready, goes, place, written, reserve⟩ := sharedNumber_completes
  obtain ⟨t, ran, -, -, -, -, kept, -⟩ := complete sharedNumber [] ready goes 0 rfl place written
  obtain rfl := Host.Outcome.next.inj ((exec_checkpointComplete_noDuds sharedNumber).symm.trans ran)
  obtain ⟨none_opened, -⟩ := kept reserve
  dsimp only at none_opened
  rw [opened_ckptComplete_sharedNumber] at none_opened
  exact absurd none_opened (by decide)

end Sys2Proof.Machine
end
